-- ==== Sys2Proof/Word.lean ====
section
/-! DEFINITION. Sys2Proof/Word.lean: the word types of the Lisor 7340 and their plainest arithmetic (R7, R33, R39). -/

namespace Sys2Proof

/-- A 64-bit register, well word, CSR, beat or address (R39). -/
abbrev Word := BitVec 64

/-- A 32-bit instruction word (R33). -/
abbrev IWord := BitVec 32

/-- A byte of the well or of the cistern. -/
abbrev Byte := BitVec 8

/-- The contents of a v register (R39). -/
abbrev VWord := BitVec 256

/-- A g register number (R35). -/
abbrev GReg := BitVec 5

/-- A v register number (R35). -/
abbrev VReg := BitVec 4

/-- A k register number (R35). -/
abbrev KReg := BitVec 3

/-- A b register number (R35). -/
abbrev BReg := BitVec 4

/-- An m register number (R35). -/
abbrev MReg := BitVec 3

/-- A channel number, ch0 to ch31. -/
abbrev Chan := BitVec 5

/-- A strand number, st0 to st7 (R19). -/
abbrev StrandNo := BitVec 3

/-- The little-endian bytes of a value of `n` bytes (R7). -/
def leBytes : Nat → Nat → List Byte
  | 0, _ => []
  | n + 1, v => BitVec.ofNat 8 v :: leBytes n (v / 256)

/-- The value of little-endian bytes (R7). -/
def ofLeBytes : List Byte → Nat
  | [] => 0
  | b :: bs => b.toNat + 256 * ofLeBytes bs

/-- Sign-extension of a field to a 64-bit word (R36). -/
def sext {w : Nat} (x : BitVec w) : Word := x.signExtend 64

/-- Zero-extension of a field to a 64-bit word (R36). -/
def zext {w : Nat} (x : BitVec w) : Word := x.zeroExtend 64

/-- The word that is 1 for true and 0 for false (R124). -/
def boolWord (b : Bool) : Word := if b then 1 else 0

/-- Bits `lo + len - 1 : lo` of a number. -/
def natBits (v lo len : Nat) : Nat := v / 2 ^ lo % 2 ^ len

end Sys2Proof
end

