-- ==== Sys2Proof/Syntax.lean ====
section
/-! DEFINITION. Sys2Proof/Syntax.lean: the steps of the Lisor 7340, one constructor of Instr per row of
spec/opcode_table.json: the instructions of R48 to R56, and the steps the hardware around the strands takes
(spec/95_what_each_step_holds.md). An operand that the encoding bounds by its width is a bit vector of that width. -/

namespace Sys2Proof

/-- Access and element sizes (R36: sz, esz). -/
inductive Sz | w8 | w16 | w32 | w64
  deriving DecidableEq, Repr

/-- Floating-point precision: .s (f32) or .d (f64) (R51). -/
inductive Prec | s | d
  deriving DecidableEq, Repr

/-- Rounding fields (R45), the reserved code 110 left out. -/
inductive Rm | rne | rtz | rup | rdn | rna | sto | dyn
  deriving DecidableEq, Repr

/-- Type fields (R46). -/
inductive Ty | i8 | n8 | i16 | n16 | i32 | n32 | i64 | n64 | f16 | bf16 | f32 | f64 | e4m3 | e5m2
  deriving DecidableEq, Repr

/-- Block formats (R47). -/
inductive Bfmt | bk4 | bk8 | bk16
  deriving DecidableEq, Repr

/-- Scopes (R47). -/
inductive Scope | strand | core | field | wafer | domain
  deriving DecidableEq, Repr

/-- MX types (R47): MXFP8 E4M3, MXFP8 E5M2, MXFP6 E2M3, MXFP6 E3M2, MXFP4, MXINT8. -/
inductive MxTy | fp8e4 | fp8e5 | fp6e2 | fp6e3 | fp4 | int8
  deriving DecidableEq, Repr

/-- Marker codes that a program may name (R47). -/
inductive Marker
  | barrier (n : BitVec 4)
  | drain
  deriving DecidableEq, Repr

/-- BMLOOP tile counts (R56: 1, 2 or 4). -/
inductive Tiles | one | two | four
  deriving DecidableEq, Repr

/-- The ports of a router, in the numbering of R187: 0 N, 1 E, 2 S, 3 W, 4 local. -/
inductive Port | n | e | s | w | loc
  deriving DecidableEq, Repr

/-- The requesters of the well's bank arbiter, ranked in this order (R169). -/
inductive Requester | delivery | wellhead | stream | port0 | port1
  deriving DecidableEq, Repr

/-- A physical core site (R10). -/
structure Site where
  row : Nat
  col : Nat
  deriving DecidableEq, Repr

/-- A clock region of 16 x 16 sites, by region row and region column (R3). -/
structure Region where
  row : Nat
  col : Nat
  deriving DecidableEq, Repr

/-- What a host RETRY, SKIP or KILL names: WAFER, FNUM, CORE and STRAND (R312, R328). -/
structure HostTarget where
  wafer : BitVec 9
  fnum : BitVec 16
  core : BitVec 26
  strand : StrandNo
  deriving DecidableEq, Repr

/-- A pump that handles a request, and whether the check of what it handles fails there: the CRC of a request message (R320), or a
granule that its controller reads (R386). -/
structure PumpTurn where
  pump : BitVec 8
  fails : Bool
  deriving DecidableEq, Repr

/-- What supply calibration finds (R378): the levels that pass, in steps of 2.5 mV above 320 mV, in the regions where not all
do, and whether the supervisor and photonics regions calibrate. -/
structure SupplyFound where
  passes : List (Region × List Nat)
  systems : Bool
  deriving DecidableEq, Repr

/-- A range of the domain's map of physical ranges (R232, R226): base, size, the Nelwald controller that serves it, and for
third-party memory behind that controller the declared worst-case read latency of the device, in ns. -/
structure DomainRange where
  base : Nat
  size : Nat
  controller : Nat
  thirdParty : Option Nat
  deriving DecidableEq, Repr

/-- The domain configuration the host writes (R232): domain and wafer number, the port identifiers of the pumps, the map of
physical ranges to controllers and their types, and the nonce against which the wafer attests itself (R319). -/
structure DomainCfg where
  domain : Nat
  wafer : BitVec 9
  pumpPorts : List Nat
  ranges : List DomainRange
  nonce : List (BitVec 64)
  deriving DecidableEq, Repr

/-- A firmware bundle in supervisor flash (R316): body, 57-byte public key, signature, security version. -/
structure Bundle where
  body : List (BitVec 8)
  key : List (BitVec 8)
  sig : List (BitVec 8)
  version : Nat
  deriving DecidableEq, Repr

/-- The instructions of the 7340 and the steps of the hardware around its strands. -/
inductive Instr
  /-- Sets gd to the sum of ga and gb, modulo 2^64. (R128) -/
  | add (d a b : GReg)
  /-- Sets gd to ga minus gb, modulo 2^64. (R128) -/
  | sub (d a b : GReg)
  /-- Sets gd to the bitwise AND of ga and gb. (R128) -/
  | and (d a b : GReg)
  /-- Sets gd to the bitwise OR of ga and gb. (R128) -/
  | or (d a b : GReg)
  /-- Sets gd to the bitwise XOR of ga and gb. (R128) -/
  | xor (d a b : GReg)
  /-- Shifts ga left by gb[5:0]. (R128) -/
  | sll (d a b : GReg)
  /-- Shifts ga right logically by gb[5:0]. (R128) -/
  | srl (d a b : GReg)
  /-- Shifts ga right arithmetically by gb[5:0]. (R128) -/
  | sra (d a b : GReg)
  /-- Sets gd to 1 if ga is less than gb as signed values, else 0. (R128) -/
  | slt (d a b : GReg)
  /-- Sets gd to 1 if ga is less than gb as unsigned values, else 0. (R128) -/
  | sltn (d a b : GReg)
  /-- Sets gd to the signed minimum of ga and gb. (R128) -/
  | min (d a b : GReg)
  /-- Sets gd to the signed maximum of ga and gb. (R128) -/
  | max (d a b : GReg)
  /-- Sets gd to the unsigned minimum of ga and gb. (R128) -/
  | minn (d a b : GReg)
  /-- Sets gd to the unsigned maximum of ga and gb. (R128) -/
  | maxn (d a b : GReg)
  /-- Sets gd to the low 64 bits of ga times gb. (R128) -/
  | mul (d a b : GReg)
  /-- Sets gd to the high 64 bits of the signed product of ga and gb. (R128) -/
  | mulh (d a b : GReg)
  /-- Sets gd to the high 64 bits of the unsigned product of ga and gb. (R128) -/
  | mulhn (d a b : GReg)
  /-- Sets gd to the signed quotient of ga by gb, with saturating edge cases and no fault. (R129) -/
  | div (d a b : GReg)
  /-- Sets gd to the unsigned quotient of ga by gb, with saturating edge cases and no fault. (R129) -/
  | divn (d a b : GReg)
  /-- Sets gd to the signed remainder of ga by gb, giving a when gb is zero. (R129) -/
  | rem (d a b : GReg)
  /-- Sets gd to the unsigned remainder of ga by gb, giving a when gb is zero. (R129) -/
  | remn (d a b : GReg)
  /-- Sets gd to the count of leading zero bits of ga. (R128) -/
  | clz (d a : GReg)
  /-- Sets gd to the count of trailing zero bits of ga. (R128) -/
  | ctz (d a : GReg)
  /-- Sets gd to the count of one bits of ga. (R128) -/
  | popc (d a : GReg)
  /-- Sets gd to ga with its bit order reversed. (R128) -/
  | brev (d a : GReg)
  /-- Sets gd to ga with its byte order reversed. (R128) -/
  | bswap (d a : GReg)
  /-- Sets gd to ga[7:0] sign-extended. (R128) -/
  | sextB (d a : GReg)
  /-- Sets gd to ga[15:0] sign-extended. (R128) -/
  | sextH (d a : GReg)
  /-- Sets gd to ga[31:0] sign-extended. (R128) -/
  | sextW (d a : GReg)
  /-- Sets gd to ga[7:0] zero-extended. (R128) -/
  | zextB (d a : GReg)
  /-- Sets gd to ga[15:0] zero-extended. (R128) -/
  | zextH (d a : GReg)
  /-- Sets gd to ga[31:0] zero-extended. (R128) -/
  | zextW (d a : GReg)
  /-- Copies ga to gd when gb is nonzero. (R128) -/
  | cmovnz (d a b : GReg)
  /-- Copies ga to gd when gb is zero. (R128) -/
  | cmovz (d a b : GReg)
  /-- Sets gd to ga times 2 plus gb. (R128) -/
  | addsh1 (d a b : GReg)
  /-- Sets gd to ga times 4 plus gb. (R128) -/
  | addsh2 (d a b : GReg)
  /-- Sets gd to ga times 8 plus gb. (R128) -/
  | addsh3 (d a b : GReg)
  /-- Computes the quantisation shift from amax in ga and Tmax in gb into gd. (R132) -/
  | qshift (d a b : GReg)
  /-- Adds the sign-extended imm16 to ga into gd. (R130) -/
  | addi (d a : GReg) (imm : BitVec 16)
  /-- ANDs ga with the sign-extended imm16 into gd. (R130) -/
  | andi (d a : GReg) (imm : BitVec 16)
  /-- ORs ga with the zero-extended imm16 into gd. (R130) -/
  | ori (d a : GReg) (imm : BitVec 16)
  /-- XORs ga with the zero-extended imm16 into gd. (R130) -/
  | xori (d a : GReg) (imm : BitVec 16)
  /-- Sets gd to 1 if ga is less than the sign-extended imm16, else 0. (R130) -/
  | slti (d a : GReg) (imm : BitVec 16)
  /-- Shifts ga left by the immediate count into gd. (R130) -/
  | shiSll (d a : GReg) (n : BitVec 6)
  /-- Shifts ga right logically by the immediate count into gd. (R130) -/
  | shiSrl (d a : GReg) (n : BitVec 6)
  /-- Shifts ga right arithmetically by the immediate count into gd. (R130) -/
  | shiSra (d a : GReg) (n : BitVec 6)
  /-- Adds the sign-extended imm16 times 2^16 to ga into gd. (R130) -/
  | lih (d a : GReg) (imm : BitVec 16)
  /-- Loads a sign-extended 48-bit immediate into gd from a two-word form. (R131) -/
  | li48 (d : GReg) (imm : BitVec 48)
  /-- Branches by disp16 when ga equals gb. (R282) -/
  | beq (a b : GReg) (disp : BitVec 16)
  /-- Branches by disp16 when ga differs from gb. (R282) -/
  | bne (a b : GReg) (disp : BitVec 16)
  /-- Branches by disp16 when ga is signed-less than gb. (R282) -/
  | blt (a b : GReg) (disp : BitVec 16)
  /-- Branches by disp16 when ga is signed-greater-or-equal to gb. (R282) -/
  | bge (a b : GReg) (disp : BitVec 16)
  /-- Branches by disp16 when ga is unsigned-less than gb. (R282) -/
  | bltn (a b : GReg) (disp : BitVec 16)
  /-- Branches by disp16 when ga is unsigned-greater-or-equal to gb. (R282) -/
  | bgen (a b : GReg) (disp : BitVec 16)
  /-- Links pc+4 in g1 and jumps by disp26. (R284) -/
  | jal (disp : BitVec 26)
  /-- Links pc+4 in gd and jumps to ga plus the sign-extended imm16. (R284) -/
  | jalr (d a : GReg) (imm : BitVec 16)
  /-- Decrements ga and branches by disp16 while the result is nonzero. (R283) -/
  | dbnz (a : GReg) (disp : BitVec 16)
  /-- Forms the name of the core at field-relative position (ga, gb). (R286) -/
  | cmk (d a b : GReg)
  /-- Returns the field-relative column of the name in ga. (R286) -/
  | cgx (d a : GReg)
  /-- Returns the field-relative row of the name in ga. (R286) -/
  | cgy (d a : GReg)
  /-- Returns the rectangle number of the name in ga, unchecked. (R286) -/
  | cgr (d a : GReg)
  /-- Adds a row and column offset in gb to the name in ga. (R286) -/
  | cadd (d a b : GReg)
  /-- Returns the logical hop distance between the names in ga and gb. (R286) -/
  | cdist (d a b : GReg)
  /-- Loads 8 to 64 bits from the well at ga plus off13 into gd. (R236) -/
  | ld (d a : GReg) (sz : Sz) (sx : Bool) (off : BitVec 13)
  /-- Stores 8 to 64 bits of gs to the well at ga plus off13. (R236) -/
  | st (s a : GReg) (sz : Sz) (off : BitVec 13)
  /-- Loads from the well at ga plus gb shifted by n into gd. (R236) -/
  | ldx (d a b : GReg) (sh : BitVec 2) (sx : Bool) (sz : Sz)
  /-- Stores gs to the well at ga plus gb shifted by n. (R236) -/
  | stx (s a b : GReg) (sh : BitVec 2) (sz : Sz)
  /-- Atomically adds gb to a well word and returns the old value. (R237) -/
  | amoadd (d a b : GReg) (w64 : Bool)
  /-- Atomically ANDs gb into a well word and returns the old value. (R237) -/
  | amoand (d a b : GReg) (w64 : Bool)
  /-- Atomically ORs gb into a well word and returns the old value. (R237) -/
  | amoor (d a b : GReg) (w64 : Bool)
  /-- Atomically XORs gb into a well word and returns the old value. (R237) -/
  | amoxor (d a b : GReg) (w64 : Bool)
  /-- Atomically stores the signed minimum and returns the old value. (R237) -/
  | amomin (d a b : GReg) (w64 : Bool)
  /-- Atomically stores the signed maximum and returns the old value. (R237) -/
  | amomax (d a b : GReg) (w64 : Bool)
  /-- Atomically stores the unsigned minimum and returns the old value. (R237) -/
  | amominn (d a b : GReg) (w64 : Bool)
  /-- Atomically stores the unsigned maximum and returns the old value. (R237) -/
  | amomaxn (d a b : GReg) (w64 : Bool)
  /-- Atomically swaps gb with a well word and returns the old value. (R237) -/
  | amoswap (d a b : GReg) (w64 : Bool)
  /-- Atomically compares a well word with gd and stores gb if equal, returning the old value. (R237) -/
  | amocas (d a b : GReg) (w64 : Bool)
  /-- Holds the strand's fetch until earlier well writes of the scope are performed. (R239) -/
  | fence (core : Bool)
  /-- Holds later far accesses, sends and engine commands until earlier far accesses have performed. (R229) -/
  | ffence (scope : Scope)
  /-- Adds two scalar floating-point values with one rounding. (R133) -/
  | fadd (d a b : GReg) (rm : Rm) (p : Prec)
  /-- Subtracts two scalar floating-point values with one rounding. (R133) -/
  | fsub (d a b : GReg) (rm : Rm) (p : Prec)
  /-- Multiplies two scalar floating-point values with one rounding. (R133) -/
  | fmul (d a b : GReg) (rm : Rm) (p : Prec)
  /-- Divides two scalar floating-point values with one rounding. (R133) -/
  | fdiv (d a b : GReg) (rm : Rm) (p : Prec)
  /-- Takes the square root of a scalar floating-point value. (R133) -/
  | fsqrt (d a : GReg) (rm : Rm) (p : Prec)
  /-- Returns the smaller of two scalar floating-point values. (R134) -/
  | fmin (d a b : GReg) (p : Prec)
  /-- Returns the larger of two scalar floating-point values. (R134) -/
  | fmax (d a b : GReg) (p : Prec)
  /-- Writes 1 when two floating-point values are equal. (R134) -/
  | feq (d a b : GReg) (p : Prec)
  /-- Writes 1 when a is less than b as floating point. (R134) -/
  | flt (d a b : GReg) (p : Prec)
  /-- Writes 1 when a is less than or equal to b as floating point. (R134) -/
  | fle (d a b : GReg) (p : Prec)
  /-- Writes the class and sign of a floating-point value. (R134) -/
  | fclass (d a : GReg) (p : Prec)
  /-- Copies a with the sign bit of b. (R133) -/
  | fsgcp (d a b : GReg) (p : Prec)
  /-- Copies a with the inverted sign bit of b. (R133) -/
  | fsgcn (d a b : GReg) (p : Prec)
  /-- Copies a with the XOR of the two sign bits. (R133) -/
  | fsgxr (d a b : GReg) (p : Prec)
  /-- Computes a times b plus c with one rounding. (R135) -/
  | fma (d a b c : GReg) (p : Prec) (rm : Rm)
  /-- Computes a times b minus c with one rounding. (R135) -/
  | fms (d a b c : GReg) (p : Prec) (rm : Rm)
  /-- Computes minus a times b plus c with one rounding. (R135) -/
  | fnma (d a b c : GReg) (p : Prec) (rm : Rm)
  /-- Computes minus a times b minus c with one rounding. (R135) -/
  | fnms (d a b c : GReg) (p : Prec) (rm : Rm)
  /-- Converts a scalar value between the types of R46 with one rounding. (R136) -/
  | fcvt (d a : GReg) (sat : Bool) (rm : Rm) (src dst : Ty)
  /-- Loads the active elements of a v register from the well, contiguous or strided. (R137) -/
  | vld (v : VReg) (a s : GReg) (esz : Sz) (k : KReg) (off : BitVec 7)
  /-- Stores the active elements of a v register to the well. (R137) -/
  | vst (v : VReg) (a s : GReg) (esz : Sz) (k : KReg) (off : BitVec 7)
  /-- Loads active elements from well addresses given by an index vector. (R238) -/
  | vgath (v : VReg) (a : GReg) (vi : VReg) (e64 : Bool) (k : KReg) (off : BitVec 7)
  /-- Stores active elements to well addresses given by an index vector. (R238) -/
  | vscat (v : VReg) (a : GReg) (vi : VReg) (e64 : Bool) (k : KReg) (off : BitVec 7)
  /-- Adds active floating-point elements. (R139) -/
  | vfadd (d a b : VReg) (k : KReg) (p : Prec)
  /-- Subtracts active floating-point elements. (R139) -/
  | vfsub (d a b : VReg) (k : KReg) (p : Prec)
  /-- Multiplies active floating-point elements. (R139) -/
  | vfmul (d a b : VReg) (k : KReg) (p : Prec)
  /-- Divides active floating-point elements. (R139) -/
  | vfdiv (d a b : VReg) (k : KReg) (p : Prec)
  /-- Takes square roots of active floating-point elements. (R139) -/
  | vfsqrt (d a : VReg) (k : KReg) (p : Prec)
  /-- Takes elementwise floating-point minima. (R139) -/
  | vfmin (d a b : VReg) (k : KReg) (p : Prec)
  /-- Takes elementwise floating-point maxima. (R139) -/
  | vfmax (d a b : VReg) (k : KReg) (p : Prec)
  /-- Clears the sign bit of active elements. (R139) -/
  | vfabs (d a : VReg) (k : KReg) (p : Prec)
  /-- Inverts the sign bit of active elements. (R139) -/
  | vfneg (d a : VReg) (k : KReg) (p : Prec)
  /-- Writes a k register with elementwise floating-point equality. (R141) -/
  | vfeq (d : KReg) (a b : VReg) (k : KReg) (p : Prec)
  /-- Writes a k register with elementwise floating-point less-than. (R141) -/
  | vflt (d : KReg) (a b : VReg) (k : KReg) (p : Prec)
  /-- Writes a k register with elementwise floating-point less-or-equal. (R141) -/
  | vfle (d : KReg) (a b : VReg) (k : KReg) (p : Prec)
  /-- Computes correctly rounded f32 reciprocals. (R140) -/
  | vfrcp (d a : VReg) (k : KReg)
  /-- Computes correctly rounded f32 reciprocal square roots. (R140) -/
  | vfrsq (d a : VReg) (k : KReg)
  /-- Computes correctly rounded f32 powers of two. (R140) -/
  | vfex2 (d a : VReg) (k : KReg)
  /-- Computes correctly rounded f32 base-2 logarithms. (R140) -/
  | vflg2 (d a : VReg) (k : KReg)
  /-- Computes correctly rounded f32 hyperbolic tangents. (R140) -/
  | vftanh (d a : VReg) (k : KReg)
  /-- Computes elementwise a times b plus c with one rounding. (R142) -/
  | vfma (d a b c : VReg) (k : KReg) (p : Prec)
  /-- Computes elementwise a times b minus c with one rounding. (R142) -/
  | vfms (d a b c : VReg) (k : KReg) (p : Prec)
  /-- Computes elementwise minus a times b plus c with one rounding. (R142) -/
  | vfnma (d a b c : VReg) (k : KReg) (p : Prec)
  /-- Computes elementwise minus a times b minus c with one rounding. (R142) -/
  | vfnms (d a b c : VReg) (k : KReg) (p : Prec)
  /-- Adds active integer elements modulo 2^w. (R143) -/
  | vadd (d a b : VReg) (k : KReg) (esz : Sz)
  /-- Subtracts active integer elements modulo 2^w. (R143) -/
  | vsub (d a b : VReg) (k : KReg) (esz : Sz)
  /-- Multiplies active integer elements, keeping the low w bits. (R143) -/
  | vmul (d a b : VReg) (k : KReg) (esz : Sz)
  /-- Keeps the high w bits of signed element products. (R143) -/
  | vmulh (d a b : VReg) (k : KReg) (esz : Sz)
  /-- Keeps the high w bits of unsigned element products. (R143) -/
  | vmulhn (d a b : VReg) (k : KReg) (esz : Sz)
  /-- ANDs active elements. (R143) -/
  | vand (d a b : VReg) (k : KReg) (esz : Sz)
  /-- ORs active elements. (R143) -/
  | vor (d a b : VReg) (k : KReg) (esz : Sz)
  /-- XORs active elements. (R143) -/
  | vxor (d a b : VReg) (k : KReg) (esz : Sz)
  /-- Shifts active elements left. (R143) -/
  | vsll (d a b : VReg) (k : KReg) (esz : Sz)
  /-- Shifts active elements right logically. (R143) -/
  | vsrl (d a b : VReg) (k : KReg) (esz : Sz)
  /-- Shifts active elements right arithmetically. (R143) -/
  | vsra (d a b : VReg) (k : KReg) (esz : Sz)
  /-- Takes signed elementwise minima. (R143) -/
  | vmin (d a b : VReg) (k : KReg) (esz : Sz)
  /-- Takes signed elementwise maxima. (R143) -/
  | vmax (d a b : VReg) (k : KReg) (esz : Sz)
  /-- Takes unsigned elementwise minima. (R143) -/
  | vminn (d a b : VReg) (k : KReg) (esz : Sz)
  /-- Takes unsigned elementwise maxima. (R143) -/
  | vmaxn (d a b : VReg) (k : KReg) (esz : Sz)
  /-- Adds signed elements with clamping. (R143) -/
  | vadds (d a b : VReg) (k : KReg) (esz : Sz)
  /-- Subtracts signed elements with clamping. (R143) -/
  | vsubs (d a b : VReg) (k : KReg) (esz : Sz)
  /-- Adds unsigned elements with clamping. (R143) -/
  | vaddsn (d a b : VReg) (k : KReg) (esz : Sz)
  /-- Subtracts unsigned elements with clamping. (R143) -/
  | vsubsn (d a b : VReg) (k : KReg) (esz : Sz)
  /-- Writes a k register with elementwise integer equality. (R143) -/
  | veq (d : KReg) (a b : VReg) (k : KReg) (e64 : Bool)
  /-- Writes a k register with elementwise signed less-than. (R143) -/
  | vlt (d : KReg) (a b : VReg) (k : KReg) (e64 : Bool)
  /-- Writes a k register with elementwise unsigned less-than. (R143) -/
  | vltn (d : KReg) (a b : VReg) (k : KReg) (e64 : Bool)
  /-- Takes absolute values of signed elements. (R143) -/
  | vabs (d a : VReg) (k : KReg) (esz : Sz)
  /-- Permutes elements of va by the indices in vb. (R144) -/
  | vperm (d a b : VReg) (k : KReg) (esz : Sz)
  /-- Broadcasts the low bits of ga to active elements. (R144) -/
  | vbcast (d : VReg) (a : GReg) (k : KReg) (esz : Sz)
  /-- Extracts one element into a g register. (R144) -/
  | vext (d : GReg) (a : VReg) (x : BitVec 7) (esz : Sz)
  /-- Inserts the low bits of ga into one element. (R144) -/
  | vins (d : VReg) (a : GReg) (x : BitVec 7) (esz : Sz)
  /-- Sums active elements over a fixed pairwise tree. (R145) -/
  | vredadd (d a : VReg) (k : KReg) (p : Prec)
  /-- Takes the maximum of active elements over a fixed tree. (R145) -/
  | vredmax (d a : VReg) (k : KReg) (p : Prec)
  /-- Takes the minimum of active elements over a fixed tree. (R145) -/
  | vredmin (d a : VReg) (k : KReg) (p : Prec)
  /-- Selects the largest active element and its index. (R146) -/
  | vmaxx (d a : VReg) (k : KReg) (p : Prec)
  /-- Selects the smallest active element and its index. (R146) -/
  | vminx (d a : VReg) (k : KReg) (p : Prec)
  /-- Selects elements from va or vb by a k register. (R144) -/
  | vsel (d a b : VReg) (k : KReg) (esz : Sz)
  /-- Copies active elements of va. (R144) -/
  | vmov (d a : VReg) (k : KReg) (esz : Sz)
  /-- Interleaves the low halves of va and vb. (R144) -/
  | vzip (d a b : VReg) (k : KReg) (esz : Sz)
  /-- Gathers the even elements of va and vb. (R144) -/
  | vunzip (d a b : VReg) (k : KReg) (esz : Sz)
  /-- Rotates elements of va by an immediate count. (R144) -/
  | vrot (d a : VReg) (c : BitVec 8) (k : KReg) (esz : Sz)
  /-- ANDs two k registers. (R144) -/
  | kand (d a b : KReg)
  /-- ORs two k registers. (R144) -/
  | kor (d a b : KReg)
  /-- Inverts a k register. (R144) -/
  | knot (d a : KReg)
  /-- Copies one k register to another. (R144) -/
  | kmovKk (d a : KReg)
  /-- Copies ga[7:0] into a k register. (R144) -/
  | kmovKg (d : KReg) (a : GReg)
  /-- Copies a k register, zero-extended, into a g register. (R144) -/
  | kmovGk (d : GReg) (a : KReg)
  /-- Converts elements between types, with optional stochastic rounding and saturation. (R147) -/
  | vcvt (d a : VReg) (dst : Ty) (sat : Bool) (vr : BitVec 3) (k : KReg) (rm : Rm) (src : Ty)
  /-- Sets each active lane to rmx32 of its key and counter lanes. (R149) -/
  | vrng (d a b : VReg) (k : KReg)
  /-- Sets each active lane to rmx32 of its key and the counter 8c plus the lane. (R149) -/
  | vrngi (d a : VReg) (c : BitVec 8) (k : KReg)
  /-- Loads a block line from the well into a b register. (R155) -/
  | bld (b : BReg) (a : GReg) (f : Bfmt) (off : BitVec 13)
  /-- Stores a b register's header and payload to the well. (R155) -/
  | bst (b : BReg) (a : GReg) (f : Bfmt) (off : BitVec 13)
  /-- Loads a block line with its mask word into a b register. (R155) -/
  | blds (b : BReg) (a : GReg) (f : Bfmt) (off : BitVec 13)
  /-- Accumulates one windowed block dot-product step into a tile. (R157) -/
  | bmma (m : MReg) (a b : BReg)
  /-- Computes one windowed block dot-product step into a zeroed tile. (R157) -/
  | bmmz (m : MReg) (a b : BReg)
  /-- Forms a block line from elementwise sums. (R158) -/
  | badd (d a b : BReg)
  /-- Forms a block line from elementwise differences. (R158) -/
  | bsub (d a b : BReg)
  /-- Forms a block line from elementwise products. (R158) -/
  | bmul (d a b : BReg)
  /-- Negates every mantissa of a block line. (R158) -/
  | bneg (d a : BReg)
  /-- Forms a block line from elementwise maxima. (R158) -/
  | bmaxe (d a b : BReg)
  /-- Scales a block line by a power of two from gx. (R158) -/
  | bscl (d a : BReg) (x : GReg)
  /-- Re-forms a block line at its finest exponents. (R158) -/
  | bnorm (d a : BReg)
  /-- Writes the four block exponents of a line into gx. (R158) -/
  | bexp (d : GReg) (a : BReg)
  /-- Writes the index of the largest element of a line into gx. (R158) -/
  | bmaxi (d : GReg) (a : BReg)
  /-- Sets a b register to canonical zero blocks of a given format. (R158) -/
  | bclr (d : BReg) (f : Bfmt)
  /-- Copies a b register whole. (R158) -/
  | bmov (d a : BReg)
  /-- Writes the 16 LSF flags of a tile into gx. (R120) -/
  | blsf (d : GReg) (m : MReg)
  /-- Writes row and column ORs of a tile's LSF flags into a k register. (R120) -/
  | blsft (d : KReg) (m : MReg)
  /-- Clears the 16 LSF flags of a tile. (R120) -/
  | blsfc (m : MReg)
  /-- Forms a block line from 64 f32 lanes of eight v registers. (R159) -/
  | benc (d : BReg) (hi : Bool) (f : Bfmt)
  /-- Decodes a block line exactly into 64 f32 lanes. (R159) -/
  | bdec (hi : Bool) (b : BReg)
  /-- Reads a tile out as 16 f32 values under DPW.RRM. (R160) -/
  | bmrd (v : BitVec 3) (m : MReg)
  /-- Forms one block of a b register from a tile. (R160) -/
  | bmrb (d : BReg) (m : MReg) (j : BitVec 2) (f : Bfmt)
  /-- Writes a tile to 256 bytes of the well. (R161) -/
  | bmsv (m : MReg) (x : GReg)
  /-- Reads a tile from 256 bytes of the well. (R161) -/
  | bmrs (m : MReg) (x : GReg)
  /-- Converts two MX blocks from v registers into a block line. (R162) -/
  | mxin (d : BReg) (ty : MxTy) (v : BitVec 3) (x : GReg) (f : Bfmt)
  /-- Converts a block line into two MX blocks and their scales. (R163) -/
  | mxout (v : BitVec 3) (ty : MxTy) (x : GReg) (b : BReg)
  /-- Accumulates a 2x2 f64 matrix product into vd. (R164) -/
  | dmma (d a b : VReg)
  /-- Stages a one-beat word message of g register data on a channel. (R241) -/
  | send (s t : GReg) (ch : Chan) (cls : BitVec 2)
  /-- Stages a four-beat vector message on a channel. (R241) -/
  | sendv (v : VReg) (t : GReg) (ch : Chan) (cls : BitVec 2)
  /-- Stages a block line message on a channel. (R241) -/
  | sendb (b : BReg) (t : GReg) (ch : Chan) (cls : BitVec 2)
  /-- Returns the next content word of the head entry, waiting for an entry. (R243) -/
  | recv (d : GReg) (ch : Chan)
  /-- Returns the next four content words of the head entry into a v register. (R243) -/
  | recvv (d : VReg) (ch : Chan)
  /-- Takes the head line entry into a b register. (R243) -/
  | recvb (d : BReg) (ch : Chan)
  /-- Writes the status word of a channel's head item without consuming it. (R244) -/
  | poll (d : GReg) (ch : Chan)
  /-- Removes entries ahead of the first marker record, or that record itself. (R243) -/
  | qflush (ch : Chan)
  /-- Stages a BARRIER or DRAIN marker on a channel. (R246) -/
  | mark (ch : Chan) (m : Marker) (cls : BitVec 2)
  /-- Creates the lowest free non-handler strand at an entry pc and returns its number. (R289) -/
  | spawn (d a : GReg)
  /-- Makes the strand absent, releasing its regions, MPROG and pending wake, and re-creating a busy handler. (R259) -/
  | exit
  /-- Withdraws the strand from handler and open issue until the round ends. (R292) -/
  | yield
  /-- Waits until a masked channel has an entry at its head. (R293) -/
  | waitq (d a : GReg)
  /-- Waits until every engine command with a tag has completed, raising any recorded error. (R294) -/
  | waite (a : GReg)
  /-- Waits for a marker record of a code at the head of a channel and removes it. (R295) -/
  | waitm (ch : Chan) (m : Marker)
  /-- Stages a BARRIER marker once and waits for its release marker. (R296) -/
  | barr (ch : Chan) (n : BitVec 4)
  /-- Waits for a wake or for a cycle count to expire. (R297) -/
  | sleep (a : GReg)
  /-- Ends a strand's SLEEP or IDLE, or sets its pending wake. (R262) -/
  | wake (a : GReg)
  /-- Writes an issue slot table entry inside a barrier window, effective next round. (R298) -/
  | slotw (a b : GReg)
  /-- Writes the strand's STRAND CSR into gd. (R299) -/
  | stid (d : GReg)
  /-- Reads a CSR into gd. (R353) -/
  | csrr (d : GReg) (csr : BitVec 12)
  /-- Writes ga into the RW and W1C fields of a CSR. (R353) -/
  | csrw (csr : BitVec 12) (a : GReg)
  /-- Sets bits of a CSR's RW fields. (R353) -/
  | csrs (csr : BitVec 12) (a : GReg)
  /-- Clears bits of a CSR's RW fields. (R353) -/
  | csrc (csr : BitVec 12) (a : GReg)
  /-- Reads a CSR into gd and writes ga to it in one step. (R353) -/
  | csrrw (d : GReg) (csr : BitVec 12) (a : GReg)
  /-- Asks the supervisor to complete the field without a save. (R355) -/
  | supvDone (a : GReg)
  /-- Asks the supervisor to write a checkpoint image of the field. (R340) -/
  | supvCheckpoint (a : GReg)
  /-- Asks the supervisor to move the context's slots off a lane to live lanes. (R355) -/
  | supvSlotmove (a : GReg)
  /-- Asks the supervisor to substitute the pump at a pump-set position. (R209) -/
  | supvPumpswap (a : GReg)
  /-- Asks the supervisor to post a KIND 4 record with a value to FAULTQ. (R355) -/
  | supvHostnote (a : GReg)
  /-- Asks the supervisor for the current absolute slot number. (R355) -/
  | supvSlottime (a : GReg)
  /-- An unassigned service code below 0x040 returns all ones and changes nothing else. (R355) -/
  | supvUnassigned (code : BitVec 6) (a : GReg)
  /-- Raises BREAK with the immediate code. (R357) -/
  | brk (code : BitVec 12)
  /-- Holds the strand in WAIT until a wake, fault delivery or handler-channel arrival. (R358) -/
  | idle
  /-- Resumes a parked strand at its resume point. (R360) -/
  | fltres (a : GReg)
  /-- Resumes a parked strand past the faulting instruction. (R360) -/
  | fltskp (a : GReg)
  /-- Kills a strand with every effect of EXIT. (R360) -/
  | fltkil (a : GReg)
  /-- Appends ga to the signature, ends the interval and returns its signature. (R362) -/
  | chksig (d a : GReg)
  /-- Starts a wellhead stream of well words to a channel. (R249) -/
  | strmOut (d a : GReg) (ch : Chan) (len : BitVec 24)
  /-- Starts a wellhead stream of channel content words into the well. (R249) -/
  | strmIn (d a : GReg) (ch : Chan) (len : BitVec 24)
  /-- Starts a wellhead copy between well ranges. (R249) -/
  | strmCopy (d a b : GReg) (len : BitVec 24)
  /-- Starts a wellhead transfer of far granules into the well. (R250) -/
  | fget (d a b : GReg) (len : BitVec 24)
  /-- Starts a wellhead transfer of well granules to far memory. (R250) -/
  | fput (d a b : GReg) (len : BitVec 24)
  /-- A waiting strand is released in the cycle after its wait condition is met. (R263) -/
  | strandRelease (n : StrandNo)
  /-- A SLEEP count expires and ends the wait. (R297) -/
  | sleepExpire (n : StrandNo)
  /-- A strand issues a word or word pair that R57 excludes, which raises ILLEGAL and changes nothing else. (R58) -/
  | reservedEncoding (w0 w1 : IWord)
  /-- The local port sends a staged or wellhead message into the router at a message boundary. (R240) -/
  | localPortSend (cls : BitVec 2) (engine : Bool)
  /-- A router forwards an arriving message by its route entry, cut-through. (R187) -/
  | routeMessage (inp : Port) (ch : Chan) (noise : BitVec 32)
  /-- Loads from far memory, translating and waiting for the data. (R251) -/
  | fld (d a : GReg) (sz : Sz) (sx : Bool) (off : BitVec 32)
  /-- Posts a store to far memory after translation. (R251) -/
  | fst (s a : GReg) (sz : Sz) (off : BitVec 32)
  /-- Performs a far atomic add at the home and returns the old value. (R251) -/
  | famoadd (d a b : GReg) (w64 : Bool) (off : BitVec 32)
  /-- Performs a far atomic AND and returns the old value. (R251) -/
  | famoand (d a b : GReg) (w64 : Bool) (off : BitVec 32)
  /-- Performs a far atomic OR and returns the old value. (R251) -/
  | famoor (d a b : GReg) (w64 : Bool) (off : BitVec 32)
  /-- Performs a far atomic XOR and returns the old value. (R251) -/
  | famoxor (d a b : GReg) (w64 : Bool) (off : BitVec 32)
  /-- Performs a far atomic signed minimum and returns the old value. (R251) -/
  | famomin (d a b : GReg) (w64 : Bool) (off : BitVec 32)
  /-- Performs a far atomic signed maximum and returns the old value. (R251) -/
  | famomax (d a b : GReg) (w64 : Bool) (off : BitVec 32)
  /-- Performs a far atomic unsigned minimum and returns the old value. (R251) -/
  | famominn (d a b : GReg) (w64 : Bool) (off : BitVec 32)
  /-- Performs a far atomic unsigned maximum and returns the old value. (R251) -/
  | famomaxn (d a b : GReg) (w64 : Bool) (off : BitVec 32)
  /-- Performs a far atomic swap and returns the old value. (R251) -/
  | famoswap (d a b : GReg) (w64 : Bool) (off : BitVec 32)
  /-- Performs a far atomic compare-and-swap and returns the old value. (R251) -/
  | famocas (d a b : GReg) (w64 : Bool) (off : BitVec 32)
  /-- Records a locked region and loads and locks FTB entries for its pages. (R253) -/
  | ftbl (a : GReg) (count : BitVec 16)
  /-- Removes the strand's locked regions inside a range and unlocks their entries. (R253) -/
  | ftbu (a : GReg) (count : BitVec 16)
  /-- Prefetches unlocked FTB entries for present pages without waiting. (R253) -/
  | ftbp (a : GReg) (count : BitVec 16)
  /-- Runs a restartable K loop of line loads and BMMA steps, recording progress in MPROG. (R166) -/
  | bmloop (f : MReg) (s : BReg) (a b n : GReg) (t : Tiles) (fmt : Bfmt) (sa sb : BitVec 16)
  /-- Writes a user channel's binding and resets its queue when empty. (R254) -/
  | chbind (ch : Chan) (a : GReg) (base len : BitVec 16)
  /-- A new issue round begins: hcount resets and accepted SLOTW writes take effect. (R265) -/
  | roundStart
  /-- A class-0 or class-1 beat that has waited 256 cycles takes the next rank. (R185) -/
  | classPromote (inp : Port) (ch : Chan)
  /-- A REDUCE or MAX group that holds a line on every member emits one combined line and its renorm. (R190) -/
  | combineLine (ch : Chan) (out : Port)
  /-- A held renorm is applied once its line has combined, and forwarded. (R191) -/
  | renormApply (inp : Port) (ch : Chan)
  /-- A router forwards a marker once it heads every JOIN input with the same code. (R196) -/
  | markerForward (ch : Chan)
  /-- A VOTE group forwards the beat that two of three members agree on. (R199) -/
  | voteForward (ch : Chan)
  /-- An accepted message is written into its channel's ring as one entry. (R180) -/
  | routerDelivery (cls : BitVec 2)
  /-- A header waiting at the local port is accepted once the ring has room. (R180) -/
  | headerAccept (cls : BitVec 2)
  /-- A waiting marker is recorded once a marker record frees. (R183) -/
  | markerRecordAccept (cls : BitVec 2)
  /-- A spilled message is delivered into its ring as room frees after restore or withdrawal. (R333) -/
  | spillDelivery
  /-- A well requester that has waited 8 cycles for a bank is promoted. (R169) -/
  | bankPromote (req : Requester) (bank : Nat)
  /-- A corrected well word is written back when its bank is idle. (R171) -/
  | eccWriteback (word : Nat)
  /-- Each bank scrubs one row every 1,024 cycles, correcting or reporting errors. (R322) -/
  | scrub
  /-- A wellhead command completes, or records an error against its tag. (R247) -/
  | engineCommandComplete (idx : Nat)
  /-- An FGET granule's data arrive and are written to the well. (R250) -/
  | fgetGranuleData
  /-- A paused engine command resumes once its granules can be issued. (R248) -/
  | engineResume (idx : Nat)
  /-- A pump takes a far request and places it in the earliest owned slot that fits. (R217) -/
  | farRequestPlace (turn : PumpTurn)
  /-- An outbound slot begins and its flit of requests leaves on the lane. (R213) -/
  | outboundSlot (pump : BitVec 8) (lane : BitVec 3) (slot : Nat)
  /-- An inbound data or ACK slot is received and checked, and its responses forwarded. (R219) -/
  | inboundSlot (pump : BitVec 8) (lane : BitVec 3) (slot : Nat)
  /-- A far response on ch3 completes an FLD, FAMO or posted FST at the core. (R251) -/
  | farResponse
  /-- The home controller performs a far request in slot order. (R227) -/
  | controllerPerform (turn : PumpTurn)
  /-- A controller outcome record ages out after 256 frames. (R222) -/
  | outcomeExpire
  /-- A lane that loses a flit or fails its check retrains, moving or stalling its requests. (R221) -/
  | laneRetrain (pump : BitVec 8) (lane : BitVec 3)
  /-- A retrained lane returns and re-sends stalled requests with their identifiers. (R222) -/
  | laneReturn (pump : BitVec 8) (lane : BitVec 3)
  /-- A pump starts a page walk for an FTB miss, answering from its cache when it can. (R311) -/
  | pageWalk (pump : BitVec 8)
  /-- A page-walk read returns in a MAINT ACK slot and the walk proceeds or ends. (R387) -/
  | walkReadReturn (turn : PumpTurn)
  /-- A held fault record is written once the context's FAULTQ ring has room. (R312) -/
  | faultqRoom (asid : BitVec 16)
  /-- A checked next slot table takes effect at its named frame, or is refused. (R216) -/
  | slotTableSwitch (pump : BitVec 8)
  /-- The control port writes one CSR or SW field. (R304) -/
  | csrset (csr : BitVec 12) (value : Word)
  /-- The control port loads the next copy of a route entry and sets NEXTV. (R304) -/
  | routenext (ch : Chan) (entry : Word)
  /-- The control port writes the current copy of a route entry, including CLOSED and JOIN. (R197) -/
  | routeset (ch : Chan) (entry : Word)
  /-- The control port writes up to 1,023 well words. (R304) -/
  | wellw (addr : Nat) (words : List Word)
  /-- The control port returns up to 1,023 well words. (R304) -/
  | wellr (addr n : Nat)
  /-- The control port runs the CLEAR sweep on its core. (R269) -/
  | clear
  /-- The start barrier creates the plain strands of the image. (R258) -/
  | start
  /-- The control port writes FIELDDIM and stages MEMBER markers between two instructions. (R273) -/
  | member (dim : Word) (chans : BitVec 32)
  /-- The control port invalidates matching FTB entries and discards older walks. (R279) -/
  | shoot (asid : BitVec 16) (page count : Nat)
  /-- The shoot-down is acknowledged once matching in-flight far accesses have performed. (R279) -/
  | shootAck
  /-- The control port kills one strand. (R304) -/
  | strandKill (n : StrandNo)
  /-- The control port resumes one parked strand as RETRY. (R328) -/
  | strandRetry (n : StrandNo)
  /-- The control port sets the entry pc of one strand. (R304) -/
  | strandSetpc (n : StrandNo) (pc : Word)
  /-- The control port returns registers, CSRs, queue state or FTB regions for save. (R304) -/
  | stater (off n : Nat)
  /-- The control port writes saved state for restore. (R304) -/
  | statew (off : Nat) (words : List Word)
  /-- The control port writes the field's pump set. (R207) -/
  | pumpset (pumps : List (BitVec 8))
  /-- An unknown control command code is rejected with a NAK and changes nothing. (R304) -/
  | controlNak (code : BitVec 8)
  /-- A QUIESCE on ch0 stops user issue and lets outstanding work drain. (R331) -/
  | quiesce
  /-- A router forwards QUIESCE once it has arrived on every feeding input. (R332) -/
  | quiesceForward (out : Port)
  /-- A core whose drain has finished signals quiet on ch1. (R332) -/
  | quiet
  /-- A core not quiet within 10 ms, or a spill overflow, withdraws the pre-emption. (R331) -/
  | quiesceTimeout (fnum : BitVec 16)
  /-- A launch record is checked and placed, queued or rejected. (R268) -/
  | launch (rec : List Word)
  /-- A resize record grows a field by a strip or requests a shrink. (R274) -/
  | resize (rec : List Word)
  /-- When the strip cores are idle, their inputs are withdrawn and the strip is cleared. (R275) -/
  | resizeShrink (fnum : BitVec 16)
  /-- Strip cores not idle within the given time fail the resize with status 0x0031. (R275) -/
  | resizeTimeout (fnum : BitVec 16)
  /-- A queued record or restore is placed when free cores meet it, and the field is granted. (R269) -/
  | placement
  /-- The supervisor pre-empts a lower-priority pre-emptible field. (R330) -/
  | preempt (fnum : BitVec 16)
  /-- Once every core is quiet, the supervisor writes the save image and clears the field. (R334) -/
  | saveWrite (fnum : BitVec 16)
  /-- The supervisor restores a save image onto free cores and resumes its strands. (R337) -/
  | restore (fnum : BitVec 16)
  /-- An idle field has DRAIN markers injected and completes when they reach every sink. (R270) -/
  | drain (fnum : BitVec 16)
  /-- The supervisor takes a fault message, records it and serves any SUPV request. (R328) -/
  | faultMessage
  /-- A host RETRY resumes a parked strand through the STRAND command. (R328) -/
  | hostRetry (t : HostTarget)
  /-- A host SKIP resumes a supervisor-held strand past its instruction. (R328) -/
  | hostSkip (t : HostTarget)
  /-- A host KILL kills a strand of the field. (R328) -/
  | hostKill (t : HostTarget)
  /-- On a consumed uncorrectable error, the field is rolled back to its checkpoint or killed. (R339) -/
  | rollback (fnum : BitVec 16)
  /-- The host posts a context descriptor, which the supervisors check and hold. (R301) -/
  | contextCreate (desc : List Word)
  /-- The host deletes a context with no fields, invalidating its pump translations. (R302) -/
  | contextDelete (asid : BitVec 16)
  /-- 256 frames after deletion, the ASID may be used again. (R302) -/
  | contextReuseExpire (asid : BitVec 16)
  /-- The supervisor invalidates pump caches and sends shoot-downs for a page-table change. (R280) -/
  | pageTableChange (asid : BitVec 16) (page count : Nat)
  /-- Completion is reported to the host when every shoot-down acknowledgement has arrived. (R280) -/
  | pageTableDone
  /-- An unpinnable uncorrectable error quarantines pages and may kill the context. (R344) -/
  | cisternError (asid : BitVec 16) (page count : Nat)
  /-- At the host's request the supervisor clears QUAR with a further page-table change. (R344) -/
  | quarClear (asid : BitVec 16) (page count : Nat)
  /-- A nonce request returns a signed wafer or field attestation report. (R319) -/
  | attest (nonce : List Word) (field : Option Word)
  /-- The host writes the domain configuration and the wafer trains, attests and joins. (R232) -/
  | domainConfig (cfg : DomainCfg)
  /-- A quiesced wafer detaches its pumps and leaves its domain. (R233) -/
  | domainLeave
  /-- After 1,024 retirements an interval ends and, if sampled, is sent to the checker. (R347) -/
  | checkIntervalEnd
  /-- The checker compares its signature and raises CHECK on a mismatch. (R347) -/
  | check (sig : BitVec 32)
  /-- The checker re-executes a mismatched interval and suspends itself or retires the core. (R348) -/
  | checkRecheck (sig : BitVec 32)
  /-- A core retired in service is withheld from grants and its field moved if pre-emptible. (R349) -/
  | coreRetire (site : Site)
  /-- A clock region's clock changes, taking effect within 1 microsecond. (R3) -/
  | clockChange (region : Region)
  /-- Power-good starts the bring-up sequence at phase 1. (R378) -/
  | powerGood
  /-- Every supervisor checks the firmware bundle, falling back to the second bank. (R316) -/
  | secureBoot (rejecting : List (BitVec 5))
  /-- Each clock region calibrates its core supply. (R378) -/
  | supply (found : SupplyFound)
  /-- Each region locks its clock at 1.75 GHz or retries at 1.55 GHz. (R378) -/
  | clocks (slow dead : List Region)
  /-- Every well word is zeroed with valid check bits and read back. (R378) -/
  | wellInit (bad : List Site)
  /-- Fuse map, retirement log and calibration results are merged. (R379) -/
  | grading
  /-- Rectangles are chosen, pass-through set, names written and CLEAR run. (R380) -/
  | enumeration
  /-- Every pump's microrings are tuned and lanes self-tested; READY is then set. (R378) -/
  | photonics (deadLanes : List (BitVec 8 × BitVec 3))
  /-- A fundamental reset of host port 0 clears READY, discards fields and restarts bring-up. (R385) -/
  | port0Reset
  /-- A reset of host port 1 to 3 retrains only that port's link. (R385) -/
  | portReset (port : BitVec 2)
  /-- A new bundle is written to the inactive bank, checked and activated. (R316) -/
  | bundleUpdate (bundle : Bundle)
  /-- A signed command advances the fused version counter. (R316) -/
  | versionAdvance
  /-- A fetch at a pc that is misaligned, beyond the well, or reads an uncorrectable word raises MISALIGN, WELLRANGE or UE_WELL. (R18) -/
  | fetchFault
  /-- Loss of power-good clears READY, discards every field without a completion record and restarts bring-up. (R385) -/
  | lossOfPowerGood
  /-- A soft error flips bits of a well word, leaving it correctable or uncorrectable under SECDED. (R171) -/
  | softError (word : Nat) (uncorrectable : Bool)
  deriving DecidableEq, Repr

end Sys2Proof
end

