-- ==== Sys2Proof/WellFormed.lean ====
section
/-! DEFINITION. Sys2Proof/WellFormed.lean: the operand values an encoding may not hold (R50 to R57), as checks on Instr.
What the width of an operand already bounds needs no check. -/

namespace Sys2Proof

/-- Bits of an element of this size. -/
def Sz.bits : Sz → Nat
  | .w8 => 8 | .w16 => 16 | .w32 => 32 | .w64 => 64

/-- Bytes of an element of this size. -/
def Sz.bytes : Sz → Nat
  | .w8 => 1 | .w16 => 2 | .w32 => 4 | .w64 => 8

/-- Elements of this size in a v register (R39). -/
def Sz.count (z : Sz) : Nat := 256 / z.bits

/-- Width in bits of a type (R46). -/
def Ty.bits : Ty → Nat
  | .i8 | .n8 | .e4m3 | .e5m2 => 8
  | .i16 | .n16 | .f16 | .bf16 => 16
  | .i32 | .n32 | .f32 => 32
  | .i64 | .n64 | .f64 => 64

/-- The integer types (R96). -/
def Ty.isInt : Ty → Bool
  | .i8 | .n8 | .i16 | .n16 | .i32 | .n32 | .i64 | .n64 => true
  | .f16 | .bf16 | .f32 | .f64 | .e4m3 | .e5m2 => false

/-- A conversion that R51 and R136 do not reserve: types differ, not both integer, SAT only with a narrow destination. -/
def convOk (src dst : Ty) (sat : Bool) : Bool :=
  src ≠ dst && !(src.isInt && dst.isInt) &&
    (!sat || dst = .f16 || dst = .bf16 || dst = .e4m3 || dst = .e5m2)

/-- The number of tiles of a BMLOOP (R56). -/
def Tiles.count : Tiles → Nat
  | .one => 1 | .two => 2 | .four => 4

/-- The assigned CSR numbers (R351). -/
def csrAssigned (n : BitVec 12) : Bool :=
  let v := n.toNat
  v ≤ 0x006 || v = 0x008 || v = 0x009 || (0x010 ≤ v && v ≤ 0x013) || (0x020 ≤ v && v ≤ 0x037) ||
    (0x040 ≤ v && v ≤ 0x043) || v = 0x045 || (0x048 ≤ v && v ≤ 0x04F) || (0x060 ≤ v && v ≤ 0x068) ||
    (0x080 ≤ v && v ≤ 0x0C1) || v = 0x100 || v = 0x180 || v = 0x181 || (0x200 ≤ v && v ≤ 0x21F)

/-- The CSRs whose program access is RW (R351). -/
def csrWritable (n : BitVec 12) : Bool :=
  let v := n.toNat
  v = 0x012 || v = 0x013 || (0x040 ≤ v && v ≤ 0x043) || (0x048 ≤ v && v ≤ 0x04F)

/-- Whether no operand of the instruction holds a value that R57 excludes. The steps of the hardware have no encoding
and no such value. -/
def Instr.wellFormed : Instr → Bool
  | .dbnz a _ => a ≠ 0
  | .ld _ _ sz sx _ => !(sx && sz = .w64)
  | .ldx _ _ _ _ sx sz => !(sx && sz = .w64)
  | .fld _ _ sz sx _ => !(sx && sz = .w64)
  | .fadd _ _ _ rm _ | .fsub _ _ _ rm _ | .fmul _ _ _ rm _ | .fdiv _ _ _ rm _ | .fsqrt _ _ rm _
  | .fma _ _ _ _ _ rm | .fms _ _ _ _ _ rm | .fnma _ _ _ _ _ rm | .fnms _ _ _ _ _ rm => rm ≠ .sto
  | .fcvt _ _ sat rm src dst => rm ≠ .sto && convOk src dst sat
  | .vcvt _ _ dst sat vr _ rm src => convOk src dst sat && (rm = .sto || vr = 0)
  | .vext _ _ x esz | .vins _ _ x esz => x.toNat < esz.count
  | .vrot _ _ c _ esz => c.toNat < esz.count
  | .send _ _ _ cls | .sendv _ _ _ cls | .sendb _ _ _ cls | .mark _ _ cls => cls ≠ 3
  | .csrr _ n => csrAssigned n
  | .csrw n _ | .csrs n _ | .csrc n _ | .csrrw _ n _ => csrWritable n
  | .supvUnassigned c _ => 6 ≤ c.toNat
  | .strmOut _ _ _ len | .strmIn _ _ _ len | .strmCopy _ _ _ len => len ≠ 0 && len.toNat % 8 = 0
  | .fget _ _ _ len | .fput _ _ _ len => len ≠ 0 && len.toNat % 64 = 0
  | .ftbl _ c | .ftbu _ c | .ftbp _ c => c ≠ 0
  | .bmloop f s _ _ _ t _ _ _ => f.toNat + t.count ≤ 8 && s.toNat + t.count ≤ 15
  | _ => true

end Sys2Proof
end

