-- ==== Sys2Proof/Config.lean ====
section
/-! DEFINITION. Sys2Proof/Config.lean: what the spec leaves open. Every constant here is opaque: it has no body, nothing
can be proved of its value, and a statement that mentions it holds whatever it is. -/

namespace Sys2Proof

/-- Values the spec does not state, numbered by State.free as they are used (log entry 1). -/
opaque Config.freeValue : Nat → BitVec 64

/-- Which unlocked FTB entry a walk's result replaces (R252: not stated), by State.free. -/
opaque Config.ftbVictim : Nat → Nat

/-- The pumps of a new field's pump set, in order, chosen by firmware (R388): from the pumps that may be used and the
number asked for, by State.free. -/
opaque Config.pumpChoice : Nat → List (BitVec 8) → Nat → List (BitVec 8)

/-- The slot position, lane and index, of the next slot that firmware installs at a pump (R388), by State.free. -/
opaque Config.slotChoice : Nat → BitVec 3 × BitVec 6

/-- A pump to substitute for another (R209, R355), by State.free: none where no pump is free. -/
opaque Config.pumpSwap : Nat → Option (BitVec 8)

/-- Origins of copies 1 and 2 of a triplicated range (R345), which firmware tries first: logical row and column of each copy,
by State.free. -/
opaque Config.copyPlace : Nat → (Nat × Nat) × (Nat × Nat)

/-- The 44 bits that hold the operand in a replay record of a save image (R341: 16 bytes identify a record; no rule tells how an
operand of up to 16 bytes is held). -/
opaque Config.replayOperand : List (BitVec 8) → BitVec 44

/-- Whether the log of a sampled interval exceeds 4 KiB (R347: the log's layout is not given), by State.free. -/
opaque Config.logTooLong : Nat → Bool

/-- SHAKE256 with a 512-bit output (R316, R318, R334: named, its definition is FIPS 202's). -/
opaque Config.shake256 : List (BitVec 8) → List (BitVec 8)

/-- Ed448 verification of a signature over a digest under a 57-byte key (R316; RFC 8032). -/
opaque Config.ed448Verify : List (BitVec 8) → List (BitVec 8) → List (BitVec 8) → Bool

/-- The 57-byte secret fused at manufacture, from which the device identity key is derived (R317). -/
opaque Config.deviceSecret : List (BitVec 8)

/-- The Ed448 public key of a secret (R317; RFC 8032). -/
opaque Config.ed448Public : List (BitVec 8) → List (BitVec 8)

/-- Ed448 signature, 114 bytes, with the key of a secret (R317, R319; RFC 8032). -/
opaque Config.ed448Sign : List (BitVec 8) → List (BitVec 8) → List (BitVec 8)

/-- Signature with Nelwald's device authority key (R317, R319). -/
opaque Config.nelwaldSign : List (BitVec 8) → List (BitVec 8)

/-- The digest of the factory fuse map (R317: its layout is not given). -/
opaque Config.fuseDigest : List (BitVec 8)

/-- The 64-byte root digest fused into the wafer (R316). -/
opaque Config.rootDigest : List (BitVec 8)

/-- The wafer serial number (R317, R319). -/
opaque Config.serial : BitVec 64

/-- Entries of channels 0 to 3 of a core's router (R202, R305: no rule gives them), by State.free, site and channel. -/
opaque Config.systemRoute : Nat → Site → Chan → BitVec 64

/-- Firmware's checks that an image's handlers meet R71 and its far demand meets R220, and that its rings hold the largest message that
their channels carry (R201; R276: how it finds out is not given): by the image, the field's shape and its slot counts. -/
opaque Config.wellBehaved : List (BitVec 8) → Nat → Nat → Nat × Nat × Nat → Bool

/-- Firmware's checks that a field's handlers meet R71 and its far demand meets R220, and that its rings hold the largest message that
their channels carry (R201), after a route or slot table change (R276: how it finds out is not given): by IMGM, the field's shape and
slot counts, the core's site, and its current and next route entries and its slot table as they would be. -/
opaque Config.changeBehaved : List (BitVec 8) → Nat → Nat → Nat × Nat × Nat → Site → List (BitVec 64) → List (BitVec 4) → Bool

/-- SR of sampling (R347), set by the supervisor, by State.free: the model takes it modulo 9. -/
opaque Config.sampleRate : Nat → Nat

/-- The seed of sampling, set by the supervisor and not visible to programs (R347). -/
opaque Config.checkSeed : BitVec 32

end Sys2Proof
end

