-- ==== Sys2Proof/Machine/Num.lean ====
section
/-! DEFINITION. Sys2Proof/Machine/Num.lean: exact values and the one rounding that every arithmetic rule uses (R85 to R93),
floating-point operations on bit patterns (R133 to R136, R140), the generator (R94) and QSHIFT (R132). -/

namespace Sys2Proof.Machine

/-- FFLAGS in bit positions of R104: NX, UF, OF, DZ, NV, LS, ZERO from bit 0 up. -/
abbrev Flags := BitVec 7

def Flags.nx : Flags := 0x01
def Flags.uf : Flags := 0x02
def Flags.of : Flags := 0x04
def Flags.dz : Flags := 0x08
def Flags.nv : Flags := 0x10
def Flags.ls : Flags := 0x20
def Flags.zero : Flags := 0x40
/-- A flag when a condition holds. -/
def Flags.when (c : Bool) (f : Flags) : Flags := if c then f else 0

/-- Rounding modes with their random value where there is one (R92, R93). -/
inductive Mode
  | rne | rtz | rup | rdn | rna
  | sto (r : Nat)
  deriving DecidableEq, Repr

/-- The mode that a code of R45 below 101 names in FMODE.RM or DPW.RRM. -/
def Mode.ofCode (c : BitVec 3) : Mode :=
  match c.toNat with
  | 1 => .rtz | 2 => .rup | 3 => .rdn | 4 => .rna | _ => .rne

/-- The mode of an instruction's rm field, with FMODE.RM for DYN and the random value for STO (R45, R126). -/
def Mode.ofRm (rm : Rm) (fmode : Word) (r : Nat) : Mode :=
  match rm with
  | .rne => .rne | .rtz => .rtz | .rup => .rup | .rdn => .rdn | .rna => .rna | .sto => .sto r
  | .dyn => Mode.ofCode (fmode.extractLsb' 0 3)

/-- `num / 2^sh` rounded to an integer, and whether a bit was lost (R92, R93). -/
def roundShift (md : Mode) (neg : Bool) (num sh : Nat) : Nat × Bool :=
  let q := num / 2 ^ sh
  let r := num % 2 ^ sh
  let up : Bool := match md with
    | .rne => decide (2 * r > 2 ^ sh) || (decide (2 * r = 2 ^ sh) && decide (q % 2 = 1))
    | .rtz => false
    | .rup => !neg && decide (r ≠ 0)
    | .rdn => neg && decide (r ≠ 0)
    | .rna => decide (r ≠ 0) && decide (2 * r ≥ 2 ^ sh)
    | .sto rr => decide (r * 2 ^ 16 / 2 ^ sh + rr ≥ 2 ^ 16)
  (if up then q + 1 else q, decide (r ≠ 0))

/-- `m × 2^e` rounded to an integer, magnitude only. -/
def roundDyadic (md : Mode) (neg : Bool) (m : Nat) (e : Int) : Nat × Bool :=
  if 0 ≤ e then (m * 2 ^ e.toNat, false) else roundShift md neg m (-e).toNat

/-- An interchange format (R85): exponent and fraction bits; `inf` false is e4m3. -/
structure FFmt where
  eb : Nat
  fb : Nat
  inf : Bool
  deriving DecidableEq, Repr

namespace FFmt
def bias (f : FFmt) : Nat := 2 ^ (f.eb - 1) - 1
def bits (f : FFmt) : Nat := 1 + f.eb + f.fb
def signBit (f : FFmt) : Nat := 2 ^ (f.eb + f.fb)
def maxExp (f : FFmt) : Nat := 2 ^ f.eb - 1
/-- +infinity, or what stands in its place. -/
def infBits (f : FFmt) : Nat := f.maxExp * 2 ^ f.fb
/-- The largest finite value's code (R85). -/
def maxFinite (f : FFmt) : Nat := if f.inf then f.infBits - 1 else f.infBits + 2 ^ f.fb - 2
/-- The canonical NaN (R85). -/
def nan (f : FFmt) : Nat := if f.inf then f.infBits + 2 ^ (f.fb - 1) else f.infBits + 2 ^ f.fb - 1
end FFmt

def FFmt.f16 : FFmt := ⟨5, 10, true⟩
def FFmt.bf16 : FFmt := ⟨8, 7, true⟩
def FFmt.f32 : FFmt := ⟨8, 23, true⟩
def FFmt.f64 : FFmt := ⟨11, 52, true⟩
def FFmt.e4m3 : FFmt := ⟨4, 3, false⟩
def FFmt.e5m2 : FFmt := ⟨5, 2, true⟩

end Sys2Proof.Machine

namespace Sys2Proof

/-- The format of a precision bit. -/
def Prec.fmt : Prec → Machine.FFmt
  | .s => .f32
  | .d => .f64

/-- The format of a floating-point type (R46), none for an integer type. -/
def Ty.ffmt : Ty → Option Machine.FFmt
  | .f16 => some .f16 | .bf16 => some .bf16 | .f32 => some .f32 | .f64 => some .f64
  | .e4m3 => some .e4m3 | .e5m2 => some .e5m2
  | .i8 | .n8 | .i16 | .n16 | .i32 | .n32 | .i64 | .n64 => none

end Sys2Proof

namespace Sys2Proof.Machine

/-- A decoded operand: NaN with sign, fraction and whether it signals; infinity; or `±m × 2^e`, zero with its sign. -/
inductive FVal
  | nan (neg : Bool) (frac : Nat) (sig : Bool)
  | inf (neg : Bool)
  | fin (neg : Bool) (m : Nat) (e : Int)
  deriving DecidableEq, Repr

namespace FFmt

/-- The value of a code (R85). -/
def decode (f : FFmt) (x : Nat) : FVal :=
  let neg := decide (x / f.signBit % 2 = 1)
  let e := x / 2 ^ f.fb % 2 ^ f.eb
  let fr := x % 2 ^ f.fb
  if f.inf && decide (e = f.maxExp) then
    if fr = 0 then .inf neg else .nan neg fr (decide (fr < 2 ^ (f.fb - 1)))
  else if !f.inf && decide (e = f.maxExp) && decide (fr = 2 ^ f.fb - 1) then .nan neg fr false
  else if e = 0 then .fin neg fr (1 - (f.bias : Int) - f.fb)
  else .fin neg (fr + 2 ^ f.fb) ((e : Int) - f.bias - f.fb)

/-- A code with a sign. -/
def withSign (f : FFmt) (neg : Bool) (x : Nat) : Nat := if neg then x + f.signBit else x

/-- The result of an overflow (R87). -/
def overflow (f : FFmt) (md : Mode) (sat neg : Bool) : Nat :=
  let toInf : Bool := match md with
    | .rne | .rna | .sto _ => true
    | .rtz => false
    | .rup => !neg
    | .rdn => neg
  f.withSign neg (if sat then f.maxFinite else if !f.inf then f.nan else if toInf then f.infBits else f.maxFinite)

/-- `±m × 2^e` rounded once to the format, with its flags (R86, R87, R92). -/
def round (f : FFmt) (md : Mode) (sat neg : Bool) (m : Nat) (e : Int) : Nat × Flags :=
  if m = 0 then (f.withSign neg 0, 0) else
  let top := (m.log2 : Int) + e
  let emin := 1 - (f.bias : Int)
  let place := (if top < emin then emin else top) - f.fb
  let (n, lost) := roundDyadic md neg m (e - place)
  let code := ((place + f.fb + f.bias).toNat) * 2 ^ f.fb + n - 2 ^ f.fb
  if code > f.maxFinite then (f.overflow md sat neg, Flags.of ||| Flags.nx) else
  let (n', _) := roundDyadic md neg m (e - (top - f.fb))
  let tiny := decide (top < emin) && !(decide (top + 1 = emin) && decide (n' = 2 ^ (f.fb + 1)))
  (f.withSign neg code, Flags.when lost .nx ||| Flags.when (tiny && lost) .uf)

/-- A NaN made quiet, its sign and payload kept (R89). -/
def quiet (f : FFmt) (neg : Bool) (fr : Nat) : Nat :=
  if f.inf then f.withSign neg (f.infBits + (if fr < 2 ^ (f.fb - 1) then fr + 2 ^ (f.fb - 1) else fr))
  else f.withSign neg f.nan

/-- The first NaN of the operands, quiet, and NV if any of them signals (R89). -/
def nanOf (f : FFmt) : List FVal → Option (Nat × Flags)
  | [] => none
  | .nan neg fr sig :: rest =>
    some (f.quiet neg fr, Flags.when (sig || rest.any (fun v => match v with | .nan _ _ s => s | _ => false)) .nv)
  | _ :: rest => nanOf f rest

/-- The canonical NaN with NV (R89). -/
def invalid (f : FFmt) : Nat × Flags := (f.nan, .nv)

/-- The sign of an exact zero sum (R133). -/
def zeroSign (md : Mode) (na nb : Bool) : Bool := if na = nb then na else decide (md = .rdn)

/-- The sum of two operands that are not NaN, rounded once (R133). -/
def addVals (f : FFmt) (md : Mode) (a b : FVal) : Nat × Flags :=
  match a, b with
  | .inf na, .inf nb => if na = nb then (f.withSign na f.infBits, 0) else f.invalid
  | .inf na, _ => (f.withSign na f.infBits, 0)
  | _, .inf nb => (f.withSign nb f.infBits, 0)
  | .fin na ma ea, .fin nb mb eb =>
    let e := min ea eb
    let x : Int := (if na then -1 else 1) * (ma * 2 ^ (ea - e).toNat : Nat)
    let y : Int := (if nb then -1 else 1) * (mb * 2 ^ (eb - e).toNat : Nat)
    let t := x + y
    if t = 0 then (f.withSign (if ma = 0 ∧ mb = 0 then zeroSign md na nb else decide (md = .rdn)) 0, 0)
    else f.round md false (decide (t < 0)) t.natAbs e
  | _, _ => f.invalid

/-- The exact product of two operands that are not NaN; none for 0 × ∞. -/
def mulVals (a b : FVal) : Option FVal :=
  match a, b with
  | .inf na, .inf nb => some (.inf (na != nb))
  | .inf na, .fin nb mb _ => if mb = 0 then none else some (.inf (na != nb))
  | .fin na ma _, .inf nb => if ma = 0 then none else some (.inf (na != nb))
  | .fin na ma ea, .fin nb mb eb => some (.fin (na != nb) (ma * mb) (ea + eb))
  | _, _ => none

/-- A value with its sign inverted; a NaN is left as it is (R135). -/
def flip (c : Bool) : FVal → FVal
  | .nan n fr s => .nan n fr s
  | .inf n => .inf (n != c)
  | .fin n m e => .fin (n != c) m e

def add (f : FFmt) (md : Mode) (a b : Nat) : Nat × Flags :=
  match f.nanOf [f.decode a, f.decode b] with
  | some r => r
  | none => f.addVals md (f.decode a) (f.decode b)

def sub (f : FFmt) (md : Mode) (a b : Nat) : Nat × Flags :=
  match f.nanOf [f.decode a, f.decode b] with
  | some r => r
  | none => f.addVals md (f.decode a) (flip true (f.decode b))

/-- A rounded value, whatever its kind. -/
def roundVal (f : FFmt) (md : Mode) : FVal → Nat × Flags
  | .nan n fr s => (f.quiet n fr, Flags.when s .nv)
  | .inf n => (f.withSign n f.infBits, 0)
  | .fin n m e => f.round md false n m e

def mul (f : FFmt) (md : Mode) (a b : Nat) : Nat × Flags :=
  match f.nanOf [f.decode a, f.decode b] with
  | some r => r
  | none => match mulVals (f.decode a) (f.decode b) with
    | none => f.invalid
    | some v => f.roundVal md v

/-- Extra quotient bits, enough that a sticky bit below them decides every rounding. -/
def guardBits : Nat := 200

def div (f : FFmt) (md : Mode) (a b : Nat) : Nat × Flags :=
  match f.nanOf [f.decode a, f.decode b] with
  | some r => r
  | none => match f.decode a, f.decode b with
    | .inf _, .inf _ => f.invalid
    | .inf na, .fin nb _ _ => (f.withSign (na != nb) f.infBits, 0)
    | .fin na _ _, .inf nb => (f.withSign (na != nb) 0, 0)
    | .fin na ma ea, .fin nb mb eb =>
      if mb = 0 then if ma = 0 then f.invalid else (f.withSign (na != nb) f.infBits, .dz)
      else
        let n := ma * 2 ^ guardBits
        f.round md false (na != nb) (2 * (n / mb) + (if n % mb = 0 then 0 else 1)) (ea - eb - guardBits - 1)
    | _, _ => f.invalid

/-- The integer square root of a number below 4^k. -/
def isqrt : Nat → Nat → Nat
  | 0, _ => 0
  | k + 1, n => let r := 2 * isqrt k (n / 4); if (r + 1) * (r + 1) ≤ n then r + 1 else r

def sqrt (f : FFmt) (md : Mode) (a : Nat) : Nat × Flags :=
  match f.decode a with
  | .nan n fr s => (f.quiet n fr, Flags.when s .nv)
  | .inf n => if n then f.invalid else (f.infBits, 0)
  | .fin n m e =>
    if m = 0 then (f.withSign n 0, 0) else if n then f.invalid else
    let odd := decide (e % 2 ≠ 0)
    let x := (if odd then 2 * m else m) * 4 ^ guardBits
    let r := isqrt (guardBits + 64) x
    f.round md false false (2 * r + (if r * r = x then 0 else 1)) ((if odd then e - 1 else e) / 2 - guardBits - 1)

/-- a × b + c with the product or the addend negated, rounded once (R90, R135). -/
def fma (f : FFmt) (md : Mode) (negP negC : Bool) (a b c : Nat) : Nat × Flags :=
  let va := f.decode a
  let vb := f.decode b
  let vc := f.decode c
  let bad := decide (va = .inf true ∨ va = .inf false) && (match vb with | .fin _ 0 _ => true | _ => false) ||
    decide (vb = .inf true ∨ vb = .inf false) && (match va with | .fin _ 0 _ => true | _ => false)
  match f.nanOf [va, vb, vc] with
  | some (r, fl) => (r, fl ||| Flags.when bad .nv)
  | none => match mulVals va vb with
    | none => f.invalid
    | some p => f.addVals md (flip negP p) (flip negC vc)

/-- Exact order of two operands that are not NaN: the sign of a - b. -/
def cmpVals (a b : FVal) : Int :=
  let key : FVal → Int × Nat × Int := fun v => match v with
    | .inf n => (if n then -2 else 2, 0, 0)
    | .fin n m e => (if m = 0 then 0 else if n then -1 else 1, m, e)
    | .nan _ _ _ => (0, 0, 0)
  let (ca, ma, ea) := key a
  let (cb, mb, eb) := key b
  if ca ≠ cb then ca - cb
  else if ca = 1 ∨ ca = -1 then
    let e := min ea eb
    ca * ((ma * 2 ^ (ea - e).toNat : Nat) - (mb * 2 ^ (eb - e).toNat : Nat) : Int)
  else 0

/-- The sign of a value that is not NaN. -/
def negOf : FVal → Bool
  | .nan n _ _ => n
  | .inf n => n
  | .fin n _ _ => n

/-- Order with -0 below +0 (R134, R122). -/
def ltZeros (a b : FVal) : Bool :=
  decide (cmpVals a b < 0) || (decide (cmpVals a b = 0) && negOf a && !negOf b)

def fmin (f : FFmt) (a b : Nat) : Nat × Flags :=
  match f.nanOf [f.decode a, f.decode b] with
  | some r => r
  | none => (if ltZeros (f.decode b) (f.decode a) then b else a, 0)

def fmax (f : FFmt) (a b : Nat) : Nat × Flags :=
  match f.nanOf [f.decode a, f.decode b] with
  | some r => r
  | none => (if ltZeros (f.decode a) (f.decode b) then b else a, 0)

/-- FEQ (R134). -/
def feq (f : FFmt) (a b : Nat) : Bool × Flags :=
  match f.nanOf [f.decode a, f.decode b] with
  | some (_, fl) => (false, fl)
  | none => (decide (cmpVals (f.decode a) (f.decode b) = 0), 0)

/-- FLT (R134). -/
def flt (f : FFmt) (a b : Nat) : Bool × Flags :=
  match f.nanOf [f.decode a, f.decode b] with
  | some _ => (false, .nv)
  | none => (decide (cmpVals (f.decode a) (f.decode b) < 0), 0)

/-- FLE (R134). -/
def fle (f : FFmt) (a b : Nat) : Bool × Flags :=
  match f.nanOf [f.decode a, f.decode b] with
  | some _ => (false, .nv)
  | none => (decide (cmpVals (f.decode a) (f.decode b) ≤ 0), 0)

/-- FCLASS (R134). -/
def fclass (f : FFmt) (a : Nat) : Nat :=
  let sub := a / 2 ^ f.fb % 2 ^ f.eb = 0
  match f.decode a with
  | .nan n _ s => (if s then 7 else 6) + (if n then 8 else 0)
  | .inf n => 3 + (if n then 8 else 0)
  | .fin n m _ => (if m = 0 then 0 else if sub then 1 else 2) + (if n then 8 else 0)

end FFmt

/-- A number clamped to the bounds of an integer type. -/
def clampInt (lo hi x : Int) : Int := if x < lo then lo else if hi < x then hi else x

end Sys2Proof.Machine

namespace Sys2Proof

/-- The signed integer types (R96). -/
def Ty.signed : Ty → Bool
  | .i8 | .i16 | .i32 | .i64 => true
  | _ => false

/-- The bounds of an integer type (R96). -/
def Ty.lo (t : Ty) : Int := if t.signed then -(2 ^ (t.bits - 1) : Nat) else 0
def Ty.hi (t : Ty) : Int := if t.signed then (2 ^ (t.bits - 1) : Nat) - 1 else (2 ^ t.bits : Nat) - 1

/-- The integer that a pattern of an integer type holds. -/
def Ty.intOf (t : Ty) (x : Nat) : Int := if t.signed && decide (x ≥ 2 ^ (t.bits - 1)) then (x : Int) - (2 ^ t.bits : Nat) else x

end Sys2Proof

namespace Sys2Proof.Machine

/-- The pattern of an integer in so many bits. -/
def natOfInt (bits : Nat) (x : Int) : Nat := (x % (2 ^ bits : Nat)).toNat

/-- The signed reading of a pattern of so many bits. -/
def intOfNat (bits x : Nat) : Int := if x ≥ 2 ^ (bits - 1) then (x : Int) - (2 ^ bits : Nat) else x

/-- A floating-point value narrowed, widened or kept (R85 to R87, R91). -/
def convertFF (src dst : FFmt) (md : Mode) (sat : Bool) (x : Nat) : Nat × Flags :=
  match src.decode x with
  | .nan n fr s =>
    if !dst.inf then (dst.withSign n dst.nan, Flags.when s .nv)
    else if !src.inf then (dst.withSign n dst.nan, 0)
    else
      let fr' := if src.fb ≤ dst.fb then fr * 2 ^ (dst.fb - src.fb) else fr / 2 ^ (src.fb - dst.fb)
      (dst.quiet n fr', Flags.when s .nv)
  | .inf n =>
    if dst.inf then (dst.withSign n dst.infBits, 0)
    else if sat then (dst.withSign n dst.maxFinite, Flags.of ||| Flags.nx)
    else (dst.withSign n dst.nan, .nv)
  | .fin n m e => dst.round md sat n m e

/-- A floating-point value to an integer type (R88). -/
def convertFI (src : FFmt) (dst : Ty) (md : Mode) (x : Nat) : Nat × Flags :=
  match src.decode x with
  | .nan _ _ _ => (0, .nv)
  | .inf n => (natOfInt dst.bits (if n then dst.lo else dst.hi), .nv)
  | .fin n m e =>
    let (q, lost) := roundDyadic md n m e
    let r : Int := if n then -(q : Int) else q
    if r < dst.lo ∨ dst.hi < r then (natOfInt dst.bits (clampInt dst.lo dst.hi r), .nv)
    else (natOfInt dst.bits r, Flags.when lost .nx)

/-- An integer to a floating-point format (R88). -/
def convertIF (src : Ty) (dst : FFmt) (md : Mode) (sat : Bool) (x : Nat) : Nat × Flags :=
  let v := src.intOf x
  dst.round md sat (decide (v < 0)) v.natAbs 0

/-- FCVT and VCVT of one value (R136, R147). Integer to integer is reserved, and keeps the pattern. -/
def convert (src dst : Ty) (md : Mode) (sat : Bool) (x : Nat) : Nat × Flags :=
  match src.ffmt, dst.ffmt with
  | some a, some b => convertFF a b md sat x
  | some a, none => convertFI a dst md x
  | none, some b => convertIF src b md sat x
  | none, none => (x, 0)

/-! ## VFRCP, VFRSQ, VFEX2, VFLG2, VFTANH (R140) -/

/-- Fraction bits of the fixed-point evaluations. No f32 operand's result lies so near a rounding boundary that the
error, below 2^-200, could cross it (log entry 7). -/
def fixBits : Nat := 256
def fixOne : Nat := 2 ^ fixBits
def fixMul (x y : Nat) : Nat := x * y / fixOne

/-- Σ y^k / k! from term `t` = y^k / k!. -/
def expSeries (y : Nat) : Nat → Nat → Nat → Nat
  | 0, _, _ => 0
  | n + 1, k, t => t + expSeries y n (k + 1) (fixMul t y / (k + 1))

/-- e^y for 0 ≤ y < 1. -/
def fixExp (y : Nat) : Nat := expSeries y 70 0 fixOne

/-- Σ z^(2k+1) / (2k+1) from power `t`. -/
def atanhSeries (zz : Nat) : Nat → Nat → Nat → Nat
  | 0, _, _ => 0
  | n + 1, k, t => t / (2 * k + 1) + atanhSeries zz n (k + 1) (fixMul t zz)

/-- ln y for y from 1 to 2: 2 atanh((y - 1) / (y + 1)). -/
def fixLn (y : Nat) : Nat :=
  let z := (y - fixOne) * fixOne / (y + fixOne)
  2 * atanhSeries (fixMul z z) 90 0 z

/-- ln 2. -/
def fixLn2 : Nat := fixLn (2 * fixOne)

/-- `m × 2^e` in fixed point, low bits cut. -/
def toFix (m : Nat) (e : Int) : Nat :=
  if 0 ≤ e + fixBits then m * 2 ^ (e + fixBits).toNat else m / 2 ^ (-(e + fixBits)).toNat

/-- y squared so many times. -/
def squareTimes : Nat → Nat → Nat
  | 0, y => y
  | n + 1, y => squareTimes n (fixMul y y)

/-- A value that is not exactly representable: twice its fixed-point magnitude and a sticky bit. -/
def roundFix (md : Mode) (neg : Bool) (v : Nat) (e : Int) : Nat × Flags :=
  FFmt.f32.round md false neg (2 * v + 1) (e - fixBits - 1)

/-- Just above or just below 1. -/
def nearOne (md : Mode) (neg above : Bool) : Nat × Flags :=
  FFmt.f32.round md false neg (if above then 2 ^ 64 + 1 else 2 ^ 64 - 1) (-64)

def vfrcp (md : Mode) (a : Nat) : Nat × Flags := FFmt.f32.div md 0x3F800000 a

def vfrsq (md : Mode) (a : Nat) : Nat × Flags :=
  match FFmt.f32.decode a with
  | .nan n fr s => (FFmt.f32.quiet n fr, Flags.when s .nv)
  | .inf n => if n then FFmt.f32.invalid else (0, 0)
  | .fin n m e =>
    if m = 0 then (FFmt.f32.withSign n FFmt.f32.infBits, .dz) else if n then FFmt.f32.invalid else
    let odd := decide (e % 2 ≠ 0)
    let x := if odd then 2 * m else m
    let r := FFmt.isqrt 300 (4 ^ 250 / x)
    FFmt.f32.round md false false (2 * r + (if r * r * x = 4 ^ 250 then 0 else 1))
      (-((if odd then e - 1 else e) / 2) - 250 - 1)

def vfex2 (md : Mode) (a : Nat) : Nat × Flags :=
  match FFmt.f32.decode a with
  | .nan n fr s => (FFmt.f32.quiet n fr, Flags.when s .nv)
  | .inf n => (if n then 0 else FFmt.f32.infBits, 0)
  | .fin n m e =>
    if m = 0 then (0x3F800000, 0)
    else if (m.log2 : Int) + e ≥ 12 then FFmt.f32.round md false false 3 (if n then -4096 else 4096)
    else if (m.log2 : Int) + e < -40 then nearOne md false (!n)
    else
      let x := toFix m e
      let ip := x / fixOne
      let fp := x % fixOne
      if fp = 0 then FFmt.f32.round md false false 1 (if n then -(ip : Int) else ip)
      else
        let (i, fr) : Int × Nat := if n then (-(ip : Int) - 1, fixOne - fp) else ((ip : Int), fp)
        roundFix md false (fixExp (fixMul fr fixLn2)) i

def vflg2 (md : Mode) (a : Nat) : Nat × Flags :=
  match FFmt.f32.decode a with
  | .nan n fr s => (FFmt.f32.quiet n fr, Flags.when s .nv)
  | .inf n => if n then FFmt.f32.invalid else (FFmt.f32.infBits, 0)
  | .fin n m e =>
    if m = 0 then (FFmt.f32.withSign true FFmt.f32.infBits, .dz) else if n then FFmt.f32.invalid else
    let top := (m.log2 : Int) + e
    if m = 2 ^ m.log2 then FFmt.f32.round md false (decide (top < 0)) top.natAbs 0
    else
      let v : Int := top * fixOne + (fixLn (m * 2 ^ (fixBits - m.log2)) * fixOne / fixLn2 : Nat)
      roundFix md (decide (v < 0)) v.natAbs 0

def vftanh (md : Mode) (a : Nat) : Nat × Flags :=
  match FFmt.f32.decode a with
  | .nan n fr s => (FFmt.f32.quiet n fr, Flags.when s .nv)
  | .inf n => (FFmt.f32.withSign n 0x3F800000, 0)
  | .fin n m e =>
    if m = 0 then (FFmt.f32.withSign n 0, 0)
    else if (m.log2 : Int) + e ≥ 4 then nearOne md n false
    else if (m.log2 : Int) + e < -40 then FFmt.f32.round md false n (m * 2 ^ 64 - 1) (e - 64)
    else
      let y := squareTimes 6 (fixExp (toFix m (e - 5)))
      roundFix md n ((y - fixOne) * fixOne / (y + fixOne)) 0

/-! ## The generator and QSHIFT -/

/-- RMX32 (R94). -/
def rmx32 (key ctr : BitVec 32) : BitVec 32 :=
  let x := (ctr ^^^ key) * 0x2C9277B5
  let x := (x ^^^ (x >>> 15)) * 0x6B43A9B5
  let x := x ^^^ (x >>> 13)
  let x := (x ^^^ key) * 0x2C9277B5
  x ^^^ (x >>> 16)

/-- The smallest s with a × 2^-s ≤ t, for positive dyadics (R132). -/
def ceilLog2Ratio (ma : Nat) (ea : Int) (mt : Nat) (et : Int) : Int :=
  let d := (ma.log2 : Int) + ea - ((mt.log2 : Int) + et)
  let le (s : Int) : Bool :=
    let x := ea - s
    let e := min x et
    decide (ma * 2 ^ (x - e).toNat ≤ mt * 2 ^ (et - e).toNat)
  if le (d - 1) then d - 1 else if le d then d else d + 1

/-- QSHIFT (R102, R132): the shift as a signed integer, and flags. -/
def qshift (a b : Nat) : Int × Flags :=
  match FFmt.f32.decode a, FFmt.f32.decode b with
  | .fin _ ma ea, .fin nb mb eb =>
    if mb = 0 ∨ nb then (0, .nv)
    else if ma = 0 then (0, .zero)
    else (clampInt (-128) 127 (ceilLog2Ratio ma ea mb eb), 0)
  | _, _ => (0, .nv)

end Sys2Proof.Machine
end

