-- ==== Sys2Proof/Machine/State.lean ====
section
/-! DEFINITION. Sys2Proof/Machine/State.lean: everything the spec gives the machine, as plain data, and the machine right
after power-good. Sizes and bit maps stand in INVENTORY.md under State. -/

namespace Sys2Proof.Machine

/-- Reasons the machine stops with a fault. No step of the model raises one: every fault of R324 is taken as R326
describes, which is a next state. -/
inductive Fault
  /-- Raised by no step; kept so that the type has a member. Safe: it forbids nothing. -/
  | none
  deriving DecidableEq, Repr

/-- Reasons the model gives no meaning. -/
inductive Refusal
  /-- Raised by an arm of Dispatch.lean that has no meaning yet. Safe: no behaviour is claimed. -/
  | notModelled (mnemonic : String)
  deriving DecidableEq, Repr

/-! ## Registers -/

/-- What a strand in WAIT waits for (R261, R235). -/
inductive Wait
  | waitq (mask : BitVec 32)
  | waite (tag : BitVec 6)
  | waitm (ch : Chan) (code : BitVec 5)
  | barr (ch : Chan) (n : BitVec 4)
  /-- The core cycle at which the count expires, if it does (R297). -/
  | sleep (deadline : Option Nat)
  | idle
  | recv (ch : Chan)
  /-- Room for so many beats in the staging buffer of a class (R240). -/
  | staging (cls : BitVec 2) (beats : Nat)
  /-- A free place among the 16 engine commands (R247). -/
  | engine
  /-- A page walk that the strand's access asked for (R252). -/
  | walk
  /-- The response to a far access of this issue number (R251). -/
  | far (seq : Nat)
  /-- Far accesses issued before `upto`: of the strand, or of the core (R229). -/
  | ffence (core : Bool) (upto : Nat)
  /-- Another strand's BMLOOP (R166). -/
  | loop
  /-- Granules of the strand's own commands at these bytes that are still to be requested (R228). -/
  | behind (va nb : Nat)
  /-- The wait of a restored strand, which ends at once: its instruction is issued again (R300). -/
  | reissue
  /-- The condition is met and the instruction, of `len` bytes, is done (R263). -/
  | finished (len : Nat)
  deriving DecidableEq, Repr

/-- The states of a strand that exists, QUIESCE left out (R256). -/
inductive Live
  | run
  | wait (w : Wait)
  | park
  deriving DecidableEq, Repr

/-- The states of a strand (R256); STOP keeps the saved state (R257). -/
inductive StrandState
  | absent
  | live (l : Live)
  | stop (saved : Live)
  deriving DecidableEq, Repr

/-- A single-copy atomic access of an instruction that makes several (R138, R156): well address, bytes, and what it stores, nothing
where it loads. -/
structure Elem where
  addr : Nat
  nb : Nat
  data : List Byte
  deriving DecidableEq, Repr

/-- What is left of an instruction once its accesses are made (R137, R155, R161, R238): the register that they load, with the
element size and the mask of a vector, or the register whose poison a store shows. -/
inductive PartEnd
  | vload (v : VReg) (k : BitVec 8) (bits : Nat)
  | vstore
  | line (b : BReg) (f : Bfmt)
  | lineStore (poison : Bool)
  | tile (m : MReg)
  | tileStore (poison : Bool)
  deriving DecidableEq, Repr

/-- An instruction that has made some of its accesses (R138, R156): all of them in index order, the values that those made have read
(0 for a store), and how it ends. -/
structure Part where
  elems : List Elem
  got : List (Option Nat)
  fin : PartEnd
  deriving DecidableEq, Repr

/-- What one strand holds (R19, R39, R103, R104, R256 to R260, R297, R336, R351, R359). -/
structure Strand where
  pc : Word
  entry : Word
  g : Vector Word 32
  v : Vector VWord 16
  k : Vector (BitVec 8) 8
  fmode : Word
  fflags : Word
  /-- STRAND.CAUSE and STRAND.WCH (R260). -/
  cause : BitVec 2
  wch : Chan
  trapCause : Word
  trapPc : Word
  trapVal : Word
  state : StrandState
  /-- A pending wake (R262). -/
  wakePending : Bool
  /-- The BARR-staged bit (R296). -/
  barrStaged : Bool
  /-- The count left of a SLEEP that a save interrupted (R297, R336). -/
  sleepLeft : Option Nat
  /-- The resume point, the length of the instruction at TRAPPC, and where the fault was delivered (R359). -/
  resume : Word
  twoWord : Bool
  toSupervisor : Bool
  /-- Not chosen by the handler and open lines until the round ends (R292). -/
  yielded : Bool
  /-- The region of an FTBL that is part done and continues when it is issued again (R253). -/
  ftblOpen : Option (BitVec 2)
  /-- The strand was released from a park on its awaited work and issues its wait again (R250 step 4). -/
  redo : Bool
  /-- Counts as waiting in BARR: from the issue of BARR until it completes (R267, R296). -/
  inBarr : Bool
  /-- Result bytes of an instruction that has written them and is still to retire (R361): a BMLOOP's, an FLD's, a FAMO's. -/
  late : List Byte
  /-- The vector or block access that it has under way (R138, R156; log entry 53). -/
  part : Option Part
  deriving DecidableEq, Repr

/-- A b register (R42): tag, header word, 16 payload words, mask word. -/
structure BLine where
  tag : Bfmt
  hdr : Word
  pay : Vector Word 16
  mask : Word
  deriving DecidableEq, Repr

/-- An accumulator element (R82, R83, R109); `win` is the WIN code of Wrec. -/
structure Acc where
  ea : BitVec 10
  sig : BitVec 80
  lsf : Bool
  nan : Bool
  poi : Bool
  sat : Bool
  win : BitVec 4
  deriving DecidableEq, Repr

/-- A 4 x 4 accumulator tile (R42). -/
abbrev Tile := Vector Acc 16

/-- What a BMLOOP read at its issue, held until it completes, stops or traps (R166): its own operands, WIN and LSFTRAP of
DPW (R107, R117), gN, gA and gB. -/
structure LoopRun where
  f0 : MReg
  s0 : BReg
  tiles : Tiles
  fmt : Bfmt
  sa : BitVec 16
  sb : BitVec 16
  win : BitVec 4
  lsf : Bool
  n : Nat
  pa : Nat
  pb : Nat
  deriving DecidableEq, Repr

/-! ## The core -/

/-- The core's identity and what enumeration wrote (R16, R286, R352). -/
structure Ident where
  site : Site
  rect : BitVec 6
  row : BitVec 10
  col : BitVec 10
  rrows : Nat
  rcols : Nat
  grade : BitVec 2
  mhz : BitVec 16
  ready : Bool
  chkd : Bool
  triple : Bool
  /-- The name that a copy of a triplicated core reads as its own (R346). -/
  readsAs : Option (BitVec 26)
  deriving DecidableEq, Repr

/-- Core CSRs that hold a word (R44, R105, R108, R165, R200, R274, R303, R325, R43, R352). -/
structure Csrs where
  fieldId : Word
  fieldOrg : Word
  fieldDim : Word
  cycle : Word
  retired : Word
  faultSt : Word
  faultMask : Word
  dpw : Word
  poisonCtl : Word
  mprog : Word
  q : Vector Word 8
  ownB : Word
  ownM : Word
  voteLog : Word
  deriving DecidableEq, Repr

/-- The issue slot table now and at the next round, HMIN, and the issue stage's own counters (R264, R265, R298). -/
structure Issue where
  table : Vector (BitVec 4) 32
  next : Vector (BitVec 4) 32
  hmin : Word
  hcount : Nat
  hlast : BitVec 3
  olast : BitVec 3
  /-- A round has ended and ROUND_START has not run yet. -/
  roundDue : Bool
  /-- Plain strands that the start barrier creates (R258). -/
  plain : BitVec 8
  /-- Strands that may be created: all, but in copies made for `.triple strand n` (R345). -/
  allowed : BitVec 8
  deriving DecidableEq, Repr

/-- A message (R172, R173): channel of the sideband, header beat, payload beats, and whether it is known bad (R321). -/
structure Msg where
  ch : Chan
  hdr : Word
  pay : List Word
  bad : Bool
  deriving DecidableEq, Repr

/-- An entry of a queue (R180, R243): its header, ring offset of the header, content words and how many are read. -/
structure Entry where
  hdr : Word
  off : Nat
  words : Nat
  read : Nat
  deriving DecidableEq, Repr

/-- A line held for its renorm window (R194): its ring place, its format, each block's E, each element's exact value in
units of the line, the NaN codes, the mask, SHIFT at acceptance. -/
structure Held where
  hdr : Word
  off : Nat
  line : Nat
  fmt : Bfmt
  combined : Bool
  raw : List Word
  exps : List Nat
  vals : List Int
  nans : List Bool
  mask : Word
  shift : Int
  bad : Bool
  deriving DecidableEq, Repr

/-- Items of a queue in ring order (R243); a held line is not yet an item. -/
inductive Item
  | entry (e : Entry)
  | held (h : Held)
  | marker (code : BitVec 5)
  deriving DecidableEq, Repr

/-- A channel of the core: binding, ring state, items, and the sink's line count (R178, R181, R187). -/
structure ChanState where
  bind : Word
  head : Nat
  free : Nat
  items : List Item
  lines : Nat
  deriving DecidableEq, Repr

/-- Kinds of engine command (R249, R250). -/
inductive CmdKind | strmOut | strmIn | copy | fget | fput
  deriving DecidableEq, Repr

/-- Why a command's remaining granules are paused (R248, R250). -/
inductive Pause
  | none
  /-- Its next granule waits for a page walk. -/
  | walk
  /-- Its next granule met FARFAULT at this far address. -/
  | farFault (va : Word)
  /-- The walk for a granule that met FARFAULT at this far address is under way again (R250 step 4, R389). -/
  | rewalk (va : Word)
  /-- Its next granule stands behind a granule of an earlier command that is still to be requested (R228). -/
  | behind
  deriving DecidableEq, Repr

/-- An engine command (R247 to R250). -/
structure Cmd where
  kind : CmdKind
  tag : BitVec 6
  seq : Nat
  strand : StrandNo
  ch : Chan
  /-- The channel's binding, latched at issue (R234, R249). -/
  bind : Word
  /-- Next well address; the source of a copy. -/
  well : Nat
  /-- Next far address, or the destination of a copy. -/
  dst : Nat
  /-- Bytes not yet sent, moved or requested. -/
  left : Nat
  pause : Pause
  stopped : Bool
  deriving DecidableEq, Repr

/-- An error recorded against a tag (R248). -/
structure TagErr where
  tag : BitVec 6
  seq : Nat
  code : BitVec 8
  val : Word
  deriving DecidableEq, Repr

/-- What a far access does at its home (R213, R251). -/
inductive FarKind
  | fld
  | fst
  | famo (op : BitVec 4)
  | fget
  | fput
  deriving DecidableEq, Repr

/-- A far access that the core has issued and that has not performed (R229). -/
structure Out where
  seq : Nat
  strand : StrandNo
  kind : FarKind
  va : Nat
  nb : Nat
  sx : Bool
  dst : GReg
  pc : Word
  /-- The issue number of the engine command, for its granules. -/
  cmd : Nat
  well : Nat
  /-- Pump, lane and SENT of a stall that lasts (R223). -/
  stall : Option (BitVec 8 × BitVec 3 × Bool)
  deriving DecidableEq, Repr

/-- How a far access ended (R251, R386). -/
inductive FarStatus | ok | ueFar | farUnsup
  deriving DecidableEq, Repr

/-- A far response on ch3 (R208, R251). -/
structure Resp where
  seq : Nat
  strand : StrandNo
  kind : FarKind
  va : Nat
  status : FarStatus
  data : List Byte
  deriving DecidableEq, Repr

/-- Who asked for a page walk (R252, R253, R250). -/
inductive Walker
  | strand (n : StrandNo) (access : BitVec 8)
  | ftbl (n : StrandNo) (region : BitVec 2)
  | engine (seq : Nat) (n : StrandNo) (access : BitVec 8)
  /-- FTBP waits for nothing: its issue number, and how many entries it may still load (R253). -/
  | prefetched (ftbp left : Nat)
  deriving DecidableEq, Repr

/-- A walk that the core asked a pump for; `discard` is set by a shoot-down or by QUIESCE (R279, R331). -/
structure Walk where
  seq : Nat
  va : Nat
  who : Walker
  discard : Bool
  deriving DecidableEq, Repr

/-- An FTB entry (R313): page number at 64 KiB granularity of its first page, 1 or 4,096 pages, physical byte address. -/
structure FtbEntry where
  asid : BitVec 16
  page : Nat
  big : Bool
  pa : Nat
  w : Bool
  lock : Bool
  region : BitVec 2
  deriving DecidableEq, Repr

/-- A locked region (R253). -/
structure FtbRegion where
  page : Nat
  count : Nat
  strand : StrandNo
  deriving DecidableEq, Repr

/-- A shoot-down that waits for its acknowledgement (R279). -/
structure Shoot where
  asid : BitVec 16
  page : Nat
  count : Nat
  invalidated : Nat
  locked : Bool
  waits : List Nat
  deriving DecidableEq, Repr

/-- The far path of a core (R207, R208, R253, R279, R313). -/
structure FarPath where
  seq : Nat
  outs : List Out
  resps : List Resp
  walks : List Walk
  ftb : List FtbEntry
  regions : List (Option FtbRegion)
  misses : BitVec 16
  pset : List (BitVec 8)
  shoots : List Shoot
  deriving DecidableEq, Repr

/-- A well word's SECDED condition, where it is not clean (R171, R322). -/
inductive Mark | correctable | corrected | uncorrectable
  deriving DecidableEq, Repr

/-- A bank requester that asks for a bank since a cycle, and whether it has been promoted (R169). -/
structure BankWait where
  req : Requester
  bank : Nat
  since : Nat
  promoted : Bool
  deriving DecidableEq, Repr

/-- The well: bytes in the canonical form of Memory.wf, words whose check bits are not clean, the scrubber's row, and
the waiting bank requesters (R168 to R171, R322). -/
structure Well where
  bytes : List Host.Cell
  marks : List (Nat × Mark)
  scrubRow : Nat
  banks : List BankWait
  deriving DecidableEq, Repr

/-- A combining group's record of a line it has combined (R190 to R192): its mode, the number of the line on its output, per
member the number of the line it came from and the shifts of its elements, the blocks that are poison, and whether some member
was bad. -/
structure Combined where
  ch : Chan
  out : Port
  mode : BitVec 2
  line : Nat
  fmt : Bfmt
  members : List (Port × Nat × List Nat)
  poison : List Bool
  bad : Bool
  deriving DecidableEq, Repr

/-- A VOTE group's progress (R199): per late member, the beats forwarded that it has still to deliver, none for beats that the
history has lost; per member that is early, the beats it has delivered that nothing has been forwarded for. -/
structure Vote where
  ch : Chan
  /-- The numbers that late members had in the group before a MEMBER marker switched the entry (R198). -/
  was : List (Port × BitVec 2)
  owed : List (Port × List (Option (BitVec 105)))
  ahead : List (Port × List (BitVec 105))
  deriving DecidableEq, Repr

/-- A staged message (R240), with the strand that staged it, or none for one that the control port staged. -/
structure Staged where
  strand : Option StrandNo
  msg : Msg
  deriving DecidableEq, Repr

/-- The router of a site (R184 to R200, R240, R332). -/
structure Router where
  route : Vector Word 32
  next : Vector Word 32
  /-- Messages at the link inputs and at the local input, in arrival order. -/
  inq : List (Port × Msg)
  /-- Staged messages, in staging order. -/
  staged : List Staged
  /-- Messages at the local port that wait for acceptance (R180, R183). -/
  portq : List Msg
  /-- Lines seen per channel and input, and lines sent per channel and output, since the last marker (R187). -/
  lines : List (Chan × Port × Nat)
  sent : List (Chan × Port × Nat)
  combined : List Combined
  votes : List Vote
  /-- Inputs on which a message has been promoted (R185), the cycle since which a channel's message heads an input, and the
  input each output served last. -/
  promoted : List (Port × Chan)
  since : List (Port × Chan × Nat)
  last : List (Port × Port)
  /-- QUIESCE: inputs it has arrived on, outputs it has been forwarded on (R332). -/
  qIn : List Port
  qOut : List Port
  deriving DecidableEq, Repr

/-- A message written to the spill area (R333): the item it becomes in the ring, and the words of an entry. -/
structure Spill where
  ch : Chan
  item : Item
  words : List Word
  deriving DecidableEq, Repr

/-- Result signature and checker state of the core (R347, R348, R352, R361, R362). -/
structure Check where
  sig : BitVec 32
  idx : Nat
  skip : BitVec 16
  count : Nat
  /-- The signature of the interval that ended and awaits CHECK_INTERVAL_END, if one does. -/
  ended : Option (BitVec 32)
  /-- Sampled intervals sent to the checker, oldest first, at most two. -/
  queue : List (Nat × BitVec 32)
  /-- A raised CHECK that awaits its re-execution: the signature the core formed. -/
  raised : Option (BitVec 32)
  sr : Nat
  suspended : Bool
  deriving DecidableEq, Repr

/-- One core and its router. -/
structure Core where
  ident : Ident
  strands : Vector Strand 8
  b : Vector BLine 16
  m : Vector Tile 8
  csr : Csrs
  issue : Issue
  loop : Option LoopRun
  chans : Vector ChanState 32
  /-- The channels of the marker records held, in the order in which the markers arrived (R335). -/
  marked : List Chan
  cmds : List Cmd
  errs : List TagErr
  far : FarPath
  well : Well
  router : Router
  check : Check
  /-- QUIESCE has reached the core (R331); quiet has been signalled (R332). -/
  stopped : Bool
  quiet : Bool
  spill : List Spill
  /-- The writes of the spill area have been sent (R333). -/
  spillSent : Bool
  deriving DecidableEq, Repr

/-! ## Pumps and the cistern -/

/-- Outbound slot kinds (R211). -/
inductive SlotKind | idle | readreq | write | atomic | maint
  deriving DecidableEq, Repr

/-- An outbound slot table entry (R211). -/
structure Slot where
  kind : SlotKind
  asid : BitVec 16
  fnum : BitVec 16
  deriving DecidableEq, Repr

/-- A place in an outbound slot (R217): lane, absolute slot, position. -/
structure Place where
  lane : BitVec 3
  slot : Nat
  pos : Nat
  deriving DecidableEq, Repr

/-- The identifier of a request (R222): wafer, pump, and the place in which it first left. -/
structure ReqId where
  wafer : BitVec 9
  pump : BitVec 8
  place : Place
  deriving DecidableEq, Repr

/-- A far request at a pump (R208): requester, translated address, operands, and its identifier once it has left. FNUM is 0 in a
request that a field which has ended leaves behind. -/
structure FarReq where
  site : Site
  name : BitVec 26
  seq : Nat
  strand : StrandNo
  asid : BitVec 16
  fnum : BitVec 16
  kind : FarKind
  va : Nat
  pa : Nat
  nb : Nat
  data : List Byte
  cmp : List Byte
  ident : Option ReqId
  deriving DecidableEq, Repr

/-- How far a placed request has come. -/
inductive Progress
  | waiting
  | sent
  | performed (r : Resp)
  deriving DecidableEq, Repr

/-- A placed request (R217). -/
structure Placed where
  req : FarReq
  place : Place
  progress : Progress
  deriving DecidableEq, Repr

/-- A stalled request (R221), with its lane. SENT is set where it has its identifier. -/
structure Stalled where
  req : FarReq
  lane : BitVec 3
  deriving DecidableEq, Repr

/-- A lane: live, retraining (R221) or dead (R379). -/
inductive LaneState | live | retraining | dead
  deriving DecidableEq, Repr

/-- A translation cache entry (R311): ASID, first page, 1 or 4,096 pages, the leaf entry. -/
structure TransEntry where
  asid : BitVec 16
  page : Nat
  big : Bool
  pte : Word
  deriving DecidableEq, Repr

/-- A walk request at a pump. -/
structure WalkReq where
  site : Site
  seq : Nat
  asid : BitVec 16
  fnum : BitVec 16
  name : BitVec 26
  va : Nat
  who : Walker
  deriving DecidableEq, Repr

/-- What a controller answers to a walk read (R386): the entry, or nothing that can be corrected. -/
inductive WalkRead | entry (e : Word) | bad
  deriving DecidableEq, Repr

/-- A walk in progress (R311, R387): level and address of its pending read, the place in which the read left, and what it has read once
it has performed. -/
structure WalkRun where
  req : WalkReq
  level : Nat
  addr : Nat
  sent : Option Place
  got : Option WalkRead
  deriving DecidableEq, Repr

/-- A replay record (R341): core position, strand, address, kind, size, operand; how the response ended, and its data. -/
structure Replay where
  pos : Nat
  strand : StrandNo
  va : Nat
  kind : FarKind
  nb : Nat
  operand : List Byte
  status : FarStatus
  data : List Byte
  deriving DecidableEq, Repr

/-- The replay buffer of a field at a pump (R341). -/
structure ReplayBuf where
  fnum : BitVec 16
  recs : List Replay
  uncovered : Bool
  /-- After a rollback: the records not yet used, per core position still replaying. -/
  unused : List (Nat × List Replay)
  deriving DecidableEq, Repr

/-- A pump (R24, R207 to R225, R311, R341, R375, R387). -/
structure Pump where
  no : BitVec 8
  lanes : Vector LaneState 8
  table : Vector (Vector Slot 64) 8
  /-- The accepted next tables with their frames, in the order of these, and the table before the current one with the current one's
  first frame (R216; log entry 76). -/
  next : List (Nat × Vector (Vector Slot 64) 8)
  prev : Option (Nat × Vector (Vector Slot 64) 8)
  /-- Per lane, the first absolute slot that has not begun (R210). -/
  begun : Vector Nat 8
  queue : List FarReq
  placed : List Placed
  stalled : List Stalled
  cache : List TransEntry
  walkq : List WalkReq
  walks : List WalkRun
  /-- The context whose walk read was served last (R387). -/
  lastAsid : BitVec 16
  replay : List ReplayBuf
  deriving DecidableEq, Repr

/-- An outcome record of a controller (R222): identifier, absolute slot of the perform, outcome. -/
structure Outcome where
  ident : ReqId
  slot : Nat
  resp : Resp
  deriving DecidableEq, Repr

/-- The cistern and its controllers (R222, R226, R227, R386). -/
structure Cistern where
  bytes : List Host.Cell
  bad : List Nat
  outcomes : List Outcome
  deriving DecidableEq, Repr

/-! ## Supervisors and host -/

/-- What reaches the supervisors. -/
inductive Mail
  /-- A fault message (R326) of the core at a site, with the core's FIELDID. -/
  | fault (site : Site) (fieldId : Word) (msg : Msg)
  /-- An acknowledgement of a control command (R304): code, NAK, returned words. -/
  | ack (site : Site) (code : BitVec 8) (nak : Bool) (words : List Word)
  /-- Quiet (R332). -/
  | quiet (site : Site)
  /-- A border report (R307). -/
  | border (site : Site) (ch : Chan) (port : Port) (cls : BitVec 2) (src : BitVec 26)
  /-- A combining group disagreed (R189), a renorm was malformed (R192), a header or marker was reserved (R173). -/
  | group (site : Site) (ch : Chan)
  | renorm (site : Site) (ch : Chan)
  | malformed (site : Site) (ch : Chan)
  /-- A CRC failed at a router (R321). -/
  | link (site : Site) (ch : Chan)
  /-- Scrubbing found an uncorrectable word (R322). -/
  | scrub (site : Site) (addr : Nat)
  /-- A next slot table was refused (R216). -/
  | slotTable (pump : BitVec 8)
  /-- A supervisor's own log line: QUIESCE withdrawn (R331), a kill, a checker suspended. -/
  | note (code : BitVec 8) (fnum : BitVec 16)
  deriving DecidableEq, Repr

/-- What lies in a supervisor's mailbox: the supervisor (R27, R304, R307), and the number of the field that it comes from, or 0. -/
structure Posted where
  dst : Nat
  fnum : BitVec 16
  mail : Mail
  deriving DecidableEq, Repr

/-- A context descriptor (R301). -/
structure Context where
  asid : BitVec 16
  l0len : Nat
  root : Nat
  faultq : Nat
  fqlen : Nat
  deriving DecidableEq, Repr

/-- A context's FAULTQ ring in host memory (R312): records of four words, and records held for room. -/
structure FaultRing where
  asid : BitVec 16
  ring : List (List Word)
  held : List (List Word)
  deriving DecidableEq, Repr

/-- What a field is doing. -/
inductive FieldPhase
  | loaded
  /-- QUIESCE has been sent for: a save and what follows it. -/
  | stopping (why : BitVec 2)
  | descheduled
  deriving DecidableEq, Repr

/-- A saved core of an image, with the parts that the layout of R335 does not name. -/
structure SavedCore where
  pos : Nat
  core : Core
  deriving DecidableEq, Repr

/-- A save image written (R334): kind, and the saved cores. -/
structure SaveRec where
  kind : Nat
  cores : List SavedCore
  deriving DecidableEq, Repr

/-- A resize in progress (R275); of a shrink, whether the inputs of its strip have been withdrawn and the membership changes. -/
structure ResizeRun where
  rows : Nat
  cols : Nat
  launchId : BitVec 32
  micros : Nat
  cut : Bool
  deriving DecidableEq, Repr

/-- A copy of a triplicated core (R345): where it lies from the field's north-west core, and the field-relative row and column of
the core that it copies. -/
structure CopyAt where
  drow : Int
  dcol : Int
  row : Nat
  col : Nat
  deriving DecidableEq, Repr

/-- An entry that the supervisor has closed because its route leads into a field that is stopping or descheduled (R271, R306). -/
structure Seam where
  site : Site
  ch : Chan
  fnum : BitVec 16
  deriving DecidableEq, Repr

/-- An entry of a descheduled field whose route leads out of the field (R305): the field-relative row and column of its core, its
channel, and the fields it leads into, 0 for one that is gone. -/
structure SeamOut where
  row : Nat
  col : Nat
  ch : Chan
  fnums : List (BitVec 16)
  deriving DecidableEq, Repr

/-- A field (R268, R269, R303, R334, R345). -/
structure Field where
  fnum : BitVec 16
  asid : BitVec 16
  launchId : BitVec 32
  record : List Word
  image : Nat
  rect : Nat
  row : Nat
  col : Nat
  rows : Nat
  cols : Nat
  prio : Nat
  options : BitVec 32
  save : Nat
  pumps : List (BitVec 8)
  slots : Nat × Nat × Nat
  imgm : List Byte
  /-- The home supervisor (R269). -/
  home : Nat
  phase : FieldPhase
  /-- The core that START reached first, and its cycle then (R270); while descheduled, the cycles counted so far. -/
  started : Option (Site × Word)
  saves : List SaveRec
  /-- While descheduled, the replay buffers by position of the pump set (R337, R342). -/
  replays : List ReplayBuf
  resizes : List ResizeRun
  /-- Copies 1, then copies 2, of its triplicated cores (R345). -/
  copyAt : List CopyAt
  /-- DRAIN markers have been injected (R270): per sink, by the number of its core and its channel, how many DRAIN records it held
  before. -/
  drains : Option (List (Nat × Chan × Nat))
  /-- The cycles counted when the supervisor found SUPV DONE (R270). -/
  doneAt : Option Word
  /-- While descheduled, its entries that lead out of it (R271, R306). -/
  seamsOut : List SeamOut
  /-- The clock of its cores in MHz, given when it is placed and kept while it holds them (R3). -/
  mhz : Nat
  /-- Border reports counted (R307). -/
  borders : Nat
  /-- RTM as it stood when the field last held cores (R318). -/
  rtm : List Byte
  deriving DecidableEq, Repr

/-- What waits for cores, in the order of posting (R269): a launch record, or the restore of a descheduled field from its
image of a kind (R337). -/
inductive Queued
  | record (words : List Word)
  | restore (fnum : BitVec 16) (kind : Nat)
  deriving DecidableEq, Repr

/-- A page-table change that waits for acknowledgements (R280): the sites still to acknowledge. -/
structure PageChange where
  asid : BitVec 16
  page : Nat
  count : Nat
  waits : List Site
  deriving DecidableEq, Repr

/-- A rectangle (R14). -/
structure Rect where
  a : Nat
  b : Nat
  cols : List Nat
  deriving DecidableEq, Repr

/-- Fuses, retirement log and what bring-up made of them (R11 to R15, R378 to R383). -/
structure Wafer where
  fuseX : List Site
  fuseM : List Site
  fuseB : List Region
  logX : List Site
  logM : List Site
  logB : List Region
  /-- Cores retired in service: withheld from grants (R349). -/
  withheld : List Site
  /-- Regions that the supervisor has lowered to 1.55 GHz (R3). -/
  lowered : List Region
  /-- Graded record for this power-up: X and M sites, B regions. -/
  gradeX : List Site
  gradeM : List Site
  gradeB : List Region
  rects : List Rect
  pairs : List (Site × Site)
  /-- The supply of clock regions in steps of 2.5 mV above 320 mV; a region that is not listed stands at 320 mV (R378). -/
  supply : List (Region × Nat)
  deadLanes : List (BitVec 8 × BitVec 3)
  deriving DecidableEq, Repr

/-- Bring-up and the host status register (R378, R383). -/
structure Boot where
  phase : Nat
  ready : Bool
  fail : Bool
  fcode : BitVec 8
  below : Bool
  deriving DecidableEq, Repr

/-- Supervisor flash and fuses (R316), with the device's public key and its certificate, which the host can read (R317). -/
structure Flash where
  banks : List Bundle
  active : Nat
  accepted : Option (List Byte)
  version : Nat
  devKey : List Byte
  devCert : List Byte
  deriving DecidableEq, Repr

/-- The supervisors and what the host sees (R232, R268 to R280, R301, R312, R319, R328). -/
structure Sup where
  mail : List Posted
  log : List Mail
  contexts : List Context
  /-- Deleted ASIDs with the absolute slot of the deletion (R302). -/
  deleted : List (BitVec 16 × Nat)
  faultqs : List FaultRing
  fields : List Field
  /-- Launch records posted before READY (R384), and what waits for cores. -/
  ring : List (List Word)
  queued : List Queued
  completions : List (List Word)
  replies : List (List Byte)
  notReady : Nat
  changes : List PageChange
  pageDone : List (BitVec 16)
  domain : Option DomainCfg
  /-- Entries closed towards a field that is stopping or descheduled (R271, R306). -/
  seams : List Seam
  /-- Host RETRY (0), SKIP (1) and KILL (2) commands held for a stopping field (R330). -/
  held : List (BitVec 2 × HostTarget)
  deriving DecidableEq, Repr

/-- Who moves next when the model is told: a site, and an event there or the core's own cycle (log entry 1). -/
structure Turn where
  site : Site
  act : Option Instr
  deriving DecidableEq, Repr

/-- The module. The acting core stands in `core`; the other cores that have been touched stand in `others`. -/
structure State where
  core : Core
  /-- The acting strand of the acting core. -/
  cur : StrandNo
  others : List Core
  agenda : List Turn
  /-- Which of its remaining accesses an instruction that makes several makes next, once for each time that one goes on; where nothing is
  said, all of them (R138, R156; log entry 53). -/
  split : List (BitVec 32)
  free : Nat
  slot : Nat
  pumps : List Pump
  cis : Cistern
  sup : Sup
  wafer : Wafer
  boot : Boot
  flash : Flash
  deriving DecidableEq, Repr

/-! ## Reset -/

/-- A strand that does not exist, with every register 0 (log entry 2). -/
def Strand.blank : Strand :=
  { pc := 0, entry := 0, g := Vector.replicate 32 0, v := Vector.replicate 16 0, k := Vector.replicate 8 0
    fmode := 0, fflags := 0, cause := 0, wch := 0, trapCause := 0, trapPc := 0, trapVal := 0, state := .absent
    wakePending := false, barrStaged := false, sleepLeft := none, resume := 0, twoWord := false, toSupervisor := false
    yielded := false, ftblOpen := none, redo := false, inBarr := false, late := [], part := none }

/-- The canonical zero line (R42). -/
def BLine.zero : BLine := { tag := .bk16, hdr := 0, pay := Vector.replicate 16 0, mask := 0 }

/-- A zeroed element (R82), which has Wrec = 48 (R109). -/
def Acc.zero : Acc := { ea := 0, sig := 0, lsf := false, nan := false, poi := false, sat := false, win := 7 }

/-- A tile of zeroed elements. -/
def Tile.zero : Tile := Vector.replicate 16 Acc.zero

/-- Core CSRs at reset (R108: WIN 7). -/
def Csrs.reset : Csrs :=
  { fieldId := 0, fieldOrg := 0, fieldDim := 0, cycle := 0, retired := 0, faultSt := 0, faultMask := 0, dpw := 7
    poisonCtl := 0, mprog := 0, q := Vector.replicate 8 0, ownB := 0, ownM := 0, voteLog := 0 }

/-- Every entry open and HMIN.SHARE 4 (R264). -/
def Issue.reset : Issue :=
  { table := Vector.replicate 32 0, next := Vector.replicate 32 0, hmin := 4, hcount := 0, hlast := 7, olast := 7
    roundDue := false, plain := 0, allowed := 0xFF }

/-- An unbound, empty channel (R178, R181). -/
def ChanState.reset : ChanState := { bind := 0, head := 0, free := 0, items := [], lines := 0 }

/-- Nothing outstanding, nothing translated, no pump set. -/
def FarPath.reset : FarPath :=
  { seq := 0, outs := [], resps := [], walks := [], ftb := [], regions := [none, none, none, none], misses := 0
    pset := [], shoots := [] }

/-- Every word zero with valid check bits (R378 phase 4). -/
def Well.reset : Well := { bytes := [], marks := [], scrubRow := 0, banks := [] }

/-- No route, nothing in flight (R187). -/
def Router.reset : Router :=
  { route := Vector.replicate 32 0, next := Vector.replicate 32 0, inq := [], staged := [], portq := [], lines := []
    sent := [], combined := [], votes := [], promoted := [], since := [], last := [], qIn := [], qOut := [] }

/-- No interval under way; SR 4 (R347). -/
def Check.reset : Check :=
  { sig := 0, idx := 0, skip := 0, count := 0, ended := none, queue := [], raised := none, sr := 4, suspended := false }

/-- The identity of a site before enumeration (log entry 2). -/
def Ident.blank (site : Site) : Ident :=
  { site := site, rect := 0, row := 0, col := 0, rrows := 0, rcols := 0, grade := 0, mhz := 1750, ready := false
    chkd := false, triple := false, readsAs := none }

/-- A core that nothing has touched since power-up. -/
def Core.blank (site : Site) : Core :=
  { ident := Ident.blank site, strands := Vector.replicate 8 Strand.blank, b := Vector.replicate 16 BLine.zero
    m := Vector.replicate 8 Tile.zero, csr := Csrs.reset, issue := Issue.reset, loop := none
    chans := Vector.replicate 32 ChanState.reset, marked := [], cmds := [], errs := [], far := FarPath.reset, well := Well.reset
    router := Router.reset, check := Check.reset, stopped := false, quiet := false, spill := [], spillSent := false }

/-- An IDLE slot (R211). -/
def Slot.idle : Slot := { kind := .idle, asid := 0, fnum := 0 }

/-- A pump before anything is installed: all lanes live, all slots IDLE (R211, R309). -/
def Pump.blank (no : BitVec 8) : Pump :=
  { no := no, lanes := Vector.replicate 8 .live, table := Vector.replicate 8 (Vector.replicate 64 Slot.idle), next := []
    prev := none, begun := Vector.replicate 8 0, queue := [], placed := [], stalled := [], cache := [], walkq := [], walks := [], lastAsid := 0, replay := [] }

/-- No fuse blown and nothing logged (log entry 3); nothing graded or enumerated yet. -/
def Wafer.reset : Wafer :=
  { fuseX := [], fuseM := [], fuseB := [], logX := [], logM := [], logB := [], withheld := [], lowered := []
    gradeX := [], gradeM := [], gradeB := [], rects := [], pairs := [], supply := [], deadLanes := [] }

/-- HSTAT at reset (R383). -/
def Boot.reset : Boot := { phase := 0, ready := false, fail := false, fcode := 0, below := false }

/-- The device certificate (R317): Nelwald's signature over the digest of serial number, public key and fuse-map digest. -/
def certificate : List Byte :=
  Config.nelwaldSign (Config.shake256 (leBytes 8 Config.serial.toNat ++ Config.ed448Public Config.deviceSecret ++ Config.fuseDigest))

/-- Empty flash banks and no fused version step (log entry 3). -/
def Flash.reset : Flash :=
  { banks := [], active := 0, accepted := none, version := 0, devKey := Config.ed448Public Config.deviceSecret, devCert := certificate }

/-- Supervisors that hold nothing. -/
def Sup.reset : Sup :=
  { mail := [], log := [], contexts := [], deleted := [], faultqs := [], fields := [], ring := [], queued := []
    completions := [], replies := [], notReady := 0, changes := [], pageDone := [], domain := none
    seams := [], held := [] }

/-- The machine right after power-good, before bring-up phase 1 (R378, R385). -/
def State.reset : State :=
  { core := Core.blank ⟨0, 0⟩, cur := 0, others := [], agenda := [], split := [], free := 0, slot := 0, pumps := []
    cis := { bytes := [], bad := [], outcomes := [] }, sup := Sup.reset, wafer := Wafer.reset, boot := Boot.reset
    flash := Flash.reset }

/-! ## Memory in one canonical form -/

/-- What a byte that a memory does not list reads as: zero. The well holds zeros after bring-up and CLEAR (R269, R378);
for the cistern this is log entry 4. -/
def Memory.default : Byte := 0

/-- The canonical form: addresses strictly rising, no entry equal to the default. -/
def Memory.wfFrom : Nat → List Host.Cell → Bool
  | _, [] => true
  | lo, (a, x) :: rest => lo ≤ a && x ≠ Memory.default && Memory.wfFrom (a + 1) rest

/-- A memory is in canonical form. -/
def Memory.wf (m : List Host.Cell) : Bool := Memory.wfFrom 0 m

end Sys2Proof.Machine
end

