-- ==== Sys2Proof/Machine/Blocks.lean ====
section
/-! DEFINITION. Sys2Proof/Machine/Blocks.lean: block lines (R73 to R81), the window rule (R110 to R113), fabric combining
(R190, R191, R193) and the MX formats (R97 to R100), on plain values. -/

namespace Sys2Proof

/-- Mantissa width of a block format (R73). -/
def Bfmt.w : Bfmt → Nat
  | .bk4 => 4 | .bk8 => 8 | .bk16 => 16

/-- Payload words of a line (R75). -/
def Bfmt.n : Bfmt → Nat
  | .bk4 => 4 | .bk8 => 8 | .bk16 => 16

end Sys2Proof

namespace Sys2Proof.Machine

/-- A block: exponent code, micro codes, 16 mantissas (R73). -/
structure Blk where
  e : Nat
  mu : Nat
  ms : List Int
  deriving DecidableEq, Repr

/-- A poison block as the 7340 writes one (R119, R158, R189). -/
def Blk.poison : Blk := ⟨255, 0, List.replicate 16 0⟩
/-- The canonical zero block (R74). -/
def Blk.zero : Blk := ⟨0, 0, List.replicate 16 0⟩
/-- A poison block (R74). -/
def Blk.isPoison (b : Blk) : Bool := b.e = 255
/-- The micro code of quad q (R73). -/
def Blk.nu (b : Blk) (q : Nat) : Nat := b.mu / 4 ^ q % 4
/-- The element NaN (R74). -/
def nanMant (w : Nat) : Int := -(2 ^ (w - 1) : Nat)

/-- The mantissa of element k of a payload (R75). -/
def mantOf (w : Nat) (pay : List Word) (k : Nat) : Int :=
  intOfNat w (natBits ((pay.getD (w * k / 64) 0).toNat) (w * k % 64) w)

/-- Block j of a line (R75). -/
def blkOf (f : Bfmt) (hdr : Word) (pay : List Word) (j : Nat) : Blk :=
  ⟨natBits hdr.toNat (16 * j + 8) 8, natBits hdr.toNat (16 * j) 8,
    (List.range 16).map fun i => mantOf f.w pay (16 * j + i)⟩

/-- The four blocks of a line. -/
def blksOf (f : Bfmt) (hdr : Word) (pay : List Word) : List Blk := (List.range 4).map (blkOf f hdr pay)

/-- The header word of four blocks (R75). -/
def hdrOf (bs : List Blk) : Word :=
  BitVec.ofNat 64 ((List.range 4).foldl
    (fun a j => let b := bs.getD j Blk.zero; a + (b.mu + 256 * b.e) * 2 ^ (16 * j)) 0)

/-- Payload word t of 64 mantissas (R75). -/
def payWord (w : Nat) (ms : List Int) (t : Nat) : Word :=
  BitVec.ofNat 64 ((List.range (64 / w)).foldl
    (fun a i => a + natOfInt w (ms.getD (t * (64 / w) + i) 0) * 2 ^ (w * i)) 0)

/-- The payload words of four blocks (R75). -/
def payOf (f : Bfmt) (bs : List Blk) : List Word :=
  let ms := bs.flatMap Blk.ms
  (List.range f.n).map (payWord f.w ms)

/-- The exact value of a mantissa in its block (R73, R74); poison is asked for apart. -/
def elemVal (w : Nat) (b : Blk) (i : Nat) : FVal :=
  let m := b.ms.getD i 0
  if m = nanMant w then .nan false 0 false
  else .fin (decide (m < 0)) m.natAbs ((b.e : Int) - 128 - (w - 1 : Nat) - b.nu (i / 4))

/-- The 16 values of a block. -/
def blkVals (w : Nat) (b : Blk) : List FVal := (List.range 16).map (elemVal w b)

/-- A value times a power of two. -/
def scaleVal (s : Int) : FVal → FVal
  | .fin n m e => .fin n m (e + s)
  | v => v

/-- A value that is not NaN, rounded to units of 2^u: none for an infinity (R78 rnd). -/
def rndUnits (md : Mode) (u : Int) : FVal → Option (Int × Bool)
  | .fin n m e =>
    let (q, lost) := roundDyadic md n m (e - u)
    some (if n then -(q : Int) else q, lost)
  | _ => none

/-- R78 fits: the element's magnitude in units of 2^u is within the format. -/
def fitsUnits (md : Mode) (w : Nat) (u : Int) (v : FVal) : Bool :=
  match v with
  | .nan _ _ _ => true
  | _ => match rndUnits md u v with
    | some (r, _) => decide (r.natAbs ≤ 2 ^ (w - 1) - 1)
    | none => false

/-- floor(log2 |x|) of a value that counts towards amax: none for zero and NaN; an infinity counts as very large. -/
def topOf : FVal → Option Int
  | .nan _ _ _ => none
  | .inf _ => some 100000
  | .fin _ m e => if m = 0 then none else some ((m.log2 : Int) + e)

/-- floor(log2 amax) of a list, none where amax is 0. -/
def topList (xs : List FVal) : Option Int :=
  xs.foldl (fun a x => match a, topOf x with
    | none, t => t
    | some u, some t => some (max u t)
    | some u, none => some u) none

/-- A block formed from 16 exact values, and its flags (R78, R79). -/
def formBlock (w : Nat) (md : Mode) (xs : List FVal) : Blk × Flags :=
  let unit (e : Nat) (c : Nat) : Int := (e : Int) - 128 - (w - 1 : Nat) - c
  let e0 : Nat := match topList xs with
    | none => 0
    | some t => (min 254 (max 0 (t + 129))).toNat
  let e := if e0 < 254 ∧ ¬ xs.all (fitsUnits md w (unit e0 0)) then e0 + 1 else e0
  let quad (q : Nat) : List FVal := (xs.drop (4 * q)).take 4
  let nu (q : Nat) : Nat :=
    if (quad q).any (fun x => (topOf x).isSome) then
      (List.range 4).foldl (fun a c => if c ≠ 0 ∧ (quad q).all (fitsUnits md w (unit e c)) then c else a) 0
    else 0
  let lim : Int := (2 ^ (w - 1) : Nat) - 1
  let one (i : Nat) (x : FVal) : Int × Flags :=
    match x with
    | .nan _ _ s => (nanMant w, Flags.when s .nv)
    | .inf n => (if n then -lim else lim, Flags.nx ||| Flags.of)
    | .fin _ m _ => match rndUnits md (unit e (nu (i / 4))) x with
      | none => (0, 0)
      | some (r, lost) =>
        let v := clampInt (-lim) lim r
        (v, Flags.when (lost || decide (v ≠ r)) .nx ||| Flags.when (decide (v ≠ r)) .of |||
          Flags.when (decide (m ≠ 0) && decide (v = 0)) .uf)
  let rs := xs.zipIdx.map fun (x, i) => one i x
  let ms := rs.map (·.1)
  let fl := rs.foldl (fun a r => a ||| r.2) (0 : Flags)
  if ms.all (· = 0) then (Blk.zero, fl)
  else (⟨e, nu 0 + 4 * nu 1 + 16 * nu 2 + 64 * nu 3, ms⟩, fl)

/-- Blocks formed from 64 values. -/
def formLine (w : Nat) (md : Mode) (xs : List FVal) : List Blk × Flags :=
  let rs := (List.range 4).map fun j => formBlock w md ((xs.drop (16 * j)).take 16)
  (rs.map (·.1), rs.foldl (fun a r => a ||| r.2) 0)

/-- A block scaled by 2^s on a path that copies where it can (R179, R241): E moves, or the block is re-formed. -/
def shiftBlk (w : Nat) (md : Mode) (s : Int) (b : Blk) : Blk × Flags :=
  let e := (b.e : Int) + s
  if b.isPoison ∨ s = 0 then (b, 0)
  else if 0 ≤ e ∧ e ≤ 254 then (⟨e.toNat, b.mu, b.ms⟩, 0)
  else formBlock w md ((blkVals w b).map (scaleVal s))

/-! ## The window rule -/

/-- W of a WIN code (R82, R108). -/
def winBits (c : BitVec 4) : Nat := 20 + 4 * c.toNat

/-- floor_shift (00_scope). -/
def floorShift (x : Int) (s : Nat) : Int := x / (2 ^ s : Nat)

/-- The least s at which the sum leaves the guard bits free, from `s` on (R111). -/
def renormShift (W : Nat) (t : Int) : Nat → Nat → Nat
  | 0, s => s
  | n + 1, s =>
    let x := floorShift t s
    if -(2 ^ (W - 5) : Nat) ≤ x ∧ x < (2 ^ (W - 5) : Nat) then s else renormShift W t n (s + 1)

/-- What one step of one element does besides the element (R111): poison consumed, LS, OF. -/
structure StepFx where
  seen : Bool
  lost : Bool
  overflow : Bool
  deriving DecidableEq, Repr

/-- align_window (R111): the element after one step with blocks A and B of width w under WIN code `win`. -/
def alignWindow (w : Nat) (win : BitVec 4) (e : Acc) (A B : Blk) : Acc × StepFx :=
  let W := winBits win
  if e.poi ∨ A.isPoison ∨ B.isPoison then ({ e with poi := true }, ⟨true, false, false⟩)
  else if e.nan ∨ A.ms.any (· = nanMant w) ∨ B.ms.any (· = nanMant w) then ({ e with nan := true }, ⟨false, false, false⟩)
  else
    let prods : List (Int × Int × Int) := (List.range 16).map fun k =>
      (A.ms.getD k 0 * B.ms.getD k 0,
        (A.e : Int) + B.e - 256 - (A.nu (k / 4) + B.nu (k / 4) : Nat), (2 * w - 2 : Nat))
    let terms := (e.sig.toInt, (e.ea.toNat : Int) - 512, ((winBits e.win : Nat) : Int) - 6) :: prods
    let L : Option Int := terms.foldl (fun a (p, t, _) => if p = 0 then a else match a with
      | none => some t
      | some u => some (max u t)) none
    match L with
    | none => ({ e with sig := 0, win := win }, ⟨false, false, false⟩)
    | some L =>
      let rs := terms.map fun (p, t, f) =>
        let s := (L - ((W : Int) - 6)) - (t - f)
        if 0 < s then
          let a := floorShift p s.toNat
          (a, decide (a * (2 ^ s.toNat : Nat) ≠ p))
        else (p * (2 ^ (-s).toNat : Nat), false)
      let T : Int := rs.foldl (fun a r => a + r.1) 0
      let s := renormShift W T 200 0
      let v := floorShift T s
      let lost := rs.any (·.2) || decide (v * (2 ^ s : Nat) ≠ T)
      let ovf := decide (L + 512 + s > 1023)
      let m : Int := (2 ^ (W - 1) : Nat) - 1
      ({ e with
          ea := if ovf then 1023 else BitVec.ofInt 10 (L + 512 + s)
          sig := BitVec.ofInt 80 (if ovf then (if T < 0 then -m else m) else v)
          sat := e.sat || ovf
          win := win
          lsf := e.lsf || lost }, ⟨false, lost, ovf⟩)

/-- An element's exact value: poison none (R82, R118). -/
def accVal (a : Acc) : FVal :=
  if a.nan then .nan false 0 false
  else .fin (decide (a.sig.toInt < 0)) a.sig.toInt.natAbs ((a.ea.toNat : Int) - 512 - ((winBits a.win : Nat) - 6 : Int))

/-- The two words of an element in the well (R84). -/
def accWords (a : Acc) : List Word :=
  [a.sig.extractLsb' 0 64,
    BitVec.ofNat 64 ((a.sig.extractLsb' 64 16).toNat + a.ea.toNat * 2 ^ 16 + a.lsf.toNat * 2 ^ 26 + a.nan.toNat * 2 ^ 27 +
      a.poi.toNat * 2 ^ 28 + a.sat.toNat * 2 ^ 29 + a.win.toNat * 2 ^ 32)]

/-- The element that two words hold (R161): S reduced modulo 2^Wrec and sign-extended. -/
def accOfWords (w0 w1 : Word) : Acc :=
  let win : BitVec 4 := w1.extractLsb' 32 4
  let W := winBits win
  let s : Nat := (w0.toNat + (w1.toNat % 2 ^ 16) * 2 ^ 64) % 2 ^ W
  { ea := w1.extractLsb' 16 10, sig := BitVec.ofInt 80 (intOfNat W s), lsf := w1.getLsbD 26, nan := w1.getLsbD 27
    poi := w1.getLsbD 28, sat := w1.getLsbD 29, win := win }

/-! ## Combining in the fabric -/

/-- A renorm's code for one element: a count or NaN (R177). -/
inductive RCode
  | nan
  | count (c : Int)
  deriving DecidableEq, Repr

/-- A line at a combining group: header word, payload, mask word, COMBINED. -/
structure LineIn where
  hdr : Word
  pay : List Word
  mask : Word
  combined : Bool
  deriving DecidableEq, Repr

/-- What a group emits for one line (R190, R193): the line, the shifts it recorded per member, poison per block, and the
renorm's codes where one is emitted. -/
structure CombineOut where
  hdr : Word
  pay : List Word
  mask : Word
  shifts : List (List Nat)
  poison : List Bool
  renorm : Option (List RCode)
  deriving DecidableEq, Repr

/-- The word with the bits of a list of Booleans. -/
def maskOf (bs : List Bool) : Word := BitVec.ofNat 64 (bs.zipIdx.foldl (fun a (b, i) => if b then a + 2 ^ i else a) 0)

/-- combine_reduce (R190), or its MAX form (R193). -/
def combineLines (f : Bfmt) (isMax : Bool) (xs : List LineIn) : CombineOut :=
  let w := f.w
  let bx := xs.map fun x => (x, blksOf f x.hdr x.pay)
  let poison := (List.range 4).map fun j => bx.any fun (_, bs) => (bs.getD j Blk.zero).isPoison
  let eo := (List.range 4).map fun j => bx.foldl (fun a (_, bs) => max a (bs.getD j Blk.zero).e) 0
  let el (k : Nat) : Int × Int × Bool × Bool × List Nat :=
    let j := k / 16
    if poison.getD j false then (0, 0, false, false, xs.map fun _ => 0) else
    let qs := bx.map fun (x, bs) =>
      let b := bs.getD j Blk.zero
      let s := eo.getD j 0 - b.e + b.nu (k % 16 / 4)
      let m := b.ms.getD (k % 16) 0
      let a := floorShift m s
      (x, m, s, a)
    let isNan (x : LineIn) (m : Int) : Bool := !x.combined && decide (m = nanMant w)
    let nan := qs.any fun (x, m, _, _) => isNan x m
    let lost := qs.any fun (x, m, s, a) => x.mask.getLsbD k || decide (a * (2 ^ s : Nat) ≠ m)
    let shifts := qs.map fun (_, _, s, _) => s
    if isMax then
      let live := qs.filter fun (x, m, _, _) => !isNan x m
      let v := match live with
        | [] => 0
        | (_, _, _, a) :: rest => rest.foldl (fun t (_, _, _, b) => max t b) a
      (if nan then 0 else v, 0, nan, lost, shifts)
    else
      let T : Int := qs.foldl (fun t (_, _, _, a) => t + a) 0
      let v := (T + (2 ^ (w - 1) : Nat)) % (2 ^ w : Nat) - (2 ^ (w - 1) : Nat)
      (if nan then 0 else v, (T - v) / (2 ^ w : Nat), nan, lost, shifts)
  let els := (List.range 64).map el
  let blks := (List.range 4).map fun j =>
    if poison.getD j false then Blk.poison else ⟨eo.getD j 0, 0, ((els.drop (16 * j)).take 16).map (·.1)⟩
  let codes := els.map fun (_, c, nan, _, _) => if nan then RCode.nan else RCode.count c
  { hdr := hdrOf blks, pay := payOf f blks, mask := maskOf (els.map fun (_, _, _, l, _) => l)
    shifts := (List.range xs.length).map fun q => els.map fun (_, _, _, _, ss) => ss.getD q 0
    poison := poison
    renorm := if codes.any (fun c => decide (c ≠ .count 0)) then some codes else none }

/-- A renorm on the wire: unit shift, codes, mask (R177). -/
structure Renorm where
  u : Nat
  codes : List RCode
  mask : Word
  deriving DecidableEq, Repr

/-- apply_renorm (R191): the renorms a group forwards for one it received on a member with recorded shifts `ss`. -/
def applyRenorm (w : Nat) (ss : List Nat) (poison : List Bool) (r : Renorm) : List Renorm :=
  let el (k : Nat) : Bool × Int × Nat × Bool :=       -- NaN, count, unit, bit lost
    if poison.getD (k / 16) false then (false, 0, 0, false) else
    match r.codes.getD k (.count 0) with
    | .nan => (true, 0, 0, false)
    | .count c =>
      if c = 0 then (false, 0, 0, false) else
      let u2 := r.u + ss.getD k 0
      if u2 ≤ w then (false, c, u2, false)
      else
        let x := floorShift c (u2 - w)
        (false, x, w, decide (x * (2 ^ (u2 - w) : Nat) ≠ c))
  let els := (List.range 64).map el
  let mask := r.mask ||| maskOf (els.map fun (_, _, _, l) => l)
  let units := (List.range 17).filter fun u => els.any fun (_, c, v, _) => decide (c ≠ 0) && decide (v = u)
  let anyNan := els.any (·.1)
  let codesAt (u : Nat) (nans : Bool) : List RCode := els.map fun (n, c, v, _) =>
    if n && nans then .nan else if c ≠ 0 ∧ v = u then .count c else .count 0
  match units with
  | [] => if anyNan || decide (mask ≠ 0) then [⟨0, codesAt 0 true, mask⟩] else []
  | u :: rest => ⟨u, codesAt u true, mask⟩ :: rest.map fun v => ⟨v, codesAt v false, 0⟩

/-- The 3-bit code of an element in a renorm's payload (R177). -/
def rcodeBits : RCode → Nat
  | .nan => 4
  | .count c => natOfInt 3 c

/-- The element code of three bits. -/
def rcodeOf (x : Nat) : RCode := if x = 4 then .nan else .count (intOfNat 3 x)

/-- The three payload beats of 64 codes (R177). -/
def renormBeats (cs : List RCode) : List Word :=
  let n := cs.zipIdx.foldl (fun a (c, k) => a + rcodeBits c * 2 ^ (3 * k)) 0
  [BitVec.ofNat 64 n, BitVec.ofNat 64 (n / 2 ^ 64), BitVec.ofNat 64 (n / 2 ^ 128)]

/-- The codes of three payload beats. -/
def renormCodes (ps : List Word) : List RCode :=
  let n := (ps.getD 0 0).toNat + (ps.getD 1 0).toNat * 2 ^ 64 + (ps.getD 2 0).toNat * 2 ^ 128
  (List.range 64).map fun k => rcodeOf (natBits n (3 * k) 3)

/-! ## MX formats -/

end Sys2Proof.Machine

namespace Sys2Proof

/-- Bits of an MX element (R97). -/
def MxTy.bits : MxTy → Nat
  | .fp8e4 | .fp8e5 | .int8 => 8
  | .fp6e2 | .fp6e3 => 6
  | .fp4 => 4

/-- emax_elem (R97). -/
def MxTy.emax : MxTy → Int
  | .fp8e4 => 8 | .fp8e5 => 15 | .fp6e2 => 2 | .fp6e3 => 4 | .fp4 => 2 | .int8 => 0

/-- Exponent and fraction bits of a floating MX element (R97). -/
def MxTy.ff : MxTy → Machine.FFmt
  | .fp8e4 => ⟨4, 3, false⟩ | .fp8e5 => ⟨5, 2, true⟩ | .fp6e2 => ⟨2, 3, false⟩ | .fp6e3 => ⟨3, 2, false⟩
  | .fp4 => ⟨2, 1, false⟩ | .int8 => ⟨2, 1, false⟩

/-- The code of the largest element (R97). -/
def MxTy.maxCode : MxTy → Nat
  | .fp8e4 => 0x7E | .fp8e5 => 0x7B | .fp6e2 => 0x1F | .fp6e3 => 0x1F | .fp4 => 0x7 | .int8 => 0x7F

/-- The code an element takes under a NaN scale (R100). -/
def MxTy.nanCode : MxTy → Nat
  | .fp8e4 => 0x7F | .fp8e5 => 0x7E | .fp6e2 | .fp6e3 | .fp4 | .int8 => 0

end Sys2Proof

namespace Sys2Proof.Machine

/-- The value of an MX element code (R97). -/
def mxDecode (t : MxTy) (x : Nat) : FVal :=
  match t with
  | .int8 => let k := intOfNat 8 x; .fin (decide (k < 0)) k.natAbs (-6)
  | .fp8e4 | .fp8e5 => t.ff.decode x
  | .fp6e2 | .fp6e3 | .fp4 =>
    let f := t.ff
    let e := x / 2 ^ f.fb % 2 ^ f.eb
    let fr := x % 2 ^ f.fb
    let neg := decide (x / f.signBit % 2 = 1)
    if e = 0 then .fin neg fr (1 - (f.bias : Int) - f.fb) else .fin neg (fr + 2 ^ f.fb) ((e : Int) - f.bias - f.fb)

/-- An element of a block with scale code c (R97, R100). -/
def mxElem (t : MxTy) (c x : Nat) : FVal :=
  if c = 255 then .nan false 0 false else scaleVal ((c : Int) - 127) (mxDecode t x)

/-- mx_scale (R99). -/
def mxScale (t : MxTy) (xs : List FVal) : Nat :=
  if xs.any (fun x => match x with | .fin _ _ _ => false | _ => true) then 255
  else match topList xs with
    | none => 127
    | some top => (min 254 (max 0 (top - t.emax + 127))).toNat

/-- A finite value encoded as an MX element under scale code c (R100). -/
def mxEncode (t : MxTy) (md : Mode) (c : Nat) (x : FVal) : Nat × Flags :=
  match scaleVal (127 - (c : Int)) x with
  | .fin n m e =>
    let ovf : Flags := Flags.nx ||| Flags.when (decide (c = 254)) .of
    match t with
    | .int8 =>
      let (q, lost) := roundDyadic md n m (e + 6)
      if q > 127 then (natOfInt 8 (if n then -127 else 127), ovf)
      else (natOfInt 8 (if n then -(q : Int) else q), Flags.when lost .nx)
    | _ =>
      let f := t.ff
      if m = 0 then (f.withSign n 0, 0) else
      let top := (m.log2 : Int) + e
      let emin := 1 - (f.bias : Int)
      let place := (if top < emin then emin else top) - f.fb
      let (q, lost) := roundDyadic md n m (e - place)
      let code := ((place + f.fb + f.bias).toNat) * 2 ^ f.fb + q - 2 ^ f.fb
      if code > t.maxCode then (f.withSign n t.maxCode, ovf) else
      let (q', _) := roundDyadic md n m (e - (top - f.fb))
      let tiny := decide (top < emin) && !(decide (top + 1 = emin) && decide (q' = 2 ^ (f.fb + 1)))
      (f.withSign n code, Flags.when lost .nx ||| Flags.when (tiny && lost) .uf)
  | _ => (t.nanCode, 0)

/-- An MX block formed from 32 values: scale code, element codes, flags (R99, R100). -/
def mxForm (t : MxTy) (md : Mode) (xs : List FVal) : Nat × List Nat × Flags :=
  let c := mxScale t xs
  if c = 255 then (255, xs.map fun _ => t.nanCode, .nv)
  else
    let rs := xs.map (mxEncode t md c)
    (c, rs.map (·.1), rs.foldl (fun a r => a ||| r.2) 0)

/-- Codes packed in order, element i at bit b·i (R98). -/
def packCodes (b : Nat) (cs : List Nat) : Nat := cs.zipIdx.foldl (fun a (c, i) => a + c * 2 ^ (b * i)) 0

/-- The values of 64 packed elements under two scale codes (R162). -/
def mxLine (t : MxTy) (packed c0 c1 : Nat) : List FVal :=
  (List.range 64).map fun k => mxElem t (if k < 32 then c0 else c1) (natBits packed (t.bits * k) t.bits)

end Sys2Proof.Machine
end

