-- ==== Sys2Proof/Machine/Ops.lean ====
section
/-! DEFINITION. Sys2Proof/Machine/Ops.lean: the named operations over memory, registers and strands: byte memories in canonical
form, the well with SECDED, registers with the result signature, retiring, waiting, waking, creating and ending strands,
taking a fault (R326) and returning from one (R257, R359, R360). -/

namespace Sys2Proof.Machine

/-- What a meaning answers. -/
abbrev Result := Host.Outcome State Fault Refusal

/-! ## Byte memories -/

/-- The byte at an address. -/
def Mem.get : List Host.Cell → Nat → Byte
  | [], _ => Memory.default
  | (b, x) :: rest, a => if b = a then x else Mem.get rest a

/-- The memory with one byte changed, in canonical form. -/
def Mem.set : List Host.Cell → Nat → Byte → List Host.Cell
  | [], a, x => if x = Memory.default then [] else [(a, x)]
  | (b, y) :: rest, a, x =>
    if a < b then if x = Memory.default then (b, y) :: rest else (a, x) :: (b, y) :: rest
    else if a = b then if x = Memory.default then rest else (a, x) :: rest
    else (b, y) :: Mem.set rest a x

/-- The bytes from an address on. -/
def Mem.read (m : List Host.Cell) (a n : Nat) : List Byte := (List.range n).map fun i => Mem.get m (a + i)

/-- The memory with a run of bytes changed. -/
def Mem.write (m : List Host.Cell) : Nat → List Byte → List Host.Cell
  | _, [] => m
  | a, x :: xs => Mem.write (Mem.set m a x) (a + 1) xs

/-! ## The well -/

/-- Bytes of the well (R18). -/
def wellSize : Nat := 393216

/-- Whether n bytes from an address lie in the well (R18). -/
def inWell (a n : Nat) : Bool := a + n ≤ wellSize

/-- The SECDED condition of a word, none when clean (R171). -/
def Well.mark (w : Well) (word : Nat) : Option Mark := (w.marks.find? fun p => p.1 = word).map (·.2)

/-- A word whose read raises UE_WELL (R322). -/
def Well.bad (w : Well) (word : Nat) : Bool := w.mark word = some .uncorrectable

/-- Whether some word of a run of bytes is uncorrectable. -/
def Well.badIn (w : Well) (a n : Nat) : Bool :=
  w.marks.any fun p => decide (p.2 = .uncorrectable) && decide (a / 8 ≤ p.1) && decide (p.1 ≤ (a + n - 1) / 8)

/-- The bytes at an address (R7). -/
def Well.readNat (w : Well) (a n : Nat) : Nat := ofLeBytes (Mem.read w.bytes a n)

/-- A well word. -/
def Well.word (w : Well) (a : Nat) : Word := BitVec.ofNat 64 (w.readNat a 8)

/-- A read corrects single-bit errors and leaves the write-back to come (R171). -/
def Well.touch (w : Well) (a n : Nat) : Well :=
  { w with marks := w.marks.map fun p =>
      if decide (p.2 = .correctable) && decide (a / 8 ≤ p.1) && decide (p.1 ≤ (a + n - 1) / 8) then (p.1, .corrected) else p }

/-- A store writes the bytes, with fresh check bits in every word it touches (R170, R322). -/
def Well.store (w : Well) (a : Nat) (xs : List Byte) : Well :=
  { w with
    bytes := Mem.write w.bytes a xs
    marks := w.marks.filter fun p => decide (p.1 < a / 8) || decide ((a + xs.length - 1) / 8 < p.1) }

/-- The uncorrectable pattern in one word (R322). -/
def Well.spoil (w : Well) (word : Nat) : Well :=
  let w' := w.store (8 * word) (leBytes 8 0)
  { w' with marks := (word, .uncorrectable) :: w'.marks }

/-! ## Signature of results (R361) -/

/-- One bit of CRC-32C. -/
def crcBit (x : BitVec 32) : BitVec 32 := if x.getLsbD 0 then (x >>> 1) ^^^ 0x82F63B78 else x >>> 1

/-- One byte of CRC-32C. -/
def crcByte (x : BitVec 32) (b : Byte) : BitVec 32 :=
  crcBit (crcBit (crcBit (crcBit (crcBit (crcBit (crcBit (crcBit (x ^^^ b.zeroExtend 32))))))))

/-- CRC-32C carried on over more bytes; of no bytes it is 0. -/
def crc32c (crc : BitVec 32) (xs : List Byte) : BitVec 32 := ~~~(xs.foldl crcByte (~~~crc))

/-- The signature over further result bytes (R361). -/
def Core.sign (c : Core) (xs : List Byte) : Core := { c with check := { c.check with sig := crc32c c.check.sig xs } }

/-- The interval ends: its signature waits for CHECK_INTERVAL_END, and the next one starts (R347, R362). -/
def Check.endInterval (k : Check) : Check := { k with sig := 0, idx := k.idx + 1, count := 0, ended := some k.sig }

/-- One retirement (R352, R347: an interval ends every 1,024). -/
def Core.retire (c : Core) : Core :=
  let k := { c.check with count := c.check.count + 1 }
  { c with
    csr := { c.csr with retired := c.csr.retired + 1 }
    check := if k.count ≥ 1024 then k.endInterval else k }

/-! ## Strands of a core -/

/-- Strand n. -/
def Core.strand (c : Core) (n : StrandNo) : Strand := c.strands[n.toNat]

/-- The core with strand n changed. -/
def Core.setStrand (c : Core) (n : StrandNo) (f : Strand → Strand) : Core :=
  { c with strands := c.strands.set n.toNat (f c.strands[n.toNat]) }

/-- Every strand number, in order. -/
def strandNos : List StrandNo := [0, 1, 2, 3, 4, 5, 6, 7]

/-- Every channel number, in order. -/
def chanNos : List Chan := (List.range 32).map (BitVec.ofNat 5)

def Strand.exists (st : Strand) : Bool := st.state ≠ .absent
def Strand.stopped (st : Strand) : Bool := match st.state with | .stop _ => true | _ => false
/-- The strand's state, or the state a stopped strand returns to. -/
def Strand.liveState (st : Strand) : Option Live :=
  match st.state with
  | .absent => none
  | .live l => some l
  | .stop l => some l
def Strand.parked (st : Strand) : Bool := st.liveState = some .park
/-- The strand is in PARK itself, and not stopped (R257). -/
def Strand.inPark (st : Strand) : Bool := st.state = .live .park
/-- A change of the strand's state that keeps STOP (R257). -/
def Strand.setLive (st : Strand) (l : Live) : Strand :=
  match st.state with
  | .absent => st
  | .live _ => { st with state := .live l }
  | .stop _ => { st with state := .stop l }

/-- Channel n. -/
def Core.chan (c : Core) (n : Chan) : ChanState := c.chans[n.toNat]
/-- The core with channel n changed. -/
def Core.setChan (c : Core) (n : Chan) (f : ChanState → ChanState) : Core :=
  { c with chans := c.chans.set n.toNat (f c.chans[n.toNat]) }

/-! ### Binding fields (R178) -/

def ChanState.rbase (h : ChanState) : Nat := natBits h.bind.toNat 48 16
def ChanState.rlen (h : ChanState) : Nat := natBits h.bind.toNat 32 16
def ChanState.satBit (h : ChanState) : Bool := h.bind.getLsbD 18
def ChanState.trl (h : ChanState) : Bool := h.bind.getLsbD 17
def ChanState.hstr (h : ChanState) : StrandNo := h.bind.extractLsb' 14 3
def ChanState.hv (h : ChanState) : Bool := h.bind.getLsbD 13
def ChanState.qno (h : ChanState) : BitVec 3 := h.bind.extractLsb' 10 3
def ChanState.cls (h : ChanState) : BitVec 2 := h.bind.extractLsb' 8 2
def ChanState.fmt (h : ChanState) : BitVec 4 := h.bind.extractLsb' 0 4

/-- An item that a receive can find; a held line is not yet one (R243). -/
def Item.isHeld : Item → Bool
  | .held _ => true
  | _ => false

/-- The head item: the oldest item of the queue, held lines left out (R243; log entry 10). -/
def ChanState.headItem (h : ChanState) : Option Item := h.items.find? fun i => !i.isHeld

/-- The entry at the head, where there is one (R243, R261). -/
def ChanState.headEntry (h : ChanState) : Option Entry :=
  match h.headItem with
  | some (.entry e) => some e
  | _ => none

/-- The marker record at the head, where there is one (R261). -/
def ChanState.headMarker (h : ChanState) : Option (BitVec 5) :=
  match h.headItem with
  | some (.marker m) => some m
  | _ => none

/-- A line is held for its renorm window (CHQ.HELD, R181). -/
def ChanState.isHeld (h : ChanState) : Bool := h.items.any Item.isHeld

/-- Whether some binding with HV = 1 names the strand (STRAND.HND, R260). -/
def Core.isHandler (c : Core) (n : StrandNo) : Bool := c.chans.toList.any fun h => h.hv && decide (h.hstr = n)

/-! ### Waking, creating, ending (R258, R259, R262) -/

/-- A WAKE of a strand (R262): it ends SLEEP or IDLE, or leaves a pending wake; an absent strand is left alone. -/
def Strand.wake (st : Strand) : Strand :=
  match st.liveState with
  | none => st
  | some (.wait (.sleep _)) => { st.setLive (.wait (.finished 4)) with sleepLeft := none }
  | some (.wait .idle) => st.setLive (.wait (.finished 4))
  | some _ => { st with wakePending := true }

/-- A strand as creation leaves it (R258): registers cleared, pc at the entry pc. -/
def Strand.created (st : Strand) (stopped : Bool) (cause : BitVec 2) (wch : Chan) : Strand :=
  { Strand.blank with
    pc := st.entry, entry := st.entry, cause := cause, wch := wch
    state := if stopped then .stop .run else .live .run }

/-- Creation of an absent strand; after QUIESCE it is created into STOP (R258, R331). In a copy made for `.triple strand n` no other
strand is created (R345). -/
def Core.create (c : Core) (n : StrandNo) (cause : BitVec 2) (wch : Chan) : Core :=
  c.setStrand n fun st => if st.state = .absent ∧ c.issue.allowed.getLsbD n.toNat then st.created c.stopped cause wch else st

/-- MPROG fields (R165). -/
def Csrs.loopAct (r : Csrs) : Bool := r.mprog.getLsbD 63
def Csrs.loopStr (r : Csrs) : StrandNo := r.mprog.extractLsb' 53 3
def Csrs.loopPcw (r : Csrs) : BitVec 17 := r.mprog.extractLsb' 36 17
def Csrs.loopDone (r : Csrs) : Nat := (r.mprog.extractLsb' 0 32).toNat

/-- MPROG from its fields (R165). -/
def mprogWord (act : Bool) (str : StrandNo) (pcw : BitVec 17) (done : BitVec 32) : Word :=
  bit1 act ++ (0#7) ++ str ++ pcw ++ (0#4) ++ done
where
  bit1 (b : Bool) : BitVec 1 := if b then 1 else 0

/-- ACT clears when it names the strand (R165). A loop that ends so never retires, and its results enter no signature. -/
def Core.dropLoop (c : Core) (n : StrandNo) : Core :=
  if c.csr.loopAct && decide (c.csr.loopStr = n) then
    { c with csr := { c.csr with mprog := c.csr.mprog &&& 0x7FFFFFFFFFFFFFFF }, loop := none }.setStrand n fun st =>
      { st with late := [] }
  else c

/-- The results that strand n has written and not retired enter the signature (R361). -/
def Core.signLate (c : Core) (n : StrandNo) : Core :=
  match (c.strand n).late with
  | [] => c
  | xs => (c.sign xs).setStrand n fun st => { st with late := [] }

/-- Pages of a 256 MiB leaf. -/
def bigPages : Nat := 4096

/-- Pages that an entry maps. -/
def FtbEntry.pages (e : FtbEntry) : Nat := if e.big then bigPages else 1

/-- The lowest region that has a page of an entry. -/
def FtbEntry.regionIn (e : FtbEntry) (regions : List (Option FtbRegion)) : Option Nat :=
  let i := regions.findIdx fun r => match r with
    | some r => decide (r.page < e.page + e.pages) && decide (e.page < r.page + r.count)
    | none => false
  if i < regions.length then some i else none

/-- Regions go (R253): an entry of one of them unlocks, unless a region that stays covers it. -/
def Core.unlockRegions (c : Core) (gone : Nat → FtbRegion → Bool) : Core :=
  let isGone (i : Nat) : Bool := match c.far.regions.getD i none with
    | some r => gone i r
    | none => false
  let left := c.far.regions.zipIdx.map fun (r, i) => if isGone i then none else r
  { c with far := { c.far with
      ftb := c.far.ftb.map fun e =>
        if e.lock && isGone e.region.toNat then
          match e.regionIn left with
          | some i => { e with region := BitVec.ofNat 2 i }
          | none => { e with lock := false }
        else e
      regions := left } }

/-- The regions of a strand go, and their entries unlock (R253, R259). -/
def Core.unlockOf (c : Core) (n : StrandNo) : Core := c.unlockRegions fun _ r => decide (r.strand = n)

/-- The lowest channel with HV = 1 whose queue holds an entry for handler n (R259). -/
def Core.pendingFor (c : Core) (n : StrandNo) : Option Chan :=
  chanNos.find? fun ch =>
    let h := c.chan ch
    h.hv && decide (h.hstr = n) && h.items.any fun i => match i with | .entry _ => true | _ => false

/-- The pc of an access whose instruction is gone: no instruction stands there (R18). -/
def noPc : Word := 0xFFFFFFFFFFFFFFFF

/-- The access that strand n waited in no longer has an instruction to complete: its response and its walk are
discarded when they come (R259, R360). -/
def Core.orphan (c : Core) (n : StrandNo) : Core :=
  { c with far := { c.far with
      outs := c.far.outs.map fun o => match o.kind with
        | .fld => if o.strand = n then { o with pc := noPc } else o
        | .famo _ => if o.strand = n then { o with pc := noPc } else o
        | _ => o
      walks := c.far.walks.map fun w => match w.who with
        | .strand m _ => if m = n then { w with discard := true } else w
        | .ftbl m _ => if m = n then { w with discard := true } else w
        | _ => w } }

/-- The posted stores of strand n have no strand any more that could take their fault (R259, R320). -/
def Core.disown (c : Core) (n : StrandNo) : Core :=
  { c with far := { c.far with outs := c.far.outs.map fun o =>
      if o.kind = .fst ∧ o.strand = n then { o with pc := noPc } else o } }

/-- EXIT or a kill (R259): every effect, re-creation of a handler included. -/
def Core.endStrand (c : Core) (n : StrandNo) : Core :=
  let c1 := ((((c.unlockOf n).dropLoop n).orphan n).disown n).setStrand n fun st =>
    { st with state := .absent, wakePending := false, barrStaged := false, sleepLeft := none, ftblOpen := none, redo := false
              inBarr := false, late := [], part := none }
  match c1.pendingFor n with
  | some _ => c1.create n 3 0
  | none => c1

/-! ## Sites -/

/-- Rows and columns of sites (R10). -/
def meshRows : Nat := 336
def meshCols : Nat := 464

/-- The rectangle that holds a site, with the site's logical row and column (R14). -/
def Wafer.place (w : Wafer) (site : Site) : Option (Nat × Nat × Nat) :=
  w.rects.zipIdx.findSome? fun (r, i) =>
    let j := r.cols.findIdx fun c => c = site.col
    if r.a ≤ site.row ∧ site.row ≤ r.b ∧ j < r.cols.length then some (i, site.row - r.a, j) else none

/-- The clock region of a site: 16 x 16 sites (R3). -/
def regionOf (site : Site) : Region := ⟨site.row / 16, site.col / 16⟩

/-- The effective grade of a site's core, 0 A, 1 B, 2 M (R12, R352). -/
def Wafer.gradeOf (w : Wafer) (site : Site) : BitVec 2 :=
  if w.gradeM.contains site then 2 else if w.gradeB.contains (regionOf site) then 1 else 0

/-- The clock of a region in MHz (R3, R11). -/
def Wafer.regionMhz (w : Wafer) (r : Region) : Nat := if w.gradeB.contains r || w.lowered.contains r then 1550 else 1750

/-- CLKMHZ of a site's core (R352): a checker runs at half its region's clock. -/
def Wafer.mhzOf (w : Wafer) (site : Site) : BitVec 16 :=
  let f := w.regionMhz (regionOf site)
  BitVec.ofNat 16 (if w.gradeM.contains site then f / 2 else f)

/-- What enumeration writes at a site (R16, R286, R352, R380 to R382). -/
def Wafer.ident (w : Wafer) (site : Site) : Ident :=
  let base : Ident := { Ident.blank site with grade := w.gradeOf site, mhz := w.mhzOf site, chkd := w.pairs.any fun p => p.2 = site }
  match w.place site with
  | none => base
  | some (k, i, j) =>
    let r := w.rects.getD k { a := 0, b := 0, cols := [] }
    { base with
      rect := BitVec.ofNat 6 k, row := BitVec.ofNat 10 i, col := BitVec.ofNat 10 j
      rrows := r.b + 1 - r.a, rcols := r.cols.length, ready := true }

/-- The core at a site that nothing has touched since it was cleared. -/
def State.untouched (s : State) (site : Site) : Core := { Core.blank site with ident := s.wafer.ident site }

/-! ## Cores of the module -/

/-- The core at a site: the acting one, a touched one, or one that nothing has touched. -/
def State.coreAt (s : State) (site : Site) : Core :=
  if s.core.ident.site = site then s.core
  else (s.others.find? fun c => c.ident.site = site).getD (s.untouched site)

/-- The machine with the core at a site changed. -/
def State.setCoreAt (s : State) (site : Site) (f : Core → Core) : State :=
  if s.core.ident.site = site then { s with core := f s.core }
  else
    { s with others := f (s.coreAt site) :: s.others.filter fun c => c.ident.site ≠ site }

/-- The machine with the core at a site acting. -/
def State.focus (s : State) (site : Site) : State :=
  if s.core.ident.site = site then s
  else
    { s with
      core := s.coreAt site
      others := s.core :: s.others.filter fun c => c.ident.site ≠ site }

/-- The acting core changed. -/
def State.mapCore (s : State) (f : Core → Core) : State := { s with core := f s.core }

/-- Every core that has been touched. -/
def State.mapCores (s : State) (f : Core → Core) : State := { s with core := f s.core, others := s.others.map f }

/-- The next value the spec does not state, and the machine with it used up. -/
def State.fresh (s : State) : Word × State := (Config.freeValue s.free, { s with free := s.free + 1 })

/-- FIELDID's fields (R303). -/
def Csrs.fnum (r : Csrs) : BitVec 16 := r.fieldId.extractLsb' 0 16
def Csrs.asid (r : Csrs) : BitVec 16 := r.fieldId.extractLsb' 32 16

/-- The number of the field that a message to the supervisors concerns: that of its core; 0 for none. -/
def State.fieldOf (s : State) (m : Mail) : BitVec 16 :=
  match m with
  | .fault _ id _ => id.extractLsb' 0 16
  | .note _ fnum => fnum
  | .slotTable _ => 0
  | .ack t _ _ _ | .quiet t | .border t _ _ _ _ | .group t _ | .renorm t _ | .malformed t _ | .link t _ | .scrub t _ =>
    (s.coreAt t).csr.fnum

/-- The home supervisor of a field; supervisor 0 where there is no such field (R27, R307). -/
def State.homeOf (s : State) (fnum : BitVec 16) : Nat :=
  ((s.sup.fields.find? fun f => f.fnum = fnum).map (·.home)).getD 0

/-- A message in the mailbox of the home supervisor of its field, or of supervisor 0 (R27). The home supervisor is also the one
that sends a core's commands, and so the one that an acknowledgement goes to (R304; log entry 60). -/
def State.posted (s : State) (m : Mail) : Posted := { dst := s.homeOf (s.fieldOf m), fnum := s.fieldOf m, mail := m }

/-- A message to the supervisors. -/
def State.post (s : State) (m : Mail) : State := { s with sup := { s.sup with mail := s.sup.mail ++ [s.posted m] } }

/-- Posts of a list of messages. -/
def State.postAll (s : State) (ms : List Mail) : State := { s with sup := { s.sup with mail := s.sup.mail ++ ms.map s.posted } }

/-! ## Registers of the acting strand -/

/-- The acting strand. -/
def State.st (s : State) : Strand := s.core.strands[s.cur.toNat]

/-- The acting strand changed. -/
def State.setSt (s : State) (f : Strand → Strand) : State := { s with core := s.core.setStrand s.cur f }

/-- The pc of the acting strand. -/
def State.pc (s : State) : Word := s.st.pc

/-- A g register; g0 reads zero (R39). -/
def State.g (s : State) (r : GReg) : Word := if r = 0 then 0 else s.st.g[r.toNat]

/-- A write to a g register; one to g0 is discarded (R40). -/
def State.setG (s : State) (r : GReg) (x : Word) : State :=
  if r = 0 then s
  else (s.setSt fun st => { st with g := st.g.set r.toNat x }).mapCore fun c => c.sign (leBytes 8 x.toNat)

/-- A v register. -/
def State.v (s : State) (r : VReg) : VWord := s.st.v[r.toNat]

/-- A write to a v register. -/
def State.setV (s : State) (r : VReg) (x : VWord) : State :=
  (s.setSt fun st => { st with v := st.v.set r.toNat x }).mapCore fun c => c.sign (leBytes 32 x.toNat)

/-- A k register; k0 is all ones (R39). -/
def State.k (s : State) (r : KReg) : BitVec 8 := if r = 0 then 0xFF else s.st.k[r.toNat]

/-- A write to a k register; one to k0 is discarded (R40). -/
def State.setK (s : State) (r : KReg) (x : BitVec 8) : State :=
  if r = 0 then s
  else (s.setSt fun st => { st with k := st.k.set r.toNat x }).mapCore fun c => c.sign [x]

/-- A b register. -/
def State.b (s : State) (r : BReg) : BLine := s.core.b[r.toNat]

/-- The bytes of a b register for the signature: header, payload words, mask word (log entry 8). -/
def BLine.bytes (x : BLine) : List Byte :=
  leBytes 8 x.hdr.toNat ++ x.pay.toList.flatMap (fun w => leBytes 8 w.toNat) ++ leBytes 8 x.mask.toNat

/-- A write to a b register. -/
def State.setB (s : State) (r : BReg) (x : BLine) : State :=
  s.mapCore fun c => ({ c with b := c.b.set r.toNat x }).sign x.bytes

/-- An m register. -/
def State.m (s : State) (r : MReg) : Tile := s.core.m[r.toNat]

/-- The bytes of a tile for the signature: the layout of R84 (log entry 8). -/
def Tile.bytes (t : Tile) : List Byte := t.toList.flatMap fun a => (accWords a).flatMap fun w => leBytes 8 w.toNat

/-- A write to an m register. -/
def State.setM (s : State) (r : MReg) (x : Tile) : State :=
  s.mapCore fun c => ({ c with m := c.m.set r.toNat x }).sign (Tile.bytes x)

/-- A store by the acting core's strands: the bytes, and their part of the signature (R361). -/
def State.store (s : State) (a : Nat) (xs : List Byte) : State :=
  s.mapCore fun c => ({ c with well := c.well.store a xs }).sign xs

/-- The bytes of a store that the signature takes later (R361), when the instruction is done. -/
def State.storeUnsigned (s : State) (a : Nat) (xs : List Byte) : State := s.mapCore fun c => { c with well := c.well.store a xs }

/-- A read of the well that corrects (R171). -/
def State.touch (s : State) (a n : Nat) : State := s.mapCore fun c => { c with well := c.well.touch a n }

/-- The acting strand goes to an address. -/
def State.jump (s : State) (pc : Word) : State := s.setSt fun st => { st with pc := pc }

/-- The instruction, of `len` bytes, is done: pc past it, one retirement. -/
def State.done (s : State) (len : Nat) : State :=
  (s.jump (s.pc + BitVec.ofNat 64 len)).mapCore Core.retire

/-- The acting strand waits, its pc on the instruction (R235). -/
def State.wait (s : State) (w : Wait) : State := s.setSt fun st => st.setLive (.wait w)

/-! ## Faults -/

/-- Fault codes (R324). -/
def Code.illegal : BitVec 8 := 0x01
def Code.misalign : BitVec 8 := 0x02
def Code.wellrange : BitVec 8 := 0x03
def Code.owner : BitVec 8 := 0x04
def Code.coord : BitVec 8 := 0x05
def Code.chan : BitVec 8 := 0x06
def Code.ftbmissLocked : BitVec 8 := 0x08
def Code.farfault : BitVec 8 := 0x09
def Code.farprot : BitVec 8 := 0x0A
def Code.stall : BitVec 8 := 0x0B
def Code.ueWell : BitVec 8 := 0x0C
def Code.ueFar : BitVec 8 := 0x0D
def Code.poison : BitVec 8 := 0x0E
def Code.arith : BitVec 8 := 0x0F
def Code.lsf : BitVec 8 := 0x10
def Code.break : BitVec 8 := 0x11
def Code.supv : BitVec 8 := 0x12
def Code.quiesce : BitVec 8 := 0x13
def Code.check : BitVec 8 := 0x14
def Code.vote : BitVec 8 := 0x15
def Code.slotw : BitVec 8 := 0x16
def Code.desched : BitVec 8 := 0x17
def Code.farunsup : BitVec 8 := 0x18

/-- COREID[25:0] (R16), or the name of copy 0 in a copy of a triplicated core (R346). -/
def Ident.name (i : Ident) : BitVec 26 := i.readsAs.getD (i.rect ++ i.row ++ i.col)

/-- FAULTST.STR (R325). -/
def Csrs.faultStrand (r : Csrs) : StrandNo := r.faultSt.extractLsb' 0 3

/-- Whether a fault of a code against a strand goes to the core's fault strand (R326). -/
def Core.localFault (c : Core) (n : StrandNo) (code : BitVec 8) : Bool :=
  let f := c.csr.faultStrand
  c.csr.faultMask.getLsbD code.toNat && c.csr.faultSt.getLsbD 3 && decide (f ≠ n) &&
    (match (c.strand f).state with
      | .live .run => true
      | .live (.wait _) => true
      | _ => false)

/-- What a fault leaves in its strand: TRAPCAUSE, TRAPPC, TRAPVAL, PARK, resume point, length (R326, R359). -/
def Strand.faulted (st : Strand) (code : BitVec 8) (val resume : Word) (len : Nat) (sup : Bool) : Strand :=
  { st.setLive .park with
    trapCause := code.zeroExtend 64, trapPc := st.pc, trapVal := val, resume := resume, twoWord := decide (len = 8)
    toSupervisor := sup, part := none }

/-- A header beat (R173). -/
def headerWord (kind : Nat) (cls : BitVec 2) (len : Nat) (fmt : BitVec 4) (trl : Bool) (tag : BitVec 17) (src : BitVec 26) : Word :=
  BitVec.ofNat 4 kind ++ cls ++ BitVec.ofNat 10 len ++ fmt ++ (if trl then 1#1 else 0#1) ++ tag ++ src

/-- A fault message (R326), on ch1: kind 5, class 3, LEN 2, the code, the strand and the asynchronous bit in TAG, the core's name,
then TRAPPC and TRAPVAL. FMT, TRL and the bits of TAG above [11] are 0 (log entry 61). -/
def faultMsg (name : BitVec 26) (code : BitVec 8) (n : StrandNo) (async : Bool) (pc val : Word) : Msg :=
  { ch := 1, hdr := headerWord 5 3 2 0 false ((0#5) ++ (if async then 1#1 else 0#1) ++ n ++ code) name, pay := [pc, val], bad := false }

/-- What a fault message of a strand of a core tells. -/
def Core.faultMail (c : Core) (n : StrandNo) (code : BitVec 8) (pc val : Word) : Mail :=
  .fault c.ident.site c.csr.fieldId (faultMsg c.ident.name code n false pc val)

/-- The message of an asynchronous fault of a core; no rule states its TRAPPC and its strand number (log entry 5). -/
def Core.asyncMail (c : Core) (code : BitVec 8) (val pc open' : Word) : Mail :=
  .fault c.ident.site c.csr.fieldId (faultMsg c.ident.name code (open'.extractLsb' 0 3) true pc val)

/-- The fields of a fault message. -/
def Msg.faultCode (m : Msg) : BitVec 8 := m.hdr.extractLsb' 26 8
def Msg.faultStrand (m : Msg) : Option StrandNo := if m.hdr.getLsbD 37 then none else some (m.hdr.extractLsb' 34 3)
def Msg.faultName (m : Msg) : BitVec 26 := m.hdr.extractLsb' 0 26
def Msg.faultPc (m : Msg) : Word := m.pay.getD 0 0
def Msg.faultVal (m : Msg) : Word := m.pay.getD 1 0

/-- TAKING A FAULT (R326), the one operation for every synchronous fault: the trap registers are written, the strand is
parked, and the fault strand is woken or the supervisor told. A BMLOOP of the strand reads its operands again when it is
issued again. -/
def Core.fault (c : Core) (n : StrandNo) (code : BitVec 8) (val resume : Word) (len : Nat) : Core × List Mail :=
  let st := c.strand n
  let mine := c.localFault n code
  let c1 := c.setStrand n fun st => st.faulted code val resume len (!mine)
  let c2 := if c1.csr.loopAct && decide (c1.csr.loopStr = n) then { c1 with loop := none } else c1
  if mine then (c2.setStrand c.csr.faultStrand Strand.wake, [])
  else (c2, [c.faultMail n code st.pc val])

/-- A fault against a strand of the acting core. -/
def State.faultOn (s : State) (n : StrandNo) (code : BitVec 8) (val resume : Word) (len : Nat) : State :=
  let (c, ms) := s.core.fault n code val resume len
  ({ s with core := c }).postAll ms

/-- A fault of the acting strand at its instruction, which is issued again if the strand is resumed (R359). -/
def State.trap (s : State) (code : BitVec 8) (val : Word) (len : Nat) : State := s.faultOn s.cur code val s.pc len

/-- A fault whose resume point is the following instruction: the instruction has done its work (R359). -/
def State.trapAfter (s : State) (code : BitVec 8) (val : Word) (len : Nat) : State :=
  s.faultOn s.cur code val (s.pc + BitVec.ofNat 64 len) len

/-- A fault whose TRAPVAL the spec does not state: a free value (log entry 5). -/
def State.trapFree (s : State) (code : BitVec 8) (len : Nat) : State := (s.fresh.2).trap code s.fresh.1 len

/-- CHAN: TRAPVAL[4:0] is the channel; the bits above are stated nowhere but in R293 (log entry 5). -/
def State.trapChan (s : State) (code : BitVec 8) (ch : Chan) (len : Nat) : State :=
  (s.fresh.2).trap code ((s.fresh.1.extractLsb' 5 59 ++ ch : BitVec 64)) len

/-- An asynchronous fault (R326): it parks nothing. -/
def State.asyncFault (s : State) (c : Core) (code : BitVec 8) (val : Word) : State :=
  (s.fresh.2.fresh.2).post (c.asyncMail code val s.fresh.1 s.fresh.2.fresh.1)

/-- RETURN FROM A FAULT by FLTRES or RETRY: RUN at the resume point (R257, R360). A strand parked on work it waits for
goes back to that wait (R250, R223), unless the work was completed when the strand was saved. -/
def Strand.resumed (st : Strand) : Strand :=
  { st.setLive .run with
    pc := st.resume
    redo := decide (st.resume = st.trapPc) &&
      (decide (st.trapCause = Code.farfault.zeroExtend 64) || decide (st.trapCause = Code.stall.zeroExtend 64)) }

/-- Return past the instruction by FLTSKP or SKIP (R360). -/
def Strand.skipped (st : Strand) : Strand :=
  { st.setLive .run with
    pc := st.trapPc + (if st.twoWord then 8 else 4), ftblOpen := none, redo := false, inBarr := false, late := []
    sleepLeft := none }

/-- SKIP of a parked strand of the core (R360): MPROG.ACT clears if it names the strand. The response of the FLD or FAMO that is
passed over, and its walk, are discarded when they come (the model's choice, log entry 77: R360 says so of a killed strand). -/
def Core.skip (c : Core) (n : StrandNo) : Core := ((c.dropLoop n).orphan n).setStrand n Strand.skipped

end Sys2Proof.Machine
end

