-- ==== Sys2Proof/Machine/Flags.lean ====
section
/-! DEFINITION. Sys2Proof/Machine/Flags.lean: FFLAGS and FMODE (R103, R104), completing an instruction that raises flags, and
the traps ARITH and LSF (R106, R121). -/

namespace Sys2Proof.Machine

/-- FMODE.RM of the acting strand (R103, R126). -/
def State.rm (s : State) : Mode := Mode.ofCode (s.st.fmode.extractLsb' 0 3)

/-- The mode of an rm field, STO left out. -/
def State.mode (s : State) (rm : Rm) : Mode := Mode.ofRm rm s.st.fmode 0

/-- DPW.RRM (R108). -/
def State.rrm (s : State) : Mode := Mode.ofCode (s.core.csr.dpw.extractLsb' 4 3)

/-- FFLAGS with further flags set (R104). -/
def State.raiseFlags (s : State) (f : Flags) : State := s.setSt fun st => { st with fflags := st.fflags ||| f.zeroExtend 64 }

/-- TRAPEN of the strand in FFLAGS positions: NX to NV (R103). -/
def trapEnabled (fmode : Word) : Flags := (fmode.extractLsb' 4 5).zeroExtend 7

/-- Whether flags raised by an instruction trap (R106). -/
def State.arithDue (s : State) (f : Flags) : Bool := trapEnabled s.st.fmode &&& f ≠ 0

/-- An instruction of 4 bytes that has written its results completes with its flags: FFLAGS, retirement, and ARITH where
an enabled flag was raised (R106, R352). -/
def State.finish (s : State) (f : Flags) : State :=
  let s1 := s.raiseFlags f
  if s.arithDue f then (s1.mapCore Core.retire).trapAfter Code.arith (f.zeroExtend 64) 4 else s1.done 4

/-- TRAPVAL of LSF (R121). -/
def lsfVal (step : Nat) (tile : MReg) (elems : BitVec 16) : Word :=
  BitVec.ofNat 32 step ++ (0#13) ++ tile ++ elems

/-- POISONCTL.SEEN is set when poison is consumed (R105). -/
def State.seePoison (s : State) (c : Bool) : State :=
  if c then s.mapCore fun k => { k with csr := { k.csr with poisonCtl := k.csr.poisonCtl ||| 0x100 } } else s

/-- POISONCTL.TRAP (R105). -/
def State.poisonTrap (s : State) : Bool := s.core.csr.poisonCtl.getLsbD 0

/-- TRAPVAL of POISON (R105). -/
def poisonVal (tile : Bool) (index : Nat) : Word := BitVec.ofNat 64 (index + if tile then 256 else 0)

end Sys2Proof.Machine
end

