-- ==== Sys2Proof/Machine/Operands.lean ====
section
/-! DEFINITION. Sys2Proof/Machine/Operands.lean: every operand form: sizes and extensions (R36), well addresses (R236, R137,
R155), elements and masks of v registers (R41), scalar floating-point operands (R124), block operands and their owners
(R43, R150, R152), names (R16), far addresses (R251). -/

namespace Sys2Proof.Machine

/-! ## Elements and masks (R41) -/

/-- Element i of width w of a v register. -/
def velem (w : Nat) (x : VWord) (i : Nat) : Nat := natBits x.toNat (w * i) w

/-- The elements of a v register. -/
def velems (w : Nat) (x : VWord) : List Nat := (List.range (256 / w)).map (velem w x)

/-- The v register that holds a list of elements from element 0 up. -/
def vOf (w : Nat) (xs : List Nat) : VWord := BitVec.ofNat 256 (packCodes w xs)

/-- The bit of a k register that governs element i of width w. -/
def kbit (w : Nat) (k : BitVec 8) (i : Nat) : Bool := k.getLsbD (w * i / 32)

/-- New elements where active, old ones elsewhere (R125). -/
def vmerge (w : Nat) (k : BitVec 8) (old : VWord) (new : List Nat) : VWord :=
  vOf w ((List.range (256 / w)).map fun i => if kbit w k i then new.getD i 0 else velem w old i)

/-- The k register of a compare: bit j for f32 element j, bits 2i and 2i + 1 for f64 element i (R141). -/
def kOf (w : Nat) (rs : List Bool) : BitVec 8 :=
  BitVec.ofNat 8 ((List.range 8).foldl (fun a j => if rs.getD (32 * j / w) false then a + 2 ^ j else a) 0)

/-! ## Scalar operands (R124) -/

/-- A scalar floating-point operand. -/
def State.fpG (s : State) (p : Prec) (r : GReg) : Nat := natBits (s.g r).toNat 0 p.fmt.bits

/-- An operand of so many bits from a g register. -/
def State.lowG (s : State) (bits : Nat) (r : GReg) : Nat := natBits (s.g r).toNat 0 bits

/-- A well value extended to 64 bits: sign or zero (R236). -/
def extend (bits : Nat) (sx : Bool) (x : Nat) : Word := if sx then BitVec.ofInt 64 (intOfNat bits x) else BitVec.ofNat 64 x

/-- A converted result in a g register: i types sign-extended, all others zero-extended (R124). -/
def resultOf (t : Ty) (x : Nat) : Word := extend t.bits t.signed x

/-! ## Well accesses -/

/-- What an access of n bytes at an address raises: MISALIGN before WELLRANGE (R236). -/
def wellCheck (a : Word) (n align : Nat) : Option (BitVec 8) :=
  if a.toNat % align ≠ 0 then some Code.misalign else if inWell a.toNat n then none else some Code.wellrange

/-- Addresses of the elements of VLD and VST (R137). -/
def vaddrs (base step : Word) (n : Nat) : List Word := (List.range n).map fun i => base + BitVec.ofNat 64 i * step

/-- The first active element that fails a check, in index order (R137). -/
def firstFault (n align : Nat) : List (Word × Bool) → Option (BitVec 8 × Word)
  | [] => none
  | (a, act) :: rest =>
    if act then
      match wellCheck a n align with
      | some c => some (c, a)
      | none => firstFault n align rest
    else firstFault n align rest

/-- The lowest active element whose word is uncorrectable (R137). -/
def firstBad (w : Well) (n : Nat) (xs : List (Word × Bool)) : Option Word :=
  (xs.find? fun (a, act) => act && w.badIn a.toNat n).map (·.1)

/-- The element address base of the VM format: g[a] + 32 × sext(off7) (R137). -/
def State.vbase (s : State) (a : GReg) (off : BitVec 7) : Word := s.g a + sext off * 32

/-! ## Block operands -/

/-- The strand owns the b register (R43). -/
def State.ownsB (s : State) (r : BReg) : Bool :=
  let e := natBits s.core.csr.ownB.toNat (4 * r.toNat) 4
  decide (e = 8 + s.cur.toNat)

/-- The strand owns the m register (R43). -/
def State.ownsM (s : State) (r : MReg) : Bool :=
  let e := natBits s.core.csr.ownM.toNat (4 * r.toNat) 4
  decide (e = 8 + s.cur.toNat)

/-- The words of a b register read under a format: its payload words up to the format's count (R42, R152). -/
def BLine.payUnder (x : BLine) (f : Bfmt) : List Word := x.pay.toList.take f.n

/-- The blocks of a b register under a format. -/
def BLine.blks (x : BLine) (f : Bfmt) : List Blk := blksOf f x.hdr (x.payUnder f)

/-- A b register from its parts, payload words beyond the format's count zero (R42). -/
def BLine.make (f : Bfmt) (hdr : Word) (pay : List Word) (mask : Word) : BLine :=
  { tag := f, hdr := hdr, pay := Vector.ofFn fun i => if i.val < f.n then pay.getD i.val 0 else 0, mask := mask }

/-- A b register that holds four blocks. -/
def BLine.ofBlks (f : Bfmt) (bs : List Blk) (mask : Word) : BLine := BLine.make f (hdrOf bs) (payOf f bs) mask

/-- The lowest poison block of a line, if any (R105, R122). -/
def firstPoison (bs : List Blk) : Option Nat := (List.range 4).find? fun j => (bs.getD j Blk.zero).isPoison

/-! ## Names (R16) -/

/-- COREID[25:0] of the acting core. -/
def State.ownName (s : State) : BitVec 26 := s.core.ident.name
def nameRect (n : BitVec 26) : BitVec 6 := n.extractLsb' 20 6
def nameRow (n : BitVec 26) : Nat := (n.extractLsb' 10 10).toNat
def nameCol (n : BitVec 26) : Nat := (n.extractLsb' 0 10).toNat

/-- FIELDORG.ORG (R303). -/
def State.org (s : State) : BitVec 26 := s.core.csr.fieldOrg.extractLsb' 0 26



/-- The entry of a router for a channel: OMASK, MODE, JOIN, NEXTV, CLOSED (R187). -/
def omask (e : Word) (p : Nat) : BitVec 5 := BitVec.ofNat 5 (natBits e.toNat (8 * p) 5)
def modeOf (e : Word) (p : Nat) : Nat := natBits e.toNat (8 * p + 5) 2
def joinOf (e : Word) : BitVec 5 := e.extractLsb' 40 5
def nextv (e : Word) : Bool := e.getLsbD 49
def closedBit (e : Word) : Bool := e.getLsbD 50

/-- Port numbers (R187). -/
def portNo : Port → Nat
  | .n => 0 | .e => 1 | .s => 2 | .w => 3 | .loc => 4
def allPorts : List Port := [.n, .e, .s, .w, .loc]

/-- The route entry of a channel at a core's router. -/
def Core.route (c : Core) (ch : Chan) : Word := c.router.route[ch.toNat]

end Sys2Proof.Machine
end

