-- ==== Sys2Proof/Machine/Alu.lean ====
section
/-! DEFINITION. Sys2Proof/Machine/Alu.lean: integer operations (R128 to R132). -/

namespace Sys2Proof.Machine

/-- A 4-byte instruction that writes one g register and completes. -/
def State.put (s : State) (d : GReg) (x : Word) : State := (s.setG d x).done 4

/-- A shift count: bits [5:0] (R128). -/
def shiftCount (b : Word) : Nat := (b.extractLsb' 0 6).toNat

/-- DIV (R129): towards zero; a zero divisor and the one overflow saturate. -/
def divSigned (a b : Word) : Word :=
  if b = 0 then if a = 0 then 0 else if a.slt 0 then 0x8000000000000000 else 0x7FFFFFFFFFFFFFFF
  else if a = 0x8000000000000000 ∧ b = 0xFFFFFFFFFFFFFFFF then 0x7FFFFFFFFFFFFFFF
  else BitVec.ofInt 64 (a.toInt.tdiv b.toInt)

/-- DIVN (R129). -/
def divUnsigned (a b : Word) : Word :=
  if b = 0 then if a = 0 then 0 else 0xFFFFFFFFFFFFFFFF else BitVec.ofNat 64 (a.toNat / b.toNat)

/-- REM (R129): the sign follows a; a itself when b is zero. -/
def remSigned (a b : Word) : Word := if b = 0 then a else BitVec.ofInt 64 (a.toInt.tmod b.toInt)

/-- REMN (R129). -/
def remUnsigned (a b : Word) : Word := if b = 0 then a else BitVec.ofNat 64 (a.toNat % b.toNat)

/-- Zero bits above the highest one bit, of the `n` low bits. -/
def leadingZeros (x : Word) : Nat → Nat
  | 0 => 0
  | n + 1 => if x.getLsbD n then 0 else leadingZeros x n + 1

/-- Bit i is bit 63 - i of the operand. -/
def reverseBits (x : Word) : Word :=
  BitVec.ofNat 64 ((List.range 64).foldl (fun a i => if x.getLsbD (63 - i) then a + 2 ^ i else a) 0)

/-- The number of one bits. -/
def oneBits (x : Word) : Nat := ((List.range 64).filter fun i => x.getLsbD i).length

/-- ADD (R128). -/
def execAdd (d a b : GReg) (s : State) : Result := .next (s.put d (s.g a + s.g b))

/-- SUB (R128). -/
def execSub (d a b : GReg) (s : State) : Result := .next (s.put d (s.g a - s.g b))

/-- AND (R128). -/
def execAnd (d a b : GReg) (s : State) : Result := .next (s.put d (s.g a &&& s.g b))

/-- OR (R128). -/
def execOr (d a b : GReg) (s : State) : Result := .next (s.put d (s.g a ||| s.g b))

/-- XOR (R128). -/
def execXor (d a b : GReg) (s : State) : Result := .next (s.put d (s.g a ^^^ s.g b))

/-- SLL (R128): the count is b[5:0]. -/
def execSll (d a b : GReg) (s : State) : Result := .next (s.put d (s.g a <<< shiftCount (s.g b)))

/-- SRL (R128). -/
def execSrl (d a b : GReg) (s : State) : Result := .next (s.put d (s.g a >>> shiftCount (s.g b)))

/-- SRA (R128). -/
def execSra (d a b : GReg) (s : State) : Result := .next (s.put d ((s.g a).sshiftRight (shiftCount (s.g b))))

/-- SLT (R128). -/
def execSlt (d a b : GReg) (s : State) : Result := .next (s.put d (boolWord ((s.g a).slt (s.g b))))

/-- SLTN (R128). -/
def execSltn (d a b : GReg) (s : State) : Result := .next (s.put d (boolWord ((s.g a).ult (s.g b))))

/-- MIN (R128). -/
def execMin (d a b : GReg) (s : State) : Result := .next (s.put d (if (s.g b).slt (s.g a) then s.g b else s.g a))

/-- MAX (R128). -/
def execMax (d a b : GReg) (s : State) : Result := .next (s.put d (if (s.g a).slt (s.g b) then s.g b else s.g a))

/-- MINN (R128). -/
def execMinn (d a b : GReg) (s : State) : Result := .next (s.put d (if (s.g b).ult (s.g a) then s.g b else s.g a))

/-- MAXN (R128). -/
def execMaxn (d a b : GReg) (s : State) : Result := .next (s.put d (if (s.g a).ult (s.g b) then s.g b else s.g a))

/-- MUL (R128). -/
def execMul (d a b : GReg) (s : State) : Result := .next (s.put d (s.g a * s.g b))

/-- MULH (R128): bits [127:64] of the signed product. -/
def execMulh (d a b : GReg) (s : State) : Result := .next (s.put d (BitVec.ofInt 64 ((s.g a).toInt * (s.g b).toInt / 2 ^ 64)))

/-- MULHN (R128). -/
def execMulhn (d a b : GReg) (s : State) : Result := .next (s.put d (BitVec.ofNat 64 ((s.g a).toNat * (s.g b).toNat / 2 ^ 64)))

/-- DIV (R128, R129). -/
def execDiv (d a b : GReg) (s : State) : Result := .next (s.put d (divSigned (s.g a) (s.g b)))

/-- DIVN (R128, R129). -/
def execDivn (d a b : GReg) (s : State) : Result := .next (s.put d (divUnsigned (s.g a) (s.g b)))

/-- REM (R128, R129). -/
def execRem (d a b : GReg) (s : State) : Result := .next (s.put d (remSigned (s.g a) (s.g b)))

/-- REMN (R128, R129). -/
def execRemn (d a b : GReg) (s : State) : Result := .next (s.put d (remUnsigned (s.g a) (s.g b)))

/-- CLZ (R128). -/
def execClz (d a : GReg) (s : State) : Result := .next (s.put d (BitVec.ofNat 64 (leadingZeros (s.g a) 64)))

/-- CTZ (R128). -/
def execCtz (d a : GReg) (s : State) : Result := .next (s.put d (BitVec.ofNat 64 (leadingZeros (reverseBits (s.g a)) 64)))

/-- POPC (R128). -/
def execPopc (d a : GReg) (s : State) : Result := .next (s.put d (BitVec.ofNat 64 (oneBits (s.g a))))

/-- BREV (R128). -/
def execBrev (d a : GReg) (s : State) : Result := .next (s.put d (reverseBits (s.g a)))

/-- BSWAP (R128). -/
def execBswap (d a : GReg) (s : State) : Result := .next (s.put d (BitVec.ofNat 64 (ofLeBytes (leBytes 8 (s.g a).toNat).reverse)))

/-- SEXT of 8 bits (R128). -/
def execSextB (d a : GReg) (s : State) : Result := .next (s.put d (sext ((s.g a).extractLsb' 0 8)))

/-- SEXT of 16 bits (R128). -/
def execSextH (d a : GReg) (s : State) : Result := .next (s.put d (sext ((s.g a).extractLsb' 0 16)))

/-- SEXT of 32 bits (R128). -/
def execSextW (d a : GReg) (s : State) : Result := .next (s.put d (sext ((s.g a).extractLsb' 0 32)))

/-- ZEXT of 8 bits (R128). -/
def execZextB (d a : GReg) (s : State) : Result := .next (s.put d (zext ((s.g a).extractLsb' 0 8)))

/-- ZEXT of 16 bits (R128). -/
def execZextH (d a : GReg) (s : State) : Result := .next (s.put d (zext ((s.g a).extractLsb' 0 16)))

/-- ZEXT of 32 bits (R128). -/
def execZextW (d a : GReg) (s : State) : Result := .next (s.put d (zext ((s.g a).extractLsb' 0 32)))

/-- CMOVNZ (R128): gd keeps its value, and nothing is written, when b is zero. -/
def execCmovnz (d a b : GReg) (s : State) : Result :=
  if s.g b ≠ 0 then .next (s.put d (s.g a)) else .next (s.done 4)

/-- CMOVZ (R128). -/
def execCmovz (d a b : GReg) (s : State) : Result :=
  if s.g b = 0 then .next (s.put d (s.g a)) else .next (s.done 4)

/-- ADDSH1 (R128). -/
def execAddsh1 (d a b : GReg) (s : State) : Result := .next (s.put d ((s.g a <<< 1) + s.g b))

/-- ADDSH2 (R128). -/
def execAddsh2 (d a b : GReg) (s : State) : Result := .next (s.put d ((s.g a <<< 2) + s.g b))

/-- ADDSH3 (R128). -/
def execAddsh3 (d a b : GReg) (s : State) : Result := .next (s.put d ((s.g a <<< 3) + s.g b))

/-- QSHIFT (R102, R132): NV may trap, ZERO never does. -/
def execQshift (d a b : GReg) (s : State) : Result :=
  let (x, f) := qshift (s.lowG 32 a) (s.lowG 32 b)
  .next ((s.setG d (BitVec.ofInt 64 x)).finish f)

/-- ADDI (R130). -/
def execAddi (d a : GReg) (imm : BitVec 16) (s : State) : Result := .next (s.put d (s.g a + sext imm))

/-- ANDI (R130). -/
def execAndi (d a : GReg) (imm : BitVec 16) (s : State) : Result := .next (s.put d (s.g a &&& sext imm))

/-- ORI (R130). -/
def execOri (d a : GReg) (imm : BitVec 16) (s : State) : Result := .next (s.put d (s.g a ||| zext imm))

/-- XORI (R130). -/
def execXori (d a : GReg) (imm : BitVec 16) (s : State) : Result := .next (s.put d (s.g a ^^^ zext imm))

/-- SLTI (R130). -/
def execSlti (d a : GReg) (imm : BitVec 16) (s : State) : Result := .next (s.put d (boolWord ((s.g a).slt (sext imm))))

/-- SHI.sll (R130). -/
def execShiSll (d a : GReg) (n : BitVec 6) (s : State) : Result := .next (s.put d (s.g a <<< n.toNat))

/-- SHI.srl (R130). -/
def execShiSrl (d a : GReg) (n : BitVec 6) (s : State) : Result := .next (s.put d (s.g a >>> n.toNat))

/-- SHI.sra (R130). -/
def execShiSra (d a : GReg) (n : BitVec 6) (s : State) : Result := .next (s.put d ((s.g a).sshiftRight n.toNat))

/-- LIH (R130). -/
def execLih (d a : GReg) (imm : BitVec 16) (s : State) : Result := .next (s.put d (s.g a + (sext imm <<< 16)))

/-- LI48 (R131), a two-word form. -/
def execLi48 (d : GReg) (imm : BitVec 48) (s : State) : Result := .next ((s.setG d (sext imm)).done 8)

end Sys2Proof.Machine
end

