-- ==== Sys2Proof/Machine/Parts.lean ====
section
/-! DEFINITION. Sys2Proof/Machine/Parts.lean: instructions that make several accesses to the well (R138, R156, R161, R238). Each access
is single-copy atomic, their order among each other is not stated, and accesses of others may fall between them. State.split tells
which ones are made next (log entry 53). -/

namespace Sys2Proof.Machine

/-- Whether some block of a list is poison. -/
def anyPoison (bs : List Blk) : Bool := bs.any Blk.isPoison

/-- A b register from a line of words under a format: header, payload, and the mask word where there is one. -/
def BLine.ofWords (f : Bfmt) (ws : List Word) : BLine :=
  BLine.make f (ws.getD 0 0) ((ws.drop 1).take f.n) (ws.getD (f.n + 1) 0)

/-- The lowest poison element of a tile. -/
def Tile.firstPoison (t : Tile) : Option Nat := (t.toList.zipIdx.find? fun (a, _) => a.poi).map (·.2)

/-- The tile that 32 words hold (R84, R161). -/
def Tile.ofWords (ws : List Word) : Tile := Vector.ofFn fun n => accOfWords (ws.getD (2 * n.val) 0) (ws.getD (2 * n.val + 1) 0)

/-- A part of which no access has been made; an access that is not active is none. -/
def Part.start (xs : List (Elem × Bool)) (fin : PartEnd) : Part :=
  { elems := xs.map (·.1), got := xs.map fun x => if x.2 then none else some 0, fin := fin }

/-- The words of a run, as accesses; without data it loads. -/
def wordElems (a n : Nat) (data : List Word) : List (Elem × Bool) :=
  (List.range n).map fun i => ({ addr := a + 8 * i, nb := 8, data := ((data[i]?).map fun w => leBytes 8 w.toNat).getD [] }, true)

/-- Access i is still to be made. -/
def Part.isOpen (p : Part) (i : Nat) : Bool := decide (i < p.elems.length) && (p.got.getD i none).isNone

/-- Access i is made now: it is named, or one behind it to the same place is, so that the higher index prevails (R137). -/
def Part.now (p : Part) (mask : BitVec 32) (i : Nat) : Bool :=
  p.isOpen i && (List.range p.elems.length).any fun j =>
    decide (i ≤ j) && mask.getLsbD j && p.isOpen j && decide ((p.elems[i]?).map (·.addr) = (p.elems[j]?).map (·.addr))

/-- The first access still to be made that meets an uncorrectable word: a load, or a store narrower than a word (R137, R155). -/
def Part.firstBad (p : Part) (w : Well) : Option Elem :=
  (p.elems.zipIdx.find? fun (e, i) => p.isOpen i && (e.data.isEmpty || decide (e.nb < 8)) && w.badIn e.addr e.nb).map (·.1)

/-- One access made. -/
def State.makeElem (s : State) (e : Elem) : State :=
  if e.data.isEmpty then s.touch e.addr e.nb else s.storeUnsigned e.addr e.data

/-- The accesses that a mask names made, in index order. -/
def State.makeElems (s : State) (p : Part) (mask : BitVec 32) : State :=
  p.elems.zipIdx.foldl (fun t (e, i) => if p.now mask i then t.makeElem e else t) s

/-- The part as they have been made, with what they have read. -/
def Part.made (p : Part) (w : Well) (mask : BitVec 32) : Part :=
  { p with got := p.elems.zipIdx.map fun (e, i) =>
      if p.now mask i then some (if e.data.isEmpty then w.readNat e.addr e.nb else 0) else p.got.getD i none }

/-- Every access has been made. -/
def Part.done (p : Part) : Bool := p.got.all (·.isSome)

/-- The values that the accesses of a part have read. -/
def Part.values (p : Part) : List Nat := p.got.map fun x => x.getD 0

/-- The words that they have read. -/
def Part.words (p : Part) : List Word := p.values.map (BitVec.ofNat 64)

/-- The bytes that a part has stored enter the signature in index order (R361). -/
def State.signStored (s : State) (p : Part) : State := s.mapCore fun c => c.sign (p.elems.flatMap (·.data))

/-- An instruction whose accesses are made ends (R137, R155, R161, R238). -/
def State.partEnd (s : State) (p : Part) : State :=
  match p.fin with
  | .vload v k bits => (s.setV v (vmerge bits k (s.v v) p.values)).done 4
  | .vstore => (s.signStored p).done 4
  | .line b f =>
    let x := BLine.ofWords f p.words
    ((s.setB b x).seePoison (anyPoison (x.blks f))).done 4
  | .tile m =>
    let t := Tile.ofWords p.words
    ((s.setM m t).seePoison t.firstPoison.isSome).done 4
  | .lineStore poison | .tileStore poison => ((s.signStored p).seePoison poison).done 4

/-- The acting strand makes the accesses of its instruction that a mask names; UE_WELL where one that is left meets an uncorrectable
word, with the address of the first, but in BMRS, of which no rule states TRAPVAL (log entry 5). -/
def State.partStep (s : State) (p : Part) (mask : BitVec 32) : State :=
  match p.firstBad s.core.well with
  | some e => match p.fin with
    | .tile _ => s.trapFree Code.ueWell 4
    | _ => s.trap Code.ueWell (BitVec.ofNat 64 e.addr) 4
  | none =>
    let p1 := p.made s.core.well mask
    let s1 := s.makeElems p mask
    if p1.done then (s1.setSt fun st => { st with part := none }).partEnd p1 else s1.setSt fun st => { st with part := some p1 }

/-- Every access at once. -/
def allElems : BitVec 32 := 0xFFFFFFFF

/-- An instruction with several accesses goes on: with those that State.split names, else with all that are left. -/
def State.partAgain (s : State) (p : Part) : State :=
  match s.split with
  | [] => s.partStep p allElems
  | m :: rest => { s with split := rest }.partStep p m

/-- An instruction with several accesses is issued: it makes those that State.split names, else all of them in this step, which is
then `whole`. -/
def State.accesses (s : State) (p : Part) (whole : State) : State :=
  match s.split with
  | [] => whole
  | m :: rest => { s with split := rest }.partStep p m

/-- A strand of the acting core makes all that is left of its accesses: the instruction boundary at which QUIESCE finds it (R331). -/
def State.finishPart (s : State) (n : StrandNo) : State :=
  match (s.core.strand n).part with
  | none => s
  | some p => { { s with cur := n }.partStep p allElems with cur := s.cur }

/-- The same for every strand of the acting core. -/
def State.finishParts (s : State) : State := strandNos.foldl State.finishPart s

end Sys2Proof.Machine
end

