-- ==== Sys2Proof/Machine/Float.lean ====
section
/-! DEFINITION. Sys2Proof/Machine/Float.lean: scalar floating point (R133 to R136). Rounding and NaN rules stand in Num.lean. -/

namespace Sys2Proof.Machine

/-- A floating-point result of a member that raises flags: bits above the width are cleared (R124). -/
def State.putFp (s : State) (d : GReg) (r : Nat × Flags) : State := (s.setG d (BitVec.ofNat 64 r.1)).finish r.2

/-- A compare's result (R124). -/
def State.putCmp (s : State) (d : GReg) (r : Bool × Flags) : State := (s.setG d (boolWord r.1)).finish r.2

/-- FADD (R133). -/
def execFadd (d a b : GReg) (rm : Rm) (p : Prec) (s : State) : Result :=
  .next (s.putFp d (p.fmt.add (s.mode rm) (s.fpG p a) (s.fpG p b)))

/-- FSUB (R133). -/
def execFsub (d a b : GReg) (rm : Rm) (p : Prec) (s : State) : Result :=
  .next (s.putFp d (p.fmt.sub (s.mode rm) (s.fpG p a) (s.fpG p b)))

/-- FMUL (R133). -/
def execFmul (d a b : GReg) (rm : Rm) (p : Prec) (s : State) : Result :=
  .next (s.putFp d (p.fmt.mul (s.mode rm) (s.fpG p a) (s.fpG p b)))

/-- FDIV (R133). -/
def execFdiv (d a b : GReg) (rm : Rm) (p : Prec) (s : State) : Result :=
  .next (s.putFp d (p.fmt.div (s.mode rm) (s.fpG p a) (s.fpG p b)))

/-- FSQRT (R133). -/
def execFsqrt (d a : GReg) (rm : Rm) (p : Prec) (s : State) : Result :=
  .next (s.putFp d (p.fmt.sqrt (s.mode rm) (s.fpG p a)))

/-- FMIN (R134). -/
def execFmin (d a b : GReg) (p : Prec) (s : State) : Result := .next (s.putFp d (p.fmt.fmin (s.fpG p a) (s.fpG p b)))

/-- FMAX (R134). -/
def execFmax (d a b : GReg) (p : Prec) (s : State) : Result := .next (s.putFp d (p.fmt.fmax (s.fpG p a) (s.fpG p b)))

/-- FEQ (R134). -/
def execFeq (d a b : GReg) (p : Prec) (s : State) : Result := .next (s.putCmp d (p.fmt.feq (s.fpG p a) (s.fpG p b)))

/-- FLT (R134). -/
def execFlt (d a b : GReg) (p : Prec) (s : State) : Result := .next (s.putCmp d (p.fmt.flt (s.fpG p a) (s.fpG p b)))

/-- FLE (R134). -/
def execFle (d a b : GReg) (p : Prec) (s : State) : Result := .next (s.putCmp d (p.fmt.fle (s.fpG p a) (s.fpG p b)))

/-- FCLASS (R134). -/
def execFclass (d a : GReg) (p : Prec) (s : State) : Result :=
  .next (s.put d (BitVec.ofNat 64 (p.fmt.fclass (s.fpG p a))))

/-- A pattern with its sign bit replaced (R133). -/
def signTo (f : FFmt) (x : Nat) (neg : Bool) : Nat := f.withSign neg (x % f.signBit)

/-- The sign bit of a pattern. -/
def signOf (f : FFmt) (x : Nat) : Bool := x / f.signBit % 2 = 1

/-- FSGCP (R133). -/
def execFsgcp (d a b : GReg) (p : Prec) (s : State) : Result :=
  .next (s.put d (BitVec.ofNat 64 (signTo p.fmt (s.fpG p a) (signOf p.fmt (s.fpG p b)))))

/-- FSGCN (R133). -/
def execFsgcn (d a b : GReg) (p : Prec) (s : State) : Result :=
  .next (s.put d (BitVec.ofNat 64 (signTo p.fmt (s.fpG p a) (!signOf p.fmt (s.fpG p b)))))

/-- FSGXR (R133). -/
def execFsgxr (d a b : GReg) (p : Prec) (s : State) : Result :=
  .next (s.put d (BitVec.ofNat 64 (signTo p.fmt (s.fpG p a) (signOf p.fmt (s.fpG p a) != signOf p.fmt (s.fpG p b)))))

/-- FMA (R135). -/
def execFma (d a b c : GReg) (p : Prec) (rm : Rm) (s : State) : Result :=
  .next (s.putFp d (p.fmt.fma (s.mode rm) false false (s.fpG p a) (s.fpG p b) (s.fpG p c)))

/-- FMS (R135). -/
def execFms (d a b c : GReg) (p : Prec) (rm : Rm) (s : State) : Result :=
  .next (s.putFp d (p.fmt.fma (s.mode rm) false true (s.fpG p a) (s.fpG p b) (s.fpG p c)))

/-- FNMA (R135). -/
def execFnma (d a b c : GReg) (p : Prec) (rm : Rm) (s : State) : Result :=
  .next (s.putFp d (p.fmt.fma (s.mode rm) true false (s.fpG p a) (s.fpG p b) (s.fpG p c)))

/-- FNMS (R135). -/
def execFnms (d a b c : GReg) (p : Prec) (rm : Rm) (s : State) : Result :=
  .next (s.putFp d (p.fmt.fma (s.mode rm) true true (s.fpG p a) (s.fpG p b) (s.fpG p c)))

/-- FCVT (R136): the source from the low bits of ga, the result by R124. -/
def execFcvt (d a : GReg) (sat : Bool) (rm : Rm) (src dst : Ty) (s : State) : Result :=
  let r := convert src dst (s.mode rm) sat (s.lowG src.bits a)
  .next ((s.setG d (resultOf dst r.1)).finish r.2)

end Sys2Proof.Machine
end

