-- ==== Sys2Proof/Machine/Vec.lean ====
section
/-! DEFINITION. Sys2Proof/Machine/Vec.lean: vector floating point (R139 to R142), vector integers (R143), permutes, masks and
reductions (R144 to R146), VCVT (R147, R148), VRNG (R149). -/

namespace Sys2Proof.Machine

/-- The indices of the active elements of width w (R41). -/
def actives (w : Nat) (k : BitVec 8) : List Nat := (List.range (256 / w)).filter (kbit w k)

/-- The union of the flags of the active elements (R126). -/
def unionFlags (w : Nat) (k : BitVec 8) (f : Nat → Flags) : Flags := (actives w k).foldl (fun a i => a ||| f i) 0

/-- A vector operation with flags: each active element gets its result, then the flags are raised (R125, R126). -/
def State.vfp (s : State) (w : Nat) (d : VReg) (k : KReg) (f : Nat → Nat × Flags) : State :=
  (s.setV d (vmerge w (s.k k) (s.v d) ((List.range (256 / w)).map fun i => (f i).1))).finish
    (unionFlags w (s.k k) fun i => (f i).2)

/-- A vector operation without flags (R127). -/
def State.vint (s : State) (w : Nat) (d : VReg) (k : KReg) (f : Nat → Nat) : State :=
  (s.setV d (vmerge w (s.k k) (s.v d) ((List.range (256 / w)).map f))).done 4

/-- A vector compare: kd by R141, then the flags. -/
def State.vcmp (s : State) (w : Nat) (d : KReg) (k : KReg) (f : Nat → Bool × Flags) : State :=
  (s.setK d (kOf w ((List.range (256 / w)).map fun i => kbit w (s.k k) i && (f i).1))).finish
    (unionFlags w (s.k k) fun i => (f i).2)

/-! ## Vector floating point (R139 to R142) -/

/-- VFADD (R139). -/
def execVfadd (d a b : VReg) (k : KReg) (p : Prec) (s : State) : Result :=
  .next (s.vfp p.fmt.bits d k fun i => p.fmt.add s.rm (velem p.fmt.bits (s.v a) i) (velem p.fmt.bits (s.v b) i))

/-- VFSUB (R139). -/
def execVfsub (d a b : VReg) (k : KReg) (p : Prec) (s : State) : Result :=
  .next (s.vfp p.fmt.bits d k fun i => p.fmt.sub s.rm (velem p.fmt.bits (s.v a) i) (velem p.fmt.bits (s.v b) i))

/-- VFMUL (R139). -/
def execVfmul (d a b : VReg) (k : KReg) (p : Prec) (s : State) : Result :=
  .next (s.vfp p.fmt.bits d k fun i => p.fmt.mul s.rm (velem p.fmt.bits (s.v a) i) (velem p.fmt.bits (s.v b) i))

/-- VFDIV (R139). -/
def execVfdiv (d a b : VReg) (k : KReg) (p : Prec) (s : State) : Result :=
  .next (s.vfp p.fmt.bits d k fun i => p.fmt.div s.rm (velem p.fmt.bits (s.v a) i) (velem p.fmt.bits (s.v b) i))

/-- VFSQRT (R139). -/
def execVfsqrt (d a : VReg) (k : KReg) (p : Prec) (s : State) : Result :=
  .next (s.vfp p.fmt.bits d k fun i => p.fmt.sqrt s.rm (velem p.fmt.bits (s.v a) i))

/-- VFMIN (R139). -/
def execVfmin (d a b : VReg) (k : KReg) (p : Prec) (s : State) : Result :=
  .next (s.vfp p.fmt.bits d k fun i => p.fmt.fmin (velem p.fmt.bits (s.v a) i) (velem p.fmt.bits (s.v b) i))

/-- VFMAX (R139). -/
def execVfmax (d a b : VReg) (k : KReg) (p : Prec) (s : State) : Result :=
  .next (s.vfp p.fmt.bits d k fun i => p.fmt.fmax (velem p.fmt.bits (s.v a) i) (velem p.fmt.bits (s.v b) i))

/-- VFABS (R139): the sign bit cleared. -/
def execVfabs (d a : VReg) (k : KReg) (p : Prec) (s : State) : Result :=
  .next (s.vfp p.fmt.bits d k fun i => (signTo p.fmt (velem p.fmt.bits (s.v a) i) false, 0))

/-- VFNEG (R139): the sign bit inverted. -/
def execVfneg (d a : VReg) (k : KReg) (p : Prec) (s : State) : Result :=
  .next (s.vfp p.fmt.bits d k fun i => (signTo p.fmt (velem p.fmt.bits (s.v a) i) (!signOf p.fmt (velem p.fmt.bits (s.v a) i)), 0))

/-- VFEQ (R139, R141). -/
def execVfeq (d : KReg) (a b : VReg) (k : KReg) (p : Prec) (s : State) : Result :=
  .next (s.vcmp p.fmt.bits d k fun i => p.fmt.feq (velem p.fmt.bits (s.v a) i) (velem p.fmt.bits (s.v b) i))

/-- VFLT (R139, R141). -/
def execVflt (d : KReg) (a b : VReg) (k : KReg) (p : Prec) (s : State) : Result :=
  .next (s.vcmp p.fmt.bits d k fun i => p.fmt.flt (velem p.fmt.bits (s.v a) i) (velem p.fmt.bits (s.v b) i))

/-- VFLE (R139, R141). -/
def execVfle (d : KReg) (a b : VReg) (k : KReg) (p : Prec) (s : State) : Result :=
  .next (s.vcmp p.fmt.bits d k fun i => p.fmt.fle (velem p.fmt.bits (s.v a) i) (velem p.fmt.bits (s.v b) i))

/-- VFRCP (R140). -/
def execVfrcp (d a : VReg) (k : KReg) (s : State) : Result :=
  .next (s.vfp 32 d k fun i => vfrcp s.rm (velem 32 (s.v a) i))

/-- VFRSQ (R140). -/
def execVfrsq (d a : VReg) (k : KReg) (s : State) : Result :=
  .next (s.vfp 32 d k fun i => vfrsq s.rm (velem 32 (s.v a) i))

/-- VFEX2 (R140). -/
def execVfex2 (d a : VReg) (k : KReg) (s : State) : Result :=
  .next (s.vfp 32 d k fun i => vfex2 s.rm (velem 32 (s.v a) i))

/-- VFLG2 (R140). -/
def execVflg2 (d a : VReg) (k : KReg) (s : State) : Result :=
  .next (s.vfp 32 d k fun i => vflg2 s.rm (velem 32 (s.v a) i))

/-- VFTANH (R140). -/
def execVftanh (d a : VReg) (k : KReg) (s : State) : Result :=
  .next (s.vfp 32 d k fun i => vftanh s.rm (velem 32 (s.v a) i))

/-- VFMA (R142). -/
def execVfma (d a b c : VReg) (k : KReg) (p : Prec) (s : State) : Result :=
  .next (s.vfp p.fmt.bits d k fun i => p.fmt.fma s.rm false false (velem p.fmt.bits (s.v a) i) (velem p.fmt.bits (s.v b) i) (velem p.fmt.bits (s.v c) i))

/-- VFMS (R142). -/
def execVfms (d a b c : VReg) (k : KReg) (p : Prec) (s : State) : Result :=
  .next (s.vfp p.fmt.bits d k fun i => p.fmt.fma s.rm false true (velem p.fmt.bits (s.v a) i) (velem p.fmt.bits (s.v b) i) (velem p.fmt.bits (s.v c) i))

/-- VFNMA (R142). -/
def execVfnma (d a b c : VReg) (k : KReg) (p : Prec) (s : State) : Result :=
  .next (s.vfp p.fmt.bits d k fun i => p.fmt.fma s.rm true false (velem p.fmt.bits (s.v a) i) (velem p.fmt.bits (s.v b) i) (velem p.fmt.bits (s.v c) i))

/-- VFNMS (R142). -/
def execVfnms (d a b c : VReg) (k : KReg) (p : Prec) (s : State) : Result :=
  .next (s.vfp p.fmt.bits d k fun i => p.fmt.fma s.rm true true (velem p.fmt.bits (s.v a) i) (velem p.fmt.bits (s.v b) i) (velem p.fmt.bits (s.v c) i))

/-! ## Vector integers (R143) -/

/-- A signed element result modulo 2^w. -/
def wrapInt (w : Nat) (x : Int) : Nat := natOfInt w x

/-- A signed sum or difference clamped to w bits (R143). -/
def clampSigned (w : Nat) (x : Int) : Nat := natOfInt w (clampInt (-(2 ^ (w - 1) : Nat)) ((2 ^ (w - 1) : Nat) - 1) x)

/-- An unsigned sum or difference clamped to w bits (R143). -/
def clampNat (w : Nat) (x : Int) : Nat := natOfInt w (clampInt 0 ((2 ^ w : Nat) - 1) x)

/-- The count of a vector shift: the low log2 w bits (R143). -/
def vcount (w b : Nat) : Nat := b % w

/-- Element result of VADD (R143). -/
def vopVadd (w x y : Nat) : Nat := (x + y) % 2 ^ w

/-- VADD (R143). -/
def execVadd (d a b : VReg) (k : KReg) (esz : Sz) (s : State) : Result :=
  .next (s.vint esz.bits d k fun i => vopVadd esz.bits (velem esz.bits (s.v a) i) (velem esz.bits (s.v b) i))

/-- Element result of VSUB (R143). -/
def vopVsub (w x y : Nat) : Nat := wrapInt w ((x : Int) - y)

/-- VSUB (R143). -/
def execVsub (d a b : VReg) (k : KReg) (esz : Sz) (s : State) : Result :=
  .next (s.vint esz.bits d k fun i => vopVsub esz.bits (velem esz.bits (s.v a) i) (velem esz.bits (s.v b) i))

/-- Element result of VMUL (R143). -/
def vopVmul (w x y : Nat) : Nat := x * y % 2 ^ w

/-- VMUL (R143). -/
def execVmul (d a b : VReg) (k : KReg) (esz : Sz) (s : State) : Result :=
  .next (s.vint esz.bits d k fun i => vopVmul esz.bits (velem esz.bits (s.v a) i) (velem esz.bits (s.v b) i))

/-- Element result of VMULH (R143). -/
def vopVmulh (w x y : Nat) : Nat := wrapInt w (intOfNat w x * intOfNat w y / (2 ^ w : Nat))

/-- VMULH (R143). -/
def execVmulh (d a b : VReg) (k : KReg) (esz : Sz) (s : State) : Result :=
  .next (s.vint esz.bits d k fun i => vopVmulh esz.bits (velem esz.bits (s.v a) i) (velem esz.bits (s.v b) i))

/-- Element result of VMULHN (R143). -/
def vopVmulhn (w x y : Nat) : Nat := x * y / 2 ^ w

/-- VMULHN (R143). -/
def execVmulhn (d a b : VReg) (k : KReg) (esz : Sz) (s : State) : Result :=
  .next (s.vint esz.bits d k fun i => vopVmulhn esz.bits (velem esz.bits (s.v a) i) (velem esz.bits (s.v b) i))

/-- Element result of VAND (R143). -/
def vopVand (_w x y : Nat) : Nat := x &&& y

/-- VAND (R143). -/
def execVand (d a b : VReg) (k : KReg) (esz : Sz) (s : State) : Result :=
  .next (s.vint esz.bits d k fun i => vopVand esz.bits (velem esz.bits (s.v a) i) (velem esz.bits (s.v b) i))

/-- Element result of VOR (R143). -/
def vopVor (_w x y : Nat) : Nat := x ||| y

/-- VOR (R143). -/
def execVor (d a b : VReg) (k : KReg) (esz : Sz) (s : State) : Result :=
  .next (s.vint esz.bits d k fun i => vopVor esz.bits (velem esz.bits (s.v a) i) (velem esz.bits (s.v b) i))

/-- Element result of VXOR (R143). -/
def vopVxor (_w x y : Nat) : Nat := x ^^^ y

/-- VXOR (R143). -/
def execVxor (d a b : VReg) (k : KReg) (esz : Sz) (s : State) : Result :=
  .next (s.vint esz.bits d k fun i => vopVxor esz.bits (velem esz.bits (s.v a) i) (velem esz.bits (s.v b) i))

/-- Element result of VSLL (R143). -/
def vopVsll (w x y : Nat) : Nat := x * 2 ^ vcount w y % 2 ^ w

/-- VSLL (R143). -/
def execVsll (d a b : VReg) (k : KReg) (esz : Sz) (s : State) : Result :=
  .next (s.vint esz.bits d k fun i => vopVsll esz.bits (velem esz.bits (s.v a) i) (velem esz.bits (s.v b) i))

/-- Element result of VSRL (R143). -/
def vopVsrl (w x y : Nat) : Nat := x / 2 ^ vcount w y

/-- VSRL (R143). -/
def execVsrl (d a b : VReg) (k : KReg) (esz : Sz) (s : State) : Result :=
  .next (s.vint esz.bits d k fun i => vopVsrl esz.bits (velem esz.bits (s.v a) i) (velem esz.bits (s.v b) i))

/-- Element result of VSRA (R143). -/
def vopVsra (w x y : Nat) : Nat := wrapInt w (floorShift (intOfNat w x) (vcount w y))

/-- VSRA (R143). -/
def execVsra (d a b : VReg) (k : KReg) (esz : Sz) (s : State) : Result :=
  .next (s.vint esz.bits d k fun i => vopVsra esz.bits (velem esz.bits (s.v a) i) (velem esz.bits (s.v b) i))

/-- Element result of VMIN (R143). -/
def vopVmin (w x y : Nat) : Nat := if intOfNat w y < intOfNat w x then y else x

/-- VMIN (R143). -/
def execVmin (d a b : VReg) (k : KReg) (esz : Sz) (s : State) : Result :=
  .next (s.vint esz.bits d k fun i => vopVmin esz.bits (velem esz.bits (s.v a) i) (velem esz.bits (s.v b) i))

/-- Element result of VMAX (R143). -/
def vopVmax (w x y : Nat) : Nat := if intOfNat w x < intOfNat w y then y else x

/-- VMAX (R143). -/
def execVmax (d a b : VReg) (k : KReg) (esz : Sz) (s : State) : Result :=
  .next (s.vint esz.bits d k fun i => vopVmax esz.bits (velem esz.bits (s.v a) i) (velem esz.bits (s.v b) i))

/-- Element result of VMINN (R143). -/
def vopVminn (_w x y : Nat) : Nat := if y < x then y else x

/-- VMINN (R143). -/
def execVminn (d a b : VReg) (k : KReg) (esz : Sz) (s : State) : Result :=
  .next (s.vint esz.bits d k fun i => vopVminn esz.bits (velem esz.bits (s.v a) i) (velem esz.bits (s.v b) i))

/-- Element result of VMAXN (R143). -/
def vopVmaxn (_w x y : Nat) : Nat := if x < y then y else x

/-- VMAXN (R143). -/
def execVmaxn (d a b : VReg) (k : KReg) (esz : Sz) (s : State) : Result :=
  .next (s.vint esz.bits d k fun i => vopVmaxn esz.bits (velem esz.bits (s.v a) i) (velem esz.bits (s.v b) i))

/-- Element result of VADDS (R143). -/
def vopVadds (w x y : Nat) : Nat := clampSigned w (intOfNat w x + intOfNat w y)

/-- VADDS (R143). -/
def execVadds (d a b : VReg) (k : KReg) (esz : Sz) (s : State) : Result :=
  .next (s.vint esz.bits d k fun i => vopVadds esz.bits (velem esz.bits (s.v a) i) (velem esz.bits (s.v b) i))

/-- Element result of VSUBS (R143). -/
def vopVsubs (w x y : Nat) : Nat := clampSigned w (intOfNat w x - intOfNat w y)

/-- VSUBS (R143). -/
def execVsubs (d a b : VReg) (k : KReg) (esz : Sz) (s : State) : Result :=
  .next (s.vint esz.bits d k fun i => vopVsubs esz.bits (velem esz.bits (s.v a) i) (velem esz.bits (s.v b) i))

/-- Element result of VADDSN (R143). -/
def vopVaddsn (w x y : Nat) : Nat := clampNat w ((x : Int) + y)

/-- VADDSN (R143). -/
def execVaddsn (d a b : VReg) (k : KReg) (esz : Sz) (s : State) : Result :=
  .next (s.vint esz.bits d k fun i => vopVaddsn esz.bits (velem esz.bits (s.v a) i) (velem esz.bits (s.v b) i))

/-- Element result of VSUBSN (R143). -/
def vopVsubsn (w x y : Nat) : Nat := clampNat w ((x : Int) - y)

/-- VSUBSN (R143). -/
def execVsubsn (d a b : VReg) (k : KReg) (esz : Sz) (s : State) : Result :=
  .next (s.vint esz.bits d k fun i => vopVsubsn esz.bits (velem esz.bits (s.v a) i) (velem esz.bits (s.v b) i))

/-- VEQ (R141, R143). -/
def execVeq (d : KReg) (a b : VReg) (k : KReg) (e64 : Bool) (s : State) : Result :=
  let w := if e64 then 64 else 32
  .next (s.vcmp w d k fun i => let x := velem w (s.v a) i; let y := velem w (s.v b) i; (decide (x = y), 0))

/-- VLT (R141, R143). -/
def execVlt (d : KReg) (a b : VReg) (k : KReg) (e64 : Bool) (s : State) : Result :=
  let w := if e64 then 64 else 32
  .next (s.vcmp w d k fun i => let x := velem w (s.v a) i; let y := velem w (s.v b) i; (decide (intOfNat w x < intOfNat w y), 0))

/-- VLTN (R141, R143). -/
def execVltn (d : KReg) (a b : VReg) (k : KReg) (e64 : Bool) (s : State) : Result :=
  let w := if e64 then 64 else 32
  .next (s.vcmp w d k fun i => let x := velem w (s.v a) i; let y := velem w (s.v b) i; (decide (x < y), 0))

/-- VABS (R143): the most negative element stays. -/
def execVabs (d a : VReg) (k : KReg) (esz : Sz) (s : State) : Result :=
  .next (s.vint esz.bits d k fun i => natOfInt esz.bits (intOfNat esz.bits (velem esz.bits (s.v a) i)).natAbs)

/-! ## Permutes and masks (R144) -/

/-- VPERM (R144). -/
def execVperm (d a b : VReg) (k : KReg) (esz : Sz) (s : State) : Result :=
  .next (s.vint esz.bits d k fun i => velem esz.bits (s.v a) (velem esz.bits (s.v b) i % esz.count))

/-- VBCAST (R144). -/
def execVbcast (d : VReg) (a : GReg) (k : KReg) (esz : Sz) (s : State) : Result :=
  .next (s.vint esz.bits d k fun _ => s.lowG esz.bits a)

/-- VEXT (R144). -/
def execVext (d : GReg) (a : VReg) (x : BitVec 7) (esz : Sz) (s : State) : Result :=
  .next (s.put d (BitVec.ofNat 64 (velem esz.bits (s.v a) x.toNat)))

/-- VINS (R144). -/
def execVins (d : VReg) (a : GReg) (x : BitVec 7) (esz : Sz) (s : State) : Result :=
  .next ((s.setV d (vOf esz.bits ((velems esz.bits (s.v d)).set x.toNat (s.lowG esz.bits a)))).done 4)

/-- VSEL (R144): every element is written. -/
def execVsel (d a b : VReg) (k : KReg) (esz : Sz) (s : State) : Result :=
  .next ((s.setV d (vmerge esz.bits (s.k k) (s.v b) (velems esz.bits (s.v a)))).done 4)

/-- VMOV (R144). -/
def execVmov (d a : VReg) (k : KReg) (esz : Sz) (s : State) : Result :=
  .next (s.vint esz.bits d k fun i => velem esz.bits (s.v a) i)

/-- VZIP (R144). -/
def execVzip (d a b : VReg) (k : KReg) (esz : Sz) (s : State) : Result :=
  .next (s.vint esz.bits d k fun i => velem esz.bits (s.v (if i % 2 = 0 then a else b)) (i / 2))

/-- VUNZIP (R144). -/
def execVunzip (d a b : VReg) (k : KReg) (esz : Sz) (s : State) : Result :=
  .next (s.vint esz.bits d k fun i =>
    if i < esz.count / 2 then velem esz.bits (s.v a) (2 * i) else velem esz.bits (s.v b) (2 * (i - esz.count / 2)))

/-- VROT (R144). -/
def execVrot (d a : VReg) (c : BitVec 8) (k : KReg) (esz : Sz) (s : State) : Result :=
  .next (s.vint esz.bits d k fun i => velem esz.bits (s.v a) ((i + c.toNat) % esz.count))

/-- KAND (R144). -/
def execKand (d a b : KReg) (s : State) : Result := .next ((s.setK d (s.k a &&& s.k b)).done 4)

/-- KOR (R144). -/
def execKor (d a b : KReg) (s : State) : Result := .next ((s.setK d (s.k a ||| s.k b)).done 4)

/-- KNOT (R144). -/
def execKnot (d a : KReg) (s : State) : Result := .next ((s.setK d (~~~(s.k a))).done 4)

/-- KMOV kd, ka (R144). -/
def execKmovKk (d a : KReg) (s : State) : Result := .next ((s.setK d (s.k a)).done 4)

/-- KMOV kd, ga (R144). -/
def execKmovKg (d : KReg) (a : GReg) (s : State) : Result := .next ((s.setK d ((s.g a).extractLsb' 0 8)).done 4)

/-- KMOV gd, ka (R144). -/
def execKmovGk (d : GReg) (a : KReg) (s : State) : Result := .next (s.put d (zext (s.k a)))

/-! ## Reductions and selection (R145, R146, R122) -/

/-- A node of the tree: an empty side gives the other (R145). -/
def redNode (op : Nat → Nat → Nat × Flags) (p q : Option (Nat × Flags)) : Option (Nat × Flags) :=
  match p, q with
  | none, q => q
  | p, none => p
  | some (x, fx), some (y, fy) => let (z, fz) := op x y; some (z, fx ||| fy ||| fz)

/-- One level of the tree. -/
def redLevel (op : Nat → Nat → Nat × Flags) : List (Option (Nat × Flags)) → List (Option (Nat × Flags))
  | p :: q :: rest => redNode op p q :: redLevel op rest
  | xs => xs

/-- The tree over the active elements: value and flags (R145). -/
def redTree (w : Nat) (k : BitVec 8) (x : VWord) (op : Nat → Nat → Nat × Flags) : Nat × Flags :=
  let leaves := (List.range (256 / w)).map fun i => if kbit w k i then some (velem w x i, (0 : Flags)) else none
  let lv := redLevel op (redLevel op (redLevel op leaves))
  match lv with
  | some r :: _ => r
  | _ => (0, 0)

/-- VREDADD (R145). -/
def execVredadd (d a : VReg) (k : KReg) (p : Prec) (s : State) : Result :=
  let r := redTree p.fmt.bits (s.k k) (s.v a) (p.fmt.add s.rm)
  .next ((s.setV d (vOf p.fmt.bits [r.1])).finish r.2)

/-- VREDMAX (R145). -/
def execVredmax (d a : VReg) (k : KReg) (p : Prec) (s : State) : Result :=
  let r := redTree p.fmt.bits (s.k k) (s.v a) p.fmt.fmax
  .next ((s.setV d (vOf p.fmt.bits [r.1])).finish r.2)

/-- VREDMIN (R145). -/
def execVredmin (d a : VReg) (k : KReg) (p : Prec) (s : State) : Result :=
  let r := redTree p.fmt.bits (s.k k) (s.v a) p.fmt.fmin
  .next ((s.setV d (vOf p.fmt.bits [r.1])).finish r.2)

/-- The selection of R122 among candidates in rising index order: value pattern and index, none without candidates. The
better candidate is the one `better` puts strictly before the other, so ties keep the lowest index. -/
def pickVal (f : FFmt) (better : FVal → FVal → Bool) (cs : List (Nat × Nat)) : Option (Nat × Nat) :=
  match cs.find? fun (x, _) => match f.decode x with | .nan _ _ _ => true | _ => false with
  | some (x, i) => some ((f.nanOf [f.decode x]).elim 0 (·.1), i)
  | none => cs.foldl (fun a (x, i) => match a with
      | none => some (x, i)
      | some (y, j) => if better (f.decode x) (f.decode y) then some (x, i) else some (y, j)) none

/-- A signalling NaN candidate raises NV (R122). -/
def pickFlags (f : FFmt) (cs : List (Nat × Nat)) : Flags :=
  Flags.when (cs.any fun (x, _) => match f.decode x with | .nan _ _ sg => sg | _ => false) .nv

/-- VMAXX and VMINX (R146). -/
def State.vpick (s : State) (d a : VReg) (k : KReg) (f : FFmt) (better : FVal → FVal → Bool) : State :=
  let cs := (actives f.bits (s.k k)).map fun i => (velem f.bits (s.v a) i, i)
  let r := (pickVal f better cs).getD (f.nan, 2 ^ f.bits - 1)
  (s.setV d (vOf f.bits [r.1, r.2])).finish (pickFlags f cs)

/-- VMAXX (R146). -/
def execVmaxx (d a : VReg) (k : KReg) (p : Prec) (s : State) : Result :=
  .next (s.vpick d a k p.fmt fun x y => FFmt.ltZeros y x)

/-- VMINX (R146). -/
def execVminx (d a : VReg) (k : KReg) (p : Prec) (s : State) : Result := .next (s.vpick d a k p.fmt FFmt.ltZeros)

/-! ## VCVT and VRNG (R147 to R149) -/

/-- The random value of element i of n under STO (R148). -/
def stoRandom (n : Nat) (vr : VWord) (i : Nat) : Nat :=
  if n ≤ 8 then natBits vr.toNat (32 * i + 16) 16 else natBits vr.toNat (16 * (i % 16)) 16

/-- VCVT (R147): the wider type's elements govern; bits beyond the results are cleared. -/
def execVcvt (d a : VReg) (dst : Ty) (sat : Bool) (vr : BitVec 3) (k : KReg) (rm : Rm) (src : Ty) (s : State) : Result :=
  let wide := Nat.max src.bits dst.bits
  let n := 256 / wide
  let r (i : Nat) : Nat × Flags :=
    convert src dst (Mode.ofRm rm s.st.fmode (stoRandom n (s.v (vr.zeroExtend 4)) i)) sat (velem src.bits (s.v a) i)
  let new := (List.range n).map fun i => if kbit wide (s.k k) i then (r i).1 else velem dst.bits (s.v d) i
  .next ((s.setV d (vOf dst.bits new)).finish (unionFlags wide (s.k k) fun i => (r i).2))

/-- VRNG (R149). -/
def execVrng (d a b : VReg) (k : KReg) (s : State) : Result :=
  .next (s.vint 32 d k fun i =>
    (rmx32 (BitVec.ofNat 32 (velem 32 (s.v a) i)) (BitVec.ofNat 32 (velem 32 (s.v b) i))).toNat)

/-- VRNGI (R149). -/
def execVrngi (d a : VReg) (c : BitVec 8) (k : KReg) (s : State) : Result :=
  .next (s.vint 32 d k fun i => (rmx32 (BitVec.ofNat 32 (velem 32 (s.v a) i)) (BitVec.ofNat 32 (8 * c.toNat + i))).toNat)

end Sys2Proof.Machine
end

