-- ==== Sys2Proof/Machine/Block.lean ====
section
/-! DEFINITION. Sys2Proof/Machine/Block.lean: block and matrix instructions (R150 to R167), BLSF, BLSFT, BLSFC (R120). -/

namespace Sys2Proof.Machine

/-- Every named b and m register is owned by the strand, or OWNER is raised before any effect (R150). -/
def State.owned (s : State) (bs : List BReg) (ms : List MReg) (len : Nat) (t : State) : State :=
  if bs.all s.ownsB && ms.all s.ownsM then t else s.trapFree Code.owner len

/-- A block instruction of 4 bytes that has written its results: flags, ARITH (R106), else LSF (R121). -/
def State.finishAcc (s : State) (f : Flags) (m : MReg) (elems : BitVec 16) : State :=
  let s1 := s.raiseFlags f
  if s.arithDue f then (s1.mapCore Core.retire).trapAfter Code.arith (f.zeroExtend 64) 4
  else if s.core.csr.dpw.getLsbD 8 && decide (f &&& Flags.ls ≠ 0) then
    (s1.mapCore Core.retire).trapAfter Code.lsf (lsfVal 0 m elems) 4
  else s1.done 4

/-! ## Block loads and stores (R155) -/

/-- The address of a KM form: units of 8 bytes (R36). -/
def State.lineAddr (s : State) (a : GReg) (off : BitVec 13) : Word := s.g a + (sext off <<< 3)

/-- The lowest uncorrectable word of a run of words, if any: R155 and R248 name the address of one such word, and which of
several it is is the model's choice (DESIGN CHOICE, log entry 53). -/
def firstBadWord (w : Well) (a n : Nat) : Option Nat :=
  ((List.range n).map fun i => a + 8 * i).find? fun x => w.badIn x 8

/-- The well words from an address. -/
def Well.words (w : Well) (a n : Nat) : List Word := (List.range n).map fun i => w.word (a + 8 * i)

/-- BLD and BLDS (R155). -/
def State.loadLine (s : State) (b : BReg) (a : Word) (f : Bfmt) (span : Nat) : State :=
  match wellCheck a (8 * span) 8 with
  | some c => s.trap c a 4
  | none =>
    match firstBadWord s.core.well a.toNat span with
    | some x => s.trap Code.ueWell (BitVec.ofNat 64 x) 4
    | none =>
      let x := BLine.ofWords f (s.core.well.words a.toNat span)
      s.accesses (Part.start (wordElems a.toNat span []) (.line b f))
        ((((s.touch a.toNat (8 * span)).setB b x).seePoison (anyPoison (x.blks f))).done 4)

/-- BLD (R155). -/
def execBld (b : BReg) (a : GReg) (f : Bfmt) (off : BitVec 13) (s : State) : Result :=
  .next (s.owned [b] [] 4 (s.loadLine b (s.lineAddr a off) f (f.n + 1)))

/-- BLDS (R155): with the mask word. -/
def execBlds (b : BReg) (a : GReg) (f : Bfmt) (off : BitVec 13) (s : State) : Result :=
  .next (s.owned [b] [] 4 (s.loadLine b (s.lineAddr a off) f (f.n + 2)))

/-- BST (R155): the header and the payload words of the stated format, bit for bit. -/
def State.storeLine (s : State) (b : BReg) (a : Word) (f : Bfmt) : State :=
  match wellCheck a (8 * (f.n + 1)) 8 with
  | some c => s.trap c a 4
  | none =>
    let x := s.b b
    s.accesses (Part.start (wordElems a.toNat (f.n + 1) (x.hdr :: x.payUnder f)) (.lineStore (anyPoison (x.blks f))))
      (((s.store a.toNat ((x.hdr :: x.payUnder f).flatMap fun w => leBytes 8 w.toNat)).seePoison (anyPoison (x.blks f))).done 4)

/-- BST (R155). -/
def execBst (b : BReg) (a : GReg) (f : Bfmt) (off : BitVec 13) (s : State) : Result :=
  .next (s.owned [b] [] 4 (s.storeLine b (s.lineAddr a off) f))

/-! ## BMMA and BMMZ (R157) -/

/-- What a step of BMMA does to a tile (R111). -/
structure TileStep where
  tile : Tile
  seen : Bool
  flags : Flags
  /-- The elements in which a bit was discarded. -/
  lost : BitVec 16
  deriving DecidableEq, Repr

/-- One step over a tile: element 4i + j takes block i of A and block j of B (R157). -/
def stepTile (w : Nat) (win : BitVec 4) (t : Tile) (A B : List Blk) : TileStep :=
  let r : Vector (Acc × StepFx) 16 := Vector.ofFn fun n =>
    alignWindow w win t[n] (A.getD (n.val / 4) Blk.zero) (B.getD (n.val % 4) Blk.zero)
  let fx := r.toList.map (·.2)
  { tile := r.map (·.1)
    seen := fx.any StepFx.seen
    flags := Flags.when (fx.any StepFx.overflow) .of ||| Flags.when (fx.any StepFx.lost) .ls
    lost := BitVec.ofNat 16 ((fx.zipIdx.map fun (x, i) => if x.lost then 2 ^ i else 0).foldl (· + ·) 0) }

/-- DPW.WIN (R108). -/
def State.win (s : State) : BitVec 4 := s.core.csr.dpw.extractLsb' 0 4

/-- BMMA from a tile's contents; the format is ba's tag (R152). -/
def State.bmmaFrom (s : State) (m : MReg) (t : Tile) (a b : BReg) : State :=
  let f := (s.b a).tag
  let r := stepTile f.w s.win t ((s.b a).blks f) ((s.b b).blks f)
  ((s.setM m r.tile).seePoison r.seen).finishAcc r.flags m r.lost

/-- BMMA (R157). -/
def execBmma (m : MReg) (a b : BReg) (s : State) : Result := .next (s.owned [a, b] [m] 4 (s.bmmaFrom m (s.m m) a b))

/-- BMMZ (R157): from zeroed elements. -/
def execBmmz (m : MReg) (a b : BReg) (s : State) : Result := .next (s.owned [a, b] [m] 4 (s.bmmaFrom m Tile.zero a b))

/-! ## Block arithmetic (R158) -/

/-- The exact sum of two block values: NaN absorbs (R81). -/
def valAdd (x y : FVal) : FVal :=
  match x, y with
  | .fin na ma ea, .fin nb mb eb =>
    let e := min ea eb
    let t : Int := (if na then -1 else 1) * (ma * 2 ^ (ea - e).toNat : Nat) + (if nb then -1 else 1) * (mb * 2 ^ (eb - e).toNat : Nat)
    .fin (decide (t < 0)) t.natAbs e
  | _, _ => .nan false 0 false

/-- The exact difference. -/
def valSub (x y : FVal) : FVal := valAdd x (FFmt.flip true y)

/-- The exact product. -/
def valMul (x y : FVal) : FVal :=
  match x, y with
  | .fin na ma ea, .fin nb mb eb => .fin (na != nb) (ma * mb) (ea + eb)
  | _, _ => .nan false 0 false

/-- The larger value; NaN if either is NaN (R158). -/
def valMax (x y : FVal) : FVal :=
  match x, y with
  | .fin _ _ _, .fin _ _ _ => if FFmt.cmpVals x y < 0 then y else x
  | _, _ => .nan false 0 false

/-- A line formed block by block from two lines; a block with a poison source is poison (R158). -/
def formFrom2 (f : Bfmt) (md : Mode) (A B : List Blk) (op : FVal → FVal → FVal) : List Blk × Flags :=
  let rs := (List.range 4).map fun j =>
    let a := A.getD j Blk.zero
    let b := B.getD j Blk.zero
    if a.isPoison || b.isPoison then (Blk.poison, (0 : Flags))
    else formBlock f.w md (List.zipWith op (blkVals f.w a) (blkVals f.w b))
  (rs.map (·.1), rs.foldl (fun x r => x ||| r.2) 0)

/-- BADD, BSUB, BMUL, BMAXE (R158): ba's tag, the masks joined. -/
def State.blockOp (s : State) (d a b : BReg) (op : FVal → FVal → FVal) : State :=
  let f := (s.b a).tag
  let A := (s.b a).blks f
  let B := (s.b b).blks f
  let r := formFrom2 f s.rm A B op
  ((s.setB d (BLine.ofBlks f r.1 ((s.b a).mask ||| (s.b b).mask))).seePoison (anyPoison A || anyPoison B)).finish r.2

/-- A line formed from one line's values, ba's tag and masks kept (R158). -/
def State.blockMap (s : State) (d a : BReg) (op : FVal → FVal) : State :=
  let f := (s.b a).tag
  let A := (s.b a).blks f
  let r := formFrom2 f s.rm A A fun x _ => op x
  ((s.setB d (BLine.ofBlks f r.1 (s.b a).mask)).seePoison (anyPoison A)).finish r.2

/-- BADD (R158). -/
def execBadd (d a b : BReg) (s : State) : Result := .next (s.owned [d, a, b] [] 4 (s.blockOp d a b valAdd))

/-- BSUB (R158). -/
def execBsub (d a b : BReg) (s : State) : Result := .next (s.owned [d, a, b] [] 4 (s.blockOp d a b valSub))

/-- BMUL (R158). -/
def execBmul (d a b : BReg) (s : State) : Result := .next (s.owned [d, a, b] [] 4 (s.blockOp d a b valMul))

/-- BMAXE (R158). -/
def execBmaxe (d a b : BReg) (s : State) : Result := .next (s.owned [d, a, b] [] 4 (s.blockOp d a b valMax))

/-- A block negated: header kept, NaN stays, a zero block becomes canonical, poison is copied (R158). -/
def negBlk (w : Nat) (b : Blk) : Blk :=
  if b.isPoison then b
  else if b.ms.all (· = 0) then Blk.zero
  else { b with ms := b.ms.map fun m => if m = nanMant w then m else -m }

/-- BNEG (R158). -/
def execBneg (d a : BReg) (s : State) : Result :=
  let f := (s.b a).tag
  let A := (s.b a).blks f
  .next (s.owned [d, a] [] 4
    (((s.setB d (BLine.ofBlks f (A.map (negBlk f.w)) (s.b a).mask)).seePoison (anyPoison A)).done 4))

/-- The shift of BSCL; beyond 2,000 in magnitude every nonzero element saturates or is lost alike (R76, R158). -/
def bsclShift (x : Word) : Int := clampInt (-2000) 2000 x.toInt

/-- BSCL (R158). -/
def execBscl (d a : BReg) (x : GReg) (s : State) : Result :=
  .next (s.owned [d, a] [] 4 (s.blockMap d a (scaleVal (bsclShift (s.g x)))))

/-- BNORM (R158). -/
def execBnorm (d a : BReg) (s : State) : Result := .next (s.owned [d, a] [] 4 (s.blockMap d a id))

/-- BEXP (R158). -/
def execBexp (d : GReg) (a : BReg) (s : State) : Result :=
  let A := (s.b a).blks (s.b a).tag
  .next (s.owned [a] [] 4 ((s.seePoison (anyPoison A)).put d (BitVec.ofNat 64 (packCodes 8 (A.map Blk.e)))))

/-- The element that BMAXI selects (R122): poison, NaN, then the largest value, ties to the lowest index. -/
def lineMax (w : Nat) (A : List Blk) : Nat :=
  match firstPoison A with
  | some j => 16 * j
  | none =>
    let vs := (A.flatMap (blkVals w)).zipIdx
    match vs.find? fun (v, _) => match v with | .nan _ _ _ => true | _ => false with
    | some (_, i) => i
    | none => (vs.foldl (fun (u, j) (v, i) => if FFmt.cmpVals u v < 0 then (v, i) else (u, j))
        (vs.headD (.fin false 0 0, 0))).2

/-- BMAXI (R158, R122). -/
def execBmaxi (d : GReg) (a : BReg) (s : State) : Result :=
  let f := (s.b a).tag
  let A := (s.b a).blks f
  .next (s.owned [a] [] 4 ((s.seePoison (anyPoison A)).put d (BitVec.ofNat 64 (lineMax f.w A))))

/-- BCLR (R158). -/
def execBclr (d : BReg) (f : Bfmt) (s : State) : Result := .next (s.owned [d] [] 4 ((s.setB d (BLine.make f 0 [] 0)).done 4))

/-- BMOV (R158). -/
def execBmov (d a : BReg) (s : State) : Result :=
  .next (s.owned [d, a] [] 4 (((s.setB d (s.b a)).seePoison (anyPoison ((s.b a).blks (s.b a).tag))).done 4))

/-! ## Lost significance (R120) -/

/-- The LSF flags of a tile, element n at bit n. -/
def Tile.lsf (t : Tile) : BitVec 16 :=
  BitVec.ofNat 16 ((t.toList.zipIdx.map fun (a, i) => if a.lsf then 2 ^ i else 0).foldl (· + ·) 0)

/-- BLSF (R120). -/
def execBlsf (d : GReg) (m : MReg) (s : State) : Result := .next (s.owned [] [m] 4 (s.put d (zext (s.m m).lsf)))

/-- Row ORs in bits 0 to 3, column ORs in bits 4 to 7 (R120). -/
def lsfSums (x : BitVec 16) : BitVec 8 :=
  BitVec.ofNat 8 ((List.range 4).foldl (fun a i =>
    a + (if (List.range 4).any fun j => x.getLsbD (4 * i + j) then 2 ^ i else 0) +
      (if (List.range 4).any fun j => x.getLsbD (4 * j + i) then 2 ^ (4 + i) else 0)) 0)

/-- BLSFT (R120). -/
def execBlsft (d : KReg) (m : MReg) (s : State) : Result := .next (s.owned [] [m] 4 ((s.setK d (lsfSums (s.m m).lsf)).done 4))

/-- BLSFC (R120). -/
def execBlsfc (m : MReg) (s : State) : Result :=
  .next (s.owned [] [m] 4 ((s.setM m ((s.m m).map fun a => { a with lsf := false })).done 4))

/-! ## Conversion and accumulator movement (R159 to R163) -/

/-- Register n of v0-v7 or v8-v15. -/
def vHalf (hi : Bool) (n : Nat) : VReg := BitVec.ofNat 4 (n + if hi then 8 else 0)

/-- BENC (R159). -/
def execBenc (d : BReg) (hi : Bool) (f : Bfmt) (s : State) : Result :=
  let xs := (List.range 64).map fun k => FFmt.f32.decode (velem 32 (s.v (vHalf hi (k / 8))) (k % 8))
  let r := formLine f.w s.rm xs
  .next (s.owned [d] [] 4 ((s.setB d (BLine.ofBlks f r.1 0)).finish r.2))

/-- The canonical f32 NaN. -/
def nan32 : Nat := FFmt.f32.nan

/-- Element k of a line as f32: exact, poison as NaN (R80, R105). -/
def lineF32 (w : Nat) (A : List Blk) (k : Nat) : Nat :=
  let b := A.getD (k / 16) Blk.zero
  if b.isPoison then nan32 else (FFmt.f32.roundVal .rne (elemVal w b (k % 16))).1

/-- BDEC (R159): POISON under POISONCTL.TRAP, else NaN lanes with NV. -/
def execBdec (hi : Bool) (b : BReg) (s : State) : Result :=
  let f := (s.b b).tag
  let A := (s.b b).blks f
  let s0 := s.seePoison (anyPoison A)
  .next (s.owned [b] [] 4 (
    match s.poisonTrap, firstPoison A with
    | true, some j => s0.trap Code.poison (poisonVal false j) 4
    | _, p =>
      let s1 := (List.range 8).foldl (fun t n => t.setV (vHalf hi n) (vOf 32 ((List.range 8).map fun l => lineF32 f.w A (8 * n + l)))) s0
      s1.finish (Flags.when p.isSome .nv)))

/-- An element read out as f32 under DPW.RRM (R118); poison as NaN with NV (R105). -/
def accF32 (md : Mode) (a : Acc) : Nat × Flags :=
  if a.poi then (nan32, .nv) else if a.nan then (nan32, 0) else
  match accVal a with
  | .fin n m e => FFmt.f32.round md false (n && m ≠ 0) m e
  | _ => (nan32, 0)

/-- BMRD (R118, R160): elements 0 to 7 in v(vd), 8 to 15 in v(vd + 1). -/
def execBmrd (v : BitVec 3) (m : MReg) (s : State) : Result :=
  let t := s.m m
  let s0 := s.seePoison t.firstPoison.isSome
  let rs := t.toList.map (accF32 s.rrm)
  let vd : VReg := v ++ 0#1
  .next (s.owned [] [m] 4 (
    match s.poisonTrap, t.firstPoison with
    | true, some e => s0.trap Code.poison (poisonVal true e) 4
    | _, _ =>
      ((s0.setV vd (vOf 32 ((rs.take 8).map (·.1)))).setV (vd + 1) (vOf 32 ((rs.drop 8).map (·.1)))).finish
        (rs.foldl (fun a r => a ||| r.2) 0)))

/-- A block formed from a tile (R119). -/
def blkOfTile (f : Bfmt) (md : Mode) (t : Tile) : Blk × Flags :=
  if t.firstPoison.isSome then (Blk.poison, 0) else formBlock f.w md (t.toList.map accVal)

/-- The 64 mask bits with those of block j replaced. -/
def maskWith (old : Word) (j : Nat) (x : BitVec 16) : Word :=
  (old &&& ~~~((0xFFFF : Word) <<< (16 * j))) ||| (zext x <<< (16 * j))

/-- BMRB (R119, R160): a change of format clears the other blocks and masks. -/
def execBmrb (d : BReg) (m : MReg) (j : BitVec 2) (f : Bfmt) (s : State) : Result :=
  let t := s.m m
  let r := blkOfTile f s.rrm t
  let old := s.b d
  let same := decide (old.tag = f)
  let bs := if same then old.blks f else List.replicate 4 Blk.zero
  .next (s.owned [d] [m] 4 (
    ((s.setB d (BLine.ofBlks f (bs.set j.toNat r.1) (maskWith (if same then old.mask else 0) j.toNat t.lsf))).seePoison
      t.firstPoison.isSome).finish r.2))

/-- MISALIGN and WELLRANGE of BMSV and BMRS (R161). -/
def tileCheck (a : Word) : Option (BitVec 8) := wellCheck a 256 16

/-- BMSV (R161). -/
def execBmsv (m : MReg) (x : GReg) (s : State) : Result :=
  let t := s.m m
  .next (s.owned [] [m] 4 (
    match tileCheck (s.g x) with
    | some c => s.trap c (s.g x) 4
    | none =>
      s.accesses (Part.start (wordElems (s.g x).toNat 32 (t.toList.flatMap accWords)) (.tileStore t.firstPoison.isSome))
        (((s.store (s.g x).toNat (Tile.bytes t)).seePoison t.firstPoison.isSome).done 4)))

/-- The tile that 256 bytes hold (R161). -/
def Well.tile (w : Well) (a : Nat) : Tile := Vector.ofFn fun n => accOfWords (w.word (a + 16 * n.val)) (w.word (a + 16 * n.val + 8))

/-- BMRS (R161). TRAPVAL of UE_WELL is stated nowhere (log entry 5). -/
def execBmrs (m : MReg) (x : GReg) (s : State) : Result :=
  .next (s.owned [] [m] 4 (
    match tileCheck (s.g x) with
    | some c => s.trap c (s.g x) 4
    | none =>
      if s.core.well.badIn (s.g x).toNat 256 then s.trapFree Code.ueWell 4
      else
        let t := s.core.well.tile (s.g x).toNat
        s.accesses (Part.start (wordElems (s.g x).toNat 32 []) (.tile m))
          ((((s.touch (s.g x).toNat 256).setM m t).seePoison t.firstPoison.isSome).done 4)))

/-- MXIN (R162). -/
def execMxin (d : BReg) (ty : MxTy) (v : BitVec 3) (x : GReg) (f : Bfmt) (s : State) : Result :=
  let vs : VReg := v ++ 0#1
  let packed := (s.v vs).toNat + (s.v (vs + 1)).toNat * 2 ^ 256
  let r := formLine f.w s.rm (mxLine ty packed (natBits (s.g x).toNat 0 8) (natBits (s.g x).toNat 8 8))
  .next (s.owned [d] [] 4 ((s.setB d (BLine.ofBlks f r.1 0)).finish r.2))

/-- The two MX blocks of a line: scale codes, packed elements, flags (R163); poison enters as NaN (R105). -/
def mxOf (ty : MxTy) (w : Nat) (md : Mode) (scale : Int) (A : List Blk) : Nat × Nat × Nat × Flags :=
  let vals := A.flatMap fun b => if b.isPoison then List.replicate 16 (.nan false 0 false) else (blkVals w b).map (scaleVal scale)
  let (c0, e0, f0) := mxForm ty md (vals.take 32)
  let (c1, e1, f1) := mxForm ty md (vals.drop 32)
  (c0, c1, packCodes ty.bits (e0 ++ e1), f0 ||| f1)

/-- MXOUT (R163). -/
def execMxout (v : BitVec 3) (ty : MxTy) (x : GReg) (b : BReg) (s : State) : Result :=
  let f := (s.b b).tag
  let A := (s.b b).blks f
  let s0 := s.seePoison (anyPoison A)
  let vd : VReg := v ++ 0#1
  .next (s.owned [b] [] 4 (
    match s.poisonTrap, firstPoison A with
    | true, some j => s0.trap Code.poison (poisonVal false j) 4
    | _, _ =>
      let (c0, c1, e, fl) := mxOf ty f.w s.rm 0 A
      (((s0.setV vd (BitVec.ofNat 256 e)).setV (vd + 1) (BitVec.ofNat 256 (e / 2 ^ 256))).setG x
        (BitVec.ofNat 64 (c0 + 256 * c1))).finish fl))

/-! ## DMMA (R164) -/

/-- DMMA (R164): two roundings per element. -/
def execDmma (d a b : VReg) (s : State) : Result :=
  let A := fun i => velem 64 (s.v a) i
  let B := fun i => velem 64 (s.v b) i
  let r (n : Nat) : Nat × Flags :=
    let (t, f1) := FFmt.f64.fma s.rm false false (A (2 * (n / 2))) (B (n % 2)) (velem 64 (s.v d) n)
    let (u, f2) := FFmt.f64.fma s.rm false false (A (2 * (n / 2) + 1)) (B (2 + n % 2)) t
    (u, f1 ||| f2)
  let rs := (List.range 4).map r
  .next ((s.setV d (vOf 64 (rs.map (·.1)))).finish (rs.foldl (fun x y => x ||| y.2) 0))

/-! ## BMLOOP (R165 to R167) -/

/-- MPROG written by a BMLOOP of the acting strand. -/
def State.setLoop (s : State) (act : Bool) (done : Nat) (run : Option LoopRun) : State :=
  s.mapCore fun c =>
    { c with csr := { c.csr with mprog := mprogWord act s.cur (s.pc.extractLsb' 2 17) (BitVec.ofNat 32 done) }, loop := run }

/-- MPROG names the acting strand and its pc: an incomplete loop of it stands here (R165). -/
def State.loopHere (s : State) : Bool :=
  s.core.csr.loopAct && decide (s.core.csr.loopStr = s.cur) && decide (zext s.core.csr.loopPcw <<< 2 = s.pc)

/-- The loop that the acting strand is running: what it read at its issue (R107, R166). -/
def State.heldLoop (s : State) : Option LoopRun := if s.loopHere then s.core.loop else none

/-- What a BMLOOP reads at its issue (R107, R117, R166). -/
def State.loopRun (s : State) (f0 : MReg) (s0 : BReg) (a b n : GReg) (t : Tiles) (f : Bfmt) (sa sb : BitVec 16) : LoopRun :=
  { f0 := f0, s0 := s0, tiles := t, fmt := f, sa := sa, sb := sb, win := s.win, lsf := s.core.csr.dpw.getLsbD 8
    n := ((s.g n).extractLsb' 0 32).toNat, pa := (s.g a).toNat, pb := (s.g b).toNat }

/-- Result bytes kept until the acting strand's instruction retires (R361). -/
def State.keep (s : State) (xs : List Byte) : State := s.setSt fun st => { st with late := st.late ++ xs }

/-- A write to a b register whose bytes enter the signature at the retirement. -/
def State.putB (s : State) (r : BReg) (x : BLine) : State :=
  (s.mapCore fun c => { c with b := c.b.set r.toNat x }).keep x.bytes

/-- A write to an m register whose bytes enter the signature at the retirement. -/
def State.putM (s : State) (r : MReg) (x : Tile) : State :=
  (s.mapCore fun c => { c with m := c.m.set r.toNat x }).keep (Tile.bytes x)

/-- The acting strand's kept results enter the signature: its instruction retires (R361). -/
def State.signKept (s : State) : State := s.mapCore fun c => c.signLate s.cur

/-- The first line of a step that leaves the well or holds an uncorrectable word: the fault and the line's address. -/
def lineFault (w : Well) (bytes : Nat) : List Nat → Option (BitVec 8 × Nat)
  | [] => none
  | a :: rest =>
    if !inWell a bytes then some (Code.wellrange, a)
    else if w.badIn a bytes then some (Code.ueWell, a)
    else lineFault w bytes rest

/-- The tiles of a step, in order: what has been done so far, with the lowest tile that lost a bit. -/
structure LoopStep where
  s : State
  flags : Flags
  lost : Option (MReg × BitVec 16)

/-- One step of the walk on its lines: staging registers, then the tiles (R166). -/
def State.loopStep (s : State) (r : LoopRun) (lines : List BLine) : LoopStep :=
  let f := r.fmt
  let s1 := lines.zipIdx.foldl (fun t (x, i) => t.putB (r.s0 + BitVec.ofNat 4 i) x) s
  let A := (lines.headD BLine.zero).blks f
  let f0 := r.f0
  let win := r.win
  (lines.drop 1).zipIdx.foldl (fun (r : LoopStep) (x, i) =>
    let m := f0 + BitVec.ofNat 3 i
    let q := stepTile f.w win (r.s.m m) A (x.blks f)
    { s := (r.s.putM m q.tile).seePoison q.seen
      flags := r.flags ||| q.flags
      lost := match r.lost with
        | some l => some l
        | none => if q.lost ≠ 0 then some (m, q.lost) else none }) ⟨s1, 0, none⟩

/-- A BMLOOP's trap after a step (R106, R121, R359): the loop goes on with its next step unless this one was its last. -/
def State.loopTrap (s : State) (code : BitVec 8) (val : Word) (last : Bool) : State :=
  if last then (s.signKept.mapCore Core.retire).trapAfter code val 8 else s.trap code val 8

/-- The step that is due, or the end of the walk (R166). The model runs one step at each issue. -/
def State.loopGo (s : State) (done : Nat) (r : LoopRun) : State :=
  let f := r.fmt
  let bytes := 8 * (f.n + 1)
  if r.n ≤ done then (s.setLoop false done none).signKept.done 8
  else
    let as := (r.pa + 8 * r.sa.toNat * done) :: (List.range r.tiles.count).map fun k => r.pb + 8 * r.sb.toNat * done + bytes * k
    let s1 := s.setLoop true done (some r)
    match lineFault s.core.well bytes as with
    | some (c, a) => s1.trap c (BitVec.ofNat 64 a) 8
    | none =>
      let lines := as.map fun a => BLine.ofWords f ((s.core.well.words a (f.n + 1)))
      let q := (as.foldl (fun t a => t.touch a bytes) s1).loopStep r lines
      let last := decide (done + 1 ≥ r.n)
      let s2 := (q.s.raiseFlags q.flags).setLoop (!last) (done + 1) (if last then none else some r)
      if s.arithDue q.flags then s2.loopTrap Code.arith (q.flags.zeroExtend 64) last
      else match r.lsf, q.lost with
        | true, some (m, e) => s2.loopTrap Code.lsf (lsfVal done m e) last
        | _, _ => if last then s2.signKept.done 8 else s2

/-- BMLOOP (R166): it waits for another strand's loop before it is issued; OWNER at issue (R150); MISALIGN of gA, gB. A loop
that is running goes on with what it read at its issue (R107, R117): no owner, register, CSR or word of it is read again. -/
def execBmloop (f0 : MReg) (s0 : BReg) (a b n : GReg) (t : Tiles) (f : Bfmt) (sa sb : BitVec 16) (s : State) : Result :=
  let r := s.loopRun f0 s0 a b n t f sa sb
  .next (
    match s.heldLoop with
    | some held => s.loopGo s.core.csr.loopDone held
    | none =>
      if s.core.csr.loopAct && decide (s.core.csr.loopStr ≠ s.cur) then s.wait .loop
      else s.owned ((List.range (t.count + 1)).map fun k => s0 + BitVec.ofNat 4 k) ((List.range t.count).map fun k => f0 + BitVec.ofNat 3 k) 8 (
        if r.pa % 8 ≠ 0 then s.trap Code.misalign (BitVec.ofNat 64 r.pa) 8
        else if r.pb % 8 ≠ 0 then s.trap Code.misalign (BitVec.ofNat 64 r.pb) 8
        else s.loopGo (if s.loopHere then s.core.csr.loopDone else 0) r))

/-- The running loop's instruction, whose step the acting strand does next (R166). -/
def State.loopAgain (s : State) (r : LoopRun) : Result := execBmloop r.f0 r.s0 0 0 0 r.tiles r.fmt r.sa r.sb s

end Sys2Proof.Machine
end

