-- ==== Sys2Proof/Machine/Branch.lean ====
section
/-! DEFINITION. Sys2Proof/Machine/Branch.lean: branches, jumps and coordinate instructions (R281 to R287). -/

namespace Sys2Proof.Machine

/-- The address of a branch plus 4 times its displacement (R36). -/
def State.target (s : State) {w : Nat} (disp : BitVec w) : Word := s.pc + (sext disp <<< 2)

/-- A branch goes to its target or to the next instruction; the target is not checked (R282, R285). -/
def State.branch (s : State) (taken : Bool) (disp : BitVec 16) : State :=
  if taken then (s.jump (s.target disp)).mapCore Core.retire else s.done 4

/-- BEQ (R282). -/
def execBeq (a b : GReg) (disp : BitVec 16) (s : State) : Result := .next (s.branch (s.g a = s.g b) disp)

/-- BNE (R282). -/
def execBne (a b : GReg) (disp : BitVec 16) (s : State) : Result := .next (s.branch (s.g a ≠ s.g b) disp)

/-- BLT (R282). -/
def execBlt (a b : GReg) (disp : BitVec 16) (s : State) : Result := .next (s.branch ((s.g a).slt (s.g b)) disp)

/-- BGE (R282). -/
def execBge (a b : GReg) (disp : BitVec 16) (s : State) : Result := .next (s.branch (!(s.g a).slt (s.g b)) disp)

/-- BLTN (R282). -/
def execBltn (a b : GReg) (disp : BitVec 16) (s : State) : Result := .next (s.branch ((s.g a).ult (s.g b)) disp)

/-- BGEN (R282). -/
def execBgen (a b : GReg) (disp : BitVec 16) (s : State) : Result := .next (s.branch (!(s.g a).ult (s.g b)) disp)

/-- DBNZ (R283). An a field of 0 is no instruction (R57); the decoder refuses it. -/
def execDbnz (a : GReg) (disp : BitVec 16) (s : State) : Result :=
  .next ((s.setG a (s.g a - 1)).branch (s.g a - 1 ≠ 0) disp)

/-- JAL (R284): the link in g1. -/
def execJal (disp : BitVec 26) (s : State) : Result :=
  .next (((s.setG 1 (s.pc + 4)).jump (s.target disp)).mapCore Core.retire)

/-- JALR (R284): the target from the value of g[a] before any write. -/
def execJalr (d a : GReg) (imm : BitVec 16) (s : State) : Result :=
  .next (((s.setG d (s.pc + 4)).jump (s.g a + sext imm)).mapCore Core.retire)

/-! ## Coordinates (R286, R287) -/

/-- inside(R, C) of R286. -/
def State.insideRect (s : State) (r c : Int) : Bool :=
  0 ≤ r && r < s.core.ident.rrows && 0 ≤ c && c < s.core.ident.rcols

/-- check(n) of R286: whether the name passes. -/
def State.nameOk (s : State) (n : BitVec 26) : Bool :=
  nameRect n = nameRect s.ownName && s.insideRect (nameRow n) (nameCol n)

/-- name(R, C) of R286, zero-extended, for a position inside the rectangle. -/
def State.nameAt (s : State) (r c : Int) : Word :=
  zext (nameRect s.ownName ++ BitVec.ofInt 10 r ++ BitVec.ofInt 10 c : BitVec 26)

/-- TRAPVAL of COORD for an operand that failed (R287). -/
def coordOperand (which : Bool) (n : BitVec 26) : Word := 1#1 ++ (if which then 1#1 else 0#1) ++ (0#36) ++ n

/-- TRAPVAL of COORD for a position outside the rectangle (R287). -/
def coordPosition (r c : Int) : Word := (0#2) ++ BitVec.ofInt 30 r ++ (0#2) ++ BitVec.ofInt 30 c

/-- The name operand in a g register: bits [63:26] are ignored (R286). -/
def State.nameOf (s : State) (r : GReg) : BitVec 26 := (s.g r).extractLsb' 0 26

/-- A computed position: its name, or COORD (R286). -/
def State.putPosition (s : State) (d : GReg) (r c : Int) : State :=
  if s.insideRect r c then s.put d (s.nameAt r c) else s.trap Code.coord (coordPosition r c) 4

/-- CMK (R286). -/
def execCmk (d a b : GReg) (s : State) : Result :=
  .next (s.putPosition d (nameRow s.org + (s.g a).toInt) (nameCol s.org + (s.g b).toInt))

/-- CGX (R286). -/
def execCgx (d a : GReg) (s : State) : Result :=
  if s.nameOk (s.nameOf a) then .next (s.put d (BitVec.ofInt 64 ((nameCol (s.nameOf a) : Int) - nameCol s.org)))
  else .next (s.trap Code.coord (coordOperand false (s.nameOf a)) 4)

/-- CGY (R286). -/
def execCgy (d a : GReg) (s : State) : Result :=
  if s.nameOk (s.nameOf a) then .next (s.put d (BitVec.ofInt 64 ((nameRow (s.nameOf a) : Int) - nameRow s.org)))
  else .next (s.trap Code.coord (coordOperand false (s.nameOf a)) 4)

/-- CGR (R286): no check. -/
def execCgr (d a : GReg) (s : State) : Result := .next (s.put d (zext (nameRect (s.nameOf a))))

/-- CADD (R286): the row offset is g[b][63:32], the column offset g[b][31:0], signed. -/
def execCadd (d a b : GReg) (s : State) : Result :=
  if s.nameOk (s.nameOf a) then
    .next (s.putPosition d (nameRow (s.nameOf a) + ((s.g b).extractLsb' 32 32).toInt)
      (nameCol (s.nameOf a) + ((s.g b).extractLsb' 0 32).toInt))
  else .next (s.trap Code.coord (coordOperand false (s.nameOf a)) 4)

/-- CDIST (R286): logical hops. -/
def execCdist (d a b : GReg) (s : State) : Result :=
  if !s.nameOk (s.nameOf a) then .next (s.trap Code.coord (coordOperand false (s.nameOf a)) 4)
  else if !s.nameOk (s.nameOf b) then .next (s.trap Code.coord (coordOperand true (s.nameOf b)) 4)
  else
    .next (s.put d (BitVec.ofNat 64 (((nameRow (s.nameOf a) : Int) - nameRow (s.nameOf b)).natAbs +
      ((nameCol (s.nameOf a) : Int) - nameCol (s.nameOf b)).natAbs)))

end Sys2Proof.Machine
end

