-- ==== Sys2Proof/Decode.lean ====
section
/-! DEFINITION. Sys2Proof/Decode.lean: the encodings of R33 to R58. Decoding is total and refuses by name whatever R57
excludes; the encoder is written from the same tables. The instructions of majors 0x3B to 0x3E are first decoded to Upper:
the compiled code of this Lean cannot build a constructor with fields after the 245th of an inductive type, so the last
step to Instr is marked noncomputable. The kernel evaluates it like any other definition. -/

namespace Sys2Proof

/-- Why R57 excludes an encoding. -/
inductive DecodeError
  | reservedMajor   -- the major is reserved
  | unassigned      -- a member field holds a value that R49 to R56 do not assign
  | reservedValue   -- a bit that must be zero is one, or a field holds a value the member does not accept
  | truncated       -- fewer bytes than the instruction has (never from a fetch)
  deriving DecidableEq, Repr

/-- A one-bit field. -/
def bit (b : Bool) : BitVec 1 := if b then 1 else 0
/-- The flag in a one-bit field. -/
def unbit (x : BitVec 1) : Bool := x = 1

/-- sz and esz codes (R36). -/
def Sz.code : Sz → BitVec 2
  | .w8 => 0 | .w16 => 1 | .w32 => 2 | .w64 => 3
/-- The size of a code (R36). -/
def Sz.ofCode (x : BitVec 2) : Sz :=
  match x.toNat with
  | 0 => .w8 | 1 => .w16 | 2 => .w32 | _ => .w64
/-- Precision bit (R51). -/
def Prec.code : Prec → BitVec 1
  | .s => 0 | .d => 1
/-- The precision of its bit (R51). -/
def Prec.ofCode (x : BitVec 1) : Prec := if x = 1 then .d else .s
/-- Rounding codes (R45). -/
def Rm.code : Rm → BitVec 3
  | .rne => 0 | .rtz => 1 | .rup => 2 | .rdn => 3 | .rna => 4 | .sto => 5 | .dyn => 7
/-- The rounding mode of a code (R45). -/
def Rm.ofCode (x : BitVec 3) : Option Rm :=
  match x.toNat with
  | 0 => some .rne | 1 => some .rtz | 2 => some .rup | 3 => some .rdn | 4 => some .rna | 5 => some .sto
  | 7 => some .dyn | _ => none
/-- Type codes (R46). -/
def Ty.code : Ty → BitVec 4
  | .i8 => 0 | .n8 => 1 | .i16 => 2 | .n16 => 3 | .i32 => 4 | .n32 => 5 | .i64 => 6 | .n64 => 7
  | .f16 => 8 | .bf16 => 9 | .f32 => 10 | .f64 => 11 | .e4m3 => 12 | .e5m2 => 13
/-- The type of a code (R46). -/
def Ty.ofCode (x : BitVec 4) : Option Ty :=
  match x.toNat with
  | 0 => some .i8 | 1 => some .n8 | 2 => some .i16 | 3 => some .n16 | 4 => some .i32 | 5 => some .n32
  | 6 => some .i64 | 7 => some .n64 | 8 => some .f16 | 9 => some .bf16 | 10 => some .f32 | 11 => some .f64
  | 12 => some .e4m3 | 13 => some .e5m2 | _ => none
/-- Block format codes (R47). -/
def Bfmt.code : Bfmt → BitVec 2
  | .bk4 => 1 | .bk8 => 2 | .bk16 => 3
/-- The block format of a code (R47). -/
def Bfmt.ofCode (x : BitVec 2) : Option Bfmt :=
  match x.toNat with
  | 1 => some .bk4 | 2 => some .bk8 | 3 => some .bk16 | _ => none
/-- Scope codes (R47). -/
def Scope.code : Scope → BitVec 3
  | .strand => 0 | .core => 1 | .field => 2 | .wafer => 3 | .domain => 4
/-- The scope of a code (R47). -/
def Scope.ofCode (x : BitVec 3) : Option Scope :=
  match x.toNat with
  | 0 => some .strand | 1 => some .core | 2 => some .field | 3 => some .wafer | 4 => some .domain | _ => none
/-- MX type codes (R47). -/
def MxTy.code : MxTy → BitVec 3
  | .fp8e4 => 0 | .fp8e5 => 1 | .fp6e2 => 2 | .fp6e3 => 3 | .fp4 => 4 | .int8 => 5
/-- The MX type of a code (R47). -/
def MxTy.ofCode (x : BitVec 3) : Option MxTy :=
  match x.toNat with
  | 0 => some .fp8e4 | 1 => some .fp8e5 | 2 => some .fp6e2 | 3 => some .fp6e3 | 4 => some .fp4 | 5 => some .int8
  | _ => none
/-- Marker codes (R47, R177). -/
def Marker.code : Marker → BitVec 5
  | .barrier n => 0#1 ++ n | .drain => 0x10
/-- The marker of a code that a program may name (R47). -/
def Marker.ofCode (x : BitVec 5) : Option Marker :=
  if x = 0x10 then some .drain else if x.extractLsb' 4 1 = 0 then some (.barrier (x.extractLsb' 0 4)) else none
/-- Tile count codes (R56). -/
def Tiles.code : Tiles → BitVec 2
  | .one => 0 | .two => 1 | .four => 2
/-- The tile count of a code (R56). -/
def Tiles.ofCode (x : BitVec 2) : Option Tiles :=
  match x.toNat with
  | 0 => some .one | 1 => some .two | 2 => some .four | _ => none

/-- Format A (R34). -/
structure FieldsA where
  d : BitVec 5
  a : BitVec 5
  b : BitVec 5
  fn : BitVec 11
/-- Formats I and B (R34): in B the first two fields are a and b. -/
structure FieldsI where
  d : BitVec 5
  a : BitVec 5
  imm : BitVec 16
/-- Format M (R34). -/
structure FieldsM where
  d : BitVec 5
  a : BitVec 5
  sz : BitVec 2
  sx : BitVec 1
  off : BitVec 13
/-- Format V (R34). -/
structure FieldsV where
  d : BitVec 4
  a : BitVec 4
  b : BitVec 4
  c : BitVec 4
  k : BitVec 3
  fn : BitVec 7
/-- Format VM (R34). -/
structure FieldsVM where
  v : BitVec 4
  g : BitVec 5
  s : BitVec 5
  esz : BitVec 2
  k : BitVec 3
  off : BitVec 7
/-- The v, g, index layout of VBCAST, VINS and KMOV (R52). -/
structure FieldsVG where
  v : BitVec 4
  g : BitVec 5
  x : BitVec 7
  k : BitVec 3
  fn : BitVec 7
/-- The g, v, index layout of VEXT and KMOV (R52). -/
structure FieldsVE where
  g : BitVec 5
  v : BitVec 4
  x : BitVec 7
  k : BitVec 3
  fn : BitVec 7
/-- The v, v, count layout of VROT and VRNGI (R51, R52). -/
structure FieldsVC where
  d : BitVec 4
  a : BitVec 4
  c : BitVec 8
  k : BitVec 3
  fn : BitVec 7
/-- Format K, with fn11 split into gx and the member as R53 gives. -/
structure FieldsK where
  m : BitVec 3
  ba : BitVec 4
  bb : BitVec 4
  aux : BitVec 4
  gx : BitVec 5
  mem : BitVec 6
/-- Format KM (R34). -/
structure FieldsKM where
  b : BitVec 4
  g : BitVec 5
  fmt : BitVec 4
  off : BitVec 13
/-- Format C (R34). -/
structure FieldsC where
  d : BitVec 5
  a : BitVec 5
  ch : BitVec 5
  fn : BitVec 8
  z : BitVec 1
  cls : BitVec 2
/-- Format S (R34). -/
structure FieldsS where
  d : BitVec 5
  a : BitVec 5
  csr : BitVec 12
  fn : BitVec 4
/-- Word 1 of STRM, FGET and FPUT (R56). -/
structure FieldsCL where
  ch : BitVec 5
  z : BitVec 3
  len : BitVec 24

def packA (op : BitVec 6) (d a b : BitVec 5) (fn : BitVec 11) : IWord := op ++ d ++ a ++ b ++ fn
def packI (op : BitVec 6) (d a : BitVec 5) (imm : BitVec 16) : IWord := op ++ d ++ a ++ imm
def packJ (op : BitVec 6) (disp : BitVec 26) : IWord := op ++ disp
def packM (op : BitVec 6) (d a : BitVec 5) (sz : BitVec 2) (sx : BitVec 1) (off : BitVec 13) : IWord :=
  op ++ d ++ a ++ sz ++ sx ++ off
def packV (op : BitVec 6) (d a b c : BitVec 4) (k : BitVec 3) (fn : BitVec 7) : IWord := op ++ d ++ a ++ b ++ c ++ k ++ fn
def packVM (op : BitVec 6) (v : BitVec 4) (g s : BitVec 5) (esz : BitVec 2) (k : BitVec 3) (off : BitVec 7) : IWord :=
  op ++ v ++ g ++ s ++ esz ++ k ++ off
def packVG (op : BitVec 6) (v : BitVec 4) (g : BitVec 5) (x : BitVec 7) (k : BitVec 3) (fn : BitVec 7) : IWord :=
  op ++ v ++ g ++ x ++ k ++ fn
def packVE (op : BitVec 6) (g : BitVec 5) (v : BitVec 4) (x : BitVec 7) (k : BitVec 3) (fn : BitVec 7) : IWord :=
  op ++ g ++ v ++ x ++ k ++ fn
def packVC (op : BitVec 6) (d a : BitVec 4) (c : BitVec 8) (k : BitVec 3) (fn : BitVec 7) : IWord :=
  op ++ d ++ a ++ c ++ k ++ fn
def packK (op : BitVec 6) (m : BitVec 3) (ba bb aux : BitVec 4) (gx : BitVec 5) (mem : BitVec 6) : IWord :=
  op ++ m ++ ba ++ bb ++ aux ++ gx ++ mem
def packKM (op : BitVec 6) (b : BitVec 4) (g : BitVec 5) (fmt : BitVec 4) (off : BitVec 13) : IWord := op ++ b ++ g ++ fmt ++ off
def packC (op : BitVec 6) (d a ch : BitVec 5) (fn : BitVec 8) (z : BitVec 1) (cls : BitVec 2) : IWord :=
  op ++ d ++ a ++ ch ++ fn ++ z ++ cls
def packS (op : BitVec 6) (d a : BitVec 5) (csr : BitVec 12) (fn : BitVec 4) : IWord := op ++ d ++ a ++ csr ++ fn
def packCL (ch : BitVec 5) (z : BitVec 3) (len : BitVec 24) : IWord := ch ++ z ++ len

def unpackA (w : IWord) : FieldsA := ⟨w.extractLsb' 21 5, w.extractLsb' 16 5, w.extractLsb' 11 5, w.extractLsb' 0 11⟩
def unpackI (w : IWord) : FieldsI := ⟨w.extractLsb' 21 5, w.extractLsb' 16 5, w.extractLsb' 0 16⟩
def unpackJ (w : IWord) : BitVec 26 := w.extractLsb' 0 26
def unpackM (w : IWord) : FieldsM :=
  ⟨w.extractLsb' 21 5, w.extractLsb' 16 5, w.extractLsb' 14 2, w.extractLsb' 13 1, w.extractLsb' 0 13⟩
def unpackV (w : IWord) : FieldsV :=
  ⟨w.extractLsb' 22 4, w.extractLsb' 18 4, w.extractLsb' 14 4, w.extractLsb' 10 4, w.extractLsb' 7 3, w.extractLsb' 0 7⟩
def unpackVM (w : IWord) : FieldsVM :=
  ⟨w.extractLsb' 22 4, w.extractLsb' 17 5, w.extractLsb' 12 5, w.extractLsb' 10 2, w.extractLsb' 7 3, w.extractLsb' 0 7⟩
def unpackVG (w : IWord) : FieldsVG :=
  ⟨w.extractLsb' 22 4, w.extractLsb' 17 5, w.extractLsb' 10 7, w.extractLsb' 7 3, w.extractLsb' 0 7⟩
def unpackVE (w : IWord) : FieldsVE :=
  ⟨w.extractLsb' 21 5, w.extractLsb' 17 4, w.extractLsb' 10 7, w.extractLsb' 7 3, w.extractLsb' 0 7⟩
def unpackVC (w : IWord) : FieldsVC :=
  ⟨w.extractLsb' 22 4, w.extractLsb' 18 4, w.extractLsb' 10 8, w.extractLsb' 7 3, w.extractLsb' 0 7⟩
def unpackK (w : IWord) : FieldsK :=
  ⟨w.extractLsb' 23 3, w.extractLsb' 19 4, w.extractLsb' 15 4, w.extractLsb' 11 4, w.extractLsb' 6 5, w.extractLsb' 0 6⟩
def unpackKM (w : IWord) : FieldsKM := ⟨w.extractLsb' 22 4, w.extractLsb' 17 5, w.extractLsb' 13 4, w.extractLsb' 0 13⟩
def unpackC (w : IWord) : FieldsC :=
  ⟨w.extractLsb' 21 5, w.extractLsb' 16 5, w.extractLsb' 11 5, w.extractLsb' 3 8, w.extractLsb' 2 1, w.extractLsb' 0 2⟩
def unpackS (w : IWord) : FieldsS := ⟨w.extractLsb' 21 5, w.extractLsb' 16 5, w.extractLsb' 4 12, w.extractLsb' 0 4⟩
def unpackCL (w : IWord) : FieldsCL := ⟨w.extractLsb' 27 5, w.extractLsb' 24 3, w.extractLsb' 0 24⟩

/-- A field that the member does not use is zero (R35). -/
def ifZero {n : Nat} (x : BitVec n) (i : Instr) : Except DecodeError Instr := if x = 0 then .ok i else .error .reservedValue

/-- A member that does not round has rm = 000 (R51). -/
def noRm (rm : Rm) (r : Except DecodeError Instr) : Except DecodeError Instr := if rm = .rne then r else .error .reservedValue

/-- A k register number in a 4-bit field: the high bit is zero (R35). -/
def toK (x : BitVec 4) (f : KReg → Instr) : Except DecodeError Instr :=
  if x.extractLsb' 3 1 = 0 then .ok (f (x.extractLsb' 0 3)) else .error .reservedValue

/-- Three k register numbers in 4-bit fields (R52). -/
def toKs (x y z : BitVec 4) (f : KReg → KReg → KReg → Instr) : Except DecodeError Instr :=
  if x.extractLsb' 3 1 = 0 ∧ y.extractLsb' 3 1 = 0 ∧ z.extractLsb' 3 1 = 0 then
    .ok (f (x.extractLsb' 0 3) (y.extractLsb' 0 3) (z.extractLsb' 0 3))
  else .error .reservedValue

/-- An element size of 32 or 64 bits (R51, R52, R56): true for 64. -/
def to32 {α : Type} (e : Sz) (f : Bool → Except DecodeError α) : Except DecodeError α :=
  match e with
  | .w32 => f false
  | .w64 => f true
  | _ => .error .reservedValue

/-- Major 0x01 (R49). -/
def decodeAlu (d a b : GReg) (fn : BitVec 11) : Except DecodeError Instr :=
  match fn.toNat with
  | 0x0 => .ok (.add d a b)
  | 0x1 => .ok (.sub d a b)
  | 0x2 => .ok (.and d a b)
  | 0x3 => .ok (.or d a b)
  | 0x4 => .ok (.xor d a b)
  | 0x5 => .ok (.sll d a b)
  | 0x6 => .ok (.srl d a b)
  | 0x7 => .ok (.sra d a b)
  | 0x8 => .ok (.slt d a b)
  | 0x9 => .ok (.sltn d a b)
  | 0xA => .ok (.min d a b)
  | 0xB => .ok (.max d a b)
  | 0xC => .ok (.minn d a b)
  | 0xD => .ok (.maxn d a b)
  | 0x10 => .ok (.mul d a b)
  | 0x11 => .ok (.mulh d a b)
  | 0x12 => .ok (.mulhn d a b)
  | 0x14 => .ok (.div d a b)
  | 0x15 => .ok (.divn d a b)
  | 0x16 => .ok (.rem d a b)
  | 0x17 => .ok (.remn d a b)
  | 0x30 => .ok (.cmovnz d a b)
  | 0x31 => .ok (.cmovz d a b)
  | 0x38 => .ok (.addsh1 d a b)
  | 0x39 => .ok (.addsh2 d a b)
  | 0x3A => .ok (.addsh3 d a b)
  | 0x40 => .ok (.qshift d a b)
  | 0x20 => ifZero b (.clz d a)
  | 0x21 => ifZero b (.ctz d a)
  | 0x22 => ifZero b (.popc d a)
  | 0x23 => ifZero b (.brev d a)
  | 0x24 => ifZero b (.bswap d a)
  | 0x28 => ifZero b (.sextB d a)
  | 0x29 => ifZero b (.sextH d a)
  | 0x2A => ifZero b (.sextW d a)
  | 0x2C => ifZero b (.zextB d a)
  | 0x2D => ifZero b (.zextH d a)
  | 0x2E => ifZero b (.zextW d a)
  | _ => .error .unassigned

/-- Major 0x07, SHI (R36). -/
def decodeShi (d a : GReg) (imm : BitVec 16) : Except DecodeError Instr :=
  if imm.extractLsb' 6 8 ≠ 0 then .error .reservedValue else
  match (imm.extractLsb' 14 2).toNat with
  | 0 => .ok (.shiSll d a (imm.extractLsb' 0 6))
  | 1 => .ok (.shiSrl d a (imm.extractLsb' 0 6))
  | 2 => .ok (.shiSra d a (imm.extractLsb' 0 6))
  | _ => .error .reservedValue

/-- Major 0x13, COORD (R50). -/
def decodeCoord (d a b : GReg) (fn : BitVec 11) : Except DecodeError Instr :=
  match fn.toNat with
  | 0x0 => .ok (.cmk d a b)
  | 0x1 => ifZero b (.cgx d a)
  | 0x2 => ifZero b (.cgy d a)
  | 0x3 => ifZero b (.cgr d a)
  | 0x4 => .ok (.cadd d a b)
  | 0x5 => .ok (.cdist d a b)
  | _ => .error .unassigned

/-- Major 0x18, AMO (R50). -/
def decodeAmo (d a b : GReg) (fn : BitVec 11) : Except DecodeError Instr :=
  if fn.extractLsb' 5 6 ≠ 0 then .error .reservedValue else
  let w := unbit (fn.extractLsb' 4 1)
  match (fn.extractLsb' 0 4).toNat with
  | 0 => .ok (.amoadd d a b w)
  | 1 => .ok (.amoand d a b w)
  | 2 => .ok (.amoor d a b w)
  | 3 => .ok (.amoxor d a b w)
  | 4 => .ok (.amomin d a b w)
  | 5 => .ok (.amomax d a b w)
  | 6 => .ok (.amominn d a b w)
  | 7 => .ok (.amomaxn d a b w)
  | 8 => .ok (.amoswap d a b w)
  | 9 => .ok (.amocas d a b w)
  | _ => .error .unassigned

/-- Major 0x19, FENCE and FFENCE (R50). -/
def decodeFence (d a b : GReg) (fn : BitVec 11) : Except DecodeError Instr :=
  if d ≠ 0 ∨ a ≠ 0 ∨ b ≠ 0 ∨ fn.extractLsb' 5 6 ≠ 0 then .error .reservedValue else
  match (fn.extractLsb' 3 2).toNat, Scope.ofCode (fn.extractLsb' 0 3) with
  | 0, some .strand => .ok (.fence false)
  | 0, some .core => .ok (.fence true)
  | 1, some s => .ok (.ffence s)
  | _, _ => .error .reservedValue

/-- Major 0x1A, scalar floating point (R51). -/
def decodeFp (d a b : GReg) (fn : BitVec 11) : Except DecodeError Instr :=
  if fn.extractLsb' 10 1 ≠ 0 then .error .reservedValue else
  let p := Prec.ofCode (fn.extractLsb' 6 1)
  match Rm.ofCode (fn.extractLsb' 7 3) with
  | none => .error .reservedValue
  | some rm =>
    match (fn.extractLsb' 0 6).toNat with
    | 0x0 => .ok (.fadd d a b rm p)
    | 0x1 => .ok (.fsub d a b rm p)
    | 0x2 => .ok (.fmul d a b rm p)
    | 0x3 => .ok (.fdiv d a b rm p)
    | 0x4 => ifZero b (.fsqrt d a rm p)
    | 0x5 => noRm rm (.ok (.fmin d a b p))
    | 0x6 => noRm rm (.ok (.fmax d a b p))
    | 0x7 => noRm rm (.ok (.feq d a b p))
    | 0x8 => noRm rm (.ok (.flt d a b p))
    | 0x9 => noRm rm (.ok (.fle d a b p))
    | 0xA => noRm rm (ifZero b (.fclass d a p))
    | 0xB => noRm rm (.ok (.fsgcp d a b p))
    | 0xC => noRm rm (.ok (.fsgcn d a b p))
    | 0xD => noRm rm (.ok (.fsgxr d a b p))
    | _ => .error .unassigned

/-- Major 0x1B, fused multiply-add (R51). -/
def decodeFma (d a b : GReg) (fn : BitVec 11) : Except DecodeError Instr :=
  let c : GReg := fn.extractLsb' 6 5
  let p := Prec.ofCode (fn.extractLsb' 3 1)
  match Rm.ofCode (fn.extractLsb' 0 3) with
  | none => .error .reservedValue
  | some rm =>
    match (fn.extractLsb' 4 2).toNat with
    | 0 => .ok (.fma d a b c p rm)
    | 1 => .ok (.fms d a b c p rm)
    | 2 => .ok (.fnma d a b c p rm)
    | _ => .ok (.fnms d a b c p rm)

/-- Major 0x1C, FCVT (R51). -/
def decodeFcvt (d a b : GReg) (fn : BitVec 11) : Except DecodeError Instr :=
  if b.extractLsb' 1 4 ≠ 0 then .error .reservedValue else
  match Rm.ofCode (fn.extractLsb' 8 3), Ty.ofCode (fn.extractLsb' 4 4), Ty.ofCode (fn.extractLsb' 0 4) with
  | some rm, some src, some dst => .ok (.fcvt d a (unbit (b.extractLsb' 0 1)) rm src dst)
  | _, _, _ => .error .reservedValue

/-- Majors 0x22 and 0x23: the index register and the element size of VGATH and VSCAT (R238). -/
def decodeGath (mk : VReg → Bool → Instr) (s : GReg) (esz : BitVec 2) : Except DecodeError Instr :=
  if s.extractLsb' 4 1 ≠ 0 ∨ esz.extractLsb' 1 1 = 0 then .error .reservedValue
  else .ok (mk (s.extractLsb' 0 4) (unbit (esz.extractLsb' 0 1)))

/-- Major 0x24, vector floating point (R51). -/
def decodeVfp (d a b c : VReg) (k : KReg) (fn : BitVec 7) : Except DecodeError Instr :=
  if c ≠ 0 ∨ fn.extractLsb' 6 1 ≠ 0 then .error .reservedValue else
  let p := Prec.ofCode (fn.extractLsb' 5 1)
  match (fn.extractLsb' 0 5).toNat with
  | 0x0 => .ok (.vfadd d a b k p)
  | 0x1 => .ok (.vfsub d a b k p)
  | 0x2 => .ok (.vfmul d a b k p)
  | 0x3 => .ok (.vfdiv d a b k p)
  | 0x4 => ifZero b (.vfsqrt d a k p)
  | 0x5 => .ok (.vfmin d a b k p)
  | 0x6 => .ok (.vfmax d a b k p)
  | 0x7 => ifZero b (.vfabs d a k p)
  | 0x8 => ifZero b (.vfneg d a k p)
  | 0x9 => toK d fun kd => .vfeq kd a b k p
  | 0xA => toK d fun kd => .vflt kd a b k p
  | 0xB => toK d fun kd => .vfle kd a b k p
  | 0xC => if p = .s then ifZero b (.vfrcp d a k) else .error .reservedValue
  | 0xD => if p = .s then ifZero b (.vfrsq d a k) else .error .reservedValue
  | 0xE => if p = .s then ifZero b (.vfex2 d a k) else .error .reservedValue
  | 0xF => if p = .s then ifZero b (.vflg2 d a k) else .error .reservedValue
  | 0x10 => if p = .s then ifZero b (.vftanh d a k) else .error .reservedValue
  | _ => .error .unassigned

/-- Major 0x25, vector fused multiply-add (R51). -/
def decodeVfma (d a b c : VReg) (k : KReg) (fn : BitVec 7) : Except DecodeError Instr :=
  if fn.extractLsb' 3 4 ≠ 0 then .error .reservedValue else
  let p := Prec.ofCode (fn.extractLsb' 2 1)
  match (fn.extractLsb' 0 2).toNat with
  | 0 => .ok (.vfma d a b c k p)
  | 1 => .ok (.vfms d a b c k p)
  | 2 => .ok (.vfnma d a b c k p)
  | _ => .ok (.vfnms d a b c k p)

/-- Major 0x26, vector integer (R51). -/
def decodeVint (d a b c : VReg) (k : KReg) (fn : BitVec 7) : Except DecodeError Instr :=
  if c ≠ 0 then .error .reservedValue else
  let e := Sz.ofCode (fn.extractLsb' 5 2)
  match (fn.extractLsb' 0 5).toNat with
  | 0x0 => .ok (.vadd d a b k e)
  | 0x1 => .ok (.vsub d a b k e)
  | 0x2 => .ok (.vmul d a b k e)
  | 0x3 => .ok (.vmulh d a b k e)
  | 0x4 => .ok (.vmulhn d a b k e)
  | 0x5 => .ok (.vand d a b k e)
  | 0x6 => .ok (.vor d a b k e)
  | 0x7 => .ok (.vxor d a b k e)
  | 0x8 => .ok (.vsll d a b k e)
  | 0x9 => .ok (.vsrl d a b k e)
  | 0xA => .ok (.vsra d a b k e)
  | 0xB => .ok (.vmin d a b k e)
  | 0xC => .ok (.vmax d a b k e)
  | 0xD => .ok (.vminn d a b k e)
  | 0xE => .ok (.vmaxn d a b k e)
  | 0xF => .ok (.vadds d a b k e)
  | 0x10 => .ok (.vsubs d a b k e)
  | 0x11 => .ok (.vaddsn d a b k e)
  | 0x12 => .ok (.vsubsn d a b k e)
  | 0x13 => to32 e fun e64 => toK d fun kd => .veq kd a b k e64
  | 0x14 => to32 e fun e64 => toK d fun kd => .vlt kd a b k e64
  | 0x15 => to32 e fun e64 => toK d fun kd => .vltn kd a b k e64
  | 0x16 => ifZero b (.vabs d a k e)
  | _ => .error .unassigned

/-- Major 0x27, permute, reduce and mask (R52). The layouts differ by member, so each arm reads its own fields. -/
def decodePerm (w : IWord) : Except DecodeError Instr :=
  let v := unpackV w
  let g := unpackVG w
  let x := unpackVE w
  let r := unpackVC w
  let fn := v.fn
  let e := Sz.ofCode (fn.extractLsb' 5 2)
  match (fn.extractLsb' 0 5).toNat with
  | 0x0 => ifZero v.c (.vperm v.d v.a v.b v.k e)
  | 0x9 => ifZero v.c (.vsel v.d v.a v.b v.k e)
  | 0xB => ifZero v.c (.vzip v.d v.a v.b v.k e)
  | 0xC => ifZero v.c (.vunzip v.d v.a v.b v.k e)
  | 0x1 => ifZero g.x (.vbcast g.v g.g g.k e)
  | 0x2 => ifZero x.k (.vext x.g x.v x.x e)
  | 0x3 => ifZero g.k (.vins g.v g.g g.x e)
  | 0x4 => if v.b ≠ 0 ∨ v.c ≠ 0 then .error .reservedValue else to32 e fun e64 => .ok (.vredadd v.d v.a v.k (if e64 then .d else .s))
  | 0x5 => if v.b ≠ 0 ∨ v.c ≠ 0 then .error .reservedValue else to32 e fun e64 => .ok (.vredmax v.d v.a v.k (if e64 then .d else .s))
  | 0x6 => if v.b ≠ 0 ∨ v.c ≠ 0 then .error .reservedValue else to32 e fun e64 => .ok (.vredmin v.d v.a v.k (if e64 then .d else .s))
  | 0x7 => if v.b ≠ 0 ∨ v.c ≠ 0 then .error .reservedValue else to32 e fun e64 => .ok (.vmaxx v.d v.a v.k (if e64 then .d else .s))
  | 0x8 => if v.b ≠ 0 ∨ v.c ≠ 0 then .error .reservedValue else to32 e fun e64 => .ok (.vminx v.d v.a v.k (if e64 then .d else .s))
  | 0xA => if v.b ≠ 0 ∨ v.c ≠ 0 then .error .reservedValue else .ok (.vmov v.d v.a v.k e)
  | 0xD => .ok (.vrot r.d r.a r.c r.k e)
  | 0x10 => if v.c ≠ 0 ∨ v.k ≠ 0 ∨ e ≠ .w8 then .error .reservedValue else toKs v.d v.a v.b .kand
  | 0x11 => if v.c ≠ 0 ∨ v.k ≠ 0 ∨ e ≠ .w8 then .error .reservedValue else toKs v.d v.a v.b .kor
  | 0x12 => if v.b ≠ 0 ∨ v.c ≠ 0 ∨ v.k ≠ 0 ∨ e ≠ .w8 then .error .reservedValue else toKs v.d v.a 0 fun kd ka _ => .knot kd ka
  | 0x13 =>
    if v.k ≠ 0 then .error .reservedValue else
    match e with
    | .w8 => if v.b ≠ 0 ∨ v.c ≠ 0 then .error .reservedValue else toKs v.d v.a 0 fun kd ka _ => .kmovKk kd ka
    | .w16 => if g.x ≠ 0 then .error .reservedValue else toK g.v fun kd => .kmovKg kd g.g
    | .w32 => if x.x ≠ 0 ∨ x.v.extractLsb' 0 1 ≠ 0 then .error .reservedValue else .ok (.kmovGk x.g (x.v.extractLsb' 1 3))
    | .w64 => .error .reservedValue
  | _ => .error .unassigned

/-- Major 0x28, VCVT (R51). -/
def decodeVcvt (d a b c : VReg) (k : KReg) (fn : BitVec 7) : Except DecodeError Instr :=
  match Rm.ofCode (fn.extractLsb' 4 3), Ty.ofCode (fn.extractLsb' 0 4), Ty.ofCode b with
  | some rm, some src, some dst =>
    .ok (.vcvt d a dst (unbit (c.extractLsb' 3 1)) (c.extractLsb' 0 3) k rm src)
  | _, _, _ => .error .reservedValue

/-- Major 0x29, VRNG and VRNGI (R51). -/
def decodeVrng (w : IWord) : Except DecodeError Instr :=
  let v := unpackV w
  let r := unpackVC w
  match v.fn.toNat with
  | 0 => ifZero v.c (.vrng v.d v.a v.b v.k)
  | 1 => .ok (.vrngi r.d r.a r.c r.k)
  | _ => .error .unassigned

/-- Major 0x2C, BLD, BST and BLDS (R53). -/
def decodeBmem (b : BReg) (a : GReg) (fmt : BitVec 4) (off : BitVec 13) : Except DecodeError Instr :=
  match Bfmt.ofCode (fmt.extractLsb' 0 2), (fmt.extractLsb' 2 2).toNat with
  | some f, 0 => .ok (.bld b a f off)
  | some f, 1 => .ok (.bst b a f off)
  | some f, 2 => .ok (.blds b a f off)
  | _, _ => .error .reservedValue

/-- Major 0x2D, BMMA and BMMZ (R53). -/
def decodeBmma (k : FieldsK) : Except DecodeError Instr :=
  if k.aux ≠ 0 ∨ k.gx ≠ 0 then .error .reservedValue else
  match k.mem.toNat with
  | 0 => .ok (.bmma k.m k.ba k.bb)
  | 1 => .ok (.bmmz k.m k.ba k.bb)
  | _ => .error .unassigned

/-- Major 0x2E, block arithmetic (R54). -/
def decodeBlk (k : FieldsK) : Except DecodeError Instr :=
  let rr (c : Bool) (i : Instr) : Except DecodeError Instr := if c then .ok i else .error .reservedValue
  match k.mem.toNat with
  | 0x0 => rr (k.m = 0 ∧ k.gx = 0) (.badd k.aux k.ba k.bb)
  | 0x1 => rr (k.m = 0 ∧ k.gx = 0) (.bsub k.aux k.ba k.bb)
  | 0x2 => rr (k.m = 0 ∧ k.gx = 0) (.bmul k.aux k.ba k.bb)
  | 0x4 => rr (k.m = 0 ∧ k.gx = 0) (.bmaxe k.aux k.ba k.bb)
  | 0x3 => rr (k.m = 0 ∧ k.bb = 0 ∧ k.gx = 0) (.bneg k.aux k.ba)
  | 0x6 => rr (k.m = 0 ∧ k.bb = 0 ∧ k.gx = 0) (.bnorm k.aux k.ba)
  | 0xA => rr (k.m = 0 ∧ k.bb = 0 ∧ k.gx = 0) (.bmov k.aux k.ba)
  | 0x5 => rr (k.m = 0 ∧ k.bb = 0) (.bscl k.aux k.ba k.gx)
  | 0x7 => rr (k.m = 0 ∧ k.bb = 0 ∧ k.aux = 0) (.bexp k.gx k.ba)
  | 0x8 => rr (k.m = 0 ∧ k.bb = 0 ∧ k.aux = 0) (.bmaxi k.gx k.ba)
  | 0x9 =>
    match Bfmt.ofCode (k.bb.extractLsb' 0 2) with
    | some f => rr (k.m = 0 ∧ k.ba = 0 ∧ k.bb.extractLsb' 2 2 = 0 ∧ k.gx = 0) (.bclr k.aux f)
    | none => .error .reservedValue
  | 0xB => rr (k.ba = 0 ∧ k.bb = 0 ∧ k.aux = 0) (.blsf k.gx k.m)
  | 0xC => rr (k.ba = 0 ∧ k.bb = 0 ∧ k.gx = 0 ∧ k.aux.extractLsb' 3 1 = 0) (.blsft (k.aux.extractLsb' 0 3) k.m)
  | 0xD => rr (k.ba = 0 ∧ k.bb = 0 ∧ k.aux = 0 ∧ k.gx = 0) (.blsfc k.m)
  | _ => .error .unassigned

/-- Major 0x2F, block conversion and accumulator movement (R54). -/
def decodeBcv (k : FieldsK) : Except DecodeError Instr :=
  let rr (c : Bool) (i : Instr) : Except DecodeError Instr := if c then .ok i else .error .reservedValue
  match k.mem.toNat with
  | 0 =>
    match Bfmt.ofCode (k.bb.extractLsb' 0 2) with
    | some f => rr (k.m = 0 ∧ k.ba.extractLsb' 0 3 = 0 ∧ k.bb.extractLsb' 2 2 = 0 ∧ k.gx = 0)
        (.benc k.aux (unbit (k.ba.extractLsb' 3 1)) f)
    | none => .error .reservedValue
  | 1 => rr (k.m = 0 ∧ k.ba.extractLsb' 0 3 = 0 ∧ k.aux = 0 ∧ k.gx = 0) (.bdec (unbit (k.ba.extractLsb' 3 1)) k.bb)
  | 2 => rr (k.ba.extractLsb' 0 1 = 0 ∧ k.bb = 0 ∧ k.aux = 0 ∧ k.gx = 0) (.bmrd (k.ba.extractLsb' 1 3) k.m)
  | 3 =>
    match Bfmt.ofCode (k.bb.extractLsb' 0 2) with
    | some f => rr (k.ba = 0 ∧ k.gx = 0) (.bmrb k.aux k.m (k.bb.extractLsb' 2 2) f)
    | none => .error .reservedValue
  | 4 => rr (k.ba = 0 ∧ k.bb = 0 ∧ k.aux = 0) (.bmsv k.m k.gx)
  | 5 => rr (k.ba = 0 ∧ k.bb = 0 ∧ k.aux = 0) (.bmrs k.m k.gx)
  | 6 =>
    match Bfmt.ofCode (k.bb.extractLsb' 0 2), MxTy.ofCode k.m with
    | some f, some ty => rr (k.ba.extractLsb' 0 1 = 0 ∧ k.bb.extractLsb' 2 2 = 0)
        (.mxin k.aux ty (k.ba.extractLsb' 1 3) k.gx f)
    | _, _ => .error .reservedValue
  | 7 =>
    match MxTy.ofCode k.m with
    | some ty => rr (k.ba.extractLsb' 0 1 = 0 ∧ k.bb = 0) (.mxout (k.ba.extractLsb' 1 3) ty k.gx k.aux)
    | none => .error .reservedValue
  | _ => .error .unassigned

/-- Major 0x34, messages (R55). -/
def decodeMsg (c : FieldsC) : Except DecodeError Instr :=
  let rr (q : Bool) (i : Instr) : Except DecodeError Instr := if q then .ok i else .error .reservedValue
  if c.z ≠ 0 then .error .reservedValue else
  match c.fn.toNat with
  | 0 => .ok (.send c.d c.a c.ch c.cls)
  | 1 => rr (c.d.extractLsb' 0 1 = 0) (.sendv (c.d.extractLsb' 1 4) c.a c.ch c.cls)
  | 2 => rr (c.d.extractLsb' 0 1 = 0) (.sendb (c.d.extractLsb' 1 4) c.a c.ch c.cls)
  | 3 => rr (c.a = 0 ∧ c.cls = 0) (.recv c.d c.ch)
  | 4 => rr (c.d.extractLsb' 0 1 = 0 ∧ c.a = 0 ∧ c.cls = 0) (.recvv (c.d.extractLsb' 1 4) c.ch)
  | 5 => rr (c.d.extractLsb' 0 1 = 0 ∧ c.a = 0 ∧ c.cls = 0) (.recvb (c.d.extractLsb' 1 4) c.ch)
  | 6 => rr (c.a = 0 ∧ c.cls = 0) (.poll c.d c.ch)
  | 7 => rr (c.d = 0 ∧ c.a = 0 ∧ c.cls = 0) (.qflush c.ch)
  | 8 =>
    match Marker.ofCode c.d with
    | some m => rr (c.a = 0) (.mark c.ch m c.cls)
    | none => .error .reservedValue
  | _ => .error .unassigned

/-- Major 0x35, strands (R55, R288). -/
def decodeStrand (d a b : GReg) (fn : BitVec 11) : Except DecodeError Instr :=
  let rr (q : Bool) (i : Instr) : Except DecodeError Instr := if q then .ok i else .error .reservedValue
  match fn.toNat with
  | 0x0 => rr (b = 0) (.spawn d a)
  | 0x1 => rr (d = 0 ∧ a = 0 ∧ b = 0) .exit
  | 0x2 => rr (d = 0 ∧ a = 0 ∧ b = 0) .yield
  | 0x3 => rr (b = 0) (.waitq d a)
  | 0x4 => rr (d = 0 ∧ b = 0) (.waite a)
  | 0x5 =>
    match Marker.ofCode b with
    | some m => rr (d = 0) (.waitm a m)
    | none => .error .reservedValue
  | 0x6 => rr (d = 0 ∧ b.extractLsb' 4 1 = 0) (.barr a (b.extractLsb' 0 4))
  | 0x7 => rr (d = 0 ∧ b = 0) (.sleep a)
  | 0x8 => rr (d = 0 ∧ b = 0) (.wake a)
  | 0x9 => rr (d = 0) (.slotw a b)
  | 0xA => rr (a = 0 ∧ b = 0) (.stid d)
  | _ => .error .unassigned

/-- Major 0x36, system (R55, R350, R355). -/
def decodeSys (d a : GReg) (n : BitVec 12) (fn : BitVec 4) : Except DecodeError Instr :=
  let rr (q : Bool) (i : Instr) : Except DecodeError Instr := if q then .ok i else .error .reservedValue
  match fn.toNat with
  | 0x0 => rr (a = 0) (.csrr d n)
  | 0x1 => rr (d = 0) (.csrw n a)
  | 0x2 => rr (d = 0) (.csrs n a)
  | 0x3 => rr (d = 0) (.csrc n a)
  | 0x4 => .ok (.csrrw d n a)
  | 0x5 =>
    if d ≠ 0 ∨ n.extractLsb' 6 6 ≠ 0 then .error .reservedValue else
    match n.toNat with
    | 0 => .ok (.supvDone a)
    | 1 => .ok (.supvCheckpoint a)
    | 2 => .ok (.supvSlotmove a)
    | 3 => .ok (.supvPumpswap a)
    | 4 => .ok (.supvHostnote a)
    | 5 => .ok (.supvSlottime a)
    | _ => .ok (.supvUnassigned (n.extractLsb' 0 6) a)
  | 0x6 => rr (d = 0 ∧ a = 0) (.brk n)
  | 0x7 => rr (d = 0 ∧ a = 0 ∧ n = 0) .idle
  | 0x8 => rr (d = 0 ∧ n = 0) (.fltres a)
  | 0x9 => rr (d = 0 ∧ n = 0) (.fltskp a)
  | 0xA => rr (d = 0 ∧ n = 0) (.fltkil a)
  | 0xB => rr (n = 0) (.chksig d a)
  | _ => .error .unassigned

/-- Major 0x39, STRM (R56). -/
def decodeStrm (d a b : GReg) (fn : BitVec 11) (w1 : IWord) : Except DecodeError Instr :=
  let rr (q : Bool) (i : Instr) : Except DecodeError Instr := if q then .ok i else .error .reservedValue
  let x := unpackCL w1
  if x.z ≠ 0 then .error .reservedValue else
  match fn.toNat with
  | 0 => rr (b = 0) (.strmOut d a x.ch x.len)
  | 1 => rr (b = 0) (.strmIn d a x.ch x.len)
  | 2 => rr (x.ch = 0) (.strmCopy d a b x.len)
  | _ => .error .unassigned

/-- Major 0x3A, FGET and FPUT (R56). -/
def decodeFgp (d a b : GReg) (fn : BitVec 11) (w1 : IWord) : Except DecodeError Instr :=
  let x := unpackCL w1
  if x.z ≠ 0 ∨ x.ch ≠ 0 then .error .reservedValue else
  match fn.toNat with
  | 0 => .ok (.fget d a b x.len)
  | 1 => .ok (.fput d a b x.len)
  | _ => .error .unassigned

/-- The instructions of majors 0x3B to 0x3E, as they are decoded (R56). -/
inductive Upper
  | fld (d a : GReg) (sz : Sz) (sx : Bool) (off : BitVec 32)
  | fst (s a : GReg) (sz : Sz) (off : BitVec 32)
  | famo (op : BitVec 4) (d a b : GReg) (w : Bool) (off : BitVec 32)
  | ftb (fn : BitVec 2) (a : GReg) (count : BitVec 16)
  | bmloop (f : MReg) (s : BReg) (a b n : GReg) (t : Tiles) (fmt : Bfmt) (sa sb : BitVec 16)
  | chbind (ch : Chan) (a : GReg) (base len : BitVec 16)
  deriving DecidableEq, Repr

/-- Major 0x3B, FLD, FST and FAMO (R56). -/
def decodeFar (d a b : GReg) (fn : BitVec 11) (off : IWord) : Except DecodeError Upper :=
  let rr (q : Bool) (i : Upper) : Except DecodeError Upper := if q then .ok i else .error .reservedValue
  let op := fn.extractLsb' 5 4
  let sx := unbit (fn.extractLsb' 4 1)
  let sz := Sz.ofCode (fn.extractLsb' 2 2)
  if fn.extractLsb' 9 2 ≠ 0 then .error .reservedValue else
  match (fn.extractLsb' 0 2).toNat with
  | 0 => rr (b = 0 ∧ op = 0) (.fld d a sz sx off)
  | 1 => rr (b = 0 ∧ op = 0 ∧ sx = false) (.fst d a sz off)
  | 2 =>
    if sx then .error .reservedValue else
    to32 sz fun w =>
    if op.toNat ≤ 9 then .ok (.famo op d a b w off) else .error .unassigned
  | _ => .error .reservedValue

/-- Major 0x3C, FTBL, FTBU and FTBP (R56). -/
def decodeFtb (d a b : GReg) (fn : BitVec 11) (w1 : IWord) : Except DecodeError Upper :=
  if d ≠ 0 ∨ b ≠ 0 ∨ w1.extractLsb' 16 16 ≠ 0 then .error .reservedValue else
  if fn.toNat ≤ 2 then .ok (.ftb (fn.extractLsb' 0 2) a (w1.extractLsb' 0 16)) else .error .unassigned

/-- Major 0x3D, BMLOOP (R56). -/
def decodeBmloop (d a b : GReg) (fn : BitVec 11) (w1 : IWord) : Except DecodeError Upper :=
  match Tiles.ofCode (fn.extractLsb' 5 2), Bfmt.ofCode (fn.extractLsb' 3 2) with
  | some t, some f => .ok (.bmloop (fn.extractLsb' 0 3) (fn.extractLsb' 7 4) d a b t f (w1.extractLsb' 16 16) (w1.extractLsb' 0 16))
  | _, _ => .error .reservedValue

/-- Major 0x3E, CHBIND (R56). -/
def decodeChbind (d a b : GReg) (fn : BitVec 11) (w1 : IWord) : Except DecodeError Upper :=
  if d ≠ 0 ∨ b ≠ 0 ∨ fn.extractLsb' 5 6 ≠ 0 then .error .reservedValue
  else .ok (.chbind (fn.extractLsb' 0 5) a (w1.extractLsb' 16 16) (w1.extractLsb' 0 16))

/-- The fields of a word of majors 0x00 to 0x3A, by its major (R48), before the checks of Instr.wellFormed. -/
def decodeLow (w0 w1 : IWord) : Except DecodeError Instr :=
  let A := unpackA w0
  let I := unpackI w0
  let M := unpackM w0
  let V := unpackV w0
  let G := unpackVM w0
  let K := unpackK w0
  let B := unpackKM w0
  let C := unpackC w0
  let S := unpackS w0
  match (w0.extractLsb' 26 6).toNat with
  | 0x01 => decodeAlu A.d A.a A.b A.fn
  | 0x02 => .ok (.addi I.d I.a I.imm)
  | 0x03 => .ok (.andi I.d I.a I.imm)
  | 0x04 => .ok (.ori I.d I.a I.imm)
  | 0x05 => .ok (.xori I.d I.a I.imm)
  | 0x06 => .ok (.slti I.d I.a I.imm)
  | 0x07 => decodeShi I.d I.a I.imm
  | 0x08 => .ok (.lih I.d I.a I.imm)
  | 0x0A => .ok (.beq I.d I.a I.imm)
  | 0x0B => .ok (.bne I.d I.a I.imm)
  | 0x0C => .ok (.blt I.d I.a I.imm)
  | 0x0D => .ok (.bge I.d I.a I.imm)
  | 0x0E => .ok (.bltn I.d I.a I.imm)
  | 0x0F => .ok (.bgen I.d I.a I.imm)
  | 0x10 => .ok (.jal (unpackJ w0))
  | 0x11 => .ok (.jalr I.d I.a I.imm)
  | 0x12 => ifZero I.a (.dbnz I.d I.imm)
  | 0x13 => decodeCoord A.d A.a A.b A.fn
  | 0x14 => .ok (.ld M.d M.a (Sz.ofCode M.sz) (unbit M.sx) M.off)
  | 0x15 => ifZero M.sx (.st M.d M.a (Sz.ofCode M.sz) M.off)
  | 0x16 =>
    if A.fn.extractLsb' 6 5 ≠ 0 ∨ A.fn.extractLsb' 2 1 ≠ 0 then .error .reservedValue
    else .ok (.ldx A.d A.a A.b (A.fn.extractLsb' 4 2) (unbit (A.fn.extractLsb' 3 1)) (Sz.ofCode (A.fn.extractLsb' 0 2)))
  | 0x17 =>
    if A.fn.extractLsb' 6 5 ≠ 0 ∨ A.fn.extractLsb' 2 1 ≠ 0 ∨ A.fn.extractLsb' 3 1 ≠ 0 then .error .reservedValue
    else .ok (.stx A.d A.a A.b (A.fn.extractLsb' 4 2) (Sz.ofCode (A.fn.extractLsb' 0 2)))
  | 0x18 => decodeAmo A.d A.a A.b A.fn
  | 0x19 => decodeFence A.d A.a A.b A.fn
  | 0x1A => decodeFp A.d A.a A.b A.fn
  | 0x1B => decodeFma A.d A.a A.b A.fn
  | 0x1C => decodeFcvt A.d A.a A.b A.fn
  | 0x20 => .ok (.vld G.v G.g G.s (Sz.ofCode G.esz) G.k G.off)
  | 0x21 => .ok (.vst G.v G.g G.s (Sz.ofCode G.esz) G.k G.off)
  | 0x22 => decodeGath (fun vi e => .vgath G.v G.g vi e G.k G.off) G.s G.esz
  | 0x23 => decodeGath (fun vi e => .vscat G.v G.g vi e G.k G.off) G.s G.esz
  | 0x24 => decodeVfp V.d V.a V.b V.c V.k V.fn
  | 0x25 => decodeVfma V.d V.a V.b V.c V.k V.fn
  | 0x26 => decodeVint V.d V.a V.b V.c V.k V.fn
  | 0x27 => decodePerm w0
  | 0x28 => decodeVcvt V.d V.a V.b V.c V.k V.fn
  | 0x29 => decodeVrng w0
  | 0x2C => decodeBmem B.b B.g B.fmt B.off
  | 0x2D => decodeBmma K
  | 0x2E => decodeBlk K
  | 0x2F => decodeBcv K
  | 0x30 => if V.c ≠ 0 ∨ V.k ≠ 0 then .error .reservedValue else ifZero V.fn (.dmma V.d V.a V.b)
  | 0x34 => decodeMsg C
  | 0x35 => decodeStrand A.d A.a A.b A.fn
  | 0x36 => decodeSys S.d S.a S.csr S.fn
  | 0x38 => ifZero I.a (.li48 I.d (I.imm ++ w1))
  | 0x39 => decodeStrm A.d A.a A.b A.fn w1
  | 0x3A => decodeFgp A.d A.a A.b A.fn w1
  | _ => .error .reservedMajor

/-- The fields of a word of majors 0x3B to 0x3E (R48, R56), before the checks of Upper.wellFormed. -/
def decodeUpper (w0 w1 : IWord) : Except DecodeError Upper :=
  let A := unpackA w0
  match (w0.extractLsb' 26 6).toNat with
  | 0x3B => decodeFar A.d A.a A.b A.fn w1
  | 0x3C => decodeFtb A.d A.a A.b A.fn w1
  | 0x3D => decodeBmloop A.d A.a A.b A.fn w1
  | 0x3E => decodeChbind A.d A.a A.b A.fn w1
  | _ => .error .reservedMajor

/-- The checks of Instr.wellFormed on these instructions. -/
def Upper.wellFormed : Upper → Bool
  | .fld _ _ sz sx _ => !(sx && sz = .w64)
  | .ftb _ _ c => c ≠ 0
  | .bmloop f s _ _ _ t _ _ _ => f.toNat + t.count ≤ 8 && s.toNat + t.count ≤ 15
  | _ => true

/-- The instruction as a member of Instr. -/
noncomputable def Upper.instr : Upper → Instr
  | .fld d a sz sx off => .fld d a sz sx off
  | .fst s a sz off => .fst s a sz off
  | .famo op d a b w off =>
    match op.toNat with
    | 0 => .famoadd d a b w off
    | 1 => .famoand d a b w off
    | 2 => .famoor d a b w off
    | 3 => .famoxor d a b w off
    | 4 => .famomin d a b w off
    | 5 => .famomax d a b w off
    | 6 => .famominn d a b w off
    | 7 => .famomaxn d a b w off
    | 8 => .famoswap d a b w off
    | _ => .famocas d a b w off
  | .ftb fn a c =>
    match fn.toNat with
    | 0 => .ftbl a c
    | 1 => .ftbu a c
    | _ => .ftbp a c
  | .bmloop f s a b n t fmt sa sb => .bmloop f s a b n t fmt sa sb
  | .chbind ch a base len => .chbind ch a base len

/-- What a word decodes to. -/
inductive Decoded
  | low (i : Instr)
  | upper (u : Upper)
  deriving DecidableEq, Repr

/-- The instruction of what a word decodes to. -/
noncomputable def Decoded.instr : Decoded → Instr
  | .low i => i
  | .upper u => u.instr

/-- The checks of R57 on what a word decodes to. -/
def Decoded.wellFormed : Decoded → Bool
  | .low i => i.wellFormed
  | .upper u => u.wellFormed

/-- Majors 0x3B to 0x3E. -/
def isUpper (w0 : IWord) : Bool :=
  decide (0x3B ≤ (w0.extractLsb' 26 6).toNat) && decide ((w0.extractLsb' 26 6).toNat ≤ 0x3E)

/-- The fields of a word, before the checks of R57. -/
def decodeRaw (w0 w1 : IWord) : Except DecodeError Decoded :=
  if isUpper w0 then (decodeUpper w0 w1).map .upper else (decodeLow w0 w1).map .low

/-- What a word, or a pair of words in a two-word form, decodes to; anything R57 excludes is refused by name. -/
def decodeForm (w0 w1 : IWord) : Except DecodeError Decoded :=
  match decodeRaw w0 w1 with
  | .error e => .error e
  | .ok f => if f.wellFormed then .ok f else .error .reservedValue

/-- Majors 0x38 to 0x3F are two words (R33). -/
def isTwoWord (w0 : IWord) : Bool := 0x38 ≤ (w0.extractLsb' 26 6).toNat

/-- The instruction of a word, or of a pair of words in a two-word form; anything R57 excludes is refused by name. -/
noncomputable def decode (w0 w1 : IWord) : Except DecodeError Instr := (decodeForm w0 w1).map Decoded.instr

/-- Little-endian 32-bit word from four bytes (R7, R33). -/
def wordOfBytes (b0 b1 b2 b3 : Byte) : IWord := b3 ++ b2 ++ b1 ++ b0

/-- Decoding from the bytes as they stand in the well: the instruction and the bytes after it. -/
noncomputable def decodeBytes : List Byte → Except DecodeError (Instr × List Byte)
  | b0 :: b1 :: b2 :: b3 :: rest =>
    let w0 := wordOfBytes b0 b1 b2 b3
    if isTwoWord w0 then
      match rest with
      | c0 :: c1 :: c2 :: c3 :: rest' => (decode w0 (wordOfBytes c0 c1 c2 c3)).map fun i => (i, rest')
      | _ => .error .truncated
    else (decode w0 0).map fun i => (i, rest)
  | _ => .error .truncated

/-- The bytes of a word, in the order the well stores them (R33). -/
def wordBytes (w : IWord) : List Byte :=
  [w.extractLsb' 0 8, w.extractLsb' 8 8, w.extractLsb' 16 8, w.extractLsb' 24 8]

/-- The instruction in bits `w`, numbered as spec/opcode_table.json numbers them: the words laid out as the well stores
them and given to the decoder. -/
noncomputable def decodeTableWord (_nbits w : Nat) : Option Instr :=
  match decodeBytes (wordBytes (BitVec.ofNat 32 w) ++ wordBytes (BitVec.ofNat 32 (w / 2 ^ 32))) with
  | .ok (i, _) => some i
  | .error _ => none

/-- The words of a well-formed instruction, from the encoding tables of R34 and R48 to R56; none for a step of the
hardware, which has no encoding. -/
def encode : Instr → List IWord
  | .add d a b => [packA 0x01 d a b 0x0]
  | .sub d a b => [packA 0x01 d a b 0x1]
  | .and d a b => [packA 0x01 d a b 0x2]
  | .or d a b => [packA 0x01 d a b 0x3]
  | .xor d a b => [packA 0x01 d a b 0x4]
  | .sll d a b => [packA 0x01 d a b 0x5]
  | .srl d a b => [packA 0x01 d a b 0x6]
  | .sra d a b => [packA 0x01 d a b 0x7]
  | .slt d a b => [packA 0x01 d a b 0x8]
  | .sltn d a b => [packA 0x01 d a b 0x9]
  | .min d a b => [packA 0x01 d a b 0xA]
  | .max d a b => [packA 0x01 d a b 0xB]
  | .minn d a b => [packA 0x01 d a b 0xC]
  | .maxn d a b => [packA 0x01 d a b 0xD]
  | .mul d a b => [packA 0x01 d a b 0x10]
  | .mulh d a b => [packA 0x01 d a b 0x11]
  | .mulhn d a b => [packA 0x01 d a b 0x12]
  | .div d a b => [packA 0x01 d a b 0x14]
  | .divn d a b => [packA 0x01 d a b 0x15]
  | .rem d a b => [packA 0x01 d a b 0x16]
  | .remn d a b => [packA 0x01 d a b 0x17]
  | .cmovnz d a b => [packA 0x01 d a b 0x30]
  | .cmovz d a b => [packA 0x01 d a b 0x31]
  | .addsh1 d a b => [packA 0x01 d a b 0x38]
  | .addsh2 d a b => [packA 0x01 d a b 0x39]
  | .addsh3 d a b => [packA 0x01 d a b 0x3A]
  | .qshift d a b => [packA 0x01 d a b 0x40]
  | .clz d a => [packA 0x01 d a 0 0x20]
  | .ctz d a => [packA 0x01 d a 0 0x21]
  | .popc d a => [packA 0x01 d a 0 0x22]
  | .brev d a => [packA 0x01 d a 0 0x23]
  | .bswap d a => [packA 0x01 d a 0 0x24]
  | .sextB d a => [packA 0x01 d a 0 0x28]
  | .sextH d a => [packA 0x01 d a 0 0x29]
  | .sextW d a => [packA 0x01 d a 0 0x2A]
  | .zextB d a => [packA 0x01 d a 0 0x2C]
  | .zextH d a => [packA 0x01 d a 0 0x2D]
  | .zextW d a => [packA 0x01 d a 0 0x2E]
  | .addi d a imm => [packI 0x2 d a imm]
  | .andi d a imm => [packI 0x3 d a imm]
  | .ori d a imm => [packI 0x4 d a imm]
  | .xori d a imm => [packI 0x5 d a imm]
  | .slti d a imm => [packI 0x6 d a imm]
  | .shiSll d a n => [packI 0x07 d a (0#2 ++ 0#8 ++ n)]
  | .shiSrl d a n => [packI 0x07 d a (1#2 ++ 0#8 ++ n)]
  | .shiSra d a n => [packI 0x07 d a (2#2 ++ 0#8 ++ n)]
  | .lih d a imm => [packI 0x08 d a imm]
  | .beq a b disp => [packI 0xA a b disp]
  | .bne a b disp => [packI 0xB a b disp]
  | .blt a b disp => [packI 0xC a b disp]
  | .bge a b disp => [packI 0xD a b disp]
  | .bltn a b disp => [packI 0xE a b disp]
  | .bgen a b disp => [packI 0xF a b disp]
  | .jal disp => [packJ 0x10 disp]
  | .jalr d a imm => [packI 0x11 d a imm]
  | .dbnz a disp => [packI 0x12 a 0 disp]
  | .cmk d a b => [packA 0x13 d a b 0x0]
  | .cgx d a => [packA 0x13 d a 0 0x1]
  | .cgy d a => [packA 0x13 d a 0 0x2]
  | .cgr d a => [packA 0x13 d a 0 0x3]
  | .cadd d a b => [packA 0x13 d a b 0x4]
  | .cdist d a b => [packA 0x13 d a b 0x5]
  | .ld d a sz sx off => [packM 0x14 d a sz.code (bit sx) off]
  | .st s a sz off => [packM 0x15 s a sz.code 0 off]
  | .ldx d a b sh sx sz => [packA 0x16 d a b (0#5 ++ sh ++ bit sx ++ 0#1 ++ sz.code)]
  | .stx s a b sh sz => [packA 0x17 s a b (0#5 ++ sh ++ 0#1 ++ 0#1 ++ sz.code)]
  | .amoadd d a b w => [packA 0x18 d a b (0#6 ++ bit w ++ 0#4)]
  | .amoand d a b w => [packA 0x18 d a b (0#6 ++ bit w ++ 1#4)]
  | .amoor d a b w => [packA 0x18 d a b (0#6 ++ bit w ++ 2#4)]
  | .amoxor d a b w => [packA 0x18 d a b (0#6 ++ bit w ++ 3#4)]
  | .amomin d a b w => [packA 0x18 d a b (0#6 ++ bit w ++ 4#4)]
  | .amomax d a b w => [packA 0x18 d a b (0#6 ++ bit w ++ 5#4)]
  | .amominn d a b w => [packA 0x18 d a b (0#6 ++ bit w ++ 6#4)]
  | .amomaxn d a b w => [packA 0x18 d a b (0#6 ++ bit w ++ 7#4)]
  | .amoswap d a b w => [packA 0x18 d a b (0#6 ++ bit w ++ 8#4)]
  | .amocas d a b w => [packA 0x18 d a b (0#6 ++ bit w ++ 9#4)]
  | .fence core => [packA 0x19 0 0 0 (0#6 ++ 0#2 ++ (0#2 ++ bit core))]
  | .ffence s => [packA 0x19 0 0 0 (0#6 ++ 1#2 ++ s.code)]
  | .fadd d a b rm p => [packA 0x1A d a b (0#1 ++ rm.code ++ p.code ++ 0x0#6)]
  | .fsub d a b rm p => [packA 0x1A d a b (0#1 ++ rm.code ++ p.code ++ 0x1#6)]
  | .fmul d a b rm p => [packA 0x1A d a b (0#1 ++ rm.code ++ p.code ++ 0x2#6)]
  | .fdiv d a b rm p => [packA 0x1A d a b (0#1 ++ rm.code ++ p.code ++ 0x3#6)]
  | .fsqrt d a rm p => [packA 0x1A d a 0 (0#1 ++ rm.code ++ p.code ++ 0x4#6)]
  | .fmin d a b p => [packA 0x1A d a b (0#1 ++ 0#3 ++ p.code ++ 0x5#6)]
  | .fmax d a b p => [packA 0x1A d a b (0#1 ++ 0#3 ++ p.code ++ 0x6#6)]
  | .feq d a b p => [packA 0x1A d a b (0#1 ++ 0#3 ++ p.code ++ 0x7#6)]
  | .flt d a b p => [packA 0x1A d a b (0#1 ++ 0#3 ++ p.code ++ 0x8#6)]
  | .fle d a b p => [packA 0x1A d a b (0#1 ++ 0#3 ++ p.code ++ 0x9#6)]
  | .fclass d a p => [packA 0x1A d a 0 (0#1 ++ 0#3 ++ p.code ++ 0xA#6)]
  | .fsgcp d a b p => [packA 0x1A d a b (0#1 ++ 0#3 ++ p.code ++ 0xB#6)]
  | .fsgcn d a b p => [packA 0x1A d a b (0#1 ++ 0#3 ++ p.code ++ 0xC#6)]
  | .fsgxr d a b p => [packA 0x1A d a b (0#1 ++ 0#3 ++ p.code ++ 0xD#6)]
  | .fma d a b c p rm => [packA 0x1B d a b (c ++ 0#2 ++ p.code ++ rm.code)]
  | .fms d a b c p rm => [packA 0x1B d a b (c ++ 1#2 ++ p.code ++ rm.code)]
  | .fnma d a b c p rm => [packA 0x1B d a b (c ++ 2#2 ++ p.code ++ rm.code)]
  | .fnms d a b c p rm => [packA 0x1B d a b (c ++ 3#2 ++ p.code ++ rm.code)]
  | .fcvt d a sat rm src dst => [packA 0x1C d a (0#4 ++ bit sat) (rm.code ++ src.code ++ dst.code)]
  | .vld v a s esz k off => [packVM 0x20 v a s esz.code k off]
  | .vst v a s esz k off => [packVM 0x21 v a s esz.code k off]
  | .vgath v a vi e k off => [packVM 0x22 v a (0#1 ++ vi) (1#1 ++ bit e) k off]
  | .vscat v a vi e k off => [packVM 0x23 v a (0#1 ++ vi) (1#1 ++ bit e) k off]
  | .vfadd d a b k p => [packV 0x24 d a b 0 k (0#1 ++ p.code ++ 0x0#5)]
  | .vfsub d a b k p => [packV 0x24 d a b 0 k (0#1 ++ p.code ++ 0x1#5)]
  | .vfmul d a b k p => [packV 0x24 d a b 0 k (0#1 ++ p.code ++ 0x2#5)]
  | .vfdiv d a b k p => [packV 0x24 d a b 0 k (0#1 ++ p.code ++ 0x3#5)]
  | .vfsqrt d a k p => [packV 0x24 d a 0 0 k (0#1 ++ p.code ++ 0x4#5)]
  | .vfmin d a b k p => [packV 0x24 d a b 0 k (0#1 ++ p.code ++ 0x5#5)]
  | .vfmax d a b k p => [packV 0x24 d a b 0 k (0#1 ++ p.code ++ 0x6#5)]
  | .vfabs d a k p => [packV 0x24 d a 0 0 k (0#1 ++ p.code ++ 0x7#5)]
  | .vfneg d a k p => [packV 0x24 d a 0 0 k (0#1 ++ p.code ++ 0x8#5)]
  | .vfeq d a b k p => [packV 0x24 (0#1 ++ d) a b 0 k (0#1 ++ p.code ++ 0x9#5)]
  | .vflt d a b k p => [packV 0x24 (0#1 ++ d) a b 0 k (0#1 ++ p.code ++ 0xA#5)]
  | .vfle d a b k p => [packV 0x24 (0#1 ++ d) a b 0 k (0#1 ++ p.code ++ 0xB#5)]
  | .vfrcp d a k => [packV 0x24 d a 0 0 k (0#1 ++ 0#1 ++ 0xC#5)]
  | .vfrsq d a k => [packV 0x24 d a 0 0 k (0#1 ++ 0#1 ++ 0xD#5)]
  | .vfex2 d a k => [packV 0x24 d a 0 0 k (0#1 ++ 0#1 ++ 0xE#5)]
  | .vflg2 d a k => [packV 0x24 d a 0 0 k (0#1 ++ 0#1 ++ 0xF#5)]
  | .vftanh d a k => [packV 0x24 d a 0 0 k (0#1 ++ 0#1 ++ 0x10#5)]
  | .vfma d a b c k p => [packV 0x25 d a b c k (0#4 ++ p.code ++ 0#2)]
  | .vfms d a b c k p => [packV 0x25 d a b c k (0#4 ++ p.code ++ 1#2)]
  | .vfnma d a b c k p => [packV 0x25 d a b c k (0#4 ++ p.code ++ 2#2)]
  | .vfnms d a b c k p => [packV 0x25 d a b c k (0#4 ++ p.code ++ 3#2)]
  | .vadd d a b k e => [packV 0x26 d a b 0 k (e.code ++ 0x0#5)]
  | .vsub d a b k e => [packV 0x26 d a b 0 k (e.code ++ 0x1#5)]
  | .vmul d a b k e => [packV 0x26 d a b 0 k (e.code ++ 0x2#5)]
  | .vmulh d a b k e => [packV 0x26 d a b 0 k (e.code ++ 0x3#5)]
  | .vmulhn d a b k e => [packV 0x26 d a b 0 k (e.code ++ 0x4#5)]
  | .vand d a b k e => [packV 0x26 d a b 0 k (e.code ++ 0x5#5)]
  | .vor d a b k e => [packV 0x26 d a b 0 k (e.code ++ 0x6#5)]
  | .vxor d a b k e => [packV 0x26 d a b 0 k (e.code ++ 0x7#5)]
  | .vsll d a b k e => [packV 0x26 d a b 0 k (e.code ++ 0x8#5)]
  | .vsrl d a b k e => [packV 0x26 d a b 0 k (e.code ++ 0x9#5)]
  | .vsra d a b k e => [packV 0x26 d a b 0 k (e.code ++ 0xA#5)]
  | .vmin d a b k e => [packV 0x26 d a b 0 k (e.code ++ 0xB#5)]
  | .vmax d a b k e => [packV 0x26 d a b 0 k (e.code ++ 0xC#5)]
  | .vminn d a b k e => [packV 0x26 d a b 0 k (e.code ++ 0xD#5)]
  | .vmaxn d a b k e => [packV 0x26 d a b 0 k (e.code ++ 0xE#5)]
  | .vadds d a b k e => [packV 0x26 d a b 0 k (e.code ++ 0xF#5)]
  | .vsubs d a b k e => [packV 0x26 d a b 0 k (e.code ++ 0x10#5)]
  | .vaddsn d a b k e => [packV 0x26 d a b 0 k (e.code ++ 0x11#5)]
  | .vsubsn d a b k e => [packV 0x26 d a b 0 k (e.code ++ 0x12#5)]
  | .veq d a b k e => [packV 0x26 (0#1 ++ d) a b 0 k ((1#1 ++ bit e) ++ 0x13#5)]
  | .vlt d a b k e => [packV 0x26 (0#1 ++ d) a b 0 k ((1#1 ++ bit e) ++ 0x14#5)]
  | .vltn d a b k e => [packV 0x26 (0#1 ++ d) a b 0 k ((1#1 ++ bit e) ++ 0x15#5)]
  | .vabs d a k e => [packV 0x26 d a 0 0 k (e.code ++ 0x16#5)]
  | .vperm d a b k e => [packV 0x27 d a b 0 k (e.code ++ 0x0#5)]
  | .vsel d a b k e => [packV 0x27 d a b 0 k (e.code ++ 0x9#5)]
  | .vzip d a b k e => [packV 0x27 d a b 0 k (e.code ++ 0xB#5)]
  | .vunzip d a b k e => [packV 0x27 d a b 0 k (e.code ++ 0xC#5)]
  | .vbcast d a k e => [packVG 0x27 d a 0 k (e.code ++ 0x1#5)]
  | .vext d a x e => [packVE 0x27 d a x 0 (e.code ++ 0x2#5)]
  | .vins d a x e => [packVG 0x27 d a x 0 (e.code ++ 0x3#5)]
  | .vredadd d a k p => [packV 0x27 d a 0 0 k ((1#1 ++ p.code) ++ 0x4#5)]
  | .vredmax d a k p => [packV 0x27 d a 0 0 k ((1#1 ++ p.code) ++ 0x5#5)]
  | .vredmin d a k p => [packV 0x27 d a 0 0 k ((1#1 ++ p.code) ++ 0x6#5)]
  | .vmaxx d a k p => [packV 0x27 d a 0 0 k ((1#1 ++ p.code) ++ 0x7#5)]
  | .vminx d a k p => [packV 0x27 d a 0 0 k ((1#1 ++ p.code) ++ 0x8#5)]
  | .vmov d a k e => [packV 0x27 d a 0 0 k (e.code ++ 0xA#5)]
  | .vrot d a c k e => [packVC 0x27 d a c k (e.code ++ 0xD#5)]
  | .kand d a b => [packV 0x27 (0#1 ++ d) (0#1 ++ a) (0#1 ++ b) 0 0 (0#2 ++ 0x10#5)]
  | .kor d a b => [packV 0x27 (0#1 ++ d) (0#1 ++ a) (0#1 ++ b) 0 0 (0#2 ++ 0x11#5)]
  | .knot d a => [packV 0x27 (0#1 ++ d) (0#1 ++ a) 0 0 0 (0#2 ++ 0x12#5)]
  | .kmovKk d a => [packV 0x27 (0#1 ++ d) (0#1 ++ a) 0 0 0 (0#2 ++ 0x13#5)]
  | .kmovKg d a => [packVG 0x27 (0#1 ++ d) a 0 0 (1#2 ++ 0x13#5)]
  | .kmovGk d a => [packVE 0x27 d (a ++ 0#1) 0 0 (2#2 ++ 0x13#5)]
  | .vcvt d a dst sat vr k rm src => [packV 0x28 d a dst.code (bit sat ++ vr) k (rm.code ++ src.code)]
  | .vrng d a b k => [packV 0x29 d a b 0 k 0]
  | .vrngi d a c k => [packVC 0x29 d a c k 1]
  | .bld b a f off => [packKM 0x2C b a (0#2 ++ f.code) off]
  | .bst b a f off => [packKM 0x2C b a (1#2 ++ f.code) off]
  | .blds b a f off => [packKM 0x2C b a (2#2 ++ f.code) off]
  | .bmma m a b => [packK 0x2D m a b 0 0 0]
  | .bmmz m a b => [packK 0x2D m a b 0 0 1]
  | .badd d a b => [packK 0x2E 0 a b d 0 0x0]
  | .bsub d a b => [packK 0x2E 0 a b d 0 0x1]
  | .bmul d a b => [packK 0x2E 0 a b d 0 0x2]
  | .bmaxe d a b => [packK 0x2E 0 a b d 0 0x4]
  | .bneg d a => [packK 0x2E 0 a 0 d 0 0x3]
  | .bnorm d a => [packK 0x2E 0 a 0 d 0 0x6]
  | .bmov d a => [packK 0x2E 0 a 0 d 0 0xA]
  | .bscl d a x => [packK 0x2E 0 a 0 d x 0x5]
  | .bexp d a => [packK 0x2E 0 a 0 0 d 0x7]
  | .bmaxi d a => [packK 0x2E 0 a 0 0 d 0x8]
  | .bclr d f => [packK 0x2E 0 0 (0#2 ++ f.code) d 0 0x9]
  | .blsf d m => [packK 0x2E m 0 0 0 d 0xB]
  | .blsft d m => [packK 0x2E m 0 0 (0#1 ++ d) 0 0xC]
  | .blsfc m => [packK 0x2E m 0 0 0 0 0xD]
  | .benc d hi f => [packK 0x2F 0 (bit hi ++ 0#3) (0#2 ++ f.code) d 0 0]
  | .bdec hi b => [packK 0x2F 0 (bit hi ++ 0#3) b 0 0 1]
  | .bmrd v m => [packK 0x2F m (v ++ 0#1) 0 0 0 2]
  | .bmrb d m j f => [packK 0x2F m 0 (j ++ f.code) d 0 3]
  | .bmsv m x => [packK 0x2F m 0 0 0 x 4]
  | .bmrs m x => [packK 0x2F m 0 0 0 x 5]
  | .mxin d ty v x f => [packK 0x2F ty.code (v ++ 0#1) (0#2 ++ f.code) d x 6]
  | .mxout v ty x b => [packK 0x2F ty.code (v ++ 0#1) 0 b x 7]
  | .dmma d a b => [packV 0x30 d a b 0 0 0]
  | .send s t ch cls => [packC 0x34 s t ch 0 0 cls]
  | .sendv v t ch cls => [packC 0x34 (v ++ 0#1) t ch 1 0 cls]
  | .sendb b t ch cls => [packC 0x34 (b ++ 0#1) t ch 2 0 cls]
  | .recv d ch => [packC 0x34 d 0 ch 3 0 0]
  | .recvv v ch => [packC 0x34 (v ++ 0#1) 0 ch 4 0 0]
  | .recvb b ch => [packC 0x34 (b ++ 0#1) 0 ch 5 0 0]
  | .poll d ch => [packC 0x34 d 0 ch 6 0 0]
  | .qflush ch => [packC 0x34 0 0 ch 7 0 0]
  | .mark ch m cls => [packC 0x34 m.code 0 ch 8 0 cls]
  | .spawn d a => [packA 0x35 d a 0 0x0]
  | .exit => [packA 0x35 0 0 0 0x1]
  | .yield => [packA 0x35 0 0 0 0x2]
  | .waitq d a => [packA 0x35 d a 0 0x3]
  | .waite a => [packA 0x35 0 a 0 0x4]
  | .waitm ch m => [packA 0x35 0 ch m.code 0x5]
  | .barr ch n => [packA 0x35 0 ch (0#1 ++ n) 0x6]
  | .sleep a => [packA 0x35 0 a 0 0x7]
  | .wake a => [packA 0x35 0 a 0 0x8]
  | .slotw a b => [packA 0x35 0 a b 0x9]
  | .stid d => [packA 0x35 d 0 0 0xA]
  | .csrr d n => [packS 0x36 d 0 n 0x0]
  | .csrw n a => [packS 0x36 0 a n 0x1]
  | .csrs n a => [packS 0x36 0 a n 0x2]
  | .csrc n a => [packS 0x36 0 a n 0x3]
  | .csrrw d n a => [packS 0x36 d a n 0x4]
  | .supvDone a => [packS 0x36 0 a 0 0x5]
  | .supvCheckpoint a => [packS 0x36 0 a 1 0x5]
  | .supvSlotmove a => [packS 0x36 0 a 2 0x5]
  | .supvPumpswap a => [packS 0x36 0 a 3 0x5]
  | .supvHostnote a => [packS 0x36 0 a 4 0x5]
  | .supvSlottime a => [packS 0x36 0 a 5 0x5]
  | .supvUnassigned c a => [packS 0x36 0 a (0#6 ++ c) 0x5]
  | .brk c => [packS 0x36 0 0 c 0x6]
  | .idle => [packS 0x36 0 0 0 0x7]
  | .fltres a => [packS 0x36 0 a 0 0x8]
  | .fltskp a => [packS 0x36 0 a 0 0x9]
  | .fltkil a => [packS 0x36 0 a 0 0xA]
  | .chksig d a => [packS 0x36 d a 0 0xB]
  | .li48 d imm => [packI 0x38 d 0 (imm.extractLsb' 32 16), imm.extractLsb' 0 32]
  | .strmOut d a ch len => [packA 0x39 d a 0 0, packCL ch 0 len]
  | .strmIn d a ch len => [packA 0x39 d a 0 1, packCL ch 0 len]
  | .strmCopy d a b len => [packA 0x39 d a b 2, packCL 0 0 len]
  | .fget d a b len => [packA 0x3A d a b 0, packCL 0 0 len]
  | .fput d a b len => [packA 0x3A d a b 1, packCL 0 0 len]
  | .fld d a sz sx off => [packA 0x3B d a 0 (0#2 ++ 0#4 ++ bit sx ++ sz.code ++ 0#2), off]
  | .fst s a sz off => [packA 0x3B s a 0 (0#2 ++ 0#4 ++ 0#1 ++ sz.code ++ 1#2), off]
  | .famoadd d a b w off => [packA 0x3B d a b (0#2 ++ 0#4 ++ 0#1 ++ (1#1 ++ bit w) ++ 2#2), off]
  | .famoand d a b w off => [packA 0x3B d a b (0#2 ++ 1#4 ++ 0#1 ++ (1#1 ++ bit w) ++ 2#2), off]
  | .famoor d a b w off => [packA 0x3B d a b (0#2 ++ 2#4 ++ 0#1 ++ (1#1 ++ bit w) ++ 2#2), off]
  | .famoxor d a b w off => [packA 0x3B d a b (0#2 ++ 3#4 ++ 0#1 ++ (1#1 ++ bit w) ++ 2#2), off]
  | .famomin d a b w off => [packA 0x3B d a b (0#2 ++ 4#4 ++ 0#1 ++ (1#1 ++ bit w) ++ 2#2), off]
  | .famomax d a b w off => [packA 0x3B d a b (0#2 ++ 5#4 ++ 0#1 ++ (1#1 ++ bit w) ++ 2#2), off]
  | .famominn d a b w off => [packA 0x3B d a b (0#2 ++ 6#4 ++ 0#1 ++ (1#1 ++ bit w) ++ 2#2), off]
  | .famomaxn d a b w off => [packA 0x3B d a b (0#2 ++ 7#4 ++ 0#1 ++ (1#1 ++ bit w) ++ 2#2), off]
  | .famoswap d a b w off => [packA 0x3B d a b (0#2 ++ 8#4 ++ 0#1 ++ (1#1 ++ bit w) ++ 2#2), off]
  | .famocas d a b w off => [packA 0x3B d a b (0#2 ++ 9#4 ++ 0#1 ++ (1#1 ++ bit w) ++ 2#2), off]
  | .ftbl a c => [packA 0x3C 0 a 0 0, 0#16 ++ c]
  | .ftbu a c => [packA 0x3C 0 a 0 1, 0#16 ++ c]
  | .ftbp a c => [packA 0x3C 0 a 0 2, 0#16 ++ c]
  | .bmloop f s a b n t fmt sa sb => [packA 0x3D a b n (s ++ t.code ++ fmt.code ++ f), sa ++ sb]
  | .chbind ch a base len => [packA 0x3E 0 a 0 (0#6 ++ ch), base ++ len]
  | _ => []

end Sys2Proof
end

