-- ==== Sys2Proof/Machine/Queue.lean ====
section
/-! DEFINITION. Sys2Proof/Machine/Queue.lean: rings and queues (R180 to R183, R243), header beats and the staging buffer
(R173, R240). -/

namespace Sys2Proof.Machine

/-! ## Header beats (R173) -/

def hdrKind (h : Word) : Nat := natBits h.toNat 60 4
def hdrCls (h : Word) : BitVec 2 := h.extractLsb' 58 2
def hdrLen (h : Word) : Nat := natBits h.toNat 48 10
def hdrFmt (h : Word) : BitVec 4 := h.extractLsb' 44 4
def hdrTrl (h : Word) : Bool := h.getLsbD 43
def hdrTag (h : Word) : BitVec 17 := h.extractLsb' 26 17
def hdrSrc (h : Word) : BitVec 26 := h.extractLsb' 0 26
/-- COMBINED (R176). -/
def hdrCombined (h : Word) : Bool := h.getLsbD 42
/-- The code of a marker (R177). -/
def hdrCode (h : Word) : BitVec 5 := h.extractLsb' 26 5

/-- The block format of a wire format code (R175), if it is one. -/
def blockFmt (f : BitVec 4) : Option Bfmt :=
  match f.toNat with
  | 8 => some .bk4 | 9 => some .bk8 | 10 => some .bk16 | _ => none

/-- The MX element type of a wire format code and the format its lines are stored in (R175), if it is one. -/
def mxFmt (f : BitVec 4) : Option (MxTy × Bfmt) :=
  match f.toNat with
  | 11 => some (.fp4, .bk8) | 12 => some (.fp8e4, .bk16) | _ => none

/-- The format in which a line of a wire format is stored (R175, R243). -/
def storedFmt (f : BitVec 4) : Option Bfmt :=
  match blockFmt f, mxFmt f with
  | some b, _ => some b
  | none, some (_, b) => some b
  | none, none => none

/-- The floating-point element format of a word format code (R175): none for raw and i32. -/
def elemFmt (f : BitVec 4) : Option FFmt :=
  match f.toNat with
  | 2 => some .f32 | 3 => some .f64 | 4 => some .bf16 | 5 => some .f16 | 6 => some .e4m3 | 7 => some .e5m2 | _ => none

/-- SHIFT of the q register bound to a channel (R44, R178). -/
def Core.shiftOf (c : Core) (h : ChanState) : Int := ((c.csr.q[h.qno.toNat]).extractLsb' 0 8).toInt

/-! ## Rings (R180, R181) -/

/-- Ring offset and ring words of an item: header, payload and mask words; a marker record takes none. -/
def Item.place : Item → Option (Nat × Nat)
  | .entry e => some (e.off, e.words + 1)
  | .held h => some (h.off, h.fmt.n + 3)
  | .marker _ => none

/-- The byte address of a ring word. -/
def ChanState.addr (h : ChanState) (off : Nat) : Nat := 8 * (h.rbase + off % h.rlen)

/-- The ring offset of the oldest entry or held line, or where the next one will stand. -/
def ChanState.headOff (h : ChanState) : Nat :=
  match h.items.findSome? Item.place with
  | some (o, _) => o
  | none => h.head

/-- The next free ring offset (R180). -/
def ChanState.tailOff (h : ChanState) : Nat :=
  match h.items.reverse.findSome? Item.place with
  | some (o, n) => (o + n) % h.rlen
  | none => h.head

/-- Ring words free from the tail up to the oldest entry or held line. -/
def ChanState.room (h : ChanState) : Nat :=
  match h.items.findSome? Item.place with
  | some (o, _) => (o + h.rlen - h.tailOff) % h.rlen
  | none => h.rlen

/-- An item leaves the queue; its ring words are free at once (R243). -/
def ChanState.removeAt (h : ChanState) (i : Nat) : ChanState :=
  let size := match h.items[i]? with
    | some x => (x.place.map (·.2)).getD 0
    | none => 0
  { h with head := h.tailOff, items := h.items.eraseIdx i, free := h.free + size }

/-- The index of the head item. -/
def ChanState.headIdx (h : ChanState) : Nat := h.items.findIdx fun i => !i.isHeld

/-- The byte addresses of an entry's next k unread content words. -/
def ChanState.contentAddrs (h : ChanState) (e : Entry) (k : Nat) : List Nat :=
  (List.range k).map fun i => h.addr (e.off + 1 + e.read + i)

/-- The queue after k content words of its head entry have been read (R243). -/
def ChanState.consume (h : ChanState) (e : Entry) (k : Nat) : ChanState :=
  if e.read + k ≥ e.words then h.removeAt h.headIdx
  else { h with items := h.items.set h.headIdx (.entry { e with read := e.read + k }) }

/-- Entries of a queue that a receive could find (CHQ.COUNT). -/
def ChanState.count (h : ChanState) : Nat := (h.items.filter fun i => match i with | .entry _ => true | _ => false).length

/-- Marker records of a queue (CHQ.MARKS). -/
def ChanState.marks (h : ChanState) : Nat := (h.items.filter fun i => match i with | .marker _ => true | _ => false).length

/-- A message of the spill area is a marker record: its place behind spilled messages is kept there, the record itself is one
of the core's (R183, R333). -/
def Spill.isMark (s : Spill) : Bool := match s.item with
  | .marker _ => true
  | _ => false

/-- The messages of the spill area (R333). -/
def Core.spilled (c : Core) : List Spill := c.spill.filter fun s => !s.isMark

/-- Marker records of a core (R183: at most 64), those behind spilled messages among them. -/
def Core.marks (c : Core) : Nat :=
  (c.chans.toList.map ChanState.marks).foldl (· + ·) 0 + (c.spill.filter Spill.isMark).length

/-- Words of content that a payload beat of a word format becomes (R175). -/
def wordsPerBeat (fmt : BitVec 4) : Nat :=
  match fmt.toNat with
  | 1 | 4 | 5 => 2
  | 6 | 7 => 4
  | _ => 1

/-- Ring words that a message takes (R180): header, content, and for a line the mask word. -/
def Msg.ringWords (m : Msg) : Nat :=
  if hdrKind m.hdr = 2 then ((storedFmt (hdrFmt m.hdr)).map fun f => f.n + 3).getD 1
  else 1 + wordsPerBeat (hdrFmt m.hdr) * m.pay.length

/-- Content words of the entry that a header stands for (R180). -/
def entryWords (hdr : Word) : Nat :=
  if hdrKind hdr = 2 then ((storedFmt (hdrFmt hdr)).map fun f => f.n + 2).getD 0
  else wordsPerBeat (hdrFmt hdr) * hdrLen hdr

/-- The message of a class that heads the local port (R180: it occupies its class buffer). -/
def Core.atPort (c : Core) (cls : BitVec 2) : Option Msg := c.router.portq.find? fun m => hdrCls m.hdr = cls

/-- Marker records that the core holds for all its channels (R183). -/
def maxMarks : Nat := 64

/-- A header of the channel waits for ring space, or a marker for a record as such a header does (CHQ.WAIT, R181, R183; log
entry 17). -/
def Core.headerWaits (c : Core) (ch : Chan) : Bool :=
  [(0 : BitVec 2), 1, 2].any fun cls => match c.atPort cls with
    | some m =>
      decide (m.ch = ch) &&
        if hdrKind m.hdr < 3 then decide (m.ringWords ≤ (c.chan ch).rlen) && decide ((c.chan ch).room < m.ringWords)
        else decide (hdrKind m.hdr = 3) && decide ((hdrCode m.hdr).toNat ≤ 0x10) && decide (maxMarks ≤ c.marks)
    | none => false

/-- Marker records of a channel, those behind its spilled messages among them (CHQ.MARKS, R181, R333). -/
def Core.marksOf (c : Core) (ch : Chan) : Nat :=
  (c.chan ch).marks + (c.spill.filter fun s => s.isMark && decide (s.ch = ch)).length

/-- A line of a channel is held for its renorm window, in the ring or in the spill area (CHQ.HELD, R181, R194, R333). -/
def Core.holdsLine (c : Core) (ch : Chan) : Bool :=
  (c.chan ch).isHeld || c.spill.any fun s => decide (s.ch = ch) && s.item.isHeld

/-- CHQn (R181). -/
def Core.chq (c : Core) (ch : Chan) : Word :=
  let h := c.chan ch
  BitVec.ofNat 16 h.headOff ++ BitVec.ofNat 16 h.free ++ BitVec.ofNat 16 h.count ++ (0#7) ++ BitVec.ofNat 7 (c.marksOf ch) ++
    (if c.holdsLine ch then 1#1 else 0#1) ++ (if c.headerWaits ch then 1#1 else 0#1)

/-! ## Staging (R240) -/

/-- Beats of a message. -/
def Msg.beats (m : Msg) : Nat := m.pay.length + 1

/-- Beats staged in a class. -/
def Router.stagedBeats (r : Router) (cls : BitVec 2) : Nat :=
  ((r.staged.filter fun m => decide (hdrCls m.msg.hdr = cls)).map fun m => m.msg.beats).foldl (· + ·) 0

/-- The staging buffer of a class can hold so many beats more (R240: 32 per class). -/
def Core.canStage (c : Core) (cls : BitVec 2) (beats : Nat) : Bool := c.router.stagedBeats cls + beats ≤ 32

/-- A message placed in the staging buffer, by a strand or by the control port. -/
def Core.stage (c : Core) (who : Option StrandNo) (m : Msg) : Core :=
  { c with router := { c.router with staged := c.router.staged ++ [{ strand := who, msg := m }] } }

/-! ## Inputs of routers (R184, R185) -/

/-- The beats of a class that a list of messages holds. -/
def classBeats (ms : List Msg) (cls : BitVec 2) : Nat :=
  ((ms.filter fun m => decide (hdrCls m.hdr = cls)).map Msg.beats).foldl (· + ·) 0

/-- Two or fewer beats of a class buffer of eight are free: its stop line is raised (R184). -/
def stops (ms : List Msg) (cls : BitVec 2) : Bool := 6 ≤ classBeats ms cls

/-- The stop line of an input (R184). -/
def Router.stopsAt (r : Router) (p : Port) (cls : BitVec 2) : Bool := stops ((r.inq.filter fun x => x.1 = p).map (·.2)) cls

/-- The message of a channel that heads an input. -/
def Router.headAt (r : Router) (inp : Port) (ch : Chan) : Option Msg :=
  (r.inq.find? fun (p, m) => decide (p = inp) && decide (m.ch = ch)).map (·.2)

/-- An input and a channel, in a list of what is noted for them. -/
def notFor {α : Type} (p : Port) (ch : Chan) (x : Port × Chan × α) : Bool := !(decide (x.1 = p) && decide (x.2.1 = ch))

/-- A message arrives at an input; `now` is the core's cycle. -/
def Router.enter (r : Router) (p : Port) (m : Msg) (now : Nat) : Router :=
  { r with
    inq := r.inq ++ [(p, m)]
    since := if (r.headAt p m.ch).isNone then (p, m.ch, now) :: r.since else r.since }

/-- The head of an input leaves it, and the next message of its channel heads it from now on. -/
def Router.pop (r : Router) (p : Port) (m : Msg) (now : Nat) : Router :=
  let left := r.inq.erase (p, m)
  let rest := r.since.filter (notFor p m.ch)
  { r with
    inq := left
    promoted := r.promoted.filter fun (q, c) => !(decide (q = p) && decide (c = m.ch))
    since := if left.any fun x => decide (x.1 = p) && decide (x.2.ch = m.ch) then (p, m.ch, now) :: rest else rest }

/-- A message arrives at an input of a core's router. -/
def Core.enter (c : Core) (p : Port) (m : Msg) : Core := { c with router := c.router.enter p m c.csr.cycle.toNat }

/-- A message leaves an input of a core's router. -/
def Core.leave (c : Core) (p : Port) (m : Msg) : Core := { c with router := c.router.pop p m c.csr.cycle.toNat }

/-- CH0 to CH3 belong to the hardware (R22). -/
def reservedChan (ch : Chan) : Bool := ch.toNat < 4

end Sys2Proof.Machine
end

