-- ==== Sys2Proof/Machine/Msg.lean ====
section
/-! DEFINITION. Sys2Proof/Machine/Msg.lean: messages (R240 to R246). -/

namespace Sys2Proof.Machine

/-! ## Encoding (R101, R179, R241) -/

/-- One element multiplied by 2^-SHIFT and rounded once in its own type (R101). -/
def encodeElem (f : FFmt) (md : Mode) (sat : Bool) (shift : Int) (x : Nat) : Nat × Flags :=
  match f.decode x with
  | .fin n m e => f.round md sat n m (e - shift)
  | _ => convertFF f f md sat x

/-- A payload of packed elements; raw and i32 are sent bit for bit (R241). SAT concerns the narrow formats only (R178). -/
def encodeWord (fmt : BitVec 4) (md : Mode) (sat : Bool) (shift : Int) (x : Word) : Word × Flags :=
  match elemFmt fmt with
  | none => (x, 0)
  | some f =>
    let narrow := decide (f.bits ≤ 16)
    let rs := (List.range (64 / f.bits)).map fun i => encodeElem f md (sat && narrow) shift (natBits x.toNat (f.bits * i) f.bits)
    (BitVec.ofNat 64 (packCodes f.bits (rs.map (·.1))), rs.foldl (fun a r => a ||| r.2) 0)

/-- A binding's word format is accepted by SEND and SENDV (R241). -/
def wordFmtOk (f : BitVec 4) : Bool := f.toNat ≤ 7

/-- A binding's format is accepted by SENDB and RECVB (R241, R243). -/
def lineFmtOk (f : BitVec 4) : Bool := 8 ≤ f.toNat && f.toNat ≤ 12

/-- A message for a channel with the binding's class and format and the core's name (R241). -/
def Core.message (c : Core) (ch : Chan) (kind : Nat) (tag : BitVec 17) (trl : Bool) (pay : List Word) : Msg :=
  let h := c.chan ch
  { ch := ch, hdr := headerWord kind h.cls pay.length h.fmt trl tag c.ident.name, pay := pay, bad := false }

/-- Staging a message, or waiting for room, or DESCHED (R240, R242). The route entry of the core's own router is CLOSED
only where its destination field is descheduled or killed (R306; log entry 11). -/
def State.sendMsg (s : State) (m : Msg) (f : Flags) (seen : Bool) : State :=
  if closedBit (s.core.route m.ch) then s.trapChan Code.desched m.ch 4
  else if s.core.canStage (hdrCls m.hdr) m.beats then ((s.mapCore fun c => c.stage (some s.cur) m).seePoison seen).finish f
  else s.wait (.staging (hdrCls m.hdr) m.beats)

/-- CHAN for ch0 to ch3 or a class that is not the binding's (R59 order 5, R242). -/
def State.sendCheck (s : State) (ch : Chan) (cls : BitVec 2) (t : State) : State :=
  if reservedChan ch || decide ((s.core.chan ch).cls ≠ cls) then s.trapChan Code.chan ch 4 else t

/-- SEND (R241, R242). -/
def execSend (src tag : GReg) (ch : Chan) (cls : BitVec 2) (s : State) : Result :=
  let h := s.core.chan ch
  .next (s.sendCheck ch cls (
    if !wordFmtOk h.fmt then s.trapChan Code.chan ch 4
    else
      let (w, f) := encodeWord h.fmt s.rm h.satBit (s.core.shiftOf h) (s.g src)
      s.sendMsg (s.core.message ch 0 ((s.g tag).extractLsb' 0 17) false [w]) f false))

/-- SENDV (R241, R242). -/
def execSendv (v : VReg) (tag : GReg) (ch : Chan) (cls : BitVec 2) (s : State) : Result :=
  let h := s.core.chan ch
  .next (s.sendCheck ch cls (
    if !wordFmtOk h.fmt then s.trapChan Code.chan ch 4
    else
      let rs := (List.range 4).map fun i =>
        encodeWord h.fmt s.rm h.satBit (s.core.shiftOf h) (BitVec.ofNat 64 (velem 64 (s.v v) i))
      s.sendMsg (s.core.message ch 1 ((s.g tag).extractLsb' 0 17) false (rs.map (·.1))) (rs.foldl (fun a r => a ||| r.2) 0) false))

/-- A line for the wire: SHIFT subtracted from each block's E, or the block re-formed (R241). -/
def lineOut (f : Bfmt) (md : Mode) (shift : Int) (bs : List Blk) : List Word × Flags :=
  let rs := bs.map (shiftBlk f.w md (-shift))
  (hdrOf (rs.map (·.1)) :: payOf f (rs.map (·.1)), rs.foldl (fun a r => a ||| r.2) 0)

/-- The beats of an MX message: packed elements, then the scale beat (R175). -/
def mxBeats (ty : MxTy) (c0 c1 packed : Nat) : List Word :=
  ((List.range ty.bits).map fun t => BitVec.ofNat 64 (packed / 2 ^ (64 * t))) ++ [BitVec.ofNat 64 (c0 + 256 * c1)]

/-- SENDB (R241, R242): block formats bit for bit with SHIFT on E, MX formats as MXOUT forms them. TRAPVAL of its POISON holds
the channel (R242), not the INDEX of R105 (log entry 58). -/
def execSendb (b : BReg) (tag : GReg) (ch : Chan) (cls : BitVec 2) (s : State) : Result :=
  let h := s.core.chan ch
  let x := s.b b
  let t17 : BitVec 17 := 0#1 ++ (s.g tag).extractLsb' 0 16
  let shift := s.core.shiftOf h
  .next (s.sendCheck ch cls (s.owned [b] [] 4 (
    match blockFmt h.fmt, mxFmt h.fmt with
    | some f, _ =>
      let bs := x.blks f
      let (ws, fl) := lineOut f s.rm shift bs
      s.sendMsg (s.core.message ch 2 t17 h.trl (ws ++ if h.trl then [x.mask] else [])) fl (anyPoison bs)
    | none, some (ty, _) =>
      let bs := x.blks x.tag
      if closedBit (s.core.route ch) then s.trapChan Code.desched ch 4
      else match s.poisonTrap, firstPoison bs with
        | true, some _ => (s.seePoison true).trap Code.poison (zext ch) 4
        | _, _ =>
          let (c0, c1, e, fl) := mxOf ty x.tag.w s.rm (-shift) bs
          s.sendMsg (s.core.message ch 2 t17 false (mxBeats ty c0 c1 e)) fl (anyPoison bs)
    | none, none => s.trapChan Code.chan ch 4)))

/-- CHAN for ch0 to ch3 and for an unbound channel (R245). -/
def State.recvCheck (s : State) (ch : Chan) (t : State) : State :=
  if reservedChan ch || decide ((s.core.chan ch).rlen = 0) then s.trapChan Code.chan ch 4 else t

/-- The next content words of the head entry, up to n of them, taken in one step: a wait, UE_WELL, or what `k` makes of
the words in the state without them (R243, R322). -/
def State.recvWords (s : State) (ch : Chan) (n : Nat) (k : State → List Word → State) : State :=
  let h := s.core.chan ch
  match h.headEntry with
  | none => s.wait (.recv ch)
  | some e =>
    let m := min n (e.words - e.read)
    let as := h.contentAddrs e m
    if as.any fun a => s.core.well.badIn a 8 then s.trapFree Code.ueWell 4
    else
      let s1 := as.foldl (fun t a => t.touch a 8) s
      (k (s1.mapCore fun c => c.setChan ch fun h => h.consume e m) (as.map s.core.well.word)).done 4

/-- RECV (R243). -/
def execRecv (d : GReg) (ch : Chan) (s : State) : Result :=
  .next (s.recvCheck ch (s.recvWords ch 1 fun t ws => t.setG d (ws.getD 0 0)))

/-- RECVV (R243): words beyond the entry's end read as zero. -/
def execRecvv (d : VReg) (ch : Chan) (s : State) : Result :=
  .next (s.recvCheck ch (s.recvWords ch 4 fun t ws => t.setV d (vOf 64 (ws.map BitVec.toNat))))

/-- RECVB (R243). -/
def execRecvb (d : BReg) (ch : Chan) (s : State) : Result :=
  let h := s.core.chan ch
  .next (
    if reservedChan ch then s.trapChan Code.chan ch 4
    else s.owned [d] [] 4 (s.recvCheck ch (
      if !lineFmtOk h.fmt then s.trapChan Code.chan ch 4
      else match h.headEntry with
        | none => s.wait (.recv ch)
        | some e =>
          match decide (e.read = 0 ∧ hdrKind e.hdr = 2), storedFmt (hdrFmt e.hdr) with
          | true, some f =>
            s.recvWords ch (f.n + 2) fun t ws =>
              let x := BLine.ofWords f ws
              (t.setB d x).seePoison (anyPoison (x.blks f))
          | _, _ => s.trapChan Code.chan ch 4)))

/-- The status word of POLL (R244). -/
def pollWord (h : ChanState) : Word :=
  let held : BitVec 1 := if h.isHeld then 1 else 0
  match h.headItem with
  | some (.entry e) =>
    hdrSrc e.hdr ++ hdrTag e.hdr ++ BitVec.ofNat 13 (e.words - e.read) ++ BitVec.ofNat 4 (hdrKind e.hdr) ++ (0#1) ++ held ++ (0#1) ++ (1#1)
  | some (.marker _) => (0#61) ++ held ++ (1#1) ++ (0#1)
  | _ => (0#61) ++ held ++ (0#2)

/-- POLL (R244): it never waits, and an unbound channel holds no item. -/
def execPoll (d : GReg) (ch : Chan) (s : State) : Result :=
  .next (if reservedChan ch then s.trapChan Code.chan ch 4 else s.put d (pollWord (s.core.chan ch)))

/-- The entries ahead of the first marker record leave; held lines stay (R243). -/
def flushEntries : Nat → ChanState → ChanState
  | 0, h => h
  | n + 1, h => match h.headEntry with
    | some _ => flushEntries n (h.removeAt h.headIdx)
    | none => h

/-- The marker record at the head of a queue leaves it (R243, R261). -/
def Core.takeMarker (c : Core) (ch : Chan) : Core :=
  { c with marked := c.marked.erase ch }.setChan ch fun h => h.removeAt h.headIdx

/-- QFLUSH (R243). -/
def execQflush (ch : Chan) (s : State) : Result :=
  .next (
    if reservedChan ch then s.trapChan Code.chan ch 4
    else (s.mapCore fun c => match (c.chan ch).headItem with
      | some (.marker _) => c.takeMarker ch
      | _ => c.setChan ch fun h => flushEntries h.items.length h).done 4)

/-- A marker message (R177). -/
def Core.marker (c : Core) (ch : Chan) (code : BitVec 5) : Msg :=
  { ch := ch, hdr := headerWord 3 (c.chan ch).cls 0 0 false (0#12 ++ code) c.ident.name, pay := [], bad := false }

/-- MARK (R246). -/
def execMark (ch : Chan) (m : Marker) (cls : BitVec 2) (s : State) : Result :=
  .next (s.sendCheck ch cls (s.sendMsg (s.core.marker ch m.code) 0 false))

end Sys2Proof.Machine
end

