-- ==== Sys2Proof/Machine/Strands.lean ====
section
/-! DEFINITION. Sys2Proof/Machine/Strands.lean: strand instructions (R288 to R300), WAITE apart, and IDLE (R358). -/

namespace Sys2Proof.Machine

/-- STRAND of a strand (R260). -/
def Core.strandCsr (c : Core) (n : StrandNo) : Word :=
  let st := c.strand n
  (0#48) ++ st.wch ++ (0#1) ++ st.cause ++ (0#4) ++ (if c.isHandler n then 1#1 else 0#1) ++ n

/-- The strand that SPAWN creates: the lowest absent one that is not HSTR of a binding with HV = 1 (R289). -/
def Core.freeStrand (c : Core) : Option StrandNo :=
  strandNos.find? fun n => decide ((c.strand n).state = .absent) && !c.isHandler n

/-- SPAWN (R289): the entry pc is checked, recorded, and the strand created by R258 with CAUSE 1. -/
def execSpawn (d a : GReg) (s : State) : Result :=
  let e := s.g a
  .next (
    if e.toNat % 4 ≠ 0 then s.trap Code.misalign e 4
    else if e.toNat > 393212 then s.trap Code.wellrange e 4
    else match s.core.freeStrand with
      | none => s.put d 0xFFFFFFFFFFFFFFFF
      | some n =>
        (s.mapCore fun c => (c.setStrand n fun st => { st with entry := e }).create n 1 0).put d (zext n))

/-- EXIT (R259, R291), which retires (R352). -/
def execExit (s : State) : Result := .next (s.mapCore fun c => (c.retire).endStrand s.cur)

/-- YIELD (R292). -/
def execYield (s : State) : Result := .next ((s.setSt fun st => { st with yielded := true }).done 4)

/-- The channels of a mask that hold an entry at their head (R261, R293). -/
def Core.readyChans (c : Core) (mask : BitVec 32) : BitVec 32 :=
  BitVec.ofNat 32 (chanNos.foldl (fun a ch =>
    if mask.getLsbD ch.toNat && (c.chan ch).headEntry.isSome then a + 2 ^ ch.toNat else a) 0)

/-- The lowest channel of a mask with a property. -/
def lowestIn (mask : BitVec 32) (p : Chan → Bool) : Option Chan := chanNos.find? fun ch => mask.getLsbD ch.toNat && p ch

/-- WAITQ (R293): CHAN for ch0 to ch3, then for an unbound channel; it consumes nothing. -/
def execWaitq (d a : GReg) (s : State) : Result :=
  let mask : BitVec 32 := (s.g a).extractLsb' 0 32
  .next (
    match lowestIn mask reservedChan, lowestIn mask fun ch => decide ((s.core.chan ch).rlen = 0) with
    | some ch, _ => s.trap Code.chan (zext ch) 4
    | none, some ch => s.trapChan Code.chan ch 4
    | none, none =>
      let got := s.core.readyChans mask
      if mask = 0 ∨ got ≠ 0 then s.put d (zext got) else s.wait (.waitq mask))

/-- WAITM (R295). A marker record releases every strand that waits for it (R263); the first to issue its instruction again takes the
record, and another that finds none then waits again (DESIGN CHOICE, log entry 92). -/
def execWaitm (ch : Chan) (m : Marker) (s : State) : Result :=
  .next (s.recvCheck ch (
    if (s.core.chan ch).headMarker = some m.code then (s.mapCore fun c => c.takeMarker ch).done 4
    else s.wait (.waitm ch m.code)))

/-- The code of BARRIER n (R177). -/
def barrierCode (n : BitVec 4) : BitVec 5 := 0#1 ++ n

/-- BARR stages its marker once, as MARK does, then waits as WAITM does (R296). -/
def execBarr (ch : Chan) (n : BitVec 4) (s : State) : Result :=
  let take (t : State) : State :=
    if (t.core.chan ch).headMarker = some (barrierCode n) then
      ((t.mapCore fun c => c.takeMarker ch).setSt fun st => { st with barrStaged := false, inBarr := false }).done 4
    else (t.setSt fun st => { st with inBarr := true }).wait (.barr ch n)
  .next (s.recvCheck ch (
    if s.st.barrStaged then take s
    else if closedBit (s.core.route ch) then s.trapChan Code.desched ch 4
    else
      let m := s.core.marker ch (barrierCode n)
      if s.core.canStage (hdrCls m.hdr) m.beats then
        take ((s.mapCore fun c => c.stage (some s.cur) m).setSt fun st => { st with barrStaged := true })
      else (s.setSt fun st => { st with inBarr := true }).wait (.barr ch n)))

/-- SLEEP (R297): a pending wake ends it at once; a count of 0 has no expiry; a restored count goes on. -/
def execSleep (a : GReg) (s : State) : Result :=
  let count : Nat := s.st.sleepLeft.getD ((s.g a).extractLsb' 0 32).toNat
  .next (
    if s.st.wakePending then (s.setSt fun st => { st with wakePending := false, sleepLeft := none }).done 4
    else (s.setSt fun st => { st with sleepLeft := none }).wait
      (.sleep (if count = 0 then none else some (s.core.csr.cycle.toNat + count))))

/-- WAKE (R262, R297). -/
def execWake (a : GReg) (s : State) : Result :=
  .next ((s.mapCore fun c => c.setStrand ((s.g a).extractLsb' 0 3) Strand.wake).done 4)

/-- A strand waits in BARR, its time for staging room and the time until it is issued again included (R267, R296). -/
def Strand.inBarrier (st : Strand) : Bool := st.exists && st.inBarr

/-- The core is in a barrier window (R267). -/
def Core.barrierWindow (c : Core) : Bool := c.strands.toList.any Strand.inBarrier

/-- HMIN.SHARE (R264). -/
def Core.share (c : Core) : Nat := (c.issue.hmin.extractLsb' 0 6).toNat

/-- The condition of R266 item 2. -/
def Core.tableOk (c : Core) (t : Vector (BitVec 4) 32) : Bool :=
  (t.toList.filter fun e => e.getLsbD 3 && !c.isHandler (e.extractLsb' 0 3)).length + c.share ≤ 32

/-- TRAPVAL of SLOTW (R298). -/
def slotwVal (share : Bool) (entry : BitVec 4) (index : BitVec 5) : Word :=
  (if share then 1#1 else 0#1) ++ (0#51) ++ entry ++ (0#3) ++ index

/-- SLOTW (R267, R298): against the table of the next round. -/
def execSlotw (a b : GReg) (s : State) : Result :=
  let i : BitVec 5 := (s.g a).extractLsb' 0 5
  let e : BitVec 4 := (s.g b).extractLsb' 0 4
  let t := s.core.issue.next.set i.toNat e
  .next (
    if !s.core.barrierWindow then s.trap Code.slotw (slotwVal false e i) 4
    else if !s.core.tableOk t then s.trap Code.slotw (slotwVal true e i) 4
    else (s.mapCore fun c => { c with issue := { c.issue with next := t } }).done 4)

/-- STID (R299). -/
def execStid (d : GReg) (s : State) : Result := .next (s.put d (s.core.strandCsr s.cur))

/-- IDLE (R358). -/
def execIdle (s : State) : Result :=
  .next (if s.st.wakePending then (s.setSt fun st => { st with wakePending := false }).done 4 else s.wait .idle)

end Sys2Proof.Machine
end

