-- ==== Sys2Proof/Machine/Sys.lean ====
section
/-! DEFINITION. Sys2Proof/Machine/Sys.lean: CSR instructions (R351 to R354), SUPV (R355), BRK (R357), disposal of parked
strands (R360), CHKSIG (R362). -/

namespace Sys2Proof.Machine

/-- A bit of a status word. -/
def bitAt (b : Bool) (n : Nat) : Word := if b then 1#64 <<< n else 0

/-- STATUS (R352). -/
def Core.status (c : Core) : Word :=
  bitAt c.ident.ready 0 ||| bitAt (c.csr.fieldId ≠ 0) 1 ||| bitAt c.ident.chkd 2 ||| bitAt c.ident.triple 3

/-- COREID (R16); bits [25:0] of a copy of a triplicated core are copy 0's (R346). -/
def Core.coreId (c : Core) : Word :=
  (0#14) ++ BitVec.ofNat 9 c.ident.site.row ++ BitVec.ofNat 9 c.ident.site.col ++ (0#6) ++ c.ident.name

/-- The mask of strands with a property. -/
def Core.strandBits (c : Core) (p : Strand → Bool) : BitVec 8 :=
  BitVec.ofNat 8 (strandNos.foldl (fun a n => if p (c.strand n) then a + 2 ^ n.toNat else a) 0)

/-- STRMASK (R260): PARK and WAIT count while the strand is not in STOP (R256). -/
def Core.strMask (c : Core) : Word :=
  (0#24) ++ c.strandBits (·.wakePending) ++ c.strandBits Strand.stopped ++
    c.strandBits (fun st => st.state = .live .park) ++
    c.strandBits (fun st => match st.state with | .live (.wait _) => true | _ => false) ++ c.strandBits Strand.exists

/-- SLOTn (R264). -/
def Core.slotCsr (c : Core) (n : Nat) : Word :=
  BitVec.ofNat 64 ((List.range 4).foldl (fun a e => a + ((c.issue.table.toList.getD (4 * n + e) 0).toNat) * 2 ^ (8 * e)) 0)

/-- FTBCTL (R313). -/
def Core.ftbCtl (c : Core) : Word :=
  c.far.misses ++ c.csr.asid ++ (0#18) ++ BitVec.ofNat 6 (c.far.ftb.filter (·.lock)).length ++ (0#5) ++
    BitVec.ofNat 3 (c.far.regions.filter Option.isSome).length

/-- CHKSIG (R352). -/
def Core.chkSig (c : Core) : Word := c.check.skip ++ BitVec.ofNat 16 c.check.idx ++ c.check.sig

/-- The value of an assigned CSR, as strand n reads it (R351); an unassigned number is no instruction (R57). -/
def Core.readCsr (c : Core) (n : StrandNo) (num : BitVec 12) : Word :=
  let x := num.toNat
  if x = 0x000 then c.status
  else if x = 0x001 then c.coreId
  else if x = 0x002 then c.csr.fieldId
  else if x = 0x003 then c.csr.fieldOrg
  else if x = 0x004 then c.csr.fieldDim
  else if x = 0x005 then zext c.ident.grade
  else if x = 0x006 then zext c.ident.mhz
  else if x = 0x008 then c.csr.cycle
  else if x = 0x009 then c.csr.retired
  else if x = 0x010 then c.strandCsr n
  else if x = 0x011 then c.strMask
  else if x = 0x012 then c.csr.faultSt
  else if x = 0x013 then c.csr.faultMask
  else if 0x020 ≤ x ∧ x ≤ 0x027 then (c.strand (num.extractLsb' 0 3)).trapCause
  else if 0x028 ≤ x ∧ x ≤ 0x02F then (c.strand (num.extractLsb' 0 3)).trapPc
  else if 0x030 ≤ x ∧ x ≤ 0x037 then (c.strand (num.extractLsb' 0 3)).trapVal
  else if x = 0x040 then (c.strand n).fmode
  else if x = 0x041 then (c.strand n).fflags
  else if x = 0x042 then c.csr.dpw
  else if x = 0x043 then c.csr.poisonCtl
  else if x = 0x045 then c.csr.mprog
  else if 0x048 ≤ x ∧ x ≤ 0x04F then c.csr.q[(num.extractLsb' 0 3).toNat]
  else if 0x060 ≤ x ∧ x ≤ 0x067 then c.slotCsr (x - 0x060)
  else if x = 0x068 then c.issue.hmin
  else if 0x080 ≤ x ∧ x ≤ 0x09F then (c.chan (num.extractLsb' 0 5)).bind
  else if 0x0A0 ≤ x ∧ x ≤ 0x0BF then c.chq (num.extractLsb' 0 5)
  else if x = 0x0C0 then c.csr.ownB
  else if x = 0x0C1 then c.csr.ownM
  else if x = 0x100 then c.ftbCtl
  else if x = 0x180 then c.csr.voteLog
  else if x = 0x181 then c.chkSig
  else if 0x200 ≤ x ∧ x ≤ 0x21F then c.route (num.extractLsb' 0 5)
  else 0

/-! ### Writes (R353) -/

/-- Writable bits of FAULTMASK (R325). -/
def faultMaskBits : Word := 0x1C3FF7C

/-- FMODE from a new value: a reserved RM keeps the old one (R103). -/
def fmodeOf (old new : Word) : Word :=
  (new &&& 0x1F0) ||| (if (new.extractLsb' 0 3).toNat ≤ 4 then new &&& 7 else old &&& 7)

/-- DPW from a new value: a reserved RRM keeps the old one (R108). -/
def dpwOf (old new : Word) : Word :=
  (new &&& 0x10F) ||| (if (new.extractLsb' 4 3).toNat ≤ 4 then new &&& 0x70 else old &&& 0x70)

/-- What the RW fields of a CSR become for a new value; `clear` says which W1C bits are written with 1 (R353). -/
def Core.writeCsr (c : Core) (n : StrandNo) (num : BitVec 12) (new clear : Word) : Core :=
  let x := num.toNat
  if x = 0x012 then { c with csr := { c.csr with faultSt := new &&& 0xF } }
  else if x = 0x013 then { c with csr := { c.csr with faultMask := new &&& faultMaskBits } }
  else if x = 0x040 then c.setStrand n fun st => { st with fmode := fmodeOf st.fmode new }
  else if x = 0x041 then c.setStrand n fun st => { st with fflags := new &&& 0x7F }
  else if x = 0x042 then { c with csr := { c.csr with dpw := dpwOf c.csr.dpw new } }
  else if x = 0x043 then
    { c with csr := { c.csr with poisonCtl := (new &&& 1) ||| (c.csr.poisonCtl &&& 0x100 &&& ~~~clear) } }
  else if 0x048 ≤ x ∧ x ≤ 0x04F then
    { c with csr := { c.csr with q := c.csr.q.set (num.extractLsb' 0 3).toNat (new &&& 0xFF) } }
  else c

/-- CSRR (R353). -/
def execCsrr (d : GReg) (csr : BitVec 12) (s : State) : Result := .next (s.put d (s.core.readCsr s.cur csr))

/-- CSRW (R353). -/
def execCsrw (csr : BitVec 12) (a : GReg) (s : State) : Result :=
  .next ((s.mapCore fun c => c.writeCsr s.cur csr (s.g a) (s.g a)).done 4)

/-- CSRS (R353): W1C fields keep their value. -/
def execCsrs (csr : BitVec 12) (a : GReg) (s : State) : Result :=
  .next ((s.mapCore fun c => c.writeCsr s.cur csr (c.readCsr s.cur csr ||| s.g a) 0).done 4)

/-- CSRC (R353). -/
def execCsrc (csr : BitVec 12) (a : GReg) (s : State) : Result :=
  .next ((s.mapCore fun c => c.writeCsr s.cur csr (c.readCsr s.cur csr &&& ~~~(s.g a)) 0).done 4)

/-- CSRRW (R353): one indivisible step. -/
def execCsrrw (d : GReg) (csr : BitVec 12) (a : GReg) (s : State) : Result :=
  .next ((s.mapCore fun c => c.writeCsr s.cur csr (s.g a) (s.g a)).put d (s.core.readCsr s.cur csr))

/-! ## SUPV and BRK -/

/-- SUPV raises the fault SUPV, which FAULTMASK never enables (R355). The supervisor's service is FAULT_MESSAGE. -/
def State.supv (s : State) (code : BitVec 6) (a : GReg) : State := s.trap Code.supv (code ++ (s.g a).extractLsb' 0 58) 4

/-- SUPV DONE (R355). -/
def execSupvDone (a : GReg) (s : State) : Result := .next (s.supv 0 a)

/-- SUPV CHECKPOINT (R355). -/
def execSupvCheckpoint (a : GReg) (s : State) : Result := .next (s.supv 1 a)

/-- SUPV SLOTMOVE (R355). -/
def execSupvSlotmove (a : GReg) (s : State) : Result := .next (s.supv 2 a)

/-- SUPV PUMPSWAP (R355). -/
def execSupvPumpswap (a : GReg) (s : State) : Result := .next (s.supv 3 a)

/-- SUPV HOSTNOTE (R355). -/
def execSupvHostnote (a : GReg) (s : State) : Result := .next (s.supv 4 a)

/-- SUPV SLOTTIME (R355). -/
def execSupvSlottime (a : GReg) (s : State) : Result := .next (s.supv 5 a)

/-- SUPV with an unassigned service code (R355). -/
def execSupvUnassigned (code : BitVec 6) (a : GReg) (s : State) : Result := .next (s.supv code a)

/-- BRK (R357): its resume point is the next instruction. -/
def execBrk (code : BitVec 12) (s : State) : Result := .next (s.trapAfter Code.break (zext code) 4)

/-! ## Disposing of parked strands (R360) -/

/-- The target of a disposal, if it may be disposed of: another strand that exists, whose fault did not go to the
supervisor (R360). -/
def State.disposable (s : State) (a : GReg) : Option StrandNo :=
  let t : StrandNo := (s.g a).extractLsb' 0 3
  let st := s.core.strand t
  if t = s.cur ∨ st.state = .absent ∨ (st.parked ∧ st.toSupervisor) then none else some t

/-- FLTRES (R360). -/
def execFltres (a : GReg) (s : State) : Result :=
  .next ((match s.disposable a with
    | some t => s.mapCore fun c => c.setStrand t fun st => if st.parked then st.resumed else st
    | none => s).done 4)

/-- FLTSKP (R360): MPROG.ACT clears if it names the target. -/
def execFltskp (a : GReg) (s : State) : Result :=
  .next ((match s.disposable a with
    | some t => s.mapCore fun c => if (c.strand t).parked then c.skip t else c
    | none => s).done 4)

/-- FLTKIL (R360). -/
def execFltkil (a : GReg) (s : State) : Result :=
  .next ((match s.disposable a with
    | some t => s.mapCore fun c => c.endStrand t
    | none => s).done 4)

/-! ## CHKSIG -/

/-- CHKSIG (R362): the eight bytes of g[a] end the interval; gd receives its signature and the next starts with SIG 0. -/
def execChksig (d a : GReg) (s : State) : Result :=
  let c1 := s.core.sign (leBytes 8 (s.g a).toNat)
  let s1 := { s with core := c1 }
  let s2 := (if d = 0 then s1 else s1.setSt fun st => { st with g := st.g.set d.toNat (zext c1.check.sig) }).jump (s.pc + 4)
  .next (s2.mapCore fun c =>
    { c with csr := { c.csr with retired := c.csr.retired + 1 }, check := c.check.endInterval })

end Sys2Proof.Machine
end

