-- ==== Sys2Proof/Machine/WellMem.lean ====
section
/-! DEFINITION. Sys2Proof/Machine/WellMem.lean: loads, stores and atomics of the well, scalar and vector, and FENCE (R137,
R138, R236 to R239). -/

namespace Sys2Proof.Machine

/-! ## LD, ST, LDX, STX (R236) -/

/-- A load of `nb` bytes: MISALIGN, WELLRANGE, UE_WELL, or gd (R236). -/
def State.load (s : State) (d : GReg) (a : Word) (z : Sz) (sx : Bool) : State :=
  match wellCheck a z.bytes z.bytes with
  | some c => s.trap c a 4
  | none =>
    if s.core.well.badIn a.toNat z.bytes then s.trap Code.ueWell a 4
    else (s.touch a.toNat z.bytes).put d (extend z.bits sx (s.core.well.readNat a.toNat z.bytes))

/-- A store of `nb` bytes; one narrower than a word reads the word at the bank port (R170, R236). -/
def State.storeAt (s : State) (a : Word) (z : Sz) (x : Word) : State :=
  match wellCheck a z.bytes z.bytes with
  | some c => s.trap c a 4
  | none =>
    if z ≠ .w64 && s.core.well.badIn a.toNat z.bytes then s.trap Code.ueWell a 4
    else (s.store a.toNat (leBytes z.bytes x.toNat)).done 4

/-- The address of LD and ST (R236). -/
def State.addrOff (s : State) (a : GReg) (off : BitVec 13) : Word := s.g a + sext off

/-- The address of LDX and STX (R236). -/
def State.addrIdx (s : State) (a b : GReg) (sh : BitVec 2) : Word := s.g a + (s.g b <<< sh.toNat)

/-- LD (R236). -/
def execLd (d a : GReg) (sz : Sz) (sx : Bool) (off : BitVec 13) (s : State) : Result :=
  .next (s.load d (s.addrOff a off) sz sx)

/-- ST (R236). -/
def execSt (src a : GReg) (sz : Sz) (off : BitVec 13) (s : State) : Result :=
  .next (s.storeAt (s.addrOff a off) sz (s.g src))

/-- LDX (R236). -/
def execLdx (d a b : GReg) (sh : BitVec 2) (sx : Bool) (sz : Sz) (s : State) : Result :=
  .next (s.load d (s.addrIdx a b sh) sz sx)

/-- STX (R236). -/
def execStx (src a b : GReg) (sh : BitVec 2) (sz : Sz) (s : State) : Result :=
  .next (s.storeAt (s.addrIdx a b sh) sz (s.g src))

/-! ## Atomics (R237), whose table far atomics share (R251) -/

/-- The ten operations of AMO and FAMO (R50, R237). -/
inductive AmoOp | add | and | or | xor | min | max | minn | maxn | swap | cas
  deriving DecidableEq, Repr

/-- The new stored value (R237): `old`, the operand, and g[d] for CAS, all of so many bits. -/
def amoNew (op : AmoOp) (bits : Nat) (old v cmp : Nat) : Nat :=
  match op with
  | .add => (old + v) % 2 ^ bits
  | .and => old &&& v
  | .or => old ||| v
  | .xor => old ^^^ v
  | .min => if intOfNat bits v < intOfNat bits old then v else old
  | .max => if intOfNat bits old < intOfNat bits v then v else old
  | .minn => if v < old then v else old
  | .maxn => if old < v then v else old
  | .swap => v
  | .cas => if old = cmp then v else old

/-- A 32-bit old value is zero-extended for MINN and MAXN and sign-extended for every other operation (R237). -/
def amoSigned : AmoOp → Bool
  | .minn | .maxn => false
  | _ => true

/-- Bytes of an atomic access. -/
def amoBytes (w64 : Bool) : Nat := if w64 then 8 else 4

/-- AMO (R237): one indivisible read-modify-write. -/
def State.amo (s : State) (op : AmoOp) (d a b : GReg) (w64 : Bool) : State :=
  let nb := amoBytes w64
  let addr := s.g a
  match wellCheck addr nb nb with
  | some c => s.trap c addr 4
  | none =>
    if s.core.well.badIn addr.toNat nb then s.trap Code.ueWell addr 4
    else
      let old := s.core.well.readNat addr.toNat nb
      let new := amoNew op (8 * nb) old (s.lowG (8 * nb) b) (s.lowG (8 * nb) d)
      (s.store addr.toNat (leBytes nb new)).put d (extend (8 * nb) (amoSigned op) old)

/-- AMOADD (R237). -/
def execAmoadd (d a b : GReg) (w64 : Bool) (s : State) : Result := .next (s.amo .add d a b w64)

/-- AMOAND (R237). -/
def execAmoand (d a b : GReg) (w64 : Bool) (s : State) : Result := .next (s.amo .and d a b w64)

/-- AMOOR (R237). -/
def execAmoor (d a b : GReg) (w64 : Bool) (s : State) : Result := .next (s.amo .or d a b w64)

/-- AMOXOR (R237). -/
def execAmoxor (d a b : GReg) (w64 : Bool) (s : State) : Result := .next (s.amo .xor d a b w64)

/-- AMOMIN (R237). -/
def execAmomin (d a b : GReg) (w64 : Bool) (s : State) : Result := .next (s.amo .min d a b w64)

/-- AMOMAX (R237). -/
def execAmomax (d a b : GReg) (w64 : Bool) (s : State) : Result := .next (s.amo .max d a b w64)

/-- AMOMINN (R237). -/
def execAmominn (d a b : GReg) (w64 : Bool) (s : State) : Result := .next (s.amo .minn d a b w64)

/-- AMOMAXN (R237). -/
def execAmomaxn (d a b : GReg) (w64 : Bool) (s : State) : Result := .next (s.amo .maxn d a b w64)

/-- AMOSWAP (R237). -/
def execAmoswap (d a b : GReg) (w64 : Bool) (s : State) : Result := .next (s.amo .swap d a b w64)

/-- AMOCAS (R237). -/
def execAmocas (d a b : GReg) (w64 : Bool) (s : State) : Result := .next (s.amo .cas d a b w64)

/-! ## FENCE (R239) -/

/-- FENCE (R239). Every store of the model is performed at its bank when its instruction completes, and every fetch reads
the well as it stands (R38), so nothing is waited for (log entry 9). -/
def execFence (_core : Bool) (s : State) : Result := .next (s.done 4)

/-! ## VLD, VST, VGATH, VSCAT (R137, R138, R238) -/

/-- Element addresses with their active bits. -/
def withActive (w : Nat) (k : BitVec 8) (as : List Word) : List (Word × Bool) := as.zipIdx.map fun (a, i) => (a, kbit w k i)

/-- The element addresses of VLD and VST (R137): g0 as stride register names contiguous elements. -/
def State.strided (s : State) (a st : GReg) (esz : Sz) (off : BitVec 7) : List Word :=
  vaddrs (s.vbase a off) (if st = 0 then BitVec.ofNat 64 esz.bytes else s.g st) esz.count

/-- The element addresses of VGATH and VSCAT (R238). -/
def State.indexed (s : State) (a : GReg) (vi : VReg) (esz : Sz) (off : BitVec 7) : List Word :=
  (velems esz.bits (s.v vi)).map fun x => s.vbase a off + extend esz.bits true x

/-- The accesses of a vector instruction, those of inactive elements left out; without data it loads. -/
def vecElems (esz : Sz) (xs : List (Word × Bool)) (data : Nat → List Byte) : List (Elem × Bool) :=
  xs.zipIdx.map fun ((a, act), i) => ({ addr := a.toNat, nb := esz.bytes, data := data i }, act)

/-- A vector load: every check before any byte is read (R137). -/
def State.vload (s : State) (v : VReg) (k : KReg) (esz : Sz) (as : List Word) : State :=
  let xs := withActive esz.bits (s.k k) as
  match firstFault esz.bytes esz.bytes xs with
  | some (c, a) => s.trap c a 4
  | none =>
    match firstBad s.core.well esz.bytes xs with
    | some a => s.trap Code.ueWell a 4
    | none =>
      let s1 := xs.foldl (fun t (a, act) => if act then t.touch a.toNat esz.bytes else t) s
      s.accesses (Part.start (vecElems esz xs fun _ => []) (.vload v (s.k k) esz.bits))
        ((s1.setV v (vmerge esz.bits (s.k k) (s.v v) (as.map fun a => s.core.well.readNat a.toNat esz.bytes))).done 4)

/-- A vector store: where active elements overlap, the higher index prevails (R137). -/
def State.vstore (s : State) (v : VReg) (k : KReg) (esz : Sz) (as : List Word) : State :=
  let xs := withActive esz.bits (s.k k) as
  match firstFault esz.bytes esz.bytes xs with
  | some (c, a) => s.trap c a 4
  | none =>
    match if esz = .w64 then none else firstBad s.core.well esz.bytes xs with
    | some a => s.trap Code.ueWell a 4
    | none =>
      s.accesses (Part.start (vecElems esz xs fun i => if kbit esz.bits (s.k k) i then leBytes esz.bytes (velem esz.bits (s.v v) i) else [])
          .vstore)
        ((xs.zipIdx.foldl (fun t ((a, act), i) => if act then t.store a.toNat (leBytes esz.bytes (velem esz.bits (s.v v) i)) else t)
          s).done 4)

/-- VLD (R137). -/
def execVld (v : VReg) (a st : GReg) (esz : Sz) (k : KReg) (off : BitVec 7) (s : State) : Result :=
  .next (s.vload v k esz (s.strided a st esz off))

/-- VST (R137). -/
def execVst (v : VReg) (a st : GReg) (esz : Sz) (k : KReg) (off : BitVec 7) (s : State) : Result :=
  .next (s.vstore v k esz (s.strided a st esz off))

/-- The element size of a 32-bit or 64-bit form. -/
def sz32 (e64 : Bool) : Sz := if e64 then .w64 else .w32

/-- VGATH (R238). -/
def execVgath (v : VReg) (a : GReg) (vi : VReg) (e64 : Bool) (k : KReg) (off : BitVec 7) (s : State) : Result :=
  .next (s.vload v k (sz32 e64) (s.indexed a vi (sz32 e64) off))

/-- VSCAT (R238). -/
def execVscat (v : VReg) (a : GReg) (vi : VReg) (e64 : Bool) (k : KReg) (off : BitVec 7) (s : State) : Result :=
  .next (s.vstore v k (sz32 e64) (s.indexed a vi (sz32 e64) off))

end Sys2Proof.Machine
end

