-- ==== Sys2Proof/Machine/Far.lean ====
section
/-! DEFINITION. Sys2Proof/Machine/Far.lean: the core's side of far memory: pump choice (R207), translation (R252, R253,
R313), far accesses (R251), FFENCE (R229), faults and stalls of awaited work (R223, R389), CHBIND (R254), and the
completion of an access (R251). -/

namespace Sys2Proof.Machine

/-! ## Pumps and translation -/

/-- Pages are 64 KiB (R310). -/
def pageSize : Nat := 65536
/-- Far virtual addresses are 52 bits wide. -/
def farSize : Nat := 2 ^ 52

/-- The index into PSET of R207, for a pump set of `n` pumps. -/
def psetIndex (va n : Nat) : Nat := (natBits va 12 16 ^^^ natBits va 28 16 ^^^ natBits va 44 8) % n

/-- The pump that serves a far address (R207); a core without a pump set has none and names pump 0 (log entry 12). -/
def Core.pumpFor (c : Core) (va : Nat) : BitVec 8 := c.far.pset.getD (psetIndex va c.far.pset.length) 0

/-- The pump of a number. -/
def State.pump (s : State) (no : BitVec 8) : Pump := (s.pumps.find? fun p => p.no = no).getD (Pump.blank no)

/-- The machine with a pump changed. -/
def State.setPump (s : State) (no : BitVec 8) (f : Pump → Pump) : State :=
  { s with pumps := f (s.pump no) :: s.pumps.filter fun p => p.no ≠ no }

/-- An entry translates a page for an ASID (R313). -/
def FtbEntry.covers (e : FtbEntry) (asid : BitVec 16) (page : Nat) : Bool :=
  decide (e.asid = asid) && decide (e.page ≤ page) && decide (page < e.page + e.pages)

/-- The physical address of a far address under an entry. -/
def FtbEntry.target (e : FtbEntry) (va : Nat) : Nat := e.pa + va % (e.pages * pageSize)

/-- What the FTB answers (R252). -/
inductive Lookup
  | hit (e : FtbEntry)
  | locked
  | miss
  deriving DecidableEq, Repr

/-- A page lies in some locked region of the core (R253). -/
def Core.inRegion (c : Core) (page : Nat) : Bool :=
  c.far.regions.any fun r => match r with
    | some r => decide (r.page ≤ page) && decide (page < r.page + r.count)
    | none => false

/-- Translation at the core (R252): a hit, a miss in a locked region, or a miss. -/
def Core.lookup (c : Core) (va : Nat) : Lookup :=
  match c.far.ftb.find? fun e => e.covers c.csr.asid (va / pageSize) with
  | some e => .hit e
  | none => if c.inRegion (va / pageSize) then .locked else .miss

/-- The core asks the pump of R207 for a walk; MISSES counts it (R252, R313). -/
def State.startWalk (s : State) (va : Nat) (who : Walker) : State :=
  let c := s.core
  let q := c.far.seq
  let req : WalkReq :=
    { site := c.ident.site, seq := q, asid := c.csr.asid, fnum := c.csr.fnum, name := c.ident.name, va := va, who := who }
  let s1 := s.mapCore fun c => { c with far := { c.far with
    seq := q + 1
    walks := c.far.walks ++ [{ seq := q, va := va, who := who, discard := false }]
    misses := if c.far.misses = 0xFFFF then 0xFFFF else c.far.misses + 1 } }
  s1.setPump (c.pumpFor va) fun p => { p with walkq := p.walkq ++ [req] }

/-! ### Loading the FTB -/

/-- Entries of an FTB (R252). -/
def ftbEntries : Nat := 32

/-- The FTB with an entry loaded: in place of an unlocked one for the same pages, in a free place, or in place of the
unlocked entry that Config.ftbVictim names (R252). -/
def ftbLoad (ftb : List FtbEntry) (e : FtbEntry) (victim : Nat) : List FtbEntry :=
  let rest := ftb.filter fun o => o.lock || !(decide (o.asid = e.asid) && decide (o.page < e.page + e.pages) && decide (e.page < o.page + o.pages))
  if rest.length < ftbEntries then rest ++ [e]
  else
    let open' := rest.filter fun o => !o.lock
    match open'[victim % open'.length]? with
    | some o => rest.erase o ++ [e]
    | none => rest

/-- Locked entries of a core. -/
def Core.lockedCount (c : Core) : Nat := (c.far.ftb.filter (·.lock)).length

/-- The fields of a page-table entry (R310). -/
def pteV (e : Word) : Bool := e.getLsbD 0
def pteW (e : Word) : Bool := e.getLsbD 1
def pteLockable (e : Word) : Bool := e.getLsbD 2
def pteQuar (e : Word) : Bool := e.getLsbD 3
def pteLeaf (e : Word) : Bool := e.getLsbD 4
def ptePa (e : Word) : Nat := natBits e.toNat 16 36

/-- The FTB entry of a leaf for the page of a far address. -/
def leafEntry (asid : BitVec 16) (va : Nat) (pte : Word) (big lock : Bool) (region : BitVec 2) : FtbEntry :=
  let page := va / pageSize
  { asid := asid, page := if big then page / bigPages * bigPages else page, big := big, pa := ptePa pte * pageSize
    w := pteW pte, lock := lock, region := region }

/-! ## Issuing far accesses -/

/-- A copy of a triplicated core sends no far request (R346). -/
def Core.isCopy (c : Core) : Bool := c.ident.readsAs.isSome

/-- The kinds of far access. -/
def FarKind.isWrite : FarKind → Bool
  | .fld | .fget => false
  | .fst | .famo _ | .fput => true

/-- ACCESS of a fault record (R312). -/
def FarKind.access : FarKind → BitVec 8
  | .fld | .fget => 0
  | .fst | .fput => 1
  | .famo _ => 2

/-- A far request leaves the core for the pump of R207 and stays outstanding until it has performed (R208, R229). -/
def State.request (s : State) (o : Out) (pa : Nat) (data cmp : List Byte) : State :=
  let c := s.core
  let o1 := { o with seq := c.far.seq }
  let req : FarReq :=
    { site := c.ident.site, name := c.ident.name, seq := c.far.seq, strand := o.strand, asid := c.csr.asid, fnum := c.csr.fnum
      kind := o.kind, va := o.va, pa := pa, nb := o.nb, data := data, cmp := cmp, ident := none }
  let s1 := s.mapCore fun c => { c with far := { c.far with seq := c.far.seq + 1, outs := c.far.outs ++ [o1] } }
  if c.isCopy then s1 else s1.setPump (c.pumpFor o.va) fun p => { p with queue := p.queue ++ [req] }

/-- Steps 1 to 3 of a far access (R251, R313): MISALIGN, FARPROT, translation, W; then what `k` does with the physical
address. -/
def State.farAt (s : State) (va : Word) (nb : Nat) (kind : FarKind) (k : Nat → State) : State :=
  if va.toNat % nb ≠ 0 then s.trap Code.misalign va 8
  else if va.toNat ≥ farSize then s.trap Code.farprot va 8
  else match s.core.lookup va.toNat with
    | .hit e => if kind.isWrite && !e.w then s.trap Code.farprot va 8 else k (e.target va.toNat)
    | .locked => s.trap Code.ftbmissLocked va 8
    | .miss => (s.startWalk va.toNat (.strand s.cur kind.access)).wait .walk

/-- Granules of a command that are still to be requested touch these far bytes (R228). -/
def Cmd.touches (k : Cmd) (va nb : Nat) : Bool :=
  (decide (k.kind = .fget) || decide (k.kind = .fput)) && decide (k.left ≠ 0) && decide (va < k.dst + k.left) && decide (k.dst < va + nb)

/-- Strand n's own earlier granules at these bytes are still to be requested: its access has to perform after them (R228). -/
def Core.ranBehind (c : Core) (n : StrandNo) (va nb : Nat) : Bool := c.cmds.any fun k => decide (k.strand = n) && k.touches va nb

/-- The next granule of a command stands behind a granule that an earlier command of its strand has still to request (R228). -/
def Core.cmdBehind (c : Core) (k : Cmd) : Bool :=
  c.cmds.any fun j => decide (j.strand = k.strand) && decide (j.seq < k.seq) && j.touches k.dst 64

/-- The strand's wait is issued again only once. -/
def State.clearRedo (s : State) : State := s.setSt fun st => { st with redo := false }

/-- TRAPVAL of STALL (R223). -/
def stallVal (va : Nat) (st : BitVec 8 × BitVec 3 × Bool) : Word :=
  (if st.2.2 then 1#1 else 0#1) ++ st.2.1 ++ st.1 ++ BitVec.ofNat 52 va

/-- Whether STALL is delivered (R223). -/
def Core.stallEnabled (c : Core) : Bool := c.csr.faultMask.getLsbD 11

/-- The fault that a wait on these commands and accesses meets (R389): FARFAULT of the first paused command, whose condition lasts until
a walk for its granule succeeds, else the first enabled STALL. No rule says which of the two comes first where both are there (DESIGN CHOICE, log entry 59). -/
def Core.workFault (c : Core) (cmds : Cmd → Bool) (outs : Out → Bool) : Option (BitVec 8 × Word) :=
  let paused := c.cmds.findSome? fun k => match cmds k, k.pause with
    | true, .farFault va => some (Code.farfault, va)
    | true, .rewalk va => some (Code.farfault, va)
    | _, _ => none
  let stalled := if c.stallEnabled then c.far.outs.findSome? fun o => match outs o, o.stall with
    | true, some x => some (Code.stall, stallVal o.va x)
    | _, _ => none
    else none
  match paused with
  | some x => some x
  | none => stalled

/-- The walks of paused commands are asked for again (R250 step 4). -/
def State.rewalk (s : State) (sel : Cmd → Bool) : State :=
  s.core.cmds.foldl (fun t k => match sel k, k.pause with
    | true, .farFault va =>
      (t.startWalk va.toNat (.engine k.seq t.cur (if k.kind = .fget then 0 else 1))).mapCore fun c =>
        { c with cmds := c.cmds.map fun j => if j.seq = k.seq then { j with pause := .rewalk va } else j }
    | _, _ => t) s

/-- A far access of the acting strand performs after its own earlier granules at the same bytes (R228): while one of them is
still to be requested the access waits in its instruction, and takes the fault that holds the granule up (R389). -/
def State.inOrder (s : State) (redo : Bool) (va nb : Nat) (t : State) : State :=
  let mine (k : Cmd) : Bool := decide (k.strand = s.cur) && k.touches va nb
  if !s.core.ranBehind s.cur va nb then t
  else if redo then (s.rewalk mine).wait (.behind va nb)
  else match s.core.workFault mine fun _ => false with
    | some (code, val) => s.trap code val 8
    | none => s.wait (.behind va nb)

/-- An access of this instruction that is still outstanding: the instruction was issued again after a stall (R223). -/
def State.openAccess (s : State) (kind : FarKind) (va : Word) : Option Out :=
  if s.st.redo then
    s.core.far.outs.find? fun o => decide (o.strand = s.cur) && decide (o.pc = s.pc) && decide (o.kind = kind) && decide (o.va = va.toNat)
  else none

/-- FLD and FAMO: the request, then the wait for it (R251). -/
def State.farWait (s : State) (kind : FarKind) (d : GReg) (va : Word) (nb : Nat) (sx : Bool) (data cmp : List Byte) : State :=
  match s.openAccess kind va with
  | some o => s.clearRedo.wait (.far o.seq)
  | none =>
    let s1 := s.clearRedo
    s1.farAt va nb kind fun pa => s1.inOrder s.st.redo va.toNat nb (
      (s1.request { seq := 0, strand := s1.cur, kind := kind, va := va.toNat, nb := nb, sx := sx, dst := d, pc := s1.pc
                    cmd := 0, well := 0, stall := none } pa data cmp).wait (.far s1.core.far.seq))

/-- The far address of R251. -/
def State.farAddr (s : State) (a : GReg) (off : BitVec 32) : Word := s.g a + sext off

/-- FLD (R251). -/
def execFld (d a : GReg) (sz : Sz) (sx : Bool) (off : BitVec 32) (s : State) : Result :=
  .next (s.farWait .fld d (s.farAddr a off) sz.bytes sx [] [])

/-- FST (R251): posted. -/
def execFst (src a : GReg) (sz : Sz) (off : BitVec 32) (s : State) : Result :=
  let va := s.farAddr a off
  let s1 := s.clearRedo
  .next (s1.farAt va sz.bytes .fst fun pa => s1.inOrder s.st.redo va.toNat sz.bytes (
    (s1.request { seq := 0, strand := s1.cur, kind := .fst, va := va.toNat, nb := sz.bytes, sx := false, dst := 0, pc := s1.pc
                  cmd := 0, well := 0, stall := none } pa (leBytes sz.bytes (s.g src).toNat) []).done 8))

/-- The code of an atomic operation (R50). -/
def AmoOp.code : AmoOp → BitVec 4
  | .add => 0 | .and => 1 | .or => 2 | .xor => 3 | .min => 4 | .max => 5 | .minn => 6 | .maxn => 7 | .swap => 8 | .cas => 9

/-- The operation of a code. -/
def amoOfCode (x : BitVec 4) : AmoOp :=
  match x.toNat with
  | 0 => .add | 1 => .and | 2 => .or | 3 => .xor | 4 => .min | 5 => .max | 6 => .minn | 7 => .maxn | 8 => .swap | _ => .cas

/-- FAMO (R251, R231). -/
def State.famo (s : State) (op : AmoOp) (d a b : GReg) (w64 : Bool) (off : BitVec 32) : State :=
  let nb := amoBytes w64
  s.farWait (.famo op.code) d (s.farAddr a off) nb (amoSigned op) (leBytes nb (s.g b).toNat) (leBytes nb (s.g d).toNat)

/-- FAMOADD (R251). -/
def execFamoadd (d a b : GReg) (w64 : Bool) (off : BitVec 32) (s : State) : Result := .next (s.famo .add d a b w64 off)

/-- FAMOAND (R251). -/
def execFamoand (d a b : GReg) (w64 : Bool) (off : BitVec 32) (s : State) : Result := .next (s.famo .and d a b w64 off)

/-- FAMOOR (R251). -/
def execFamoor (d a b : GReg) (w64 : Bool) (off : BitVec 32) (s : State) : Result := .next (s.famo .or d a b w64 off)

/-- FAMOXOR (R251). -/
def execFamoxor (d a b : GReg) (w64 : Bool) (off : BitVec 32) (s : State) : Result := .next (s.famo .xor d a b w64 off)

/-- FAMOMIN (R251). -/
def execFamomin (d a b : GReg) (w64 : Bool) (off : BitVec 32) (s : State) : Result := .next (s.famo .min d a b w64 off)

/-- FAMOMAX (R251). -/
def execFamomax (d a b : GReg) (w64 : Bool) (off : BitVec 32) (s : State) : Result := .next (s.famo .max d a b w64 off)

/-- FAMOMINN (R251). -/
def execFamominn (d a b : GReg) (w64 : Bool) (off : BitVec 32) (s : State) : Result := .next (s.famo .minn d a b w64 off)

/-- FAMOMAXN (R251). -/
def execFamomaxn (d a b : GReg) (w64 : Bool) (off : BitVec 32) (s : State) : Result := .next (s.famo .maxn d a b w64 off)

/-- FAMOSWAP (R251). -/
def execFamoswap (d a b : GReg) (w64 : Bool) (off : BitVec 32) (s : State) : Result := .next (s.famo .swap d a b w64 off)

/-- FAMOCAS (R251). -/
def execFamocas (d a b : GReg) (w64 : Bool) (off : BitVec 32) (s : State) : Result := .next (s.famo .cas d a b w64 off)

/-! ## Waits on awaited work (R223, R229, R250, R389) -/

/-- A command of the engine whose granules are far accesses. -/
def Cmd.isFar (k : Cmd) : Bool := decide (k.kind = .fget) || decide (k.kind = .fput)

/-- The commands that an FFENCE covers (R229). -/
def Cmd.fenced (core : Bool) (n : StrandNo) (upto : Nat) (k : Cmd) : Bool :=
  k.isFar && decide (k.seq < upto) && (core || decide (k.strand = n))

/-- The accesses that an FFENCE covers (R229). -/
def Out.fenced (core : Bool) (n : StrandNo) (upto : Nat) (o : Out) : Bool :=
  decide (o.seq < upto) && (core || decide (o.strand = n))

/-- The outstanding access that a response completes: by issue number, or in a copy of a triplicated core by strand, kind
and address (R346). -/
def Core.outFor (c : Core) (r : Resp) : Option Out :=
  c.far.outs.find? fun o =>
    if c.isCopy then decide (o.strand = r.strand) && decide (o.kind = r.kind) && decide (o.va = r.va)
    else decide (o.seq = r.seq)

/-- The response of an FLD or FAMO whose strand is parked on STALL waits for the strand's return to its wait (R223, R360). The
supervisor brings that about where it took the fault, unless the strand is stopped (R257). -/
def Core.respHeld (c : Core) (o : Out) : Bool :=
  let st := c.strand o.strand
  (match o.kind with | .fld | .famo _ => true | _ => false) && st.parked && decide (st.pc = o.pc) && !(st.toSupervisor && st.inPark)

/-- The response to an access has come: it has performed (R279, R229). -/
def Core.responded (c : Core) (o : Out) : Bool := c.far.resps.any fun r => c.outFor r = some o

/-- An access has its response, and only its strand's return is waited for. -/
def Core.answered (c : Core) (o : Out) : Bool := c.respHeld o && c.responded o

/-- An FFENCE still holds: some covered access has not performed (R229). It covers the accesses that have been issued as requests and the
engine commands; another strand's access that still waits for its page walk is issued again after the walk and has no request yet, so
a core-scope FFENCE does not wait for it (DESIGN CHOICE, log entry 90). An access whose response has come has performed, though its strand
is parked. -/
def Core.fenceHolds (c : Core) (core : Bool) (n : StrandNo) (upto : Nat) : Bool :=
  c.far.outs.any (fun o => Out.fenced core n upto o && !c.answered o) || c.cmds.any (Cmd.fenced core n upto)

/-- FFENCE (R229): the scopes beyond strand have the effect of core. -/
def execFfence (scope : Scope) (s : State) : Result :=
  let core := decide (scope ≠ .strand)
  let upto := s.core.far.seq
  let s1 := s.clearRedo
  .next (
    if !s.core.fenceHolds core s.cur upto then s1.done 4
    else if s.st.redo then (s1.rewalk (Cmd.fenced core s.cur upto)).wait (.ffence core upto)
    else match s.core.workFault (Cmd.fenced core s.cur upto) (Out.fenced core s.cur upto) with
      | some (code, val) => s1.trap code val 4
      | none => s1.wait (.ffence core upto))

/-- The granules of the commands that hold a tag. -/
def Core.outOfTag (c : Core) (tag : BitVec 6) (o : Out) : Bool :=
  (match o.kind with | .fget | .fput => true | _ => false) && c.cmds.any fun k => decide (k.tag = tag) && decide (k.seq = o.cmd)

/-- The first recorded error of a tag in issue order (R248). -/
def Core.firstErr (c : Core) (tag : BitVec 6) : Option TagErr :=
  (c.errs.filter fun e => e.tag = tag).foldl (fun a e => match a with
    | none => some e
    | some b => if e.seq < b.seq then some e else some b) none

/-- WAITE (R294, R248, R250, R389). -/
def execWaite (a : GReg) (s : State) : Result :=
  let tag : BitVec 6 := (s.g a).extractLsb' 0 6
  let mine (k : Cmd) : Bool := decide (k.tag = tag)
  let s1 := s.clearRedo
  .next (
    if !s.core.cmds.any mine then
      match s.core.firstErr tag with
      | some e => (s1.mapCore fun c => { c with errs := c.errs.filter fun x => x.tag ≠ tag }).trap e.code e.val 4
      | none => s1.done 4
    else if s.st.redo then (s1.rewalk mine).wait (.waite tag)
    else match s.core.workFault mine (s.core.outOfTag tag) with
      | some (code, val) => s1.trap code val 4
      | none => s1.wait (.waite tag))

/-- The strands whose wait depends on some work (R389). -/
def Core.waiters (c : Core) (cmds : Cmd → Bool) (outs : Out → Bool) : List StrandNo :=
  strandNos.filter fun n => match (c.strand n).liveState with
    | some (.wait (.waite tag)) => c.cmds.any (fun k => cmds k && decide (k.tag = tag)) || c.far.outs.any (fun o => outs o && c.outOfTag tag o)
    | some (.wait (.ffence core upto)) =>
      c.cmds.any (fun k => cmds k && k.fenced core n upto) || c.far.outs.any (fun o => outs o && o.fenced core n upto)
    | some (.wait (.far q)) => c.far.outs.any fun o => outs o && decide (o.seq = q)
    | some (.wait (.behind va nb)) => c.cmds.any fun k => cmds k && decide (k.strand = n) && k.touches va nb
    | _ => false

/-- The bytes of the instruction that a strand waits in. -/
def Wait.len : Wait → Nat
  | .far _ => 8
  | .behind _ _ => 8
  | _ => 4

/-- Each of the strands takes the fault at its own waiting instruction (R389, R326). -/
def Core.parkAll (c : Core) (ns : List StrandNo) (code : BitVec 8) (val : Word) : Core × List Mail :=
  ns.foldl (fun a n =>
    let st := a.1.strand n
    let len := match st.liveState with
      | some (.wait w) => w.len
      | _ => 4
    let r := a.1.fault n code val st.pc len
    (r.1, a.2 ++ r.2)) (c, [])

/-- Work of a core meets a fault that waiting strands take (R389). -/
def State.workFaulted (s : State) (site : Site) (cmds : Cmd → Bool) (outs : Out → Bool) (code : BitVec 8) (val : Word) : State :=
  let c := s.coreAt site
  let r := c.parkAll (c.waiters cmds outs) code val
  (s.setCoreAt site fun _ => r.1).postAll r.2

/-! ## Locked regions (R253) -/

/-- The pages of the instruction: p and count. -/
def State.pages (s : State) (a : GReg) : Nat := natBits (s.g a).toNat 16 36

/-- TRAPVAL with bit 63 set (R253). -/
def lockVal (page : Nat) : Word := BitVec.ofNat 64 (page * pageSize) ||| 0x8000000000000000

/-- The first page of a range that no locked entry translates. -/
def Core.nextUnlocked (c : Core) : Nat → Nat → Option Nat
  | _, 0 => none
  | p, n + 1 => if c.far.ftb.any fun e => e.lock && e.covers c.csr.asid p then c.nextUnlocked (p + 1) n else some p

/-- The first free region (R253: up to 4). -/
def Core.freeRegion (c : Core) : Option Nat :=
  let i := c.far.regions.findIdx fun r => r.isNone
  if i < c.far.regions.length then some i else none

/-- FTBL from its recorded region on (R253): the next page is walked, until the range is locked or only 8 unlocked entries
would remain. -/
def State.ftblGo (s : State) (region : BitVec 2) (page count : Nat) : State :=
  match decide (s.core.lockedCount < ftbEntries - 8), s.core.nextUnlocked page count with
  | true, some p =>
    if p * pageSize ≥ farSize then s.trap Code.farprot (BitVec.ofNat 64 (p * pageSize)) 8
    else (s.startWalk (p * pageSize) (.ftbl s.cur region)).wait .walk
  | _, _ => (s.setSt fun st => { st with ftblOpen := none }).done 8

/-- FTBL (R253). -/
def execFtbl (a : GReg) (count : BitVec 16) (s : State) : Result :=
  let p := s.pages a
  let s1 := s.clearRedo
  .next (
    match s.st.ftblOpen, s.core.freeRegion with
    | some r, _ => s1.ftblGo r p count.toNat
    | none, none => s1.trap Code.farprot (lockVal p) 8
    | none, some i =>
      let r : BitVec 2 := BitVec.ofNat 2 i
      let s2 := s1.mapCore fun c => { c with far := { c.far with
        regions := c.far.regions.set i (some { page := p, count := count.toNat, strand := s.cur }) } }
      (s2.setSt fun st => { st with ftblOpen := some r }).ftblGo r p count.toNat)

/-- An FTBL meets FARPROT at one of its pages: its region goes, and no entry of that FTBL is locked (R253). -/
def Core.dropRegion (c : Core) (i : Nat) : Core :=
  { c with far := { c.far with
      ftb := c.far.ftb.map fun e => if e.lock && decide (e.region.toNat = i) then { e with lock := false } else e
      regions := c.far.regions.set i none } }

/-- FTBL may lock an entry for a page (R253): none that is locked translates it, and more than 8 unlocked entries remain. -/
def Core.mayLock (c : Core) (page : Nat) : Bool :=
  decide (c.lockedCount < ftbEntries - 8) && !c.far.ftb.any fun e => e.lock && e.covers c.csr.asid page

/-- FTBU (R253): the issuing strand's regions that lie wholly inside the range. -/
def execFtbu (a : GReg) (count : BitVec 16) (s : State) : Result :=
  let p := s.pages a
  .next ((s.mapCore fun c => c.unlockRegions fun _ r =>
    decide (r.strand = s.cur) && decide (p ≤ r.page) && decide (r.page + r.count ≤ p + count.toNat)).done 8)

/-- The pages of a range that the FTB does not translate. -/
def Core.absentPages (c : Core) (page count : Nat) : List Nat :=
  ((List.range count).map (page + ·)).filter fun p =>
    !(c.far.ftb.any fun e => e.covers c.csr.asid p) && decide (p * pageSize < farSize)

/-- FTBP (R253): walks for the pages, without waiting. Those that find their page present load an entry each, but for one that another
has loaded with a 256 MiB leaf, until they have loaded as many as there are unlocked entries. -/
def execFtbp (a : GReg) (count : BitVec 16) (s : State) : Result :=
  let who : Walker := .prefetched s.core.far.seq (ftbEntries - s.core.lockedCount)
  .next (((s.core.absentPages (s.pages a) count.toNat).foldl (fun t p => t.startWalk (p * pageSize) who) s).done 8)

/-! ## CHBIND (R254) -/

/-- CHBn bits [18:0] that CHBIND accepts: bits [63:19] and [7:4] zero, CLS below 3, FMT assigned. -/
def bindOk (x : Word) : Bool :=
  decide (natBits x.toNat 19 45 = 0) && decide (natBits x.toNat 4 4 = 0) && decide (natBits x.toNat 8 2 ≠ 3) &&
    decide (natBits x.toNat 0 4 ≤ 12)

/-- The queue of a channel is empty for CHBIND (R254 order 4): nothing of it stands in the ring, in the spill area (R333) or at the
local port for want of room, and no in stream is outstanding. -/
def Core.chanEmpty (c : Core) (ch : Chan) : Bool :=
  (c.chan ch).items.isEmpty && !(c.spill.any fun s => s.ch = ch) && !c.headerWaits ch && !c.cmds.any fun k => decide (k.kind = .strmIn) && decide (k.ch = ch)

/-- CHBIND (R254). -/
def execChbind (ch : Chan) (a : GReg) (base len : BitVec 16) (s : State) : Result :=
  .next (
    if reservedChan ch then s.trapChan Code.chan ch 8
    else if !bindOk (s.g a) then s.trapChan Code.chan ch 8
    else if base.toNat + len.toNat > 49152 then s.trapChan Code.wellrange ch 8
    else if !s.core.chanEmpty ch then s.trapChan Code.chan ch 8
    else (s.mapCore fun c => c.setChan ch fun h =>
      { h with bind := base ++ len ++ (0#13) ++ (s.g a).extractLsb' 0 19, head := 0, free := len.toNat }).done 8)

/-! ## The answer to a walk (R252, R253, R250) -/

/-- How a walk ends (R311). -/
inductive WalkEnd
  | leaf (pte : Word) (big : Bool)
  | farFault
  | farProt
  | ueFar
  deriving DecidableEq, Repr

/-- An error of a command: recorded against its tag, and the command stops (R248). -/
def Core.cmdError (c : Core) (seq : Nat) (code : BitVec 8) (val : Word) : Core :=
  match c.cmds.find? fun k => k.seq = seq with
  | none => c
  | some k =>
    { c with
      cmds := c.cmds.map fun j => if j.seq = seq then { j with left := 0, pause := .none, stopped := true } else j
      errs := c.errs ++ [{ tag := k.tag, seq := seq, code := code, val := val }] }

/-- The walk of a command's granule has succeeded: a FARFAULT that it met lasts no longer (R389). -/
def Core.walkDone (c : Core) (seq : Nat) : Core :=
  { c with cmds := c.cmds.map fun j => match j.pause with
      | .rewalk _ => if j.seq = seq then { j with pause := .walk } else j
      | _ => j }

/-- An entry loaded into a core's FTB. -/
def Core.loadFtb (c : Core) (e : FtbEntry) (victim : Nat) : Core := { c with far := { c.far with ftb := ftbLoad c.far.ftb e victim } }

/-- A walk of an FTBP has loaded an entry: its other walks may load one less (R253). -/
def Core.spendPrefetch (c : Core) (ftbp : Nat) : Core :=
  { c with far := { c.far with walks := c.far.walks.map fun w => match w.who with
      | .prefetched q left => if q = ftbp then { w with who := .prefetched q (left - 1) } else w
      | _ => w } }

/-- A fault at a strand of some core. -/
def State.faultAt (s : State) (site : Site) (n : StrandNo) (code : BitVec 8) (val resume : Word) (len : Nat) : State :=
  let r := (s.coreAt site).fault n code val resume len
  (s.setCoreAt site fun _ => r.1).postAll r.2

/-- A fault at the instruction that a strand of some core waits in. -/
def State.faultHere (s : State) (site : Site) (n : StrandNo) (code : BitVec 8) (val : Word) : State :=
  s.faultAt site n code val ((s.coreAt site).strand n).pc 8

/-- The walk that a core asked for has ended (R252, R253, R250): the entry is loaded, or the access faults. A walk that a
shoot-down, QUIESCE or the end of its strand discarded does nothing (R279, R331). -/
def State.walkEnded (s : State) (site : Site) (seq : Nat) (r : WalkEnd) : State :=
  let c := s.coreAt site
  match c.far.walks.find? fun w => w.seq = seq with
  | none => s
  | some w =>
    let s1 := s.setCoreAt site fun c => { c with far := { c.far with walks := c.far.walks.filter fun x => x.seq ≠ seq } }
    let va : Word := BitVec.ofNat 64 w.va
    let victim := Config.ftbVictim s.free
    let load (pte : Word) (big lock : Bool) (region : BitVec 2) : State :=
      { s1 with free := s.free + 1 }.setCoreAt site fun c => c.loadFtb (leafEntry c.csr.asid w.va pte big lock region) victim
    if w.discard then s1
    else match w.who, r with
      | .prefetched ftbp left, .leaf pte big =>
        if pteQuar pte || decide (left = 0) || c.far.ftb.any (fun e => e.covers c.csr.asid (w.va / pageSize)) then s1
        else (load pte big false 0).setCoreAt site fun c => c.spendPrefetch ftbp
      | .prefetched _ _, _ => s1
      | .strand n _, .leaf pte big => if pteQuar pte then s1.faultHere site n Code.ueFar va else load pte big false 0
      | .strand n _, .farFault => s1.faultHere site n Code.farfault va
      | .strand n _, .farProt => s1.faultHere site n Code.farprot va
      | .strand n _, .ueFar => s1.faultHere site n Code.ueFar va
      | .ftbl n region, .leaf pte big =>
        if pteQuar pte || !pteLockable pte then
          ((s1.setCoreAt site fun c => (c.dropRegion region.toNat).setStrand n fun st => { st with ftblOpen := none }).faultHere
            site n Code.farprot (lockVal (w.va / pageSize)))
        else if c.mayLock (w.va / pageSize) then load pte big true region
        else s1
      | .ftbl n _, .farFault => s1.faultHere site n Code.farfault va
      | .ftbl n _, .farProt => s1.faultHere site n Code.farprot va
      | .ftbl n _, .ueFar => s1.faultHere site n Code.ueFar va
      | .engine q _ _, .leaf pte big =>
        if pteQuar pte then s1.setCoreAt site fun c => c.cmdError q Code.ueFar va
        else (load pte big false 0).setCoreAt site fun c => c.walkDone q
      | .engine q _ _, .farProt => s1.setCoreAt site fun c => c.cmdError q Code.farprot va
      | .engine q _ _, .ueFar => s1.setCoreAt site fun c => c.cmdError q Code.ueFar va
      | .engine q _ _, .farFault =>
        (s1.setCoreAt site fun c =>
          { c with cmds := c.cmds.map fun j => if j.seq = q then { j with pause := .farFault va } else j }).workFaulted
            site (fun k => decide (k.seq = q)) (fun _ => false) Code.farfault va

/-! ## Responses (R208, R251) -/

/-- The response of a posted store that has failed waits for the FLD or FAMO that its strand has outstanding (log entry 78). -/
def Core.storeHeld (c : Core) (r : Resp) (o : Out) : Bool :=
  decide (o.kind = .fst) && decide (r.status ≠ .ok) && !(c.strand o.strand).parked &&
    c.far.outs.any fun x => decide (x.strand = o.strand) && decide (x.pc ≠ noPc) && match x.kind with | .fld | .famo _ => true | _ => false

/-- The first response that FAR_RESPONSE takes, one of any access but an FGET granule; or the first of an FGET granule. -/
def Core.nextResp (c : Core) (fget : Bool) : Option (Resp × Out) :=
  c.far.resps.findSome? fun r =>
    if decide (r.kind = .fget) = fget then (c.outFor r).bind fun o => if c.respHeld o || c.storeHeld r o then none else some (r, o) else none

/-- The response and the access leave the core. -/
def Core.dropOut (c : Core) (r : Resp) (o : Out) : Core :=
  { c with far := { c.far with resps := c.far.resps.erase r, outs := c.far.outs.filter fun x => x.seq ≠ o.seq } }

/-- The value that FLD or FAMO writes (R251). -/
def farValue (o : Out) (r : Resp) : Word := extend (8 * o.nb) o.sx (ofLeBytes (r.data.take o.nb))

/-- A g register of strand n written by a completing access; its bytes enter the signature when the instruction retires
(R361). -/
def Core.putG (c : Core) (n : StrandNo) (d : GReg) (x : Word) : Core :=
  if d = 0 then c else c.setStrand n fun st => { st with g := st.g.set d.toNat x, late := st.late ++ leBytes 8 x.toNat }

/-- An FLD or FAMO ends: gd, or the fault at the instruction (R251). -/
def State.farDone (s : State) (r : Resp) (o : Out) : State :=
  let s1 := s.mapCore fun c => c.dropOut r o
  let va : Word := BitVec.ofNat 64 o.va
  if o.pc = noPc then s1
  else match r.status with
    | .ok => s1.mapCore fun c => (c.putG o.strand o.dst (farValue o r)).setStrand o.strand fun st => { st.setLive (.wait (.finished 8)) with redo := false }
    | .ueFar => s1.faultOn o.strand Code.ueFar va o.pc 8
    | .farUnsup => s1.faultOn o.strand Code.farunsup va o.pc 8

/-- The instruction of a waiting strand completes at its release: the pc goes past it, and it retires (R361). -/
def Core.completeWait (c : Core) (n : StrandNo) (len : Nat) : Core :=
  ((c.setStrand n fun st => { st.setLive .run with pc := st.pc + BitVec.ofNat 64 len }).signLate n).retire

/-- A strand whose wait is over completes its instruction, where it waits in one. -/
def Core.finishWait (c : Core) (n : StrandNo) : Core :=
  match (c.strand n).liveState with
  | some (.wait (.finished len)) => c.completeWait n len
  | _ => c

/-- A posted store that was not sent because its request failed its CRC raises UE_FAR at its instruction (R251, R320, R359): its strand
is parked there, wherever it has come, and a walk that it waits for is asked for again. One whose strand has ended, or is parked
already, is reported as an asynchronous fault is (log entry 78). -/
def State.storeFailed (s : State) (o : Out) : State :=
  let va : Word := BitVec.ofNat 64 o.va
  let st := s.core.strand o.strand
  if o.pc = noPc || !st.exists || st.parked then s.asyncFault s.core Code.ueFar va
  else (s.mapCore fun c => ((c.finishWait o.strand).orphan o.strand).setStrand o.strand fun st => { st with pc := o.pc }).faultOn
    o.strand Code.ueFar va o.pc 8

/-- FAR_RESPONSE (R251, R208, R223): it completes the FLD or FAMO that waits, or the posted store. -/
def execFarResponse (s : State) : Result :=
  .next (match s.core.nextResp false with
    | none => s
    | some (r, o) => match o.kind with
      | .fst =>
        let s1 := s.mapCore fun c => c.dropOut r o
        if r.status = .ok then s1 else s1.storeFailed o
      | .fget => s.mapCore fun c => c.dropOut r o
      | .fput =>
        (s.mapCore fun c => c.dropOut r o).mapCore fun c => match r.status with
          | .ok => c
          | _ => c.cmdError o.cmd Code.ueFar (BitVec.ofNat 64 o.va)
      | _ =>
        let st := s.core.strand o.strand
        if st.inPark && decide (st.pc = o.pc) then s.mapCore fun c => c.setStrand o.strand Strand.resumed
        else s.farDone r o)

end Sys2Proof.Machine
end

