-- ==== Sys2Proof/Machine/Engine.lean ====
section
/-! DEFINITION. Sys2Proof/Machine/Engine.lean: the wellhead engine (R247 to R250): STRM, FGET, FPUT, and the steps in which
its commands move data and end; the local port (R240). -/

namespace Sys2Proof.Machine

/-! ## Issue -/

/-- Commands that may be outstanding (R247). -/
def maxCommands : Nat := 16

/-- A command accepted by the engine, or a wait for a place (R247). -/
def State.accept (s : State) (k : Cmd) (run : State → State) : State :=
  if s.core.cmds.length < maxCommands then
    (run (s.mapCore fun c => { c with cmds := c.cmds ++ [{ k with seq := c.far.seq }], far := { c.far with seq := c.far.seq + 1 } })).done 8
  else s.wait .engine

/-- A command with nothing moved yet. -/
def State.command (s : State) (kind : CmdKind) (d : GReg) (ch : Chan) (well dst len : Nat) : Cmd :=
  { kind := kind, tag := (s.g d).extractLsb' 0 6, seq := 0, strand := s.cur, ch := ch, bind := (s.core.chan ch).bind
    well := well, dst := dst, left := len, pause := .none, stopped := false }

/-- Words of a unit of a block or MX format in the well (R249): the line span, or an MX message. -/
def unitWords (bind : Word) : Option Nat :=
  let fmt : BitVec 4 := bind.extractLsb' 0 4
  match blockFmt fmt, mxFmt fmt with
  | some f, _ => some (f.n + 1 + if bind.getLsbD 17 then 1 else 0)
  | none, some (ty, _) => some (ty.bits + 1)
  | none, none => none

/-- CHAN of STRM out: a reserved format, or a length that is no whole number of units (R249). -/
def outLenOk (bind : Word) (len : Nat) : Bool :=
  match unitWords bind with
  | some n => decide (len % (8 * n) = 0)
  | none => decide ((bind.extractLsb' 0 4).toNat ≤ 7)

/-- The checks of STRM out and in (R59, R249). -/
def State.strmCheck (s : State) (a : GReg) (ch : Chan) (len : Nat) (t : State) : State :=
  if reservedChan ch then s.trapChan Code.chan ch 8
  else if (s.g a).toNat % 8 ≠ 0 then s.trapFree Code.misalign 8
  else if !inWell (s.g a).toNat len then s.trapFree Code.wellrange 8
  else if (s.core.chan ch).rlen = 0 then s.trapChan Code.chan ch 8
  else t

/-- STRM out (R249). -/
def execStrmOut (d a : GReg) (ch : Chan) (len : BitVec 24) (s : State) : Result :=
  .next (s.strmCheck a ch len.toNat (
    if !outLenOk (s.core.chan ch).bind len.toNat then s.trapChan Code.chan ch 8
    else s.accept (s.command .strmOut d ch (s.g a).toNat 0 len.toNat) id))

/-- STRM in (R249). -/
def execStrmIn (d a : GReg) (ch : Chan) (len : BitVec 24) (s : State) : Result :=
  .next (s.strmCheck a ch len.toNat (s.accept (s.command .strmIn d ch (s.g a).toNat 0 len.toNat) id))

/-- STRM copy (R249). -/
def execStrmCopy (d a b : GReg) (len : BitVec 24) (s : State) : Result :=
  let x := (s.g a).toNat
  let y := (s.g b).toNat
  .next (
    if x % 8 ≠ 0 ∨ y % 8 ≠ 0 then s.trapFree Code.misalign 8
    else if !(inWell x len.toNat && inWell y len.toNat) then s.trapFree Code.wellrange 8
    else s.accept (s.command .copy d 0 x y len.toNat) id)

/-! ## Granules (R250) -/

/-- Bytes of a granule (R207). -/
def granule : Nat := 64

/-- What the next granule of a command does (R250, R248): a request, a walk, or an error. -/
inductive GranuleStep
  | go (pa : Nat)
  | walk
  | behind
  | fail (code : BitVec 8) (val : Nat)
  deriving DecidableEq, Repr

/-- The next granule of a command. -/
def Core.granuleStep (c : Core) (k : Cmd) : GranuleStep :=
  if c.cmdBehind k then .behind
  else match c.lookup k.dst with
  | .locked => .fail Code.ftbmissLocked k.dst
  | .miss => .walk
  | .hit e =>
    if decide (k.kind = .fput) && !e.w then .fail Code.farprot k.dst
    else match decide (k.kind = .fput), firstBadWord c.well k.well 8 with
      | true, some x => .fail Code.ueWell x
      | _, _ => .go (e.target k.dst)

/-- The command after one granule. -/
def Cmd.advance (k : Cmd) : Cmd := { k with well := k.well + granule, dst := k.dst + granule, left := k.left - granule }

/-- The engine issues a command's granules in ascending order until one waits or fails (R250). The words of an FPUT granule are
read as its request is formed (log entry 65). -/
def State.runGranules : Nat → Nat → State → State
  | 0, _, s => s
  | n + 1, seq, s =>
    match s.core.cmds.find? fun k => k.seq = seq with
    | none => s
    | some k =>
      if k.left = 0 then s
      else
        let set (f : Cmd → Cmd) (t : State) : State :=
          t.mapCore fun c => { c with cmds := c.cmds.map fun j => if j.seq = seq then f j else j }
        match s.core.granuleStep k with
        | .fail code val => s.mapCore fun c => c.cmdError seq code (BitVec.ofNat 64 val)
        | .behind => set (fun j => { j with pause := .behind }) s
        | .walk =>
          set (fun j => { j with pause := .walk })
            (s.startWalk k.dst (.engine seq k.strand (if k.kind = .fget then 0 else 1)))
        | .go pa =>
          let kind : FarKind := if k.kind = .fget then .fget else .fput
          let data := if k.kind = .fput then Mem.read s.core.well.bytes k.well granule else []
          let read : State := if k.kind = .fput then s.touch k.well granule else s
          State.runGranules n seq (set Cmd.advance (read.request
            { seq := 0, strand := k.strand, kind := kind, va := k.dst, nb := granule, sx := false, dst := 0, pc := 0
              cmd := seq, well := k.well, stall := none } pa data []))

/-- The engine runs a command's granules. -/
def State.engineRun (s : State) (seq : Nat) : State :=
  match s.core.cmds.find? fun k => k.seq = seq with
  | none => s
  | some k => s.runGranules (k.left / granule) seq

/-- FGET and FPUT (R250): the checks, then acceptance. -/
def State.granules (s : State) (kind : CmdKind) (d a b : GReg) (len : Nat) : State :=
  let x := (s.g a).toNat
  let y := (s.g b).toNat
  if x % 8 ≠ 0 then s.trapFree Code.misalign 8
  else if y % granule ≠ 0 then s.trap Code.misalign (s.g b) 8
  else if !inWell x len then s.trapFree Code.wellrange 8
  else if y + len > farSize then s.trapFree Code.farprot 8
  else s.accept (s.command kind d 0 x y len) fun t => t.engineRun s.core.far.seq

/-- FGET (R250). -/
def execFget (d a b : GReg) (len : BitVec 24) (s : State) : Result := .next (s.granules .fget d a b len.toNat)

/-- FPUT (R250). -/
def execFput (d a b : GReg) (len : BitVec 24) (s : State) : Result := .next (s.granules .fput d a b len.toNat)

/-- A granule's data reach the well (R250): its bytes, or the uncorrectable pattern in all 8 words. The wellhead's writes
are no results of a strand and enter no signature (log entry 13). -/
def Well.landGranule (w : Well) (a : Nat) (ok : Bool) (data : List Byte) : Well :=
  if ok then w.store a (data.take granule)
  else (List.range 8).foldl (fun w i => w.spoil (a / 8 + i)) w

/-- FGET_GRANULE_DATA (R250, R248). -/
def execFgetGranuleData (s : State) : Result :=
  .next (match s.core.nextResp true with
    | none => s
    | some (r, o) =>
      let ok := decide (r.status = .ok)
      (s.mapCore fun c => c.dropOut r o).mapCore fun c =>
        let c1 := { c with well := c.well.landGranule o.well ok r.data }
        if ok then c1 else c1.cmdError o.cmd Code.ueFar (BitVec.ofNat 64 o.va))

/-- A command that still walks for a granule that has met FARFAULT: the condition lasts (R389). -/
def Core.walkAgain (c : Core) (seq : Nat) (va : Word) : Core :=
  { c with cmds := c.cmds.map fun j => if j.seq = seq ∧ j.pause = .walk then { j with pause := .rewalk va } else j }

/-- ENGINE_RESUME (R248, R250): a command whose granule waited for a walk goes on when no walk of it is pending, and one that
stood behind an earlier granule (R228) when that is requested. QUIESCE holds it at that granule (R331). -/
def execEngineResume (idx : Nat) (s : State) : Result :=
  .next (match s.core.cmds[idx]? with
    | none => s
    | some k =>
      let waiting := s.core.far.walks.any fun w => match w.who with
        | .engine q _ _ => q = k.seq && !w.discard
        | _ => false
      let go := (s.mapCore fun c =>
        { c with cmds := c.cmds.map fun j => if j.seq = k.seq then { j with pause := .none } else j }).engineRun k.seq
      if s.core.stopped then s
      else match k.pause with
        | .walk => if waiting then s else go
        | .rewalk va => if waiting then s else go.mapCore fun c => c.walkAgain k.seq va
        | .behind => if s.core.cmdBehind k then s else go
        | _ => s)

/-! ## Streams and copies (R249) -/

/-- The machine with a command of the acting core changed. -/
def Core.setCmd (c : Core) (seq : Nat) (f : Cmd → Cmd) : Core :=
  { c with cmds := c.cmds.map fun j => if j.seq = seq then f j else j }

/-- A command leaves the engine: it has completed (R247). -/
def Core.dropCmd (c : Core) (seq : Nat) : Core := { c with cmds := c.cmds.filter fun j => j.seq ≠ seq }

/-- A copy, word by word in ascending order (R249): it ends at an uncorrectable word. -/
def Well.copy : Nat → Nat → Nat → Well → Well × Option Nat
  | 0, _, _, w => (w, none)
  | n + 1, x, y, w =>
    if w.badIn x 8 then (w, some x)
    else Well.copy n (x + 8) (y + 8) ((w.touch x 8).store y (Mem.read w.bytes x 8))

/-- Content words of a channel's queue moved to the well (R249), until `n` words are written or the head is no entry. -/
def Core.streamIn : Nat → Cmd → Core → Core
  | 0, _, c => c
  | n + 1, k, c =>
    let h := c.chan k.ch
    match h.headEntry with
    | none => c
    | some e =>
      let a := h.addr (e.off + 1 + e.read)
      if c.well.badIn a 8 then c.cmdError k.seq Code.ueWell (BitVec.ofNat 64 a)
      else
        let w := (c.well.touch a 8).store k.well (Mem.read c.well.bytes a 8)
        let k1 := { k with well := k.well + 8, left := k.left - 8 }
        Core.streamIn n k1 (({ c with well := w }.setChan k.ch fun h => h.consume e 1).setCmd k.seq fun _ => k1)

/-- A stream is the first of its kind on its channel: commands of one channel keep their order (R247). -/
def Core.firstOn (c : Core) (k : Cmd) : Bool :=
  !c.cmds.any fun j => decide (j.kind = k.kind) && decide (j.ch = k.ch) && decide (j.seq < k.seq) && decide (j.left ≠ 0)

/-- A command has nothing left to do: all is moved and every granule has performed. -/
def Core.cmdOver (c : Core) (k : Cmd) : Bool :=
  decide (k.left = 0) && decide (k.pause = .none) && !c.far.outs.any fun o => match o.kind with
    | .fget | .fput => o.cmd = k.seq
    | _ => false

/-- The work of a command that this step does: an in stream takes what its queue holds, unless the core is stopped
(R331); a copy moves all its words (R249) in this one step, so that a strand that looks before its WAITE sees none of them or all,
where R204 lets it see any of them (the model's choice, log entry 87). -/
def Core.cmdWork (c : Core) (k : Cmd) : Core :=
  match k.kind with
  | .strmIn => if c.stopped || !c.firstOn k then c else c.streamIn (k.left / 8) k
  | .copy =>
    let r := Well.copy (k.left / 8) k.well k.dst c.well
    let c1 := { c with well := r.1 }
    match r.2 with
    | some x => c1.cmdError k.seq Code.ueWell (BitVec.ofNat 64 x)
    | none => c1.setCmd k.seq fun j => { j with left := 0 }
  | _ => c

/-- ENGINE_COMMAND_COMPLETE (R247 to R250). -/
def execEngineCommandComplete (idx : Nat) (s : State) : Result :=
  .next (match s.core.cmds[idx]? with
    | none => s
    | some k => s.mapCore fun c =>
      let c1 := if k.left = 0 then c else c.cmdWork k
      match c1.cmds.find? fun j => j.seq = k.seq with
      | some j => if c1.cmdOver j then c1.dropCmd k.seq else c1
      | none => c1)

/-! ## The local port (R240) -/

/-- A poison line of a format, with its trailer where the binding has one (R171). -/
def poisonLine (f : Bfmt) (trl : Bool) : List Word :=
  hdrOf (List.replicate 4 Blk.poison) :: payOf f (List.replicate 4 Blk.poison) ++ if trl then [0] else []

/-- Payload words of the next message of an out stream (R249). -/
def Cmd.nextWords (k : Cmd) : Nat := match unitWords k.bind with
  | some n => n
  | none => min 1023 (k.left / 8)

/-- The next message of an out stream, or the address of an uncorrectable word that stops it (R171, R248, R249). -/
def Core.outMessage (c : Core) (k : Cmd) : Msg ⊕ Nat :=
  let n := k.nextWords
  let ws := c.well.words k.well n
  let fmt : BitVec 4 := k.bind.extractLsb' 0 4
  let cls : BitVec 2 := k.bind.extractLsb' 8 2
  let trl := k.bind.getLsbD 17
  let tag : BitVec 17 := k.tag.zeroExtend 17
  let name := c.ident.name
  match blockFmt fmt, mxFmt fmt, firstBadWord c.well k.well n with
  | some f, _, bad =>
    .inl { ch := k.ch, hdr := headerWord 2 cls n fmt trl tag name, pay := if bad.isSome then poisonLine f trl else ws, bad := false }
  | none, some _, bad => .inl { ch := k.ch, hdr := headerWord 2 cls n fmt false tag name, pay := ws, bad := bad.isSome }
  | none, none, none => .inl { ch := k.ch, hdr := headerWord 0 cls n fmt false tag name, pay := ws, bad := false }
  | none, none, some x => .inr x

/-- A message enters the router at the local input (R184). -/
def Core.inject (c : Core) (m : Msg) : Core := c.enter .loc m

/-- The engine sends the next message of its oldest out stream in a class that is the first on its channel (R247, R249); DESCHED
where the channel's entry became CLOSED (R248). -/
def Core.sendStream (c : Core) (cls : BitVec 2) : Core :=
  match c.cmds.find? fun k => decide (k.kind = .strmOut) && decide (k.left ≠ 0) && decide (k.bind.extractLsb' 8 2 = cls) && c.firstOn k with
  | none => c
  | some k =>
    if closedBit (c.route k.ch) then c.cmdError k.seq Code.desched (BitVec.ofNat 64 (k.ch.toNat + k.left * 2 ^ 32))
    else match c.outMessage k with
      | .inr x => c.cmdError k.seq Code.ueWell (BitVec.ofNat 64 x)
      | .inl m =>
        let n := 8 * k.nextWords
        if c.router.stopsAt .loc cls then c else ({ c with well := c.well.touch k.well n }.setCmd k.seq fun j => { j with well := j.well + n, left := j.left - n }).inject m

/-- A staged message has to leave before another one of a later class: both are on one channel (R240), or the later one is a
marker of the same strand (R246). -/
def Staged.ahead (a b : Staged) : Bool :=
  decide (a.msg.ch = b.msg.ch) || (decide (hdrKind b.msg.hdr = 3) && a.strand.isSome && decide (a.strand = b.strand))

/-- The staged message of a class that may leave: the oldest of the class, if nothing staged before it has to leave first. -/
def Core.nextStaged (c : Core) (cls : BitVec 2) : Option Staged :=
  match c.router.staged.find? fun m => hdrCls m.msg.hdr = cls with
  | none => none
  | some m => if (c.router.staged.takeWhile fun x => x ≠ m).any fun x => x.ahead m then none else some m

/-- The local port sends the oldest staged message of a class (R240), unless the router's local input stops the class (R184). -/
def Core.sendStaged (c : Core) (cls : BitVec 2) : Core :=
  match c.nextStaged cls with
  | none => c
  | some m => if c.router.stopsAt .loc cls then c else { c with router := { c.router with staged := c.router.staged.erase m } }.inject m.msg

/-- LOCAL_PORT_SEND (R240): one message, from the staging buffer or from the wellhead. -/
def execLocalPortSend (cls : BitVec 2) (engine : Bool) (s : State) : Result :=
  .next (s.mapCore fun c => if engine then c.sendStream cls else c.sendStaged cls)

end Sys2Proof.Machine
end

