-- ==== Sys2Proof/Machine/Delivery.lean ====
section
/-! DEFINITION. Sys2Proof/Machine/Delivery.lean: router delivery into the queues of a core (R179 to R183, R191, R194, R321,
R333). -/

namespace Sys2Proof.Machine

/-! ## Stored forms (R175, R179) -/

/-- A value of one floating-point format multiplied by 2^SHIFT and stored in another under RNE (R101, R179). -/
def decodeElem (src dst : FFmt) (shift : Int) (x : Nat) : Nat :=
  match src.decode x with
  | .fin n m e => (dst.round .rne false n m (e + shift)).1
  | _ => (convertFF src dst .rne false x).1

/-- The content words of a payload beat (R175, R179). -/
def decodeBeat (fmt : BitVec 4) (shift : Int) (x : Word) : List Word :=
  match elemFmt fmt with
  | none =>
    if fmt = 1 then [sext (x.extractLsb' 0 32), sext (x.extractLsb' 32 32)] else [x]
  | some f =>
    let dst := if f.bits = 64 then FFmt.f64 else FFmt.f32
    let vs := (List.range (64 / f.bits)).map fun i => decodeElem f dst shift (natBits x.toNat (f.bits * i) f.bits)
    if f.bits = 64 then vs.map (BitVec.ofNat 64)
    else (List.range (vs.length / 2)).map fun i => BitVec.ofNat 64 (packCodes 32 ((vs.drop (2 * i)).take 2))

/-- The blocks of an MX line (R179): formed as MXIN forms them (R162), then scaled as block formats are: SHIFT is added to E of each
block that is not poison, and a block whose E would leave 0 to 254 is formed from its exact value times 2^SHIFT (log entry 57). -/
def mxBlocks (w : Nat) (vs : List FVal) (shift : Int) : List Blk :=
  (formLine w .rne vs).1.zipIdx.map fun (b, j) =>
    let e := (b.e : Int) + shift
    if b.isPoison || decide (0 ≤ e ∧ e ≤ 254) then (shiftBlk w .rne shift b).1
    else (formBlock w .rne (((vs.drop (16 * j)).take 16).map (scaleVal shift))).1

/-- A line as it is accepted, held until its renorm window closes (R194). E of each block stands in `exps`, and the codes of a
combined line in `vals`. -/
def heldOf (m : Msg) (f : Bfmt) (off line : Nat) (shift : Int) : Held :=
  let trl := hdrTrl m.hdr
  let raw := match mxFmt (hdrFmt m.hdr) with
    | some (ty, _) =>
      let s := (m.pay.getD ty.bits 0).toNat
      let packed := (m.pay.take ty.bits).zipIdx.foldl (fun a (x, t) => a + x.toNat * 2 ^ (64 * t)) 0
      let bs := mxBlocks f.w (mxLine ty packed (natBits s 0 8) (natBits s 8 8)) shift
      hdrOf bs :: payOf f bs
    | none => m.pay.take (f.n + 1)
  let bs := blksOf f (raw.getD 0 0) (raw.drop 1)
  { hdr := m.hdr, off := off, line := line, fmt := f, combined := hdrCombined m.hdr, raw := raw
    exps := bs.map (·.e), vals := bs.flatMap (·.ms), nans := List.replicate 64 false
    mask := if trl then m.pay.getD (f.n + 1) 0 else 0
    shift := if (mxFmt (hdrFmt m.hdr)).isSome then 0 else shift, bad := m.bad }

/-- Two finite values are equal, or both are no numbers. -/
def sameVal : FVal → FVal → Bool
  | .fin n1 m1 e1, .fin n2 m2 e2 =>
    let e := min e1 e2
    let x (n : Bool) (m : Nat) (k : Int) : Int := (if n then -1 else 1) * (m * 2 ^ (k - e).toNat : Nat)
    decide (x n1 m1 e1 = x n2 m2 e2)
  | .fin _ _ _, _ => false
  | _, .fin _ _ _ => false
  | _, _ => true

/-- The exact value of element k of a held combined line, times 2^SHIFT (R194). -/
def Held.value (h : Held) (k : Nat) : FVal :=
  if h.nans.getD k false then .nan false 0 false
  else
    let x := h.vals.getD k 0
    .fin (decide (x < 0)) x.natAbs ((h.exps.getD (k / 16) 0 : Int) - 128 - (h.fmt.w - 1) + h.shift)

/-- The blocks and the mask that a combined line is stored with (R194). -/
def Held.formed (h : Held) : List Blk × Word :=
  let bs := (List.range 4).map fun j =>
    if h.exps.getD j 0 = 255 then Blk.poison
    else (formBlock h.fmt.w .rdn ((List.range 16).map fun i => h.value (16 * j + i))).1
  let changed := (List.range 64).map fun k =>
    let b := bs.getD (k / 16) Blk.zero
    !b.isPoison && !sameVal (elemVal h.fmt.w b (k % 16)) (h.value k)
  (bs, h.mask ||| maskOf changed)

/-- The content words of a line when its window closes (R179, R194, R321): header word, payload, mask word. -/
def Held.content (h : Held) : List Word :=
  let put (bs : List Blk) (mask : Word) : List Word := hdrOf bs :: payOf h.fmt bs ++ [mask]
  if h.bad then put (List.replicate 4 Blk.poison) h.mask
  else if h.combined then put h.formed.1 h.formed.2
  else if h.shift = 0 then h.raw ++ [h.mask]
  else put ((blksOf h.fmt (h.raw.getD 0 0) (h.raw.drop 1)).map fun b => (shiftBlk h.fmt.w .rne h.shift b).1) h.mask

/-! ## Writing rings -/

/-- A ring word written with fresh check bits, or in the uncorrectable pattern (R321, R322). -/
def Core.ringWrite (c : Core) (ch : Chan) (off : Nat) (x : Word) (bad : Bool) : Core :=
  let a := (c.chan ch).addr off
  { c with well := if bad then c.well.spoil (a / 8) else c.well.store a (leBytes 8 x.toNat) }

/-- The header and the content words of an entry written into the ring (R180). -/
def Core.writeEntry (c : Core) (ch : Chan) (off : Nat) (hdr : Word) (ws : List Word) (bad : Bool) : Core :=
  ws.zipIdx.foldl (fun c (x, i) => c.ringWrite ch (off + 1 + i) x bad) (c.ringWrite ch off hdr false)

/-- A held line becomes an entry: its window has closed (R194). -/
def Core.closeLine (c : Core) (ch : Chan) (h : Held) : Core :=
  let ws := h.content
  let e : Item := .entry { hdr := h.hdr, off := h.off, words := ws.length, read := 0 }
  let f (i : Item) : Item := if i = .held h then e else i
  (c.writeEntry ch h.off h.hdr ws false).setChan ch fun q => { q with items := q.items.map f }

/-- The held lines of a channel that a condition selects become entries, the oldest first. -/
def Core.closeLines (c : Core) (ch : Chan) (p : Held → Bool) : Core :=
  (c.chan ch).items.foldl (fun c i => match i with
    | .held h => if p h then c.closeLine ch h else c
    | _ => c) c

/-- A held line of the spill area is completed (R194, R333). -/
def Spill.close (s : Spill) : Spill :=
  match s.item with
  | .held h => { s with item := .entry { hdr := h.hdr, off := 0, words := h.content.length, read := 0 }, words := h.content }
  | _ => s

/-- The renorm windows that a condition selects close, in the ring and in the spill area. -/
def Core.closeWindows (c : Core) (ch : Chan) (p : Held → Bool) : Core :=
  let c1 := c.closeLines ch p
  { c1 with spill := c1.spill.map fun s => match s.item with
      | .held h => if s.ch = ch ∧ p h then s.close else s
      | _ => s }

/-! ## Acceptance -/

/-- An arrival on a channel with HV = 1 creates its handler or ends the handler's IDLE (R183, R258, R261, R358): an entry, a
line, or a marker that is recorded. -/
def Core.arrival (c : Core) (ch : Chan) : Core :=
  let h := c.chan ch
  if h.hv then
    (c.create h.hstr 2 ch).setStrand h.hstr fun st => match st.liveState with
      | some (.wait .idle) => st.setLive (.wait (.finished 4))
      | _ => st
  else c

/-- The async CHAN of R182: TRAPVAL[4:0] the channel, TRAPVAL[57:32] the message's SRC, the other bits those of `x`, because
no rule states them (log entry 5). -/
def chanVal (x : Word) (m : Msg) : Word := x.extractLsb' 58 6 ++ hdrSrc m.hdr ++ x.extractLsb' 5 27 ++ m.ch

/-- The message of a class leaves the local port. -/
def Core.dropPort (c : Core) (m : Msg) : Core := { c with router := { c.router with portq := c.router.portq.erase m } }

/-- An item placed at the ring's tail, with its ring words taken. -/
def Core.pushItem (c : Core) (ch : Chan) (i : Item) (size : Nat) : Core :=
  c.setChan ch fun h => { h with items := h.items ++ [i], free := h.free - size }

/-- Where an accepted message goes: the ring, the spill area, or nowhere yet. -/
inductive Landing | ring | spill | wait
  deriving DecidableEq, Repr

/-- Bytes of a spilled message as it would stand in the ring (R333): a marker has its record and takes none. -/
def Spill.bytes (s : Spill) : Nat :=
  match s.item with
  | .held h => 8 * (h.fmt.n + 3)
  | .entry _ => 8 * (s.words.length + 1)
  | .marker _ => 0

/-- The spill area of a core holds 64 KiB (R333). -/
def spillSize : Nat := 65536

/-- Where a message of so many ring words lands (R180, R333): behind spilled messages of its channel, in the ring where
there is room, in the spill area of a stopped core. -/
def Core.landing (c : Core) (ch : Chan) (size : Nat) : Landing :=
  let behind := c.spill.any fun s => s.ch = ch
  if !behind && decide (size ≤ (c.chan ch).room) then .ring
  else if c.stopped then
    if (c.spill.map Spill.bytes).foldl (· + ·) 0 + 8 * size ≤ spillSize then .spill else .wait
  else .wait

/-- Words and vectors (R179, R180, R321). -/
def Core.acceptWords (c : Core) (m : Msg) : Core :=
  let h := c.chan m.ch
  let shift := c.shiftOf h
  let ws := m.pay.flatMap (decodeBeat (hdrFmt m.hdr) shift)
  let size := ws.length + 1
  match c.landing m.ch size with
  | .wait => c
  | .ring =>
    let off := h.tailOff
    (((c.dropPort m).writeEntry m.ch off m.hdr ws m.bad).pushItem m.ch (.entry { hdr := m.hdr, off := off, words := ws.length, read := 0 }) size).arrival m.ch
  | .spill =>
    let c1 := c.dropPort m
    let e : Entry := { hdr := m.hdr, off := 0, words := ws.length, read := if m.bad then 1 else 0 }
    Core.arrival { c1 with spill := c1.spill ++ [{ ch := m.ch, item := .entry e, words := ws }] } m.ch

/-- Lines (R179, R194): the header of line n + 2 closes the window of line n; then the line is held. -/
def Core.acceptLine (c : Core) (m : Msg) (f : Bfmt) : Core :=
  let n := (c.chan m.ch).lines
  let c1 := c.closeWindows m.ch fun h => decide (h.line + 2 ≤ n)
  let h := c1.chan m.ch
  let size := f.n + 3
  let held (off : Nat) : Held := heldOf m f off n (c1.shiftOf h)
  let count (c : Core) : Core := (c.setChan m.ch fun h => { h with lines := n + 1 }).arrival m.ch
  match c1.landing m.ch size with
  | .wait => c1
  | .ring => count ((c1.dropPort m).pushItem m.ch (.held (held h.tailOff)) size)
  | .spill =>
    let c2 := c1.dropPort m
    count { c2 with spill := c2.spill ++ [{ ch := m.ch, item := .held (held 0), words := [] }] }

/-- The unit shift and the parity of a renorm (R177). -/
def renormUnit (h : Word) : Nat := natBits h.toNat 27 5
def renormParity (h : Word) : Nat := natBits h.toNat 26 1

/-- A renorm applied to a held combined line: counts at unit u are worth 2^(w - u) units (R191). A bad renorm makes the whole line bad,
which is then stored as poison (R321; the model's choice, log entry 79). -/
def Held.correct (h : Held) (m : Msg) : Held :=
  let u := renormUnit m.hdr
  let cs := renormCodes (m.pay.take 3)
  { h with
    vals := h.vals.zipIdx.map fun (x, k) => match cs.getD k (.count 0) with
      | .count c => x + c * (2 ^ (h.fmt.w - u) : Nat)
      | .nan => x
    nans := h.nans.zipIdx.map fun (b, k) => b || decide (cs.getD k (.count 0) = .nan)
    mask := h.mask ||| if hdrTrl m.hdr then m.pay.getD 3 0 else 0
    bad := h.bad || m.bad }

/-- A renorm at a sink corrects the held line of its parity; with none it is malformed (R192). -/
def Core.acceptRenorm (c : Core) (m : Msg) : Core × List Mail :=
  let sel (h : Held) : Bool := decide (h.line % 2 = renormParity m.hdr) && h.combined
  let fix (i : Item) : Item := match i with
    | .held h => if sel h then .held (h.correct m) else i
    | _ => i
  let found := (c.chan m.ch).items.any (fun i => match i with | .held h => sel h | _ => false) ||
    c.spill.any (fun s => s.ch = m.ch && match s.item with | .held h => sel h | _ => false)
  let c1 := (c.dropPort m).setChan m.ch fun q => { q with items := q.items.map fix }
  let c2 := { c1 with spill := c1.spill.map fun s => if s.ch = m.ch then { s with item := fix s.item } else s }
  if found then (c2, []) else (c2, [.renorm c.ident.site m.ch])

/-- A marker (R183, R194, R187): it closes every window of its channel and ends its line count; BARRIER and DRAIN are
recorded, others are not (R273). A recorded marker is a message accepted, and wakes a handler (R183, R258, R261). -/
def Core.acceptMarker (c : Core) (m : Msg) : Core :=
  let code := hdrCode m.hdr
  let c1 := (c.closeWindows m.ch fun _ => true).setChan m.ch fun h => { h with lines := 0 }
  if code.toNat > 0x10 then c1.dropPort m
  else if c1.marks ≥ maxMarks then c1
  else
    let c2 := { c1.dropPort m with marked := c1.marked ++ [m.ch] }
    (if c2.spill.any fun s => s.ch = m.ch then { c2 with spill := c2.spill ++ [{ ch := m.ch, item := .marker code, words := [] }] }
      else c2.setChan m.ch fun h => { h with items := h.items ++ [.marker code] }).arrival m.ch

/-- Router delivery of the message of a class that heads the local port (R180 to R183). A message on an unbound channel, and one
too large for its ring, is discarded with CHAN, whose TRAPVAL and message have the open bits of `x`, `pc` and `n` (R182). -/
def Core.deliver (c : Core) (cls : BitVec 2) (x pc n : Word) : Core × List Mail :=
  match c.atPort cls with
  | none => (c, [])
  | some m =>
    let h := c.chan m.ch
    let discard : Core × List Mail :=
      (c.dropPort m, [c.asyncMail Code.chan (chanVal x m) pc n])
    if h.rlen = 0 then discard
    else match hdrKind m.hdr with
    | 3 => (c.acceptMarker m, [])
    | 4 => c.acceptRenorm m
    | 2 => match storedFmt (hdrFmt m.hdr) with
      | none => (c.dropPort m, [.malformed c.ident.site m.ch])
      | some f => if h.rlen < f.n + 3 then discard else (c.acceptLine m f, [])
    | _ => if h.rlen < m.ringWords then discard else (c.acceptWords m, [])

/-- Router delivery at the acting core. -/
def State.deliver (s : State) (cls : BitVec 2) : State :=
  let s1 := s.fresh.2
  let s2 := s1.fresh.2
  let r := s.core.deliver cls s.fresh.1 s1.fresh.1 s2.fresh.1
  { (if r.2.isEmpty then s else s2.fresh.2) with core := r.1 }.postAll r.2

/-- ROUTER_DELIVERY (R180). -/
def execRouterDelivery (cls : BitVec 2) (s : State) : Result := .next (s.deliver cls)

/-- HEADER_ACCEPT (R180): the header that waits for ring space is accepted once the ring has room. -/
def execHeaderAccept (cls : BitVec 2) (s : State) : Result :=
  .next (match s.core.atPort cls with
    | some m => if hdrKind m.hdr < 3 then s.deliver cls else s
    | none => s)

/-- MARKER_RECORD_ACCEPT (R183): the marker that waits for a record is recorded once one is free. -/
def execMarkerRecordAccept (cls : BitVec 2) (s : State) : Result :=
  .next (match s.core.atPort cls with
    | some m => if hdrKind m.hdr = 3 then s.deliver cls else s
    | none => s)

/-- The first spilled message that its ring can take: the first of its channel (R333). -/
def Core.nextSpill (c : Core) : Option Spill :=
  c.spill.find? fun s =>
    decide ((c.spill.find? fun t => t.ch = s.ch) = some s) && match s.item with
      | .marker _ => true
      | _ => decide (s.bytes / 8 ≤ (c.chan s.ch).room)

/-- A spilled message put into its ring. -/
def Core.putSpill (c : Core) (s : Spill) : Core :=
  let c1 := { c with spill := c.spill.erase s }
  let off := (c1.chan s.ch).tailOff
  let size := s.bytes / 8
  match s.item with
  | .marker code => c1.setChan s.ch fun h => { h with items := h.items ++ [.marker code] }
  | .held h => c1.pushItem s.ch (.held { h with off := off }) size
  | .entry e =>
    (c1.writeEntry s.ch off e.hdr s.words (e.read = 1)).pushItem s.ch (.entry { e with off := off, read := 0 }) size

/-- A spilled message enters its ring: it creates the channel's handler if that has ended meanwhile (R183, R259). -/
def Core.unspill (c : Core) (s : Spill) : Core := (c.putSpill s).arrival s.ch

/-- SPILL_DELIVERY (R333): after a restore or a withdrawal. -/
def execSpillDelivery (s : State) : Result :=
  .next (s.mapCore fun c => if c.stopped then c else match c.nextSpill with
    | some x => c.unspill x
    | none => c)

end Sys2Proof.Machine
end

