-- ==== Sys2Proof/Machine/Fabric.lean ====
section
/-! DEFINITION. Sys2Proof/Machine/Fabric.lean: routers (R13, R173, R184 to R200, R307, R321): forwarding, combining, renorms,
markers and votes, one message at a time. -/

namespace Sys2Proof.Machine

/-! ## The mesh -/

/-- A site in pass-through: once rectangles are chosen, every site outside them (R13). -/
def Wafer.through (w : Wafer) (site : Site) : Bool := !w.rects.isEmpty && (w.place site).isNone

/-- A site whose core takes no part: powered off, graded X (R11, R12), or behind a router in pass-through, which does not connect to
it (R13). -/
def Wafer.deaf (w : Wafer) (site : Site) : Bool := w.gradeX.contains site || w.through site

/-- The first site that is not in pass-through, from a column on, eastward or westward (R13). -/
def Wafer.along (w : Wafer) (row : Nat) (east : Bool) : Nat → Nat → Option Site
  | 0, _ => none
  | n + 1, col =>
    let site : Site := ⟨row, col⟩
    if col ≥ meshCols then none
    else if !w.through site then some site
    else if east then w.along row east n (col + 1)
    else if col = 0 then none
    else w.along row east n (col - 1)

/-- The site that a link leads to; none where it leads off the mesh or to a site in pass-through (R13, R21). -/
def Wafer.neighbour (w : Wafer) (site : Site) : Port → Option Site
  | .n => if site.row = 0 then none else
    let t : Site := ⟨site.row - 1, site.col⟩
    if w.through t then none else some t
  | .s => if site.row + 1 ≥ meshRows then none else
    let t : Site := ⟨site.row + 1, site.col⟩
    if w.through t then none else some t
  | .e => w.along site.row true meshCols (site.col + 1)
  | .w => if site.col = 0 then none else w.along site.row false meshCols (site.col - 1)
  | .loc => none

/-- The edge site and the outward port that pump p is attached to (R24). -/
def pumpAt (p : BitVec 8) : Site × Port :=
  let n := p.toNat
  if n < 112 then (⟨3 * n + 1, 0⟩, .w)
  else if n < 224 then (⟨3 * (n - 112) + 1, meshCols - 1⟩, .e)
  else if n < 240 then (⟨meshRows - 1, 29 * (n - 224) + 14⟩, .s)
  else (⟨0, 29 * (n - 240) + 14⟩, .n)

/-- The edge site whose N port supervisor k is attached to (R27). -/
def supAt (k : Nat) : Site := ⟨0, if k % 2 = 0 then 29 * (k / 2) + 7 else 29 * (k / 2) + 21⟩

/-- The host port that serves a supervisor (R28). -/
def hostPort (k : Nat) : BitVec 2 := BitVec.ofNat 2 (k / 8)

/-- The sites by which an outward edge port of a site reaches the mesh: the site, or where it is in pass-through the ends of the
path west and east of it (R13, R24). -/
def Wafer.reach (w : Wafer) (site : Site) : List Site :=
  if !w.through site then [site] else (w.neighbour site .w).toList ++ (w.neighbour site .e).toList

/-- The input that a link's beats arrive on. -/
def opposite : Port → Port
  | .n => .s | .s => .n | .e => .w | .w => .e | .loc => .loc

/-- The acting core's router changed. -/
def State.mapRouter (s : State) (f : Router → Router) : State := s.mapCore fun c => { c with router := f c.router }

/-- A message leaves a router on an output: into the local port, or into the input of the next router (R187). One that leaves the
mesh reaches no queue. -/
def State.emit (s : State) (site : Site) (out : Port) (m : Msg) : State :=
  match out with
  | .loc => s.setCoreAt site fun c => { c with router := { c.router with portq := c.router.portq ++ [m] } }
  | _ => match s.wafer.neighbour site out with
    | some t => s.setCoreAt t fun c => c.enter (opposite out) m
    | none => s

/-- The receiver at the end of an output does not stop a class (R184). -/
def State.clear (s : State) (site : Site) (out : Port) (cls : BitVec 2) : Bool :=
  match out with
  | .loc => !stops (s.coreAt site).router.portq cls
  | _ => match s.wafer.neighbour site out with
    | some t => !(s.coreAt t).router.stopsAt (opposite out) cls
    | none => true

/-- Every output of a mask takes a class. -/
def State.clearAll (s : State) (mask : BitVec 5) (cls : BitVec 2) : Bool :=
  allPorts.all fun p => !mask.getLsbD (portNo p) || s.clear s.core.ident.site p cls

/-! ## Line counts (R187) -/

/-- The count noted for a channel and a port. -/
def portCount (xs : List (Chan × Port × Nat)) (ch : Chan) (p : Port) : Nat :=
  ((xs.find? fun (c, q, _) => decide (c = ch) && decide (q = p)).map (·.2.2)).getD 0

/-- The counts without that of a channel and a port. -/
def dropCount (xs : List (Chan × Port × Nat)) (ch : Chan) (p : Port) : List (Chan × Port × Nat) :=
  xs.filter fun (c, q, _) => !(decide (c = ch) && decide (q = p))

/-- The counts with that of a channel and a port one higher. -/
def addCount (xs : List (Chan × Port × Nat)) (ch : Chan) (p : Port) : List (Chan × Port × Nat) :=
  (ch, p, portCount xs ch p + 1) :: dropCount xs ch p

/-- A message has passed an input: a line counts (R187). -/
def Router.pass (r : Router) (inp : Port) (m : Msg) : Router :=
  if hdrKind m.hdr = 2 then { r with lines := addCount r.lines m.ch inp } else r

/-- A message has left on the outputs of a mask: a line counts at the next router's input, a marker ends the count there. -/
def Router.note (r : Router) (mask : BitVec 5) (m : Msg) : Router :=
  { r with sent := allPorts.foldl (fun xs p =>
      if !mask.getLsbD (portNo p) then xs
      else if hdrKind m.hdr = 2 then addCount xs m.ch p
      else if hdrKind m.hdr = 3 then dropCount xs m.ch p
      else xs) r.sent }

/-- A message leaves the acting router on every output of a mask. -/
def State.emitAll (s : State) (mask : BitVec 5) (m : Msg) : State :=
  allPorts.foldl (fun t p => if mask.getLsbD (portNo p) then t.emit s.core.ident.site p m else t)
    (s.mapRouter fun r => r.note mask m)

/-- An input is in JOIN (R187). -/
def inJoin (e : Word) (p : Port) : Bool := (joinOf e).getLsbD (portNo p)

/-! ## Beats on the wire (R172, R321) -/

/-- A beat with its sideband: data, channel, class, start and end bit, and the CRC that the end beat carries. -/
abbrev Beat := BitVec 105

/-- The beats of a message without their sideband. -/
def Msg.beatList (m : Msg) : List Word := m.hdr :: m.pay

/-- C of R321: the CRC-32C over all beats of a message, each with its least significant byte first (R7; log entry 62). -/
def Msg.crc (m : Msg) : BitVec 32 := crc32c 0 (m.beatList.flatMap fun w => leBytes 8 w.toNat)

/-- The CRC that a message is sent with: inverted if it is known bad (R321). -/
def Msg.sentCrc (m : Msg) : BitVec 32 := if m.bad then ~~~m.crc else m.crc

/-- The beats of a message on a link. -/
def Msg.wire (m : Msg) : List Beat :=
  m.beatList.zipIdx.map fun (w, i) =>
    let last := decide (i + 1 = m.beats)
    w ++ m.ch ++ hdrCls m.hdr ++ (if i = 0 then 1#1 else 0#1) ++ (if last then 1#1 else 0#1) ++ (if last then m.sentCrc else 0)

/-- A beat's data, end bit, start bit and CRC. -/
def Beat.data (b : Beat) : Word := b.extractLsb' 41 64
def Beat.ends (b : Beat) : Bool := b.getLsbD 32
def Beat.starts (b : Beat) : Bool := b.getLsbD 33
def Beat.crc (b : Beat) : BitVec 32 := b.extractLsb' 0 32

/-- What the CRC check of a router finds for a message whose CRC the link changed by `noise` (R321). -/
inductive CrcCheck | passed | knownBad | failed
  deriving DecidableEq, Repr

/-- The CRC check (R321). -/
def Msg.check (m : Msg) (noise : BitVec 32) : CrcCheck :=
  let got := m.sentCrc ^^^ noise
  if got = m.crc then .passed else if got = ~~~m.crc then .knownBad else .failed

/-! ## Forwarding (R185, R187, R307) -/

/-- A header that a router discards (R173): a reserved kind, a LEN that disagrees with the message, or a marker whose code
is reserved (R321). -/
def Msg.malformed (m : Msg) : Bool :=
  decide (8 ≤ hdrKind m.hdr) || decide (hdrLen m.hdr ≠ m.pay.length) ||
    (decide (hdrKind m.hdr = 3) && decide (natBits m.hdr.toNat 26 17 > 0x12))

/-- What a router does with the message that heads an input for its channel. -/
inductive Routing
  /-- Discarded, and reported as malformed (R173). -/
  | malformed
  /-- Discarded, and reported as a border arrival (R307). -/
  | border
  /-- A marker on an input outside JOIN, discarded (R197). -/
  | discard
  /-- Held for its group, or behind its join. -/
  | held
  | forward (mask : BitVec 5)
  deriving DecidableEq, Repr

/-- A member of a channel's VOTE group is late: it has beats to deliver that the group has forwarded (R199). -/
def Router.late (r : Router) (ch : Chan) (p : Port) : Bool :=
  r.votes.any fun v => decide (v.ch = ch) && v.owed.any fun x => x.1 = p

/-- The routing of a message at an input (R173, R187, R196, R197, R198, R307). A malformed message on an input that leads nowhere gives
the report of R173 alone (DESIGN CHOICE, log entry 94). What a late member still has to deliver belongs to the group that it was late
in, whatever entry has become current since (R198). -/
def Core.routing (c : Core) (inp : Port) (m : Msg) : Routing :=
  let e := c.route m.ch
  let p := portNo inp
  if m.malformed then .malformed
  else if c.router.late m.ch inp then .held
  else if decide (omask e p = 0) || closedBit e then .border
  else if hdrKind m.hdr = 3 then if inJoin e inp then .held else .discard
  else if decide (modeOf e p ≠ 0) && inJoin e inp then .held
  else .forward (omask e p)

/-- What could leave a router: the input that it counts for, its channel, its outputs, its class and its rank (R185). -/
structure Mover where
  inp : Port
  ch : Chan
  mask : BitVec 5
  cls : BitVec 2
  rank : Nat
  deriving DecidableEq, Repr

/-- What some inputs bring, the lowest of which it counts for. Its rank is its class, or the next one up where one of them has been
promoted (R185). -/
def Router.mover (r : Router) (ps : List Port) (ch : Chan) (mask : BitVec 5) (cls : BitVec 2) : Mover :=
  { inp := ps.headD .n, ch := ch, mask := mask, cls := cls, rank := cls.toNat + if ps.any fun p => (p, ch) ∈ r.promoted then 1 else 0 }

/-- The inputs' head messages that are to be forwarded (R187). -/
def State.forwards (s : State) : List Mover :=
  s.core.router.inq.filterMap fun (p, m) =>
    match decide (s.core.router.headAt p m.ch = some m), s.core.routing p m with
    | true, .forward mask => some (s.core.router.mover [p] m.ch mask (hdrCls m.hdr))
    | _, _ => none

/-- How far an input is from its turn at an output, round-robin after the one served last (R185). -/
def Router.turn (r : Router) (out inp : Port) : Nat :=
  let last := ((r.last.find? fun x => x.1 = out).map fun x => portNo x.2).getD 4
  (portNo inp + 4 - last) % 5

/-- The lowest output that two masks share. -/
def shared (a b : BitVec 5) : Option Port := allPorts.find? fun p => (a &&& b).getLsbD (portNo p)

/-- One goes before another on the lowest output that both name: of higher rank, or of one rank and sooner in turn (R185). -/
def Router.before (r : Router) (x y : Mover) : Bool :=
  match shared x.mask y.mask with
  | none => false
  | some out => decide (y.rank < x.rank) || (decide (y.rank = x.rank) && decide (r.turn out x.inp < r.turn out y.inp))

/-- The outputs of a mask have served an input (R185). -/
def Router.served (r : Router) (mask : BitVec 5) (inp : Port) : Router :=
  { r with last := allPorts.foldl (fun xs p => if mask.getLsbD (portNo p) then (p, inp) :: xs.filter (·.1 ≠ p) else xs) r.last }

/-! ## Combining groups (R189 to R193) -/

/-- The members of a combining group: the inputs in JOIN that are in one mode, 1 REDUCE or 2 MAX, and name one output alone
(R187). -/
def groupOf (e : Word) (out : Port) (mode : Nat) : List Port :=
  allPorts.filter fun p =>
    inJoin e p && decide (modeOf e (portNo p) = mode) && decide (omask e (portNo p) = 1#5 <<< portNo out)

/-- The header of a line that a group emits (R176, R189, R190). -/
def combinedHeader (cls : BitVec 2) (f : Bfmt) (fmt : BitVec 4) (tag : BitVec 16) (name : BitVec 26) : Word :=
  headerWord 2 cls (f.n + 2) fmt true (1#1 ++ tag) name

/-- A renorm message (R177). -/
def renormMsg (ch : Chan) (cls : BitVec 2) (fmt : BitVec 4) (parity : Nat) (r : Renorm) (name : BitVec 26) (bad : Bool) : Msg :=
  let trl := decide (r.mask ≠ 0)
  { ch := ch
    hdr := headerWord 4 cls (if trl then 4 else 3) fmt trl (BitVec.ofNat 17 (parity + 2 * r.u)) name
    pay := renormBeats r.codes ++ if trl then [r.mask] else [], bad := bad }

/-- The block format code of a format (R175). -/
def fmtOf : Bfmt → BitVec 4
  | .bk4 => 8 | .bk8 => 9 | .bk16 => 10

/-- The heads of a group agree (R189): kind 2, one block format, one LEN, a trailer left out of the comparison. -/
def headsAgree (ms : List Msg) : Option Bfmt :=
  match ms with
  | [] => none
  | m :: _ =>
    match blockFmt (hdrFmt m.hdr) with
    | none => none
    | some f =>
      if ms.all fun x => decide (hdrKind x.hdr = 2) && decide (hdrFmt x.hdr = hdrFmt m.hdr) &&
          decide (hdrLen x.hdr = f.n + 1 + if hdrTrl x.hdr then 1 else 0) then some f
      else none

/-- A line at a group (R190). -/
def lineIn (f : Bfmt) (m : Msg) : LineIn :=
  { hdr := m.pay.getD 0 0, pay := (m.pay.drop 1).take f.n, mask := if hdrTrl m.hdr then m.pay.getD (f.n + 1) 0 else 0
    combined := hdrCombined m.hdr }

/-- The record of a combined line; the group keeps its last two (R192). -/
def Router.record (r : Router) (x : Combined) : Router :=
  let mine (y : Combined) : Bool := decide (y.ch = x.ch) && decide (y.out = x.out) && decide (y.mode = x.mode)
  { r with combined := x :: (r.combined.filter mine).take 1 ++ r.combined.filter fun y => !mine y }

/-- The heads of a group, where every member holds a message that may be combined: no marker, no renorm, nothing malformed. -/
def Core.groupHeads (c : Core) (ch : Chan) (ps : List Port) : Option (List Msg) :=
  let heads := ps.filterMap fun p => c.router.headAt p ch
  if ps.isEmpty || decide (heads.length ≠ ps.length) ||
      heads.any (fun m => m.malformed || decide (hdrKind m.hdr = 3) || decide (hdrKind m.hdr = 4)) then none
  else some heads

/-- A REDUCE or MAX group of the channel on the output whose members all hold a message to combine: the REDUCE group where both do. -/
def Core.combining (c : Core) (ch : Chan) (out : Port) : Option (Nat × List Msg) :=
  [1, 2].findSome? fun mode => (c.groupHeads ch (groupOf (c.route ch) out mode)).map fun heads => (mode, heads)

/-- What such a group would emit, as it competes for its output. -/
def Core.combineMover (c : Core) (ch : Chan) (out : Port) : Option Mover :=
  (c.combining ch out).map fun (mode, heads) =>
    c.router.mover (groupOf (c.route ch) out mode) ch (1#5 <<< portNo out) ((heads.head?.map fun m => hdrCls m.hdr).getD 0)

/-- A group takes its members' heads and emits one line on its output, then the line's renorm (R189, R190, R193). Where the heads
disagree they are discarded, the event is reported and a poison line leaves. -/
def State.combine (s : State) (ch : Chan) (out : Port) (mode : Nat) (ps : List Port) (heads : List Msg) : State :=
  let c := s.core
  let site := c.ident.site
  let mask : BitVec 5 := 1#5 <<< portNo out
  let head := heads.getD 0 { ch := ch, hdr := 0, pay := [], bad := false }
  let cls := hdrCls head.hdr
  let bad := heads.any (·.bad)
  let line := portCount c.router.sent ch out
  let from' (ss : List (List Nat)) : List (Port × Nat × List Nat) :=
    ps.zipIdx.map fun (p, i) => (p, portCount c.router.lines ch p, ss.getD i [])
  let s1 := (ps.zip heads).foldl (fun t (p, m) => t.mapCore fun c => { c.leave p m with router := (c.leave p m).router.pass p m }) s
  let tag : BitVec 16 := head.hdr.extractLsb' 26 16
  match headsAgree heads with
  | some f =>
    let o := combineLines f (decide (mode = 2)) (heads.map (lineIn f))
    let s2 := s1.mapRouter fun r => r.record
      { ch := ch, out := out, mode := BitVec.ofNat 2 mode, line := line, fmt := f, members := from' o.shifts, poison := o.poison, bad := bad }
    let s3 := s2.emitAll mask
      { ch := ch, hdr := combinedHeader cls f (fmtOf f) tag c.ident.name, pay := o.hdr :: o.pay ++ [o.mask], bad := bad }
    match o.renorm with
    | some cs => s3.emitAll mask (renormMsg ch cls (fmtOf f) (line % 2) { u := 0, codes := cs, mask := 0 } c.ident.name bad)
    | none => s3
  | none =>
    let f := (heads.findSome? fun m => if hdrKind m.hdr = 2 then blockFmt (hdrFmt m.hdr) else none).getD .bk16
    let s2 := (s1.post (.group site ch)).mapRouter fun r => r.record
      { ch := ch, out := out, mode := BitVec.ofNat 2 mode, line := line, fmt := f, members := from' [], poison := [true, true, true, true], bad := bad }
    s2.emitAll mask { ch := ch, hdr := combinedHeader cls f (fmtOf f) tag c.ident.name, pay := poisonLine f true, bad := bad }

/-- The latest combined line of a parity that came from an input, with the input's shifts. -/
def Router.lineFrom (r : Router) (ch : Chan) (inp : Port) (parity : Nat) : Option (Combined × List Nat) :=
  r.combined.findSome? fun x =>
    if x.ch ≠ ch then none
    else (x.members.find? fun y => decide (y.1 = inp) && decide (y.2.1 % 2 = parity)).map fun y => (x, y.2.2)

/-- The renorm that heads a member's input of a REDUCE or MAX group (R191). -/
def Core.renormHead (c : Core) (inp : Port) (ch : Chan) : Option Msg :=
  let e := c.route ch
  let p := portNo inp
  match c.router.headAt inp ch with
  | none => none
  | some m => if m.malformed ∨ hdrKind m.hdr ≠ 4 ∨ closedBit e ∨ !inJoin e inp ∨ (modeOf e p ≠ 1 ∧ modeOf e p ≠ 2) then none else some m

/-- What it would emit, as it competes for its output. -/
def Core.renormMover (c : Core) (ch : Chan) (inp : Port) : Option Mover :=
  (c.renormHead inp ch).bind fun m => (c.router.lineFrom ch inp (renormParity m.hdr)).map fun x =>
    c.router.mover [inp] ch (1#5 <<< portNo x.1.out) (hdrCls m.hdr)

/-! ## VOTE groups (R199, R200) -/

/-- The inputs of a channel's VOTE group, in increasing input order. -/
def voteInputs (e : Word) : List Port := allPorts.filter fun p => modeOf e (portNo p) = 3

/-- The inputs that vote: those that the supervisor has not withdrawn from JOIN (R197). -/
def voteMembers (e : Word) : List Port := (voteInputs e).filter (inJoin e)

/-- The progress of a VOTE group. -/
def Router.vote (r : Router) (ch : Chan) : Vote := (r.votes.find? fun v => v.ch = ch).getD { ch := ch, was := [], owed := [], ahead := [] }

/-- The router with a VOTE group's progress changed; a group that is in step has no entry, and only late members have a number of an
entry before. -/
def Router.setVote (r : Router) (ch : Chan) (f : Vote → Vote) : Router :=
  let v0 := f (r.vote ch)
  let v := { v0 with was := v0.was.filter fun x => v0.owed.any fun y => y.1 = x.1 }
  { r with votes := (if v.owed.isEmpty && v.ahead.isEmpty then [] else [v]) ++ r.votes.filter fun v => v.ch ≠ ch }

/-- What is noted for a port; no entry stands for nothing. -/
def notedFor {α : Type} (xs : List (Port × List α)) (p : Port) : List α := ((xs.find? fun x => x.1 = p).map (·.2)).getD []

/-- The notes with those of a port changed. -/
def noteFor {α : Type} (xs : List (Port × List α)) (p : Port) (ys : List α) : List (Port × List α) :=
  (if ys.isEmpty then [] else [(p, ys)]) ++ xs.filter fun x => x.1 ≠ p

/-- What a member still has to deliver of the beats forwarded. -/
def Vote.owedBy (v : Vote) (p : Port) : List (Option Beat) := notedFor v.owed p

/-- The beats that a member has delivered beyond those forwarded. -/
def Vote.aheadOf (v : Vote) (p : Port) : List Beat := notedFor v.ahead p

/-- A member's beats changed. -/
def Vote.setOwed (v : Vote) (p : Port) (bs : List (Option Beat)) : Vote := { v with owed := noteFor v.owed p bs }
def Vote.setAhead (v : Vote) (p : Port) (bs : List Beat) : Vote := { v with ahead := noteFor v.ahead p bs }

/-- One disagreement of VOTELOG (R200): whether OVF became set. -/
def voteLogOnce (log : Word) (ch : Chan) (copy : BitVec 2) : Word × Bool :=
  let count := natBits log.toNat 48 16
  let full := decide (count = 0xFFFF)
  (BitVec.ofNat 16 (if full then count else count + 1) ++ (0#8) ++ ch ++ (0#3) ++ copy ++ (0#29) ++
    (if full || log.getLsbD 0 then 1#1 else 0#1), full && !log.getLsbD 0)

/-- VOTELOG after a list of disagreements, and whether OVF became set. -/
def voteLogAll (log : Word) (ch : Chan) (copies : List (BitVec 2)) : Word × Bool :=
  copies.foldl (fun (l, o) k => let r := voteLogOnce l ch k; (r.1, o || r.2)) (log, false)

/-- Disagreements recorded at the acting core's router; VOTE when OVF becomes set (R200). Its TRAPVAL is stated nowhere
(log entry 5). -/
def State.voteDiffer (s : State) (ch : Chan) (copies : List (BitVec 2)) : State :=
  let r := voteLogAll s.core.csr.voteLog ch copies
  let s1 := s.mapCore fun c => { c with csr := { c.csr with voteLog := r.1 } }
  if r.2 then (s1.fresh.2).asyncFault s1.core Code.vote s1.fresh.1 else s1

/-- The bitwise majority of three beats. -/
def majority (a b c : Beat) : Beat := (a &&& b) ||| (a &&& c) ||| (b &&& c)

/-- A number of disagreements of one member (R200). -/
def State.voteDiffers (s : State) (ch : Chan) (n : Nat) (copy : BitVec 2) : State := s.voteDiffer ch (List.replicate n copy)

/-- One beat position of three members (R199): the beat forwarded, which two hold, or the bitwise majority of three that differ; and
the member that disagrees, 3 where all three do. Nothing is forwarded before two agree or all three hold a beat. -/
def voteBeat : Option Beat → Option Beat → Option Beat → Option Beat × Option (BitVec 2)
  | some a, some b, some c =>
    if a = b then (some a, if a = c then none else some 2)
    else if a = c then (some a, some 1)
    else if b = c then (some b, some 0)
    else (some (majority a b c), some 3)
  | some a, some b, none => if a = b then (some a, none) else (none, none)
  | some a, none, some c => if a = c then (some a, none) else (none, none)
  | none, some b, some c => if b = c then (some b, none) else (none, none)
  | _, _, _ => (none, none)

/-- What a member holds at a beat position: the beat there, or behind its last beats the marker that it has come to. -/
def beatAt (xs : List Beat × Option Beat) (i : Nat) : Option Beat := (xs.1[i]?).or xs.2

/-- One beat position of three members, one of whom may have come to a marker: the marker is a beat that all three may differ in, and
otherwise waits for the two others to come to theirs. -/
def voteBeatAt (x y z : List Beat × Option Beat) (i : Nat) : Option Beat × Option (BitVec 2) :=
  match voteBeat x.1[i]? y.1[i]? z.1[i]? with
  | (some b, d) => (some b, d)
  | (none, _) =>
    if [x, y, z].countP (fun m => m.1[i]?.isNone) ≤ 1 then
      match voteBeat (beatAt x i) (beatAt y i) (beatAt z i) with
      | (some b, some 3) => (some b, some 3)
      | _ => (none, none)
    else (none, none)

/-- The beats forwarded from three members' beats up to the first end beat, each with who disagrees in it; none while some position
before it cannot be forwarded yet. Behind their beats stands the marker that a member has come to. -/
def voteRun (x y z : List Beat × Option Beat) : Option (List (Beat × Option (BitVec 2))) :=
  let rs := (List.range (max x.1.length (max y.1.length z.1.length))).map fun i => voteBeatAt x y z i
  let k := rs.findIdx fun r => r.1.all Beat.ends
  let done := rs.take (k + 1)
  if k < rs.length ∧ done.all (·.1.isSome) then some (done.filterMap fun r => r.1.map fun b => (b, r.2)) else none

/-- The message that beats make: bad unless the end beat carries their CRC (R321). -/
def msgOf (ch : Chan) (bs : List Beat) : Msg :=
  let m : Msg := { ch := ch, hdr := (bs.headD 0).data, pay := (bs.drop 1).map Beat.data, bad := false }
  { m with bad := decide ((bs.getLastD 0).crc ≠ m.crc) }

/-- Beats that differ, position by position. -/
def differing (xs ys : List Beat) : Nat := ((xs.zip ys).filter fun (a, b) => a ≠ b).length

/-- The member number of an input. -/
def memberNo (ps : List Port) (p : Port) : BitVec 2 := BitVec.ofNat 2 (ps.findIdx fun q => q = p)

/-- The number by which a member disagrees: the one that it had in the group it is late in (R198, R200). -/
def Core.voteNo (c : Core) (ch : Chan) (p : Port) : BitVec 2 :=
  (((c.router.vote ch).was.find? fun x => x.1 = p).map (·.2)).getD (memberNo (voteInputs (c.route ch)) p)

/-- A marker's beat. -/
def Beat.isMark (b : Beat) : Bool := b.starts && decide (hdrKind b.data = 3)

/-- The beats that a member owes before anything else: those before the next marker or the next lost ones. -/
def dueBeats (owed : List (Option Beat)) : List Beat := (owed.takeWhile fun o => o.any fun b => !b.isMark).filterMap id

/-- A late member's message against what it owes (R199): beats of it that disagree, what it owes then, and its beats that nothing has
been forwarded for. Beats in the place of lost ones are discarded, beats in the place of a marker disagree. -/
def catchUp (owed : List (Option Beat)) (bs : List Beat) : Nat × List (Option Beat) × List Beat :=
  let due := dueBeats owed
  let rest := owed.drop due.length
  let bad := differing bs due
  if bs.length ≤ due.length then (bad, owed.drop bs.length, [])
  else match rest with
    | [] => (bad, [], bs.drop due.length)
    | none :: _ => (bad, rest, [])
    | some _ :: _ => (bad + (bs.length - due.length), rest, [])

/-- A late member's marker against what it owes: beats that it has not delivered and will not, what it owes then, and whether the marker
was owed. After lost beats the marker is the one at which the member is in step again. -/
def catchMark (owed : List (Option Beat)) (mark : Beat) : Nat × List (Option Beat) × Bool :=
  let due := dueBeats owed
  let rest := match owed.drop due.length with
    | none :: xs => xs
    | xs => xs
  match rest with
  | some b :: xs => (due.length + if b = mark then 0 else 1, xs, true)
  | _ => (due.length, rest, false)

/-- A member that is late, or cut off, catches up with the beats already forwarded (R199). A malformed message is discarded and
reported (R173); a marker ends the line count of the input as it passes (R187). -/
def State.voteCatchUp (ch : Chan) (p : Port) (copy : BitVec 2) : Nat → State → State
  | 0, s => s
  | n + 1, s =>
    match s.core.router.headAt p ch, (s.core.router.vote ch).owedBy p with
    | none, _ => s
    | _, [] => s
    | some m, owed =>
      let left : State := s.mapCore fun c => c.leave p m
      let owe (xs : List (Option Beat)) (early : List Beat) (t : State) : State :=
        t.mapRouter fun r => r.setVote ch fun v => (v.setOwed p xs).setAhead p early
      if m.malformed then voteCatchUp ch p copy n (left.post (.malformed s.core.ident.site ch))
      else if hdrKind m.hdr = 3 then
        let r := catchMark owed (m.wire.headD 0)
        let passed : State := left.mapRouter fun r => { r with lines := dropCount r.lines ch p }
        voteCatchUp ch p copy n ((owe r.2.1 [] (if r.2.2 then passed else s)).voteDiffers ch r.1 copy)
      else
        let r := catchUp owed m.wire
        voteCatchUp ch p copy n ((owe r.2.1 r.2.2 (left.mapRouter fun r => r.pass p m)).voteDiffers ch r.1 copy)

/-- Beats for which a late member is compared (R199). -/
def historyBeats : Nat := 64

/-- Owed beats whose history is lost: only the markers among them are left (R199). -/
def lostBeats (owed : List (Option Beat)) : List (Option Beat) :=
  owed.foldr (fun o xs =>
    let y := o.filter Beat.isMark
    if y.isNone && xs.head? = some none then xs else y :: xs) []

/-- A member owes some more beats that have been forwarded: what it owes then, and how many of them count as disagreements. One more
than 64 beats behind is cut off: the beats it owes disagree, and those that follow up to the next marker. -/
def oweBeats (owed : List (Option Beat)) (bs : List Beat) : List (Option Beat) × Nat :=
  if owed.getLast? = some none ∧ !bs.all Beat.isMark then (owed, bs.length)
  else
    let all := owed ++ bs.map some
    if historyBeats < (all.filterMap id).length then (lostBeats all, ((all.filterMap id).filter fun b => !b.isMark).length) else (all, 0)

/-- A channel's messages at an input, in order. -/
def Router.waiting (r : Router) (ch : Chan) (p : Port) : List Msg :=
  (r.inq.filter fun x => decide (x.1 = p) && decide (x.2.ch = ch)).map (·.2)

/-- A message that votes beat by beat: no marker, nothing malformed. -/
def Msg.votes (m : Msg) : Bool := !m.malformed && decide (hdrKind m.hdr ≠ 3)

/-- The beats that a member in step holds: those it is early by, and those of its messages at the input, up to a marker or a malformed
one. A late member holds none to vote with. -/
def Router.stream (r : Router) (ch : Chan) (p : Port) : List Beat :=
  let v := r.vote ch
  if v.owedBy p ≠ [] then [] else v.aheadOf p ++ ((r.waiting ch p).takeWhile Msg.votes).flatMap Msg.wire

/-- The marker that stands behind them, where one does. -/
def Router.streamMark (r : Router) (ch : Chan) (p : Port) : Option Beat :=
  if (r.vote ch).owedBy p ≠ [] then none
  else ((r.waiting ch p).dropWhile Msg.votes).head?.bind fun m => if m.malformed then none else m.wire.head?

/-- So many beats of a member leave its stream; the rest of a message begun counts as early. -/
def Core.takeBeats (ch : Chan) (p : Port) : Nat → Nat → Core → Core
  | 0, _, c => c
  | f + 1, n, c =>
    let early := (c.router.vote ch).aheadOf p
    let keep (bs : List Beat) (c : Core) : Core := { c with router := c.router.setVote ch fun v => v.setAhead p bs }
    match decide (n ≤ early.length), c.router.headAt p ch with
    | false, some m => takeBeats ch p f n (keep (early ++ m.wire) { c.leave p m with router := (c.leave p m).router.pass p m })
    | _, _ => keep (early.drop n) c

/-- The beats that a VOTE group forwards next, one message of them, each with who disagrees in it (R199). -/
def Core.voteNext (c : Core) (ch : Chan) : Option (List (Beat × Option (BitVec 2))) :=
  let e := c.route ch
  let hold (i : Nat) : List Beat × Option Beat := match (voteInputs e)[i]? with
    | some p => if inJoin e p then (c.router.stream ch p, c.router.streamMark ch p) else ([], none)
    | none => ([], none)
  voteRun (hold 0) (hold 1) (hold 2)

/-- The inputs whose beats have to catch up: the members, and those that are late in the group of the entry before (R198). -/
def Core.voters (c : Core) (ch : Chan) : List Port :=
  allPorts.filter fun p => (voteMembers (c.route ch)).contains p || c.router.late ch p

/-- The machine as every member of a channel's VOTE group has caught up with what was forwarded. -/
def State.voteReady (s : State) (ch : Chan) : State :=
  (s.core.voters ch).foldl (fun t p => State.voteCatchUp ch p (s.core.voteNo ch p) (t.core.router.inq.length + 1) t) s

/-- Beats forwarded leave a member's stream; what it does not hold of them it owes, but for those in which all three differed, its
marker being the beat that it held there. -/
def State.voteTake (s : State) (ch : Chan) (p : Port) (rs : List (Beat × Option (BitVec 2))) : State :=
  let copy := s.core.voteNo ch p
  let k := min rs.length (s.core.router.stream ch p).length
  let rest := ((rs.drop k).filter fun r => r.2 ≠ some 3).map (·.1)
  let o := oweBeats ((s.core.router.vote ch).owedBy p) rest
  let s1 := if k = 0 then s else s.mapCore (Core.takeBeats ch p (s.core.router.inq.length + 1) k)
  if rest.isEmpty then s1 else (s1.mapRouter fun r => r.setVote ch fun v => v.setOwed p o.1).voteDiffers ch o.2 copy

/-- What a VOTE group would forward now, as it competes for its outputs. -/
def State.voteMover (s : State) (ch : Chan) : Option Mover :=
  let ps := voteMembers (s.core.route ch)
  let s1 := s.voteReady ch
  (s1.core.voteNext ch).map fun r =>
    s1.core.router.mover ps ch (omask (s.core.route ch) (portNo (ps.getD 0 .n))) (hdrCls (msgOf ch (r.map (·.1))).hdr)

/-! ## Markers (R196 to R198) -/

/-- The marker that heads an input, where its group's earlier beats are all settled. -/
def Router.markAt (r : Router) (p : Port) (ch : Chan) : Option Msg :=
  match r.headAt p ch with
  | some m => if hdrKind m.hdr = 3 ∧ !m.malformed ∧ (r.vote ch).owedBy p = [] then some m else none
  | none => none

/-- The head marker of an input carries a code. -/
def Router.hasMark (r : Router) (ch : Chan) (code : BitVec 5) (p : Port) : Bool :=
  match r.markAt p ch with
  | some m => decide (hdrCode m.hdr = code)
  | none => false

/-- A router may forward a code (R196, R199): it heads every JOIN input that does not vote, and two of those that do. -/
def Router.mayMark (r : Router) (ch : Chan) (js votes : List Port) (code : BitVec 5) : Bool :=
  (js.all fun p => votes.contains p || r.hasMark ch code p) && decide (min 2 votes.length ≤ (votes.filter (r.hasMark ch code)).length)

/-- The vote of a channel's members on their head markers, a beat like any other (R199). -/
def Router.voteMark (r : Router) (ch : Chan) (e : Word) : Option Beat × Option (BitVec 2) :=
  let beat (i : Nat) : Option Beat := match (voteInputs e)[i]? with
    | some p => if inJoin e p then (r.markAt p ch).bind fun m => m.wire.head? else none
    | none => none
  voteBeat (beat 0) (beat 1) (beat 2)

/-- The marker that a router forwards now (R196, R199): of a channel without a VOTE group that of the lowest JOIN input that carries it
(log entry 64), else the one voted for; with the member that disagrees. -/
def Core.marking (c : Core) (ch : Chan) : Option (Msg × Option (BitVec 2)) :=
  let e := c.route ch
  let js := allPorts.filter (inJoin e)
  let votes := voteMembers e
  let r := c.router
  match js.findSome? fun p => (r.markAt p ch).bind fun m => if r.mayMark ch js votes (hdrCode m.hdr) then some m else none with
  | none => none
  | some m =>
    if votes.isEmpty then some (m, none)
    else match r.voteMark ch e with
      | (some b, d) => some (msgOf ch [b], d)
      | (none, _) => none

/-- The outputs of a channel's markers: those that any JOIN input names (R196). -/
def markOuts (e : Word) : BitVec 5 := (allPorts.filter (inJoin e)).foldl (fun a p => a ||| omask e (portNo p)) 0#5

/-- What it forwards, as it competes for its outputs. -/
def Core.markMover (c : Core) (ch : Chan) : Option Mover :=
  (c.marking ch).map fun x => c.router.mover (allPorts.filter (inJoin (c.route ch))) ch (markOuts (c.route ch)) (hdrCls x.1.hdr)

/-! ## What leaves next (R185) -/

/-- What the groups of a router's channels and their markers would emit. -/
def State.groupMovers (s : State) : List Mover :=
  let r := s.core.router
  (r.inq.map (·.2.ch) ++ r.votes.map (·.ch)).eraseDups.flatMap fun ch =>
    if closedBit (s.core.route ch) then []
    else allPorts.filterMap (s.core.combineMover ch) ++ allPorts.filterMap (s.core.renormMover ch) ++ (s.voteMover ch).toList ++
      (s.core.markMover ch).toList

/-- Everything that waits at a router for outputs whose receivers take its class. -/
def State.movers (s : State) : List Mover := (s.forwards ++ s.groupMovers).filter fun x => s.clearAll x.mask x.cls

/-- Something may leave now: the receivers take its class (R184), and nothing that could leave goes before it (R185). Multicasts can go
before each other in a ring: then any of them may leave (log entry 63). -/
def State.mayLeave (s : State) (x : Mover) : Bool :=
  let first (y : Mover) : Bool := !s.movers.any fun z => s.core.router.before z y
  s.clearAll x.mask x.cls && (first x || !s.movers.any first)

/-- ROUTE_MESSAGE (R184, R185, R187, R307, R321): the first message of a channel at an input is discarded, held for its group or its
marker, or forwarded on every output of its mask when it is its turn and every receiver takes its class. A marker on an input outside
JOIN passes the input too and ends its line count. `noise` is what the link did to its CRC. -/
def execRouteMessage (inp : Port) (ch : Chan) (noise : BitVec 32) (s : State) : Result :=
  .next (match s.core.router.headAt inp ch with
    | none => s
    | some m0 =>
      let site := s.core.ident.site
      let told : State := if m0.check noise = .failed then s.post (.link site ch) else s
      let gone : State := told.mapCore fun c => c.leave inp m0
      match s.core.routing inp m0 with
      | .malformed => gone.post (.malformed site ch)
      | .border => gone.post (.border site ch inp (hdrCls m0.hdr) (hdrSrc m0.hdr))
      | .discard => gone.mapRouter fun r => { r with lines := dropCount r.lines ch inp }
      | .held =>
        let m := { m0 with bad := m0.bad || decide (m0.check noise ≠ .passed) }
        told.mapRouter fun r => { r with inq := r.inq.map fun x => if x = (inp, m0) then (inp, m) else x }
      | .forward mask =>
        let m := { m0 with bad := decide (m0.check noise ≠ .passed) }
        if !s.mayLeave (s.core.router.mover [inp] ch mask (hdrCls m.hdr)) then s
        else (gone.mapRouter fun r => (r.pass inp m).served mask inp).emitAll mask m)

/-- Cycles after which a waiting beat takes the next rank (R185). -/
def promoteCycles : Nat := 256

/-- The cycle since which a channel's message heads an input. -/
def Router.heads (r : Router) (inp : Port) (ch : Chan) : Option Nat :=
  (r.since.find? fun x => !notFor inp ch x).map (·.2.2)

/-- CLASS_PROMOTE (R185): a class-0 or class-1 beat that has waited 256 cycles takes the rank of the next class. -/
def execClassPromote (inp : Port) (ch : Chan) (s : State) : Result :=
  .next (match s.core.router.headAt inp ch, s.core.router.heads inp ch with
    | some m, some t =>
      if hdrCls m.hdr ≤ 1 ∧ (inp, ch) ∉ s.core.router.promoted ∧ t + promoteCycles ≤ s.core.csr.cycle.toNat then
        s.mapRouter fun r => { r with promoted := r.promoted ++ [(inp, ch)] }
      else s
    | _, _ => s)

/-- COMBINE_LINE (R189, R190, R193): a REDUCE or MAX group of the channel on the output whose members all hold a line. -/
def execCombineLine (ch : Chan) (out : Port) (s : State) : Result :=
  .next (match s.core.combining ch out, s.core.combineMover ch out with
    | some (mode, heads), some x =>
      if closedBit (s.core.route ch) || !s.mayLeave x then s
      else (s.mapRouter fun r => r.served x.mask x.inp).combine ch out mode (groupOf (s.core.route ch) out mode) heads
    | _, _ => s)

/-- RENORM_APPLY (R191, R192): the renorm at a member's head is applied to the line of its parity that came from that input and
forwarded, or is malformed. One for a line that the group replaced by poison has no element to correct (R189). -/
def execRenormApply (inp : Port) (ch : Chan) (s : State) : Result :=
  let c := s.core
  .next (match c.renormHead inp ch with
    | none => s
    | some m =>
      let gone := s.mapCore fun c => c.leave inp m
      match c.router.lineFrom ch inp (renormParity m.hdr), c.renormMover ch inp with
      | some (x, ss), some y =>
        let r : Renorm := { u := renormUnit m.hdr, codes := renormCodes (m.pay.take 3), mask := if hdrTrl m.hdr then m.pay.getD 3 0 else 0 }
        if !s.mayLeave y then s
        else (applyRenorm x.fmt.w ss x.poison r).foldl (fun t z =>
          t.emitAll y.mask (renormMsg ch (hdrCls m.hdr) (hdrFmt m.hdr) (x.line % 2) z c.ident.name (m.bad || x.bad)))
            (gone.mapRouter fun r => r.served y.mask inp)
      | _, _ => gone.post (.renorm c.ident.site ch))

/-- VOTE_FORWARD (R199, R200): late members catch up, and the next message that two of the members agree on, beat by beat, is
forwarded. -/
def execVoteForward (ch : Chan) (s : State) : Result :=
  let s1 := s.voteReady ch
  .next (if closedBit (s.core.route ch) then s
    else match s1.core.voteNext ch, s1.voteMover ch with
      | some rs, some x =>
        if !s1.mayLeave x then s1
        else (((voteMembers (s.core.route ch)).foldl (fun t p => t.voteTake ch p rs)
          (s1.voteDiffer ch (rs.filterMap (·.2)))).mapRouter fun r => r.served x.mask x.inp).emitAll x.mask (msgOf ch (rs.map (·.1)))
      | _, _ => s1)

/-- The next entry of a channel becomes current (R198). Members that are late keep their numbers in the group of the entry before. -/
def Core.switchEntry (c : Core) (ch : Chan) : Core :=
  let no (p : Port) : BitVec 2 := c.voteNo ch p
  let r := c.router.setVote ch fun v => { v with was := v.owed.map fun x => (x.1, no x.1) }
  { c with router := { r with route := r.route.set ch.toNat (r.next[ch.toNat] &&& ~~~(1#64 <<< 49)) } }

/-- MARKER_FORWARD (R196, R198, R199): a marker leaves once on every output that a JOIN input names, and MEMBER makes the next entry
current. A voting member whose head marker differs disagrees, one without a marker owes it, and beats of a member that nothing was
forwarded for before it disagree. The line count of an input ends as its marker passes (R187). -/
def execMarkerForward (ch : Chan) (s : State) : Result :=
  let e := s.core.route ch
  let js := allPorts.filter (inJoin e)
  let votes := voteMembers e
  .next (match s.core.marking ch, s.core.markMover ch with
    | some (m, differ), some x =>
      if closedBit e || !s.mayLeave x then s
      else
        let heads := js.filterMap fun p => (s.core.router.markAt p ch).map fun y => (p, y)
        let missing := votes.filter fun p => (s.core.router.markAt p ch).isNone
        let s1 := heads.foldl (fun t (p, y) => t.mapCore fun c => c.leave p y) s
        let s2 := s1.mapRouter fun r =>
          { r with combined := r.combined.filter fun x => x.ch ≠ ch, lines := heads.foldl (fun xs x => dropCount xs ch x.1) r.lines }
        let s3 := votes.foldl (fun t p =>
          (t.mapRouter fun r => r.setVote ch fun v => v.setAhead p []).voteDiffers ch ((s.core.router.vote ch).aheadOf p).length
            (memberNo (voteInputs e) p)) (s2.voteDiffer ch differ.toList)
        let s4 := missing.foldl (fun t p => t.voteTake ch p (m.wire.map fun b => (b, none))) s3
        let s5 := (s4.mapRouter fun r => r.served x.mask x.inp).emitAll x.mask m
        if hdrCode m.hdr = 0x11 ∧ nextv e then s5.mapCore fun c => c.switchEntry ch else s5
    | _, _ => s)

/-! ## Banks, SECDED, scrubbing (R169, R171, R322) -/

/-- The fixed order of the requesters (R169). -/
def requesterOrder : Requester → Nat
  | .delivery => 0 | .wellhead => 1 | .stream => 2 | .port0 => 3 | .port1 => 4

/-- The place of a waiting requester in the order of grants: the promoted ones first, then the fixed order (R169). -/
def BankWait.place (b : BankWait) : Nat := requesterOrder b.req + if b.promoted then 0 else 5

/-- One cycle's grants (R169): each bank grants the first of the requesters that ask for it. -/
def grantBanks (bs : List BankWait) : List BankWait :=
  bs.filter fun b => bs.any fun x => decide (x.bank = b.bank) && decide (x.place < b.place)

/-- Cycles after which a waiting requester is promoted (R169). -/
def bankCycles : Nat := 8

/-- BANK_PROMOTE (R169): a requester asks for a bank, or, when it has waited 8 cycles for it, is promoted. -/
def execBankPromote (req : Requester) (bank : Nat) (s : State) : Result :=
  let now := s.core.csr.cycle.toNat
  let mine (b : BankWait) : Bool := decide (b.req = req) && decide (b.bank = bank)
  let put (bs : List BankWait) : State := s.mapCore fun c => { c with well := { c.well with banks := bs } }
  let bs := s.core.well.banks
  .next (if 192 ≤ bank then s
    else if !bs.any mine then put (bs ++ [{ req := req, bank := bank, since := now, promoted := false }])
    else put (bs.map fun b => if mine b && decide (b.since + bankCycles ≤ now) then { b with promoted := true } else b))

/-- The mark of a well word changed. -/
def Well.setMark (w : Well) (word : Nat) (m : Option Mark) : Well :=
  let rest := w.marks.filter fun p => p.1 ≠ word
  match m with
  | some x => { w with marks := (word, x) :: rest }
  | none => { w with marks := rest }

/-- ECC_WRITEBACK (R171): a word that a read corrected is written back. -/
def execEccWriteback (word : Nat) (s : State) : Result :=
  .next (if s.core.well.mark word = some .corrected then s.mapCore fun c => { c with well := c.well.setMark word none } else s)

/-- SCRUB (R322): one row of every bank; single-bit errors are corrected, uncorrectable words reported. -/
def execScrub (s : State) : Result :=
  let w := s.core.well
  let row := w.scrubRow
  let inRow (word : Nat) : Bool := word / 192 = row
  let bad := w.marks.filter fun p => inRow p.1 && decide (p.2 = .uncorrectable)
  .next ((s.mapCore fun c => { c with well :=
      { c.well with
        marks := c.well.marks.filter fun p => !inRow p.1 || decide (p.2 = .uncorrectable)
        scrubRow := (row + 1) % 256 } }).postAll (bad.map fun p => .scrub s.core.ident.site (8 * p.1)))

/-- SOFT_ERROR (R171): bits of a well word flip. -/
def execSoftError (word : Nat) (uncorrectable : Bool) (s : State) : Result :=
  .next (if 8 * word < wellSize then s.mapCore fun c =>
      if uncorrectable then { c with well := c.well.setMark word (some .uncorrectable) }
      else if c.well.bad word then c
      else { c with well := c.well.setMark word (some .correctable) }
    else s)

end Sys2Proof.Machine
end

