-- ==== Sys2Proof/Machine/Pump.lean ====
section
/-! DEFINITION. Sys2Proof/Machine/Pump.lean: pumps, slots, light lanes, page walks and the cistern's controllers (R207 to
R231, R310 to R313, R341, R386, R387). -/

namespace Sys2Proof.Machine

/-! ## Slots (R210 to R216) -/

/-- Slots of a frame (R210). -/
def frameSlots : Nat := 64

/-- Lanes of a pump, in order. -/
def laneNos : List (BitVec 3) := [0, 1, 2, 3, 4, 5, 6, 7]

/-- A lane that carries traffic. -/
def Pump.laneLive (p : Pump) (l : BitVec 3) : Bool := p.lanes[l.toNat] = .live

/-- The table in whose frames an absolute slot lies: of a table and the ones that take effect after it, the last whose frame has
begun. -/
def tableAmong (n : Nat) : Vector (Vector Slot 64) 8 → List (Nat × Vector (Vector Slot 64) 8) → Vector (Vector Slot 64) 8
  | t, [] => t
  | t, (f, u) :: rest => if frameSlots * f ≤ n then tableAmong n u rest else t

/-- The table in whose frames an absolute slot lies: a next table from its frame on (R216). -/
def Pump.tableFor (p : Pump) (n : Nat) : Vector (Vector Slot 64) 8 := tableAmong n p.table p.next

/-- The table that the pump uses last: of the accepted next ones the last, else the current one. -/
def Pump.coming (p : Pump) : Vector (Vector Slot 64) 8 := ((p.next.getLast?).map (·.2)).getD p.table

/-- The outbound entry of an absolute slot of a lane. -/
def Pump.slotAt (p : Pump) (l : BitVec 3) (n : Nat) : Slot :=
  ((p.tableFor n)[l.toNat]).toList.getD (n % frameSlots) Slot.idle

/-- A pump that may stand in a pump set (R379, R24): it has a live lane, and its edge port reaches the mesh. -/
def State.usable (s : State) (no : BitVec 8) : Bool :=
  laneNos.any (s.pump no).laneLive && !(s.wafer.reach (pumpAt no).1).isEmpty

/-- The slot kind of a request (R217). -/
def FarKind.slot : FarKind → SlotKind
  | .fld | .fget => .readreq
  | .fst | .fput => .write
  | .famo _ => .atomic

/-- Requests that one flit of a kind carries (R213). -/
def SlotKind.room : SlotKind → Nat
  | .idle => 0 | .readreq => 12 | .write => 3 | .atomic => 6 | .maint => 12

/-- Inbound slots that a slot kind at index n claims, counted from slot 0 of its frame (R214). -/
def SlotKind.claims (k : SlotKind) (n : Nat) : List Nat :=
  match k with
  | .readreq => [n + 48, n + 49, n + 50, n + 51]
  | .write | .atomic | .maint => [n + 48]
  | .idle => []

/-- The inbound claims of one lane's table. -/
def laneClaims (t : Vector Slot 64) : List Nat := t.toList.zipIdx.flatMap fun (x, n) => x.kind.claims n

/-- No value stands twice in a list. -/
def noRepeat : List Nat → Bool
  | [] => true
  | x :: xs => !xs.contains x && noRepeat xs

/-- Rule 1 of R215 for one lane, with the claims that the table before it makes into its first frame (R216). -/
def claimsOk (old new : Vector Slot 64) : Bool :=
  let own := (laneClaims new).filter (· < frameSlots)
  let carry (t : Vector Slot 64) : List Nat := ((laneClaims t).filter (frameSlots ≤ ·)).map (· - frameSlots)
  noRepeat (own ++ carry old) && noRepeat (own ++ carry new)

/-! ## Inbound tables (R212) -/

/-- The outbound entry of an absolute slot that claims inbound slots now: that of the table before the current one for slots before
the current one's first frame. -/
def Pump.claimant (p : Pump) (l : BitVec 3) (n : Nat) : Slot :=
  match p.prev with
  | some (f, t) => if n < frameSlots * f then (t[l.toNat]).toList.getD (n % frameSlots) Slot.idle else p.slotAt l n
  | none => p.slotAt l n

/-- The absolute outbound slot that claims an absolute inbound slot of a lane (R214). -/
def Pump.claimOf (p : Pump) (l : BitVec 3) (m : Nat) : Option Nat :=
  [48, 49, 50, 51].findSome? fun d =>
    if d ≤ m ∧ ((p.claimant l (m - d)).kind.claims (m - d)).contains m then some (m - d) else none

/-- KIND of an inbound entry (R212): READDATA for reads, ACK for the rest. -/
def SlotKind.inbound : SlotKind → BitVec 3
  | .idle => 0
  | .readreq => 1
  | .write | .atomic | .maint => 2

/-- The inbound entry of an absolute slot of a lane, which the pump derives and the supervisor reads (R212): ASID and FIELD of the
claiming slot, its index, whether it lies in the previous frame, KIND. -/
def Pump.inbound (p : Pump) (l : BitVec 3) (m : Nat) : Word :=
  match p.claimOf l m with
  | none => 0
  | some n =>
    let x := p.claimant l n
    x.asid ++ x.fnum ++ (0#22) ++ BitVec.ofNat 6 (n % frameSlots) ++ (if n / frameSlots < m / frameSlots then 1#1 else 0#1) ++ x.kind.inbound

/-- Rules 2 and 3 of R215 for one slot. -/
def State.slotOwnerOk (s : State) (no : BitVec 8) (x : Slot) : Bool :=
  match x.kind with
  | .maint | .idle => decide (x.asid = 0) && decide (x.fnum = 0)
  | _ => decide (x.asid ≠ 0) && s.sup.fields.any fun f => decide (f.fnum = x.fnum) && decide (f.asid = x.asid) && f.pumps.contains no

/-- Rules 1 and 4 of R215 for a next table of a pump, with the claims of the table that is in effect before it (R216). -/
def Pump.tableSound (p : Pump) (t : Vector (Vector Slot 64) 8) : Bool :=
  laneNos.all (fun l => claimsOk p.coming[l.toNat] t[l.toNat]) &&
    laneNos.any fun l => p.laneLive l && t[l.toNat].toList.any fun x => x.kind = .maint

/-- What a pump checks of a next table (R215, R216). -/
def State.tableAccepted (s : State) (p : Pump) (t : Vector (Vector Slot 64) 8) : Bool :=
  p.tableSound t && laneNos.all fun l => t[l.toNat].toList.all (s.slotOwnerOk p.no)

/-! ## The slot clock (R210) -/

/-- The first inbound slot in which a request's response comes (R214). -/
def Placed.due (x : Placed) : Nat :=
  x.place.slot + 48 + if x.req.kind.slot = .readreq then x.place.pos / 3 else 0

/-- A page-walk read waits, and a MAINT slot of a lane has not begun that begins before slot n. -/
def Pump.maintBefore (p : Pump) (l : BitVec 3) (n : Nat) : Bool :=
  (p.walks.any fun w => w.sent.isNone) &&
    (List.range (min frameSlots (n - p.begun[l.toNat]))).any fun i => decide ((p.slotAt l (n - 1 - i)).kind = .maint)

/-- The slot in which the entries of a MAINT slot return (R387). -/
def Place.ackSlot (x : Place) : Nat := x.slot + 48

/-- A walk read whose ACK slot comes before slot n of a lane (R387). -/
def WalkRun.dueBefore (w : WalkRun) (l : BitVec 3) (n : Nat) : Bool :=
  match w.sent with
  | some x => decide (x.lane = l) && decide (x.ackSlot < n)
  | none => false

/-- Something of a pump has to happen before slot n begins: the switch to a next table, a flit with requests, a response, the entries
that walk reads return (R210, R213, R214, R216, R387). -/
def Pump.pendingBefore (p : Pump) (n : Nat) : Bool :=
  (p.next.any fun x => decide (frameSlots * x.1 < n)) ||
  laneNos.any fun l => p.laneLive l && (p.maintBefore l n || p.walks.any (·.dueBefore l n) || p.placed.any fun x =>
    decide (x.place.lane = l) && match x.progress with
      | .waiting => decide (x.place.slot < n)
      | _ => decide (x.due < n))

/-- The slot clock can stand at slot n: it is there, or it can go there because nothing that the slots before bring is left. -/
def State.canReach (s : State) (n : Nat) : Bool :=
  decide (n = s.slot) || (decide (s.slot < n) && !s.pumps.any fun p => p.pendingBefore n)

/-- The slot clock reaches a slot (R210). -/
def State.tick (s : State) (n : Nat) : State := { s with slot := max s.slot n }

/-- A pump whose next table has taken effect: from slot 0 of its frame on (R216). -/
def Pump.switched (p : Pump) (slot : Nat) : Pump :=
  match p.next with
  | (f, t) :: rest => if frameSlots * f ≤ slot then { p with prev := some (f, p.table), table := t, next := rest } else p
  | [] => p

/-- SLOT_TABLE_SWITCH (R216): slot 0 of the named frame begins, and the next table takes effect. -/
def execSlotTableSwitch (no : BitVec 8) (s : State) : Result :=
  .next (match (s.pump no).next with
    | [] => s
    | (f, _) :: _ =>
      let n := max s.slot (frameSlots * f)
      if s.canReach n then (s.tick n).setPump no fun p => p.switched n else s)

/-! ## Placing requests (R217) -/

/-- The granule of a request, by its physical address: requests by two far addresses that R207 calls separate are in the order of
R217 where they meet one granule (DESIGN CHOICE, log entry 80). -/
def FarReq.granuleNo (r : FarReq) : Nat := r.pa / granule

/-- Requests to a granule that are placed and not acknowledged. -/
def Pump.unacked (p : Pump) (g : Nat) : List Placed := p.placed.filter fun x => x.req.granuleNo = g

/-- Some stalled request is to the granule (R221: later ones are held behind it). -/
def Pump.stalledOn (p : Pump) (g : Nat) : Bool := p.stalled.any fun x => x.req.granuleNo = g

/-- Requests placed in a slot of a lane. -/
def Pump.inSlot (p : Pump) (l : BitVec 3) (n : Nat) : List Placed :=
  p.placed.filter fun x => decide (x.place.lane = l) && decide (x.place.slot = n)

/-- A slot that a request may take: owned by its context and field, of its kind, on a live lane, with room, and behind
every unacknowledged request to its granule on the same lane (R217). -/
def Pump.fits (p : Pump) (r : FarReq) (l : BitVec 3) (n : Nat) : Bool :=
  let x := p.slotAt l n
  p.laneLive l && decide (x.kind = r.kind.slot) && decide (x.asid = r.asid) && decide (x.fnum = r.fnum) &&
    decide ((p.inSlot l n).length < x.kind.room) &&
    (p.unacked r.granuleNo).all fun y => decide (y.place.lane = l) && decide (y.place.slot < n)

/-- The first position of a slot that no request placed there has (R218, R222). -/
def Pump.freePos (p : Pump) (l : BitVec 3) (n : Nat) : Nat :=
  let used := (p.inSlot l n).map (·.place.pos)
  ((List.range (used.length + 1)).find? fun i => !used.contains i).getD used.length

/-- The earliest place, from a slot on, that a request may take and that meets a condition; of lanes that offer one slot, the lowest
(log entry 66). -/
def Pump.slotFrom (p : Pump) (first : Nat) (ok : Place → Bool) (lanes : List (BitVec 3)) (r : FarReq) : Option Place :=
  let place (n : Nat) (l : BitVec 3) : Place := { lane := l, slot := n, pos := p.freePos l n }
  (List.range (frameSlots * (p.placed.length + 2))).findSome? fun i =>
    (lanes.find? fun l => p.fits r l (first + i) && ok (place (first + i) l)).map (place (first + i))

/-- The earliest slot after the clock that a request may take. -/
def Pump.slotFor (p : Pump) (clock : Nat) (lanes : List (BitVec 3)) (r : FarReq) : Option Place :=
  p.slotFrom (clock + 1) (fun _ => true) lanes r

/-- Earlier in the order of R218. -/
def Place.before (a b : Place) : Bool :=
  decide (a.slot < b.slot) || (decide (a.slot = b.slot) &&
    (decide (a.lane.toNat < b.lane.toNat) || (decide (a.lane = b.lane) && decide (a.pos < b.pos))))

/-- The position of a core in its field, row × COLS + column (R30, R334). -/
def Core.position (c : Core) : Nat :=
  let org : BitVec 26 := c.csr.fieldOrg.extractLsb' 0 26
  let cols := natBits c.csr.fieldDim.toNat 0 10
  (nameRow c.ident.name - nameRow org) * cols + (nameCol c.ident.name - nameCol org)

/-- A response reaches the core that waits for it, and the copies of a triplicated core (R208, R346). One that no access of the core
waits for any more, as the core has been cleared since (R309), goes nowhere. -/
def State.respond (s : State) (site : Site) (r : Resp) : State :=
  let c := s.coreAt site
  let add (x : Core) : Core := { x with far := { x.far with resps := x.far.resps ++ [r] } }
  let copy (x : Core) : Core := if x.ident.readsAs = some c.ident.name ∧ x.csr.fieldId = c.csr.fieldId then add x else x
  if (c.outFor r).isSome then (s.setCoreAt site add).mapCores copy else s

/-- The request's core still waits for its response: it has not been cleared since (R309). -/
def State.awaits (s : State) (r : FarReq) : Bool := (s.coreAt r.site).far.outs.any fun o => o.seq = r.seq

/-- The position of a request's core in its field; one that no core has, where the core that sent it has been cleared since. -/
def State.posOf (s : State) (r : FarReq) : Nat := if s.awaits r then (s.coreAt r.site).position else meshRows * meshCols

/-- The response to a request. -/
def FarReq.answer (r : FarReq) (status : FarStatus) (data : List Byte) : Resp :=
  { seq := r.seq, strand := r.strand, kind := r.kind, va := r.va, status := status, data := data }

/-- The replay buffer of a field at a pump (R341). -/
def Pump.replayOf (p : Pump) (fnum : BitVec 16) : ReplayBuf :=
  (p.replay.find? fun b => b.fnum = fnum).getD { fnum := fnum, recs := [], uncovered := false, unused := [] }

/-- The pump with a replay buffer changed. -/
def Pump.setReplay (p : Pump) (fnum : BitVec 16) (f : ReplayBuf → ReplayBuf) : Pump :=
  { p with replay := f (p.replayOf fnum) :: p.replay.filter fun b => b.fnum ≠ fnum }

/-- Kinds of access whose responses are recorded (R341). -/
def FarKind.replayed : FarKind → Bool
  | .fld | .famo _ | .fget => true
  | .fst | .fput => false

/-- The record that a request's response makes (R341). -/
def FarReq.record (r : FarReq) (pos : Nat) (x : Resp) : Replay :=
  { pos := pos, strand := r.strand, va := r.va, kind := r.kind, nb := r.nb, operand := r.data ++ r.cmp, status := x.status, data := x.data }

/-- The core's unused records of a replay, if it still replays. -/
def Pump.replaying (p : Pump) (fnum : BitVec 16) (pos : Nat) : Option (List Replay) :=
  ((p.replayOf fnum).unused.find? fun x => x.1 = pos).map (·.2)

/-- The record that answers a request after a rollback: the core's next unused one, if it matches (R341). The access is then not
performed again, so that the value which R343's example forbids cannot arise while the field is covered; one that matches none is performed
against memory as it then stands (R343). -/
def Pump.replayMatch (p : Pump) (pos : Nat) (r : FarReq) : Option Replay :=
  match r.kind.replayed, p.replaying r.fnum pos with
  | true, some (x :: _) => if x = r.record pos { r.answer x.status x.data with status := x.status } then some x else none
  | _, _ => none

/-- The pump with a core's unused records changed; none where its replay has ended. -/
def Pump.setReplaying (p : Pump) (fnum : BitVec 16) (pos : Nat) (recs : Option (List Replay)) : Pump :=
  p.setReplay fnum fun b => { b with unused := (recs.map fun x => (pos, x)).toList ++ b.unused.filter fun x => x.1 ≠ pos }

/-- The first request of each core in the queue that reads or is an atomic: where it does not match the core's next record, the
core's replay at this pump has ended, whether the request has a slot yet or not (R341). -/
def State.endReplays (s : State) (no : BitVec 8) : List FarReq → List Site → State
  | [], _ => s
  | r :: rest, seen =>
    if !r.kind.replayed || seen.contains r.site then s.endReplays no rest seen
    else
      let pos := s.posOf r
      let p := s.pump no
      let ended := (p.replaying r.fnum pos).isSome && (p.replayMatch pos r).isNone
      State.endReplays (if ended then s.setPump no fun p => p.setReplaying r.fnum pos none else s) no rest (r.site :: seen)

/-- Bytes of a replay record and of a replay buffer (R341). -/
def Replay.bytes (r : Replay) : Nat := if r.kind = .fget then 80 else 24
def replaySize : Nat := 65536

/-- A response recorded in the field's replay buffer; a full buffer leaves the field uncovered (R341). -/
def ReplayBuf.keep (b : ReplayBuf) (r : Replay) : ReplayBuf :=
  if b.uncovered then b
  else if (b.recs.map Replay.bytes).foldl (· + ·) 0 + r.bytes ≤ replaySize then { b with recs := b.recs ++ [r] }
  else { b with uncovered := true }

/-- A response leaves the pump for its core, and every response of a read or an atomic is recorded (R208, R341). That of a request
which an ended field left behind goes nowhere (R309). -/
def State.answerAt (s : State) (no : BitVec 8) (r : FarReq) (x : Resp) : State :=
  let pos := s.posOf r
  if r.fnum = 0 then s
  else (if r.kind.replayed && s.awaits r then s.setPump no fun p => p.setReplay r.fnum fun b => b.keep (r.record pos x) else s).respond r.site x

/-- The range of the domain's map that a physical address lies in (R232). -/
def State.rangeOf (s : State) (pa : Nat) : Option DomainRange :=
  match s.sup.domain with
  | some d => d.ranges.find? fun x => decide (x.base ≤ pa) && decide (pa < x.base + x.size)
  | none => none

/-- Memory that is not a Nelwald controller's own (R226). An address in no accepted range of the map is taken for a controller's own
memory (DESIGN CHOICE, log entry 81). -/
def State.thirdParty (s : State) (pa : Nat) : Bool := ((s.rangeOf pa).bind (·.thirdParty)).isSome

/-- An earlier request holds a later one: one to the same granule (R217), and while the core replays, its earlier read or atomic,
with which its next record is compared first (R341). -/
def FarReq.holds (x r : FarReq) (replays : FarReq → Bool) : Bool :=
  decide (x.granuleNo = r.granuleNo) ||
    (decide (x.site = r.site) && decide (x.fnum = r.fnum) && x.kind.replayed && r.kind.replayed && replays r)

/-- The request that a pump takes next: the first of its queue that no earlier one holds and that has a place. -/
def Pump.nextRequest (p : Pump) (clock : Nat) (replays now : FarReq → Bool) : List FarReq → List FarReq → Option (FarReq × Option Place)
  | _, [] => none
  | ahead, r :: rest =>
    let blocked := ahead.any (fun x => x.holds r replays) || p.stalledOn r.granuleNo
    if blocked then p.nextRequest clock replays now (ahead ++ [r]) rest
    else if now r then some (r, none)
    else match p.slotFor clock laneNos r with
      | some pl => some (r, some pl)
      | none => p.nextRequest clock replays now (ahead ++ [r]) rest

/-- A far atomic to third-party memory, which the pump answers itself (R226). -/
def State.unsupported (s : State) (r : FarReq) : Bool := (match r.kind with | .famo _ => true | _ => false) && s.thirdParty r.pa

/-- FAR_REQUEST_PLACE (R217, R226, R320, R341, R343): the next request that may go is taken. One whose message CRC fails is not sent and
raises UE_FAR, in a replay too; a replayed one is answered from its record; a far atomic to other memory raises FARUNSUP; any other is
placed. -/
def execFarRequestPlace (turn : PumpTurn) (s : State) : Result :=
  let no := turn.pump
  let s0 := s.endReplays no (s.pump no).queue []
  let p := s0.pump no
  let pos (r : FarReq) : Nat := s0.posOf r
  let found (r : FarReq) : Option Replay := if turn.fails then none else p.replayMatch (pos r) r
  let now (r : FarReq) : Bool := turn.fails || s0.unsupported r || (found r).isSome
  .next (match p.nextRequest s0.slot (fun r => (p.replaying r.fnum (pos r)).isSome) now [] p.queue with
    | none => s0
    | some (r, pl) =>
      let s1 := s0.setPump no fun p => { p with queue := p.queue.erase r }
      match found r, pl with
      | some x, _ =>
        (s1.setPump no fun p => p.setReplaying r.fnum (pos r) ((p.replaying r.fnum (pos r)).map (·.drop 1))).respond r.site (r.answer x.status x.data)
      | none, some x => s1.setPump no fun p => { p with placed := p.placed ++ [{ req := r, place := x, progress := .waiting }] }
      | none, none => s1.answerAt no r (r.answer (if turn.fails then .ueFar else .farUnsup) []))

/-! ## Light lanes -/

/-- Walk reads for a MAINT slot: round-robin over contexts, one read per context per turn, in the order requested within a context
(R387). The round goes by rising ASID, from the one after the last served (log entry 67). -/
def walkPick : Nat → BitVec 16 → List WalkRun → List WalkRun
  | 0, _, _ => []
  | n + 1, last, ws =>
    let key (w : WalkRun) : Nat := (w.req.asid.toNat + 65536 - 1 - last.toNat) % 65536
    match ws with
    | [] => []
    | w :: rest =>
      let best := rest.foldl (fun a x => if key x < key a then x else a) w
      best :: walkPick n best.req.asid (ws.erase best)

/-- The wafer number (R232). -/
def State.waferNo (s : State) : BitVec 9 := (s.sup.domain.map (·.wafer)).getD 0

/-- A request that leaves in its slot has its identifier from then on (R222). -/
def Placed.leave (x : Placed) (wafer : BitVec 9) (no : BitVec 8) : Placed :=
  { x with progress := .sent, req := { x.req with ident := some (x.req.ident.getD { wafer := wafer, pump := no, place := x.place }) } }

/-- A walk read that leaves in a slot of a lane: its position is its place among those of the flit (R218, R387). -/
def WalkRun.leave (w : WalkRun) (l : BitVec 3) (n : Nat) (picked : List WalkRun) : WalkRun :=
  if picked.contains w then { w with sent := some { lane := l, slot := n, pos := picked.idxOf w }, got := none } else w

/-- OUTBOUND_SLOT (R210, R213, R387): a slot of a lane begins, once, and its flit of requests leaves. -/
def execOutboundSlot (no : BitVec 8) (lane : BitVec 3) (n : Nat) (s : State) : Result :=
  let p := s.pump no
  .next (if !s.canReach n || !p.laneLive lane || decide (n < p.begun[lane.toNat]) then s
    else
      let picked := if (p.slotAt lane n).kind = .maint then walkPick 12 p.lastAsid (p.walks.filter fun w => w.sent.isNone) else []
      (s.tick n).setPump no fun p =>
        { p with
          begun := p.begun.set lane.toNat (n + 1)
          placed := p.placed.map fun x =>
            if x.place.lane = lane ∧ x.place.slot = n ∧ x.progress = .waiting then x.leave s.waferNo no else x
          walks := p.walks.map fun w => w.leave lane n picked
          lastAsid := ((picked.getLast?).map fun w => w.req.asid).getD p.lastAsid })

/-- One response leaves the pump for its core (R208, R341). -/
def State.forward (s : State) (no : BitVec 8) (x : Placed) (r : Resp) : State :=
  (s.setPump no fun p => { p with placed := p.placed.erase x }).answerAt no x.req r

/-- INBOUND_SLOT (R212, R214, R219): an inbound slot of a lane that an outbound slot has claimed is received, checked, and its
responses are forwarded. -/
def execInboundSlot (no : BitVec 8) (lane : BitVec 3) (n : Nat) (s : State) : Result :=
  let p := s.pump no
  .next (if !s.canReach n || !p.laneLive lane then s
    else if (p.claimOf lane n).isNone then s.tick n
    else p.placed.foldl (fun t x => match x.progress with
      | .performed r => if x.place.lane = lane ∧ x.due = n then t.forward no x r else t
      | _ => t) (s.tick n))

/-! ## Controllers (R218, R222, R227, R231, R386) -/

/-- What a controller answers and leaves (R227, R231, R386). -/
def Cistern.perform (c : Cistern) (r : FarReq) : Cistern × Resp :=
  let bad := c.bad.contains r.granuleNo
  match r.kind with
  | .fld | .fget => (c, if bad then r.answer .ueFar [] else r.answer .ok (Mem.read c.bytes r.pa r.nb))
  | .fst => ({ c with bytes := Mem.write c.bytes r.pa r.data }, r.answer .ok [])
  | .fput => ({ c with bytes := Mem.write c.bytes r.pa r.data, bad := c.bad.filter fun g => g ≠ r.granuleNo }, r.answer .ok [])
  | .famo op =>
    if bad then (c, r.answer .ueFar [])
    else
      let old := ofLeBytes (Mem.read c.bytes r.pa r.nb)
      let new := amoNew (amoOfCode op) (8 * r.nb) old (ofLeBytes r.data) (ofLeBytes r.cmp)
      ({ c with bytes := Mem.write c.bytes r.pa (leBytes r.nb new) }, r.answer .ok (leBytes r.nb old))

/-- The outcome that a controller keeps for a request, if it has performed it (R222). -/
def Cistern.outcome (c : Cistern) (ident : Option ReqId) : Option Resp :=
  (c.outcomes.find? fun o => some o.ident = ident).map (·.resp)

/-- A controller finds a granule's data uncorrectable (R386). -/
def Cistern.spoil (c : Cistern) (g : Nat) : Cistern := if c.bad.contains g then c else { c with bad := g :: c.bad }

/-- What a controller performs for a pump: a request, or the read of a page walk, which a MAINT slot carries (R213, R218). -/
inductive Performs
  | request (x : Placed)
  | walk (w : WalkRun)
  deriving DecidableEq, Repr

/-- What has left a pump in a slot that is over, and has not performed, with its place. -/
def Pump.unperformed (p : Pump) (slot : Nat) : List (Place × Performs) :=
  ((p.placed.filter fun x => x.progress = .sent).map (fun x => (x.place, Performs.request x)) ++
    (p.walks.filter fun w => w.got.isNone).filterMap fun w => w.sent.map fun x => (x, Performs.walk w)).filter fun x => x.1.slot < slot

/-- What the controllers perform next for a pump (R218): the first, by slot, lane and position, of what has left. -/
def Pump.nextPerform (p : Pump) (slot : Nat) : Option Performs :=
  ((p.unperformed slot).foldl (fun (a : Option (Place × Performs)) x => match a with
    | none => some x
    | some y => if x.1.before y.1 then some x else some y) none).map (·.2)

/-- The read of a walk performed (R311, R386): the entry, or nothing that can be corrected. -/
def Cistern.readEntry (c : Cistern) (addr : Nat) : WalkRead :=
  if c.bad.contains (addr / granule) then .bad else .entry (BitVec.ofNat 64 (ofLeBytes (Mem.read c.bytes addr 8)))

/-- A placed request has performed. One that an ended field left behind, and whose acknowledgement cannot come any more, leaves the
pump. -/
def State.performed (s : State) (no : BitVec 8) (x : Placed) (r : Resp) : State :=
  s.setPump no fun p =>
    if x.req.fnum = 0 && (!p.laneLive x.place.lane || decide (x.due < s.slot)) then { p with placed := p.placed.erase x }
    else { p with placed := p.placed.map fun y => if y = x then { y with progress := .performed r } else y }

/-- A controller performs a request of a pump, or returns the outcome that it has kept for it (R222, R227, R386). -/
def State.performRequest (s : State) (no : BitVec 8) (fails : Bool) (x : Placed) : State :=
  match s.cis.outcome x.req.ident with
  | some r => s.performed no x { r with seq := x.req.seq }
  | none =>
    let r := (if fails then s.cis.spoil x.req.granuleNo else s.cis).perform x.req
    let kept : List Outcome := match x.req.kind.isWrite, x.req.ident with
      | true, some i => [{ ident := i, slot := s.slot, resp := r.2 }]
      | _, _ => []
    State.performed { s with cis := { r.1 with outcomes := kept ++ r.1.outcomes } } no x r.2

/-- A controller performs the read of a walk of a pump (R218, R386, R387). -/
def State.performWalk (s : State) (no : BitVec 8) (fails : Bool) (w : WalkRun) : State :=
  let cis := if fails then s.cis.spoil (w.addr / granule) else s.cis
  State.setPump { s with cis := cis } no fun p =>
    { p with walks := p.walks.map fun y => if y = w then { y with got := some (cis.readEntry w.addr) } else y }

/-- CONTROLLER_PERFORM (R218, R222, R227, R386): the next of what a pump has sent. The turn tells whether the controller finds the
granule's data uncorrectable. -/
def execControllerPerform (turn : PumpTurn) (s : State) : Result :=
  .next (match (s.pump turn.pump).nextPerform s.slot with
    | none => s
    | some (.request x) => s.performRequest turn.pump turn.fails x
    | some (.walk w) => s.performWalk turn.pump turn.fails w)

/-- Frames for which an outcome is kept (R222). -/
def outcomeFrames : Nat := 256

/-- OUTCOME_EXPIRE (R222). -/
def execOutcomeExpire (s : State) : Result :=
  .next { s with cis := { s.cis with outcomes := s.cis.outcomes.filter fun o => s.slot < o.slot + outcomeFrames * frameSlots } }

/-! ## Retraining (R221 to R223) -/

/-- SENT of a stalled request (R221, R223): it has left once. -/
def Stalled.sent (x : Stalled) : Bool := x.req.ident.isSome

/-- The stall of a request shown at its core, and the faults of the strands that wait on it (R223, R389). -/
def State.stallAt (s : State) (no : BitVec 8) (x : Stalled) : State :=
  let site := x.req.site
  let info := (no, x.lane, x.sent)
  let s1 := s.setCoreAt site fun c => { c with far := { c.far with
    outs := c.far.outs.map fun o => if o.seq = x.req.seq then { o with stall := some info } else o } }
  if (s1.coreAt site).stallEnabled then
    s1.workFaulted site (fun _ => false) (fun o => decide (o.seq = x.req.seq)) Code.stall (stallVal x.req.va info)
  else s1

/-- The stall of a request has ended (R223). -/
def State.unstallAt (s : State) (r : FarReq) : State :=
  s.setCoreAt r.site fun c => { c with far := { c.far with
    outs := c.far.outs.map fun o => if o.seq = r.seq then { o with stall := none } else o } }

/-- A placed request put in its place among placed requests. -/
def insertPlaced (x : Placed) : List Placed → List Placed
  | [] => [x]
  | y :: ys => if x.place.before y.place then x :: y :: ys else y :: insertPlaced x ys

/-- Placed requests in the order of their places. -/
def sortPlaced (xs : List Placed) : List Placed := xs.foldr insertPlaced []

/-- A request put into a place of a pump. -/
def State.placeAt (s : State) (no : BitVec 8) (r : FarReq) (pl : Place) : State :=
  (s.setPump no fun p => { p with placed := p.placed ++ [{ req := r, place := pl, progress := .waiting }] }).unstallAt r

/-- A request that stalls at a pump. One that an ended field left behind is not re-sent: the list of its field's stalled requests is
empty before its slots go to others (R315; log entry 68). A store or an atomic among them that has left is not lost: see
execLaneRetrain. -/
def State.stallNow (s : State) (no : BitVec 8) (x : Stalled) : State :=
  if x.req.fnum = 0 then s else (s.setPump no fun p => { p with stalled := p.stalled ++ [x] }).stallAt no x

/-- A request that has not left, out of its place on a retraining lane, moves to another live lane, or stalls where R217 allows it
none (R221). -/
def State.moveOrStall (s : State) (no : BitVec 8) (lane : BitVec 3) (r : FarReq) : State :=
  let p := s.pump no
  let stall : State := s.stallNow no { req := r, lane := lane }
  if p.stalledOn r.granuleNo then stall
  else match p.slotFor s.slot (laneNos.filter fun l => l ≠ lane) r with
    | some pl => s.placeAt no r pl
    | none => stall

/-- What an ended field's store or atomic that has left, and not performed, is on a lane that retrains: it has no slot in which it could
be sent again (R315), and takes effect by what has been sent of it, so that it takes effect once (R222; log entry 68). -/
def Placed.outlives (x : Placed) : Bool := decide (x.req.fnum = 0) && x.req.kind.isWrite && decide (x.progress = .sent)

/-- LANE_RETRAIN (R221): nothing of the lane's slots carries traffic. Its requests that have left stall, the others move or
stall. A page-walk read that has left in one of its slots, of which R221 does not speak, leaves again in the next MAINT slot of any lane
(DESIGN CHOICE, log entry 88). -/
def execLaneRetrain (no : BitVec 8) (lane : BitVec 3) (s : State) : Result :=
  let p := s.pump no
  .next (if !p.laneLive lane then s
    else
      let mine := sortPlaced (p.placed.filter fun x => x.place.lane = lane)
      let gone := mine.filter fun x => x.req.ident.isSome
      let here := mine.filter fun x => x.req.ident.isNone
      let s1 := s.setPump no fun p =>
        { p with
          lanes := p.lanes.set lane.toNat .retraining
          placed := p.placed.filter fun x => decide (x.place.lane ≠ lane) || x.outlives
          walks := p.walks.map fun w => if (w.sent.map (·.lane)) = some lane then { w with sent := none, got := none } else w }
      let s2 := (gone.filter fun x => !x.outlives).foldl (fun t x => t.stallNow no { req := x.req, lane := lane }) s1
      here.foldl (fun t x => t.moveOrStall no lane x.req) s2)

/-- A stalled request, the first to its granule, is placed again on some lanes where a slot takes it, behind the place of the request that
was re-sent before it (R222). The machine, and the place that the next one stands behind. -/
def State.resend (s : State) (no : BitVec 8) (lanes : List (BitVec 3)) (last : Option Place) (x : Stalled) : State × Option Place :=
  let p := s.pump no
  let first := decide (p.stalled.find? (fun y => y.req.granuleNo = x.req.granuleNo) = some x)
  let from' := max (s.slot + 1) ((last.map (·.slot)).getD 0)
  match first, p.slotFrom from' (fun pl => last.all fun y => y.before pl) lanes x.req with
  | true, some pl => ((s.setPump no fun p => { p with stalled := p.stalled.erase x }).placeAt no x.req pl, some pl)
  | _, _ => (s, last)

/-- Stalled requests wait at the head of the pump's queue, in their order. -/
def State.requeue (s : State) (no : BitVec 8) (xs : List Stalled) : State :=
  xs.foldl (fun t x => t.unstallAt x.req) (s.setPump no fun p =>
    { p with stalled := p.stalled.filter fun x => !xs.contains x, queue := xs.map (·.req) ++ p.queue })

/-- Stalled requests are re-sent on some lanes in their original order; those that no slot takes yet go before the queue (R222). -/
def State.resendAll (s : State) (no : BitVec 8) (lanes : List (BitVec 3)) (xs : List Stalled) : State :=
  let s1 := (xs.foldl (fun t x => t.1.resend no lanes t.2 x) (s, none)).1
  s1.requeue no (xs.filter (s1.pump no).stalled.contains)

/-- LANE_RETURN (R222): the stalled requests of the lane are re-sent on it. -/
def execLaneReturn (no : BitVec 8) (lane : BitVec 3) (s : State) : Result :=
  let p := s.pump no
  .next (if p.lanes[lane.toNat] ≠ .retraining then s
    else (s.setPump no fun p => { p with lanes := p.lanes.set lane.toNat .live }).resendAll no [lane]
      (p.stalled.filter fun x => x.lane = lane))

/-! ## Next tables (R216, R217) -/

/-- A slot of a table takes requests of a kind of access from a context and a field (R217). -/
def Slot.takes (x : Slot) (r : FarReq) : Bool := decide (x.kind = r.kind.slot) && decide (x.asid = r.asid) && decide (x.fnum = r.fnum)

/-- The requests, of a list in order of place, that lose their place: those of a frame of the next table whose slot there is not
theirs, and those behind them to the same granule (R217). -/
def Pump.displaced (p : Pump) (frame : Nat) : List Placed → List Placed → List Placed
  | _, [] => []
  | out, x :: rest =>
    let lost := decide (frameSlots * frame ≤ x.place.slot) && !(p.slotAt x.place.lane x.place.slot).takes x.req
    if lost || out.any (fun y => y.req.granuleNo = x.req.granuleNo) then x :: p.displaced frame (out ++ [x]) rest
    else p.displaced frame out rest

/-- The frame that the supervisor names for a next table: the one after the current and after those of the next tables that the pump has
accepted, or the first after the slots in which requests of fields that have ended wait, so that they perform (R216, R355; log entries
68 and 76). -/
def Pump.nextFrame (p : Pump) (slot : Nat) : Nat :=
  p.placed.foldl (fun f x => if x.req.fnum = 0 ∧ x.progress = .waiting then max f (x.place.slot / frameSlots + 1) else f)
    (p.next.foldl (fun f x => max f (x.1 + 1)) (slot / frameSlots + 1))

/-- The next table that the supervisor writes (R216). The pump checks it: a table that fails is reported and the current one
stays. One that it accepts takes effect after those which it has accepted before (DESIGN CHOICE, log entry 76). Requests that wait in
slots which the next table gives to others are placed anew, before any other (R217). -/
def State.installTable (s : State) (no : BitVec 8) (t : Vector (Vector Slot 64) 8) : State :=
  let p := (s.pump no).switched s.slot
  let f := p.nextFrame s.slot
  if !s.tableAccepted p t then (s.setPump no fun _ => p).post (.slotTable no)
  else
    let p1 := { p with next := p.next ++ [(f, t)] }
    let out := p1.displaced f [] (sortPlaced (p1.placed.filter fun x => x.progress = .waiting))
    s.setPump no fun _ =>
      { p1 with
        placed := p1.placed.filter fun x => !out.contains x
        queue := out.map (·.req) ++ p1.queue }

/-! ## Page walks (R310 to R312, R387) -/

/-- The context of an ASID (R301). -/
def State.context (s : State) (asid : BitVec 16) : Option Context := s.sup.contexts.find? fun c => c.asid = asid

/-- The index of a far address at a level (R311). -/
def walkIndex (va level : Nat) : Nat := natBits va (40 - 12 * level) 12

/-- A malformed entry (R311). -/
def pteMalformed (e : Word) (level : Nat) : Bool :=
  decide (natBits e.toNat 52 12 ≠ 0) || decide (natBits e.toNat 5 11 ≠ 0) ||
    (decide (level ≠ 1) && pteLeaf e) ||
    (decide (level < 2) && !pteLeaf e && (pteW e || pteLockable e || pteQuar e)) ||
    (decide (level = 1) && pteLeaf e && decide (natBits e.toNat 16 12 ≠ 0))

/-- The entry ends the walk with a leaf (R311). -/
def isLeafAt (e : Word) (level : Nat) : Bool := decide (level = 2) || pteLeaf e

/-- Entries of a pump's translation cache (R311). -/
def cacheEntries : Nat := 4096

/-- A leaf in the translation cache (R311); the oldest entry makes room. -/
def Pump.remember (p : Pump) (asid : BitVec 16) (va : Nat) (pte : Word) (big : Bool) : Pump :=
  let page := va / pageSize
  let first := if big then page / bigPages * bigPages else page
  { p with cache := ({ asid := asid, page := first, big := big, pte := pte } :: p.cache).take cacheEntries }

/-- The cached leaf of a page. -/
def Pump.cached (p : Pump) (asid : BitVec 16) (va : Nat) : Option TransEntry :=
  let page := va / pageSize
  p.cache.find? fun e => decide (e.asid = asid) && decide (e.page ≤ page) && decide (page < e.page + if e.big then bigPages else 1)

/-- A record written to a context's FAULTQ ring, or held for room (R312). -/
def State.faultRecord (s : State) (asid : BitVec 16) (r : List Word) : State :=
  match s.context asid with
  | none => s
  | some c =>
    let q := (s.sup.faultqs.find? fun q => q.asid = asid).getD { asid := asid, ring := [], held := [] }
    let q1 := if q.held.isEmpty ∧ q.ring.length < c.fqlen then { q with ring := q.ring ++ [r] } else { q with held := q.held ++ [r] }
    { s with sup := { s.sup with faultqs := q1 :: s.sup.faultqs.filter fun q => q.asid ≠ asid } }

/-- WAFER of FIELDID (R303). -/
def waferOf (fieldId : Word) : Nat := natBits fieldId.toNat 16 9

/-- The first word of a FAULTQ record: four bytes, FNUM, WAFER (R312, R328). -/
def recordHead (b0 b1 b2 b3 : Nat) (fnum : BitVec 16) (wafer : Nat) : Word :=
  BitVec.ofNat 64 (b0 + b1 * 2 ^ 8 + b2 * 2 ^ 16 + b3 * 2 ^ 24 + fnum.toNat * 2 ^ 32 + wafer * 2 ^ 48)

/-- A walk of an FTBP. -/
def Walker.isPrefetch : Walker → Bool
  | .prefetched _ _ => true
  | _ => false

/-- ACCESS and STRAND of a walk (R312). -/
def Walker.access : Walker → Nat
  | .strand _ a => a.toNat
  | .ftbl _ _ => 3
  | .engine _ _ a => a.toNat
  | .prefetched _ _ => 0
def Walker.strandNo : Walker → Nat
  | .strand n _ => n.toNat
  | .ftbl n _ => n.toNat
  | .engine _ n _ => n.toNat
  | .prefetched _ _ => 0

/-- The core still wants the walk (R279, R331); FTBP raises nothing (R253). -/
def State.walkWanted (s : State) (r : WalkReq) : Bool :=
  !r.who.isPrefetch && (s.coreAt r.site).far.walks.any fun w => decide (w.seq = r.seq) && !w.discard

/-- A walk that ends in FARFAULT: the record of R312, then the fault (R389). -/
def State.walkFault (s : State) (r : WalkReq) (kind level addr : Nat) : State :=
  let wafer := waferOf (s.coreAt r.site).csr.fieldId
  let s1 := if s.walkWanted r then
      s.faultRecord r.asid [recordHead kind level r.who.access r.who.strandNo r.fnum wafer, BitVec.ofNat 64 r.va, zext r.name, BitVec.ofNat 64 addr]
    else s
  s1.walkEnded r.site r.seq .farFault

/-- PAGE_WALK (R311): the pump takes its oldest walk request: from its cache, beyond the tables, or to be read. An ASID of
no context has no tables (log entry 12). -/
def execPageWalk (no : BitVec 8) (s : State) : Result :=
  let p := s.pump no
  .next (match p.walkq with
    | [] => s
    | r :: rest =>
      let s1 := s.setPump no fun p => { p with walkq := rest }
      match p.cached r.asid r.va, s.context r.asid with
      | some e, _ => s1.walkEnded r.site r.seq (.leaf e.pte e.big)
      | none, none => s1.walkEnded r.site r.seq .farProt
      | none, some c =>
        let i0 := walkIndex r.va 0
        if c.l0len ≤ i0 then s1.walkEnded r.site r.seq .farProt
        else s1.setPump no fun p => { p with walks := p.walks ++ [{ req := r, level := 0, addr := c.root + 8 * i0, sent := none, got := none }] })

/-- The walk read of a pump whose entry returns next: the first, in the order of R218, that has performed. -/
def Pump.nextReturn (p : Pump) : Option (WalkRun × Place × WalkRead) :=
  p.walks.foldl (fun a w => match w.sent, w.got, a with
    | some x, some r, none => some (w, x, r)
    | some x, some r, some y => if x.before y.2.1 then some (w, x, r) else a
    | _, _, _ => a) none

/-- A walk goes on with the entry that it has read (R311): it ends, or the read of the next level is requested, behind those that
wait. -/
def State.walkOn (s : State) (no : BitVec 8) (w : WalkRun) (x : WalkRead) : State :=
  let r := w.req
  match x with
  | .bad => s.walkEnded r.site r.seq .ueFar
  | .entry e =>
    if !pteV e then s.walkFault r 1 w.level w.addr
    else if pteMalformed e w.level then s.walkFault r 2 w.level w.addr
    else if isLeafAt e w.level then
      let big := decide (w.level = 1)
      (s.setPump no fun p => p.remember r.asid r.va e big).walkEnded r.site r.seq (.leaf e big)
    else
      s.setPump no fun p => { p with walks := p.walks ++
        [{ w with level := w.level + 1, addr := ptePa e * pageSize + 8 * walkIndex r.va (w.level + 1), sent := none, got := none }] }

/-- WALK_READ_RETURN (R387, R311, R386): the ACK slot of a MAINT slot returns the entries that its walk reads have read, one with each
turn; the slot clock does not pass it before. -/
def execWalkReadReturn (turn : PumpTurn) (s : State) : Result :=
  let no := turn.pump
  .next (match (s.pump no).nextReturn with
    | none => s
    | some (w, x, r) =>
      let n := max s.slot x.ackSlot
      if s.canReach n then ((s.tick n).setPump no fun p => { p with walks := p.walks.erase w }).walkOn no w r else s)

end Sys2Proof.Machine
end

