-- ==== Sys2Proof/Machine/ControlPort.lean ====
section
/-! DEFINITION. Sys2Proof/Machine/ControlPort.lean: the commands of the control port (R304), CLEAR (R269), shoot-downs
(R279), the state area of a save image (R335, R336), and QUIESCE (R331, R332). -/

namespace Sys2Proof.Machine

/-- An acknowledgement on ch1 (R304). -/
def State.ack (s : State) (code : BitVec 8) (nak : Bool) (words : List Word) : State :=
  s.post (.ack s.core.ident.site code nak words)

/-- A command that changes the core, or is rejected with a NAK (R304). -/
def State.command' (s : State) (code : BitVec 8) (r : Option Core) : State :=
  match r with
  | some c => ({ s with core := c }).ack code false []
  | none => s.ack code true []

/-! ## CSRSET, routes (R187, R304) -/

/-- Bits of a route entry that a write sets (R187): masks without bit p of OMASKp, modes, JOIN, CLOSED. -/
def routeBits : Word := 0x00041F6F777B7D7E
/-- NEXTV of a route entry. -/
def nextvBit : Word := 0x0002000000000000
/-- CLOSED of a route entry. -/
def closedMask : Word := 0x0004000000000000

/-- The four entries of SLOTn in a table (R264). -/
def slotsFrom (t : Vector (BitVec 4) 32) (n : Nat) (x : Word) : Vector (BitVec 4) 32 :=
  Vector.ofFn fun i => if i.val / 4 = n then x.extractLsb' (8 * (i.val % 4)) 4 else t[i]

/-- A binding as the control port writes it (R178): an empty queue starts at the ring's first word. -/
def ChanState.rebind (h : ChanState) (x : Word) : ChanState :=
  let b := x &&& 0xFFFFFFFF0007FF0F
  if h.items.isEmpty then { h with bind := b, head := 0, free := natBits b.toNat 32 16 } else { h with bind := b }

/-- The core with one CSR written by the control port: its RW, W1C and SW fields; none for a CSR that has none. -/
def Core.setCsr (c : Core) (num : BitVec 12) (x : Word) : Option Core :=
  let n := num.toNat
  let csr (f : Csrs → Csrs) : Option Core := some { c with csr := f c.csr }
  if n = 0x002 then csr fun r => { r with fieldId := x &&& 0x0000FFFF01FFFFFF }
  else if n = 0x003 then csr fun r => { r with fieldOrg := x &&& 0x3FFFFFF }
  else if n = 0x004 then csr fun r => { r with fieldDim := x &&& 0x1FFFFFFFFFF }
  else if n = 0x012 then csr fun r => { r with faultSt := x &&& 0xF }
  else if n = 0x013 then csr fun r => { r with faultMask := x &&& faultMaskBits }
  else if n = 0x042 then csr fun r => { r with dpw := dpwOf r.dpw x }
  else if n = 0x043 then csr fun r => { r with poisonCtl := x &&& 0x101 }
  else if n = 0x045 then some { c with csr := { c.csr with mprog := x &&& 0x80FFFFF0FFFFFFFF }, loop := none }
  else if 0x048 ≤ n ∧ n ≤ 0x04F then csr fun r => { r with q := r.q.set (num.extractLsb' 0 3).toNat (x &&& 0xFF) }
  else if 0x060 ≤ n ∧ n ≤ 0x067 then
    some { c with issue := { c.issue with table := slotsFrom c.issue.table (n - 0x060) x, next := slotsFrom c.issue.next (n - 0x060) x } }
  else if n = 0x068 then some { c with issue := { c.issue with hmin := x &&& 0x3F } }
  else if 0x080 ≤ n ∧ n ≤ 0x09F then some (c.setChan (num.extractLsb' 0 5) fun h => h.rebind x)
  else if n = 0x0C0 then csr fun r => { r with ownB := x }
  else if n = 0x0C1 then csr fun r => { r with ownM := x &&& 0xFFFFFFFF }
  else if n = 0x180 then csr fun r => { r with voteLog := x &&& 0xFFFF00F8C0000001 }
  else none

/-- Firmware's checks of a core's field, with a core whose routes or slot table it is about to change, but for those that the model works
out itself (R276: R71, R220, R201 item 4). -/
def State.behavesWith (s : State) (c : Core) : Bool :=
  s.sup.fields.all fun f => decide (f.fnum ≠ c.csr.fnum) ||
    Config.changeBehaved f.imgm f.rows f.cols f.slots c.ident.site (c.router.route.toList ++ c.router.next.toList) c.issue.next.toList

/-- Firmware changes the issue slot table, or HMIN, only to ones that meet R266 item 2, the other conditions of R276 holding too. -/
def State.maySet (s : State) (num : BitVec 12) (x : Word) : Bool :=
  if 0x060 ≤ num.toNat ∧ num.toNat ≤ 0x068 then
    (s.core.setCsr num x).all fun d => d.tableOk d.issue.next && s.behavesWith d
  else true

/-- CSRSET (R304). -/
def execCsrset (csr : BitVec 12) (value : Word) (s : State) : Result :=
  .next (if s.maySet csr value then s.command' 0x01 (s.core.setCsr csr value) else s)

/-- The next copy of a route entry loaded (R198, R304). -/
def Core.routeNext (c : Core) (ch : Chan) (x : Word) : Core :=
  { c with router := { c.router with
    next := c.router.next.set ch.toNat (x &&& routeBits), route := c.router.route.set ch.toNat (c.router.route[ch.toNat] ||| nextvBit) } }

/-- The current copy of a route entry written; NEXTV says what stands in the next copy (R188, R197). -/
def Core.routeSet (c : Core) (ch : Chan) (x : Word) : Core :=
  { c with router := { c.router with
    route := c.router.route.set ch.toNat ((x &&& routeBits) ||| (c.router.route[ch.toNat] &&& nextvBit)) } }

/-- The entry of a channel as it stands once the next copy, if one waits, is current (R198). -/
def Core.coming (c : Core) (ch : Chan) : Word :=
  if (c.route ch) &&& nextvBit = 0 then c.route ch else c.router.next[ch.toNat] &&& ~~~nextvBit

/-- The core with every entry that waits made current. -/
def Core.ahead (c : Core) : Core := { c with router := { c.router with route := Vector.ofFn fun i => c.coming (BitVec.ofNat 5 i.val) } }

/-- No next copy waits any more on a channel. -/
def Core.dropNext (c : Core) (ch : Chan) : Core :=
  { c with router := { c.router with
    route := c.router.route.set ch.toNat (c.router.route[ch.toNat] &&& ~~~nextvBit), next := c.router.next.set ch.toNat 0 } }

/-- No entry, current or next. -/
def Core.dropRoutes (c : Core) : Core :=
  { c with router := { c.router with route := Vector.replicate 32 0, next := Vector.replicate 32 0 } }

/-! ## The well, CLEAR, START, MEMBER, STRAND -/

/-- Words of one command (R304). -/
def maxWords : Nat := 1023

/-- A run of well words that a command may name. -/
def wellRun (addr n : Nat) : Bool := decide (addr % 8 = 0) && decide (n ≤ maxWords) && inWell addr (8 * n)

/-- WELLW (R304). -/
def execWellw (addr : Nat) (words : List Word) (s : State) : Result :=
  .next (s.command' 0x04 (if wellRun addr words.length then
    some { s.core with well := s.core.well.store addr (words.flatMap fun w => leBytes 8 w.toNat) } else none))

/-- WELLR (R304): a word with one wrong bit is read corrected (R171). -/
def execWellr (addr n : Nat) (s : State) : Result :=
  .next (if wellRun addr n then (s.touch addr (8 * n)).ack 0x05 false (s.core.well.words addr n) else s.ack 0x05 true [])

/-- CLEAR (R269 step 2, R309). Identity, the clock's count, routes and the checker's settings stay; issue numbers go on, so
that nothing of the former tenant is taken for the new one's. -/
def Core.clear (c : Core) : Core :=
  { Core.blank c.ident.site with
    ident := { c.ident with triple := false, readsAs := none }
    csr := { Csrs.reset with fieldId := c.csr.fieldId, fieldOrg := c.csr.fieldOrg, fieldDim := c.csr.fieldDim, cycle := c.csr.cycle }
    far := { FarPath.reset with seq := c.far.seq }
    issue := { Issue.reset with roundDue := c.issue.roundDue }
    router := { Router.reset with route := c.router.route, next := c.router.next }
    check := { Check.reset with sr := c.check.sr, suspended := c.check.suspended } }

/-- CLEAR (R269, R304). -/
def execClear (s : State) : Result := .next (s.command' 0x06 (some s.core.clear))

/-- The start barrier (R258, R269): the plain strands are created. -/
def Core.start (c : Core) : Core :=
  let c1 := strandNos.foldl (fun c n => if c.issue.plain.getLsbD n.toNat then c.create n 0 0 else c) c
  { c1 with issue := { c1.issue with plain := 0 } }

/-- The first core of a field that START reaches, and its cycle, are noted (R270). -/
def State.noteStart (s : State) : State :=
  let c := s.core
  { s with sup := { s.sup with fields := s.sup.fields.map fun f =>
      if f.fnum = c.csr.fnum ∧ f.started.isNone then { f with started := some (c.ident.site, c.csr.cycle) } else f } }

/-- START (R304, R258). -/
def execStart (s : State) : Result := .next (s.noteStart.command' 0x07 (some s.core.start))

/-- MEMBER (R273, R304): FIELDDIM and the MEMBER markers in one step, between two instructions. -/
def Core.member (c : Core) (dim : Word) (chans : BitVec 32) : Core :=
  chanNos.foldl (fun c ch => if chans.getLsbD ch.toNat then c.stage none (c.marker ch 0x11) else c)
    { c with csr := { c.csr with fieldDim := dim &&& 0x1FFFFFFFFFF } }

/-- MEMBER (R273). -/
def execMember (dim : Word) (chans : BitVec 32) (s : State) : Result := .next (s.command' 0x08 (some (s.core.member dim chans)))

/-- STRAND, kill (R304, R257). -/
def execStrandKill (n : StrandNo) (s : State) : Result :=
  .next (s.command' 0x0A (some (if (s.core.strand n).exists then s.core.endStrand n else s.core)))

/-- STRAND, RETRY (R304, R328): from PARK only (R257). -/
def execStrandRetry (n : StrandNo) (s : State) : Result :=
  .next (s.command' 0x0A (some (s.core.setStrand n fun st => if st.inPark then st.resumed else st)))

/-- STRAND, entry pc (R304, R258). -/
def execStrandSetpc (n : StrandNo) (pc : Word) (s : State) : Result :=
  .next (s.command' 0x0A (some (s.core.setStrand n fun st => { st with entry := pc })))

/-- A core of the acting core's field has far accesses outstanding (R209). -/
def State.farPending (s : State) : Bool :=
  (s.core :: s.others).any fun c => decide (c.csr.fieldId = s.core.csr.fieldId) && !c.far.outs.isEmpty

/-- PUMPSET (R207, R304): 1 to 256 distinct pumps. The supervisor sends it only while the field has no far access outstanding
(R209), and with no pump that R379 leaves out. -/
def execPumpset (pumps : List (BitVec 8)) (s : State) : Result :=
  .next (if s.farPending || !pumps.all s.usable then s else s.command' 0x0D (if pumps.isEmpty || decide (256 < pumps.length) || !decide pumps.Nodup then none
    else some { s.core with far := { s.core.far with pset := pumps } }))

/-- CONTROL_NAK (R304): a code that no command has. -/
def execControlNak (code : BitVec 8) (s : State) : Result :=
  .next (if 1 ≤ code.toNat ∧ code.toNat ≤ 0x0D then s else s.ack code true [])

/-! ## Shoot-downs (R279) -/

/-- Ranges of pages have a page in common. -/
def overlap (p n q m : Nat) : Bool := decide (p < q + m) && decide (q < p + n)

/-- SHOOT at a core (R279 steps 1 to 3). -/
def Core.shootDown (c : Core) (asid : BitVec 16) (page count : Nat) : Core :=
  let hit (e : FtbEntry) : Bool := decide (e.asid = asid) && overlap page count e.page e.pages
  let dead := c.far.ftb.filter fun e => hit e && !e.lock
  let waits := c.far.outs.filter fun o => dead.any fun e => e.covers c.csr.asid (o.va / pageSize)
  let shot : Shoot :=
    { asid := asid, page := page, count := count, invalidated := dead.length
      locked := c.far.ftb.any fun e => hit e && e.lock, waits := waits.map (·.seq) }
  { c with far := { c.far with
    ftb := c.far.ftb.filter fun e => !(hit e && !e.lock)
    walks := c.far.walks.map fun w => { w with discard := true }
    shoots := c.far.shoots ++ [shot] } }

/-- SHOOT (R279): its acknowledgement is SHOOT_ACK. -/
def execShoot (asid : BitVec 16) (page count : Nat) (s : State) : Result := .next (s.mapCore fun c => c.shootDown asid page count)

/-- Every access that a shoot-down waits for has performed: the core knows it by the response, also where that waits for a parked
strand (R279). -/
def Core.shootReady (c : Core) (x : Shoot) : Bool := !c.far.outs.any fun o => x.waits.contains o.seq && !c.responded o

/-- SHOOT_ACK (R279 step 4): the count of invalidated entries in [15:0], LOCKED in bit 63 (log entry 14). -/
def execShootAck (s : State) : Result :=
  .next (match s.core.far.shoots.find? s.core.shootReady with
    | none => s
    | some x =>
      (s.mapCore fun c => { c with far := { c.far with shoots := c.far.shoots.erase x } }).ack 0x09 false
        [BitVec.ofNat 64 x.invalidated ||| bitAt x.locked 63, zext x.asid, BitVec.ofNat 64 x.page, BitVec.ofNat 64 x.count])

/-! ## The state area (R335, R336) -/

/-- The code of a format in a saved line's tag (R47). -/
def tagCode : Bfmt → Nat
  | .bk4 => 1 | .bk8 => 2 | .bk16 => 3

/-- Cycles left of a SLEEP (R297). -/
def Core.sleepRest (c : Core) (st : Strand) : Nat :=
  match st.sleepLeft, st.liveState with
  | some k, _ => k
  | none, some (.wait (.sleep (some d))) => d - c.csr.cycle.toNat
  | none, _ => 0

/-- The saved state of a strand: 0 ABSENT, 1 RUN, 2 WAIT, 3 PARK (R336). -/
def Strand.savedState (st : Strand) : Nat :=
  match st.liveState with
  | none => 0
  | some .run => 1
  | some (.wait _) => 2
  | some .park => 3

/-- The four words of a v register. -/
def vWords (x : VWord) : List Word := (List.range 4).map fun i => BitVec.ofNat 64 (velem 64 x i)

/-- A strand record (R336): 128 words. -/
def Core.strandRecord (c : Core) (n : StrandNo) : List Word :=
  let st := c.strand n
  let park := decide (st.savedState = 3)
  [st.pc, BitVec.ofNat 64 (st.savedState + c.sleepRest st * 2 ^ 32) ||| bitAt st.barrStaged 3 ||| bitAt st.wakePending 4, st.entry,
    c.strandCsr n, st.fmode, st.fflags, st.trapCause, st.trapPc, st.trapVal, 0, st.resume,
    bitAt st.twoWord 0 ||| bitAt st.toSupervisor 1 ||| bitAt park 2, 0, 0, 0, 0] ++
    st.g.toList ++ st.v.toList.flatMap vWords ++
    [BitVec.ofNat 64 (ofLeBytes (0xFF :: st.k.toList.drop 1))] ++ List.replicate 15 0

/-- A b register in the state area: 20 words. -/
def BLine.saved (x : BLine) : List Word := BitVec.ofNat 64 (tagCode x.tag) :: x.hdr :: x.pay.toList ++ [x.mask, 0]

/-- A locked region in the state area (R335). -/
def regionWords : Option FtbRegion → List Word
  | some r => [BitVec.ofNat 64 (r.page * pageSize), BitVec.ofNat 64 (r.count + r.strand.toNat * 2 ^ 16) ||| bitAt true 63]
  | none => [0, 0]

/-- An engine command in the state area (R335): only STRM in, FGET and FPUT outlast QUIESCE. -/
def Cmd.saved (k : Cmd) : List Word :=
  let kind := match k.kind with
    | .strmIn => 1 | .fget => 2 | .fput => 3 | _ => 0
  if kind = 0 then [0, 0, 0, 0]
  else [BitVec.ofNat 64 (kind + k.tag.toNat * 256), BitVec.ofNat 64 k.well,
    BitVec.ofNat 64 (if k.kind = .strmIn then k.ch.toNat else k.dst), BitVec.ofNat 64 k.left]

/-- The items of a channel, those that still stand in the spill area behind the others (R333). -/
def Core.allItems (c : Core) (ch : Chan) : List Item :=
  (c.chan ch).items ++ (c.spill.filter fun s => s.ch = ch).map (·.item)

/-- The marker records of a channel (R335), the oldest first: code, channel, valid, entries ahead. -/
def Core.markWords (c : Core) (ch : Chan) : List Word :=
  ((c.allItems ch).foldl (fun (a : List Word × Nat) i => match i with
    | .marker code => (a.1 ++ [BitVec.ofNat 64 (code.toNat + ch.toNat * 256 + 2 ^ 15 + a.2 * 2 ^ 16)], a.2)
    | _ => (a.1, a.2 + 1)) ([], 0)).1

/-- Every marker record in the order in which the markers arrived (R335): the next of a channel is its oldest one left. -/
def Core.markerWords (c : Core) : List Word :=
  (c.marked.foldl (fun (a : List Word × List Chan) ch =>
    (a.1 ++ (((c.markWords ch)[a.2.count ch]?).map fun w => [w]).getD [], ch :: a.2)) ([], [])).1

/-- Words padded with zeros to a length. -/
def padTo (n : Nat) (ws : List Word) : List Word := (ws ++ List.replicate (n - ws.length) 0).take n

/-- The CSR words of the state area, in the order of R335. -/
def Core.csrWords (c : Core) : List Word :=
  c.csr.q.toList ++ [c.csr.dpw, c.csr.poisonCtl, c.csr.mprog, c.csr.ownB, c.csr.ownM] ++
    (List.range 8).map c.slotCsr ++ [c.issue.hmin, c.csr.faultMask, c.csr.faultSt, c.csr.voteLog, c.chkSig, c.csr.retired, c.csr.fieldDim] ++
    c.chans.toList.map (·.bind) ++ chanNos.map c.chq

/-- The state area of a core record (R335): 8,192 words. -/
def Core.stateWords (c : Core) : List Word :=
  padTo 8192 (strandNos.flatMap c.strandRecord ++ c.b.toList.flatMap BLine.saved ++
    c.m.toList.flatMap (fun t => t.toList.flatMap accWords) ++ padTo 128 c.csrWords ++
    padTo 32 ([0, 0, 0, 0] ++ (c.router.route.toList.drop 4).map fun e => e &&& ~~~closedMask) ++
    (c.far.regions.take 4).flatMap regionWords ++ padTo 64 (c.cmds.flatMap Cmd.saved) ++
    [BitVec.ofNat 64 c.spilled.length, BitVec.ofNat 64 ((c.spilled.map Spill.bytes).foldl (· + ·) 0)] ++
    padTo 64 c.markerWords)

/-- STATER (R304): words of the state area from a word offset. -/
def execStater (off n : Nat) (s : State) : Result :=
  .next (if n ≤ maxWords ∧ off + n ≤ 8192 then s.ack 0x0B false ((s.core.stateWords.drop off).take n) else s.ack 0x0B true [])

/-- A saved state word written back (R336): a saved WAIT issues its instruction again (R300). -/
def Strand.putWord (st : Strand) (j : Nat) (x : Word) : Strand :=
  if j = 0 then { st with pc := x }
  else if j = 1 then
    let live : StrandState := match natBits x.toNat 0 3 with
      | 0 => .absent
      | 1 => .stop .run
      | 2 => .stop (.wait .reissue)
      | _ => .stop .park
    { st with state := live, barrStaged := x.getLsbD 3, inBarr := x.getLsbD 3, wakePending := x.getLsbD 4
              sleepLeft := if natBits x.toNat 32 32 = 0 then none else some (natBits x.toNat 32 32), part := none }
  else if j = 2 then { st with entry := x }
  else if j = 3 then { st with cause := x.extractLsb' 8 2, wch := x.extractLsb' 11 5 }
  else if j = 4 then { st with fmode := fmodeOf st.fmode x }
  else if j = 5 then { st with fflags := x &&& 0x7F }
  else if j = 6 then { st with trapCause := x &&& 0xFF }
  else if j = 7 then { st with trapPc := x }
  else if j = 8 then { st with trapVal := x }
  else if j = 10 then { st with resume := x }
  else if j = 11 then { st with twoWord := x.getLsbD 0, toSupervisor := x.getLsbD 1 }
  else if 16 ≤ j ∧ j < 48 then { st with g := Vector.ofFn fun i => if i.val = j - 16 then x else st.g[i] }
  else if 48 ≤ j ∧ j < 112 then
    let r := (j - 48) / 4
    let lane := (j - 48) % 4
    { st with v := Vector.ofFn fun i => if i.val = r then vOf 64 ((velems 64 st.v[i]).set lane x.toNat) else st.v[i] }
  else if j = 112 then { st with k := Vector.ofFn fun i => x.extractLsb' (8 * i.val) 8 }
  else st

/-- The payload words that a format has; those beyond are zero (R42). -/
def BLine.trim (b : BLine) (f : Bfmt) : BLine :=
  { b with tag := f, pay := Vector.ofFn fun i => if i.val < f.n then b.pay[i] else 0 }

/-- A word of a saved b register written back: payload beyond the format's count is written as zero (R42). -/
def BLine.putWord (b : BLine) (j : Nat) (x : Word) : BLine :=
  if j = 0 then b.trim (if x.toNat = 1 then .bk4 else if x.toNat = 2 then .bk8 else .bk16)
  else if j = 1 then { b with hdr := x }
  else if j < 18 then { b with pay := Vector.ofFn fun i => if i.val = j - 2 then x else b.pay[i] }.trim b.tag
  else if j = 18 then { b with mask := x }
  else b

/-- One word of an element written back (R84): SLO keeps all its bits until word 1 brings WIN. -/
def Acc.putWord (a : Acc) (low : Bool) (x : Word) : Acc :=
  if low then { a with sig := a.sig.extractLsb' 64 16 ++ x } else accOfWords (a.sig.extractLsb' 0 64) x

/-- The entries that the ring holds from an offset on (R180): each header tells how many words its entry has. -/
def Core.ringEntries (c : Core) (ch : Chan) : Nat → Nat → List Item
  | 0, _ => []
  | n + 1, off =>
    let h := c.chan ch
    if h.rlen = 0 then []
    else
      let hdr := c.well.word (h.addr off)
      let words := entryWords hdr
      let old := h.items.find? fun i => match i with
        | .entry e => decide (e.off = off) && decide (e.hdr = hdr)
        | _ => false
      (match old with
        | some i => i
        | none => .entry { hdr := hdr, off := off, words := words, read := 0 }) ::
        Core.ringEntries c ch n ((off + words + 1) % h.rlen)

/-- CHQn written back (R181, R304): HEAD and FREE, and COUNT entries of the ring from HEAD on. -/
def Core.putQueue (c : Core) (ch : Chan) (x : Word) : Core :=
  let off := natBits x.toNat 48 16
  let items := c.ringEntries ch (natBits x.toNat 16 16) off
  { c with marked := c.marked.filter fun k => k ≠ ch }.setChan ch fun h =>
    { h with head := off, free := natBits x.toNat 32 16, items := items }

/-- A marker record behind so many entries, and behind the records that stand there. -/
def insertMark (code : BitVec 5) : Nat → List Item → List Item
  | _, [] => [.marker code]
  | n, .marker m :: rest => .marker m :: insertMark code n rest
  | 0, i :: rest => .marker code :: i :: rest
  | n + 1, i :: rest => i :: insertMark code n rest

/-- A marker record written back (R335). -/
def Core.putMark (c : Core) (x : Word) : Core :=
  if x.getLsbD 15 then
    let ch : Chan := x.extractLsb' 8 5
    { c with marked := c.marked ++ [ch] }.setChan ch fun h =>
      { h with items := insertMark (x.extractLsb' 0 5) (natBits x.toNat 16 16) h.items }
  else c

/-- A word of engine command k written back (R335): the command stands paused at its next granule, or as an in stream. It is
older than every command that the core issues from then on. -/
def Core.putCmd (c : Core) (k j : Nat) (x : Word) : Core :=
  let q := k
  let set (f : Cmd → Cmd) : Core := { c with cmds := c.cmds.map fun y => if y.seq = q then f y else y }
  if j = 0 then
    let kind : Option CmdKind := match natBits x.toNat 0 2 with
      | 1 => some .strmIn | 2 => some .fget | 3 => some .fput | _ => none
    let rest := c.cmds.filter fun y => y.seq ≠ q
    match kind with
    | none => { c with cmds := rest }
    | some kd => { c with far := { c.far with seq := max c.far.seq 16 }, cmds := rest ++
        [{ kind := kd, tag := x.extractLsb' 8 6, seq := q, strand := 0, ch := 0, bind := 0, well := 0, dst := 0, left := 0
           pause := if kd = .strmIn then .none else .walk, stopped := false }] }
  else if j = 1 then set fun y => { y with well := x.toNat }
  else if j = 2 then set fun y =>
    if y.kind = .strmIn then { y with ch := x.extractLsb' 0 5, bind := (c.chan (x.extractLsb' 0 5)).bind } else { y with dst := x.toNat }
  else set fun y => { y with left := x.toNat }

/-- A word of the state area written back (R304 STATEW, R335). The counts of the spill area at 0x3940 describe the area and
are no state of the core. -/
def Core.putState (c : Core) (i : Nat) (x : Word) : Core :=
  if i < 1024 then c.setStrand (BitVec.ofNat 3 (i / 128)) fun st => st.putWord (i % 128) x
  else if i < 1344 then
    { c with b := Vector.ofFn fun r => if r.val = (i - 1024) / 20 then c.b[r].putWord ((i - 1024) % 20) x else c.b[r] }
  else if i < 1600 then
    let r := (i - 1344) / 32
    let n := (i - 1344) % 32 / 2
    let low := decide ((i - 1344) % 2 = 0)
    { c with m := Vector.ofFn fun t => if t.val = r then
        Vector.ofFn fun e => if e.val = n then c.m[t][e].putWord low x else c.m[t][e]
      else c.m[t] }
  else if i < 1692 then
    let j := i - 1600
    let num : Nat := if j < 8 then 0x048 + j else if j = 8 then 0x042 else if j = 9 then 0x043 else if j = 10 then 0x045
      else if j = 11 then 0x0C0 else if j = 12 then 0x0C1 else if j < 21 then 0x060 + (j - 13) else if j = 21 then 0x068
      else if j = 22 then 0x013 else if j = 23 then 0x012 else if j = 24 then 0x180 else if j = 27 then 0x004
      else if 28 ≤ j ∧ j < 60 then 0x080 + (j - 28) else 0xFFF
    if j = 25 then { c with check := { c.check with sig := x.extractLsb' 0 32, idx := natBits x.toNat 32 16, skip := x.extractLsb' 48 16 } }
    else if j = 26 then { c with csr := { c.csr with retired := x } }
    else if 60 ≤ j then c.putQueue (BitVec.ofNat 5 (j - 60)) x
    else (c.setCsr (BitVec.ofNat 12 num) x).getD c
  else if 1732 ≤ i ∧ i < 1760 then c.routeSet (BitVec.ofNat 5 (i - 1728)) x
  else if 1760 ≤ i ∧ i < 1768 then
    let k := (i - 1760) / 2
    let old := (c.far.regions.getD k none).getD { page := 0, count := 0, strand := 0 }
    let new : Option FtbRegion :=
      if i % 2 = 0 then some { old with page := natBits x.toNat 16 36 }
      else if x.getLsbD 63 then some { old with count := natBits x.toNat 0 16, strand := x.extractLsb' 16 3 } else none
    { c with far := { c.far with regions := c.far.regions.set k new } }
  else if 1768 ≤ i ∧ i < 1832 then c.putCmd ((i - 1768) / 4) ((i - 1768) % 4) x
  else if 1834 ≤ i ∧ i < 1898 then c.putMark x
  else c

/-- STATEW (R304): words of the state area written from a word offset. -/
def execStatew (off : Nat) (words : List Word) (s : State) : Result :=
  .next (s.command' 0x0C (if words.length ≤ maxWords ∧ off + words.length ≤ 8192 then
    some (words.zipIdx.foldl (fun c (x, i) => c.putState (off + i) x) s.core) else none))

/-! ## QUIESCE (R331, R332) -/

/-- A strand stopped by QUIESCE: its state is saved, and a SLEEP keeps the count it has left; one whose count has run out in
this very cycle has ended (R257, R297, R300). -/
def Core.stopStrand (c : Core) (st : Strand) : Strand :=
  match st.state with
  | .live (.wait (.sleep (some d))) =>
    if d ≤ c.csr.cycle.toNat then { st with state := .stop (.wait (.finished 4)) }
    else { st with state := .stop (.wait (.sleep none)), sleepLeft := some (d - c.csr.cycle.toNat) }
  | .live l => { st with state := .stop l }
  | _ => st

/-- The return from STOP to the saved state (R257); the count of a SLEEP goes on. -/
def Core.unstopStrand (c : Core) (st : Strand) : Strand :=
  match st.state with
  | .stop (.wait (.sleep none)) =>
    { st with state := .live (.wait (.sleep (st.sleepLeft.map fun k => c.csr.cycle.toNat + k))), sleepLeft := none }
  | .stop l => { st with state := .live l }
  | _ => st

/-- QUIESCE at a core (R331): user issue stops, and the results of pending walks will be discarded. -/
def Core.quiesce (c : Core) : Core :=
  if c.stopped then c
  else
    { c with
      strands := c.strands.map c.stopStrand, stopped := true, quiet := false, spillSent := false, loop := none
      far := { c.far with walks := c.far.walks.map fun w => { w with discard := true } } }

/-- QUIESCE withdrawn, or a checkpoint written (R331, R340): every strand returns to its saved state. -/
def Core.resume (c : Core) : Core :=
  { c with
    strands := c.strands.map c.unstopStrand, stopped := false, quiet := false, spillSent := false
    router := { c.router with qIn := [], qOut := [] } }

/-- QUIESCE (R331): it finds every strand at an instruction boundary. -/
def execQuiesce (s : State) : Result := .next (if s.core.stopped then s else s.finishParts.mapCore Core.quiesce)

/-- User channels, ch4 to ch31. -/
def userChans : List Chan := chanNos.filter fun ch => !reservedChan ch

/-- Some entry of channels 4 to 31 carries an input to an output (R332). -/
def Core.feeds (c : Core) (inp out : Port) : Bool :=
  userChans.any fun ch => (omask (c.route ch) (portNo inp)).getLsbD (portNo out)

/-- The local input counts as arrived: issue stopped, staging and out streams empty (R332). -/
def Core.localArrived (c : Core) : Bool :=
  c.stopped && c.router.staged.isEmpty && !c.cmds.any fun k => k.kind = .strmOut

/-- QUIESCE has arrived on an input, behind everything sent on it before (R332, R196). -/
def Core.arrivedOn (c : Core) (inp : Port) : Bool :=
  (if inp = .loc then c.localArrived else c.router.qIn.contains inp) && !c.router.inq.any fun x => x.1 = inp

/-- Every input that feeds an output has seen QUIESCE (R332). -/
def Core.quiesced (c : Core) (out : Port) : Bool := allPorts.all fun p => !c.feeds p out || c.arrivedOn p

/-- A core is quiet (R332): QUIESCE has arrived everywhere that feeds its local port, and everything that R331 lets run has
completed. -/
def Core.isQuiet (c : Core) : Bool :=
  c.stopped && c.quiesced .loc && c.localArrived && c.router.portq.isEmpty && c.router.inq.isEmpty && c.far.outs.all c.answered &&
    c.cmds.all (fun k => decide (k.kind = .strmIn) || decide (k.pause ≠ .none)) &&
    userChans.all fun ch => !c.holdsLine ch

end Sys2Proof.Machine
end

