-- ==== Sys2Proof/Machine/Issue.lean ====
section
/-! DEFINITION. Sys2Proof/Machine/Issue.lean: the issue stage (R265), fetch (R18, R58), the release of waits (R261, R263), and
the checker (R347, R348). -/

namespace Sys2Proof.Machine

/-! ## Release of waits -/

/-- The condition of a wait is met (R261, R235). -/
def Core.waitOver (c : Core) (n : StrandNo) (w : Wait) : Bool :=
  match w with
  | .waitq mask => decide (c.readyChans mask ≠ 0)
  | .waite tag => !c.cmds.any fun k => k.tag = tag
  | .waitm ch code => decide ((c.chan ch).headMarker = some code)
  | .barr ch b =>
    if (c.strand n).barrStaged then decide ((c.chan ch).headMarker = some (barrierCode b)) else c.canStage (c.chan ch).cls 1
  | .sleep _ => false
  | .idle => false
  | .recv ch => (c.chan ch).headEntry.isSome
  | .staging cls beats => c.canStage cls beats
  | .engine => decide (c.cmds.length < maxCommands)
  | .walk => !c.far.walks.any fun x => !x.discard && match x.who with
    | .strand m _ => decide (m = n)
    | .ftbl m _ => decide (m = n)
    | _ => false
  | .far _ => false
  | .ffence core upto => !c.fenceHolds core n upto
  | .loop => !c.csr.loopAct || decide (c.csr.loopStr = n)
  | .behind va nb => !c.ranBehind n va nb
  | .reissue => true
  | .finished _ => true

/-- The wait of a strand whose condition is met. -/
def Core.releasable (c : Core) (n : StrandNo) : Bool :=
  match (c.strand n).liveState with
  | some (.wait w) => c.waitOver n w
  | _ => false

/-- STRAND_RELEASE (R263, R257): the strand runs again. Where the wait itself was all that was left, the instruction
completes; otherwise it is issued again (R235). -/
def execStrandRelease (n : StrandNo) (s : State) : Result :=
  .next (if !s.core.releasable n then s
    else s.mapCore fun c => match (c.strand n).liveState with
      | some (.wait (.finished len)) => c.completeWait n len
      | some (.wait (.ffence _ _)) => c.completeWait n 4
      | _ => c.setStrand n fun st => st.setLive .run)

/-- SLEEP_EXPIRE (R297): the count has run out. -/
def execSleepExpire (n : StrandNo) (s : State) : Result :=
  .next (match (s.core.strand n).state with
    | .live (.wait (.sleep (some d))) =>
      if d ≤ s.core.csr.cycle.toNat then s.mapCore fun c => c.setStrand n fun st => st.setLive (.wait (.finished 4)) else s
    | _ => s)

/-- ROUND_START (R265, R267, R292): hcount goes to 0, accepted SLOTW writes take effect, yields end. -/
def execRoundStart (s : State) : Result :=
  .next (if !s.core.issue.roundDue then s
    else s.mapCore fun c =>
      { c with
        issue := { c.issue with table := c.issue.next, hcount := 0, roundDue := false }
        strands := c.strands.map fun st => { st with yielded := false } })

/-! ## The choice of R265 -/

/-- A strand that may issue. -/
def Core.ready (c : Core) (n : StrandNo) : Bool := decide ((c.strand n).state = .live .run)

/-- The next strand after `last` in ring order with a property. -/
def nextAfter (last : BitVec 3) (p : StrandNo → Bool) : Option StrandNo :=
  [1, 2, 3, 4, 5, 6, 7, 0].findSome? fun (k : Nat) =>
    let n : StrandNo := last + BitVec.ofNat 3 k
    if p n then some n else none

/-- Which line of R265 chose the strand. -/
inductive Chosen
  | named (n : StrandNo)
  | handler (n : StrandNo)
  | other (n : StrandNo)
  deriving DecidableEq, Repr

/-- The strand of a choice. -/
def chosenStrand : Chosen → StrandNo
  | .named n => n
  | .handler n => n
  | .other n => n

/-- The choice of R265 in a cycle; a strand that has yielded is not chosen by the last two lines (R292). -/
def Core.choose (c : Core) (cycle : Nat) : Option Chosen :=
  let e := c.issue.table.toList.getD (cycle % 32) 0
  let free (n : StrandNo) : Bool := c.ready n && !(c.strand n).yielded
  if e.getLsbD 3 && c.ready (e.extractLsb' 0 3) then some (.named (e.extractLsb' 0 3))
  else
    match decide (c.issue.hcount < c.share), nextAfter c.issue.hlast fun n => free n && c.isHandler n with
    | true, some n => some (.handler n)
    | _, _ => (nextAfter c.issue.olast free).map .other

/-- The issue stage's counters after a choice (R265). -/
def Core.noteIssue (c : Core) (x : Chosen) : Core :=
  let n := chosenStrand x
  { c with issue := { c.issue with
    hcount := c.issue.hcount + if c.isHandler n then 1 else 0
    hlast := match x with
      | .handler n => n
      | _ => c.issue.hlast
    olast := match x with
      | .other n => n
      | _ => c.issue.olast } }

/-! ## Fetch (R18, R37, R58) -/

/-- The instruction word at a well address. -/
def Core.iword (c : Core) (a : Nat) : IWord := BitVec.ofNat 32 (c.well.readNat a 4)

/-- Majors 0x38 to 0x3F have two words (R37). -/
def twoWords (w0 : IWord) : Bool := decide (0x38 ≤ (w0.extractLsb' 26 6).toNat)

/-- What a fetch at a pc raises (R18, R59), with TRAPVAL where the spec states one. -/
def Core.fetchFault (c : Core) (pc : Word) : Option (BitVec 8 × Option Word) :=
  let a := pc.toNat
  if a % 4 ≠ 0 then some (Code.misalign, none)
  else if !inWell a 4 then some (Code.wellrange, none)
  else if c.well.badIn a 4 then some (Code.ueWell, some pc)
  else if twoWords (c.iword a) then
    if !inWell (a + 4) 4 then some (Code.wellrange, none)
    else if c.well.badIn (a + 4) 4 then some (Code.ueWell, some (pc + 4))
    else none
  else none

/-- The two words at a pc; the second is 0 where the instruction has one (R58). -/
def Core.fetch (c : Core) (pc : Word) : IWord × IWord :=
  let w0 := c.iword pc.toNat
  (w0, if twoWords w0 then c.iword (pc.toNat + 4) else 0)

/-- Bytes of the instruction at a pc whose fetch faults: those of a two-word form where word 0 can be read (R37, R360). -/
def Core.fetchLen (c : Core) (pc : Word) : Nat :=
  let a := pc.toNat
  if a % 4 = 0 && inWell a 4 && !c.well.badIn a 4 && twoWords (c.iword a) then 8 else 4

/-- FETCH_FAULT (R18, R37, R285): the TRAPVAL of MISALIGN and WELLRANGE is stated nowhere (log entry 5). -/
def execFetchFault (s : State) : Result :=
  .next (match s.core.fetchFault s.pc with
    | none => s
    | some (code, some val) => s.trap code val (s.core.fetchLen s.pc)
    | some (code, none) => s.trapFree code (s.core.fetchLen s.pc))

/-- RESERVED_ENCODING (R58): ILLEGAL, with the words in TRAPVAL. -/
def execReservedEncoding (w0 w1 : IWord) (s : State) : Result :=
  .next (if twoWords w0 then s.trap Code.illegal (w1 ++ w0) 8 else s.trap Code.illegal ((0#32) ++ w0) 4)

/-- MPROG.ACT clears when its strand issues anything but the BMLOOP at PCW (R165). -/
def Core.leaveLoop (c : Core) (n : StrandNo) (bmloop : Bool) : Core :=
  if c.csr.loopAct && decide (c.csr.loopStr = n) &&
      !(bmloop && decide ((c.strand n).pc = zext c.csr.loopPcw <<< 2)) then c.dropLoop n else c

/-! ## What a core does in one step -/

/-- The count of a SLEEP that has run out (R297). -/
def Core.sleepDue (c : Core) (n : StrandNo) : Bool :=
  match (c.strand n).state with
  | .live (.wait (.sleep (some d))) => decide (d ≤ c.csr.cycle.toNat)
  | _ => false

/-- What the core does before its next issue cycle: the round that has ended, the interval that has ended, a SLEEP that has
run out, the release of a wait whose condition is met (R263, R265, R297, R347), in that order and by strand number
(log entry 1). -/
def Core.dueEvent (c : Core) : Option Instr :=
  if c.issue.roundDue then some .roundStart
  else if c.check.ended.isSome then some .checkIntervalEnd
  else
    match strandNos.find? c.sleepDue with
    | some n => some (.sleepExpire n)
    | none => (strandNos.find? c.releasable).map .strandRelease

/-- The next core cycle (R169, R265, R352): CYCLE counts, each bank grants a requester, and cycle numbers divisible by 32 start a
round. -/
def Core.tick (c : Core) : Core :=
  { c with
    well := { c.well with banks := grantBanks c.well.banks }
    csr := { c.csr with cycle := c.csr.cycle + 1 }
    issue := { c.issue with roundDue := decide ((c.csr.cycle.toNat + 2) % 32 = 0) } }

/-- The strand that issues in the cycle that has come, with the counters of the issue stage moved on; none where no strand
may issue, or where QUIESCE has reached the core (R265, R331). -/
def State.pick (s : State) : Option State :=
  if s.core.stopped then none
  else (s.core.choose s.core.csr.cycle.toNat).map fun x => { s with core := s.core.noteIssue x, cur := chosenStrand x }

/-- BMLOOP (R165). -/
def isBmloop : Instr → Bool
  | .bmloop .. => true
  | _ => false

/-- Whether a word decodes to a BMLOOP. -/
def loopDecoded : Decoded → Bool
  | .low i => isBmloop i
  | .upper (.bmloop ..) => true
  | .upper _ => false

/-- The machine as the words at the pc have been read (R171). -/
def State.fetched (s : State) : State := s.touch s.pc.toNat (s.core.fetchLen s.pc)

/-- BARR (R296). -/
def isBarr : Instr → Bool
  | .barr .. => true
  | _ => false

/-- Whether a word decodes to a BARR. -/
def barrDecoded : Decoded → Bool
  | .low i => isBarr i
  | .upper _ => false

/-- The machine as the acting strand's instruction is issued (R165): another loop of the strand is left, and a strand that issues
anything but a BARR waits in none any more (R296). -/
def State.issued (s : State) (loop barr : Bool) : State :=
  (s.fetched.setSt fun st => { st with inBarr := st.inBarr && barr }).mapCore fun c => c.leaveLoop s.cur loop

/-- A step of a core or its router. Every other is taken by a pump, a controller, a supervisor or the host, and no site acts. -/
def isLocal : Instr → Bool
  | .farRequestPlace _ | .outboundSlot .. | .inboundSlot .. | .controllerPerform _ | .outcomeExpire | .laneRetrain .. | .laneReturn ..
  | .pageWalk _ | .walkReadReturn _ | .faultqRoom _ | .slotTableSwitch _ | .quiesceTimeout _ | .launch _ | .resize _ | .resizeShrink _
  | .resizeTimeout _ | .placement | .preempt _ | .saveWrite _ | .restore _ | .drain _ | .faultMessage | .hostRetry _ | .hostSkip _
  | .hostKill _ | .rollback _ | .contextCreate _ | .contextDelete _ | .contextReuseExpire _ | .pageTableChange .. | .pageTableDone
  | .cisternError .. | .quarClear .. | .attest .. | .domainConfig _ | .domainLeave | .coreRetire _ | .clockChange _ | .powerGood
  | .secureBoot _ | .supply _ | .clocks .. | .wellInit _ | .grading | .enumeration | .photonics _ | .port0Reset | .portReset _
  | .bundleUpdate _ | .versionAdvance | .lossOfPowerGood => false
  | _ => true

/-- The acting site takes no part in a step: its core is powered off, or its router is in pass-through and not connected to it
(R11 to R13). -/
def State.deafTo (s : State) (act : Option Instr) : Bool := (act.elim true isLocal) && s.wafer.deaf s.core.ident.site

/-- The turn at the head of the agenda, begun: its site acts. -/
def State.begin (s : State) (t : Turn) (rest : List Turn) : State := { s with agenda := rest }.focus t.site

/-! ## The checker -/

/-- Interval i is sampled (R347). -/
def sampled (seed : BitVec 32) (i sr : Nat) : Bool := natBits (rmx32 seed (BitVec.ofNat 32 i)).toNat 16 16 % 2 ^ sr = 0

/-- CHECK_INTERVAL_END (R347): a sampled interval of a checked core goes to the checker, or is skipped and counted. -/
def execCheckIntervalEnd (s : State) : Result :=
  .next (match s.core.check.ended with
    | none => s
    | some sig =>
      let k := s.core.check
      let i := k.idx - 1
      let put (k : Check) : State := s.mapCore fun c => { c with check := k }
      if !s.core.ident.chkd || k.suspended || !sampled Config.checkSeed i k.sr then put { k with ended := none }
      else if Config.logTooLong s.free || decide (2 ≤ k.queue.length) then
        { put { k with ended := none, skip := if k.skip = 0xFFFF then k.skip else k.skip + 1 } with free := s.free + 1 }
      else { put { k with ended := none, queue := k.queue ++ [(i, sig)] } with free := s.free + 1 })

/-- CHECK (R347): `sig` is the signature that the checker forms for the oldest interval sent to it. The TRAPVAL of CHECK is
stated nowhere (log entry 5). -/
def execCheck (sig : BitVec 32) (s : State) : Result :=
  .next (match s.core.check.queue with
    | [] => s
    | (_, own) :: rest =>
      let s1 := s.mapCore fun c => { c with check := { c.check with queue := rest } }
      if own = sig then s1
      else
        let s2 := s1.mapCore fun c => { c with check := { c.check with raised := some own } }
        (s2.fresh.2).asyncFault s2.core Code.check s2.fresh.1)

/-- CHECK_RECHECK (R348): the checker executes the interval again. If it matches now, the checker is suspect and the pairing
is suspended; if not, the field has consumed an error (R339) and the core goes into the retirement log (R349). -/
def execCheckRecheck (sig : BitVec 32) (s : State) : Result :=
  .next (match s.core.check.raised with
    | none => s
    | some own =>
      let site := s.core.ident.site
      let fnum := s.core.csr.fnum
      if own = sig then
        (s.mapCore fun c => { c with check := { c.check with raised := none, suspended := true } }).post (.note Code.check 0)
      else
        let s1 := s.mapCore fun c => { c with check := { c.check with raised := none } }
        { s1 with wafer := { s1.wafer with logX := s1.wafer.logX ++ [site], withheld := s1.wafer.withheld ++ [site] } }.post
          (.note Code.check fnum))

end Sys2Proof.Machine
end

