-- ==== Sys2Proof/Machine/Image.lean ====
section
/-! DEFINITION. Sys2Proof/Machine/Image.lean: far memory as the supervisor reaches it through a context's tables (R310, R311),
and `.icl` images (R67 to R69). -/

namespace Sys2Proof.Machine

/-! ## Records of bytes -/

/-- The bytes of a record given as words (R268, R301). -/
def recordBytes (ws : List Word) : List Byte := ws.flatMap fun w => leBytes 8 w.toNat

/-- The little-endian field of `n` bytes at an offset. -/
def fieldAt (bs : List Byte) (off n : Nat) : Nat := ofLeBytes ((bs.drop off).take n)

/-- Bytes that must be zero. -/
def zerosAt (bs : List Byte) (off n : Nat) : Bool := ((bs.drop off).take n).all fun b => b = 0

/-- The words of a list of bytes. -/
def wordsOf : Nat → List Byte → List Word
  | 0, _ => []
  | n + 1, bs => BitVec.ofNat 64 (ofLeBytes (bs.take 8)) :: wordsOf n (bs.drop 8)

/-- Bytes as the cells of a memory in canonical form, from address 0. -/
def cellsOf (bs : List Byte) : List Host.Cell := (bs.zipIdx.map fun (b, i) => (i, b)).filter fun x => x.2 ≠ Memory.default

/-- A stretch of a memory replaced by cells counted from its start. -/
def Mem.fill (m : List Host.Cell) (base n : Nat) (cells : List Host.Cell) : List Host.Cell :=
  (m.filter fun x => x.1 < base) ++ (cells.filter fun x => x.1 < n).map (fun x => (base + x.1, x.2)) ++
    m.filter fun x => base + n ≤ x.1

/-! ## Far memory through a context's tables -/

/-- A table entry, unless its granule is uncorrectable (R311, R386). -/
def State.entryAt (s : State) (a : Nat) : Option Word :=
  if s.cis.bad.contains (a / granule) then none else some (BitVec.ofNat 64 (ofLeBytes (Mem.read s.cis.bytes a 8)))

/-- The leaf entry of a far address, its level and its own address (R311). -/
def State.leafOf (s : State) (asid : BitVec 16) (va : Nat) : Option (Word × Nat × Nat) :=
  match s.context asid with
  | none => none
  | some c =>
    if farSize ≤ va ∨ c.l0len ≤ walkIndex va 0 then none
    else
      let a0 := c.root + 8 * walkIndex va 0
      match s.entryAt a0 with
      | none => none
      | some e0 =>
        if !pteV e0 || pteMalformed e0 0 then none
        else
          let a1 := ptePa e0 * pageSize + 8 * walkIndex va 1
          match s.entryAt a1 with
          | none => none
          | some e1 =>
            if !pteV e1 || pteMalformed e1 1 then none
            else if pteLeaf e1 then some (e1, 1, a1)
            else
              let a2 := ptePa e1 * pageSize + 8 * walkIndex va 2
              match s.entryAt a2 with
              | none => none
              | some e2 => if !pteV e2 || pteMalformed e2 2 then none else some (e2, 2, a2)

/-- The physical address of a far address, and its leaf entry; none where the walk fails or the page is quarantined. -/
def State.translate (s : State) (asid : BitVec 16) (va : Nat) : Option (Nat × Word) :=
  match s.leafOf asid va with
  | some (e, level, _) =>
    if pteQuar e then none
    else some (ptePa e * pageSize + va % (if level = 1 then bigPages * pageSize else pageSize), e)
  | none => none

/-- Bytes of a stretch that lie in the page of its first byte. -/
def inPage (va n : Nat) : Nat := min n (pageSize - va % pageSize)

/-- Far bytes read page by page; none where a page or a granule cannot be read. -/
def State.farPages (s : State) (asid : BitVec 16) : Nat → Nat → Nat → Option (List Byte)
  | 0, _, _ => some []
  | k + 1, va, n =>
    if n = 0 then some []
    else match s.translate asid va with
      | none => none
      | some (pa, _) =>
        let m := inPage va n
        if s.cis.bad.any fun g => decide (pa / granule ≤ g) && decide (g ≤ (pa + m - 1) / granule) then none
        else (s.farPages asid k (va + m) (n - m)).map fun rest => Mem.read s.cis.bytes pa m ++ rest

/-- Far bytes of a context. -/
def State.farRead (s : State) (asid : BitVec 16) (va n : Nat) : Option (List Byte) := s.farPages asid (n / pageSize + 2) va n

/-- A stretch of far memory written page by page with cells counted from its start; none where a page cannot be written. -/
def State.farFill (s : State) (asid : BitVec 16) : Nat → Nat → Nat → List Host.Cell → Option State
  | 0, _, _, _ => some s
  | k + 1, va, n, cells =>
    if n = 0 then some s
    else match s.translate asid va with
      | none => none
      | some (pa, e) =>
        let m := inPage va n
        if !pteW e then none
        else
          let t := { s with cis := { s.cis with
            bytes := Mem.fill s.cis.bytes pa m cells
            bad := s.cis.bad.filter fun g => !(decide (pa ≤ g * granule) && decide (g * granule + granule ≤ pa + m)) } }
          t.farFill asid k (va + m) (n - m) ((cells.filter fun x => m ≤ x.1).map fun x => (x.1 - m, x.2))

/-- A stretch of far memory of a context written. -/
def State.farWrite (s : State) (asid : BitVec 16) (va n : Nat) (cells : List Host.Cell) : Option State :=
  s.farFill asid (n / pageSize + 2) va n cells

/-! ## Images (R67 to R69) -/

/-- A section of an image: kind, rows, columns, well address and contents (R68). -/
structure Section where
  kind : Nat
  row0 : Nat
  row1 : Nat
  col0 : Nat
  col1 : Nat
  addr : Nat
  body : List Byte
  deriving DecidableEq, Repr

/-- An image: field shape, TRIPLE flag, sections and all its bytes (R67). -/
structure Image where
  rows : Nat
  cols : Nat
  flags : Nat
  sections : List Section
  bytes : List Byte
  deriving DecidableEq, Repr

/-- A section covers the core at a field-relative position. -/
def Section.covers (x : Section) (i j : Nat) : Bool :=
  decide (x.row0 ≤ i) && decide (i ≤ x.row1) && decide (x.col0 ≤ j) && decide (j ≤ x.col1)

/-- Bytes of a record of a section kind (R69); a WELL section has none. -/
def recordSize (kind : Nat) : Nat :=
  match kind with
  | 2 | 4 | 5 | 6 | 7 => 16
  | 3 => 24
  | 8 => 48
  | _ => 1

/-- The records of a list of bytes. -/
def recordsOf (size : Nat) : Nat → List Byte → List (List Byte)
  | 0, _ => []
  | n + 1, bs => if bs.isEmpty then [] else bs.take size :: recordsOf size n (bs.drop size)

/-- The records of a section. -/
def Section.records (x : Section) : List (List Byte) := recordsOf (recordSize x.kind) x.body.length x.body

/-- The records of a kind in an image. A ROUTE, PUMPS or TRIPLE section's records hold for the whole field: its row and column range
is checked and has no other effect (log entry 69). -/
def Image.records (im : Image) (kind : Nat) : List (List Byte) :=
  (im.sections.filter fun x => x.kind = kind).flatMap Section.records

/-- The records of a kind that apply to the core at a position. -/
def Image.recordsAt (im : Image) (kind i j : Nat) : List (List Byte) :=
  (im.sections.filter fun x => decide (x.kind = kind) && x.covers i j).flatMap Section.records

/-- A section descriptor (R68). -/
def sectionOf (img d : List Byte) : Section :=
  { kind := fieldAt d 0 2, row0 := fieldAt d 4 2, row1 := fieldAt d 6 2, col0 := fieldAt d 8 2, col1 := fieldAt d 10 2
    addr := fieldAt d 12 4, body := (img.drop (fieldAt d 16 8)).take (fieldAt d 24 8) }

/-- A record holds no value that R69 excludes. -/
def recordOk (kind rows cols : Nat) (r : List Byte) : Bool :=
  match kind with
  | 2 => decide (fieldAt r 0 1 ≤ 7) && decide (fieldAt r 1 1 ≤ 1) && zerosAt r 2 2 && zerosAt r 8 8
  | 3 => decide (4 ≤ fieldAt r 0 1) && decide (fieldAt r 0 1 ≤ 31) && decide (fieldAt r 1 1 ≤ 12) && decide (fieldAt r 2 1 ≤ 2) &&
      decide (fieldAt r 3 1 ≤ 7) && (decide (fieldAt r 4 1 ≤ 7) || decide (fieldAt r 4 1 = 0xFF)) && decide (fieldAt r 5 1 ≤ 3) &&
      zerosAt r 6 2 && decide (fieldAt r 8 4 % 8 = 0) && decide (fieldAt r 12 4 % 8 = 0) &&
      decide (fieldAt r 8 4 + fieldAt r 12 4 ≤ wellSize) && zerosAt r 16 8
  | 4 => decide (4 ≤ fieldAt r 0 1) && decide (fieldAt r 0 1 ≤ 31) && decide (1 ≤ fieldAt r 1 1) && decide (fieldAt r 1 1 ≤ 5) &&
      decide (fieldAt r 2 2 < rows) && decide (fieldAt r 4 2 < cols) && zerosAt r 6 10
  | 5 => decide (1 ≤ fieldAt r 0 2) && decide (fieldAt r 0 2 ≤ 256) && zerosAt r 8 8
  | 6 => decide (fieldAt r 12 4 = 0)
  | 7 => decide (1 ≤ fieldAt r 0 1) && decide (fieldAt r 0 1 ≤ 2) && decide (fieldAt r 1 1 ≤ 7) && decide (fieldAt r 2 2 ≤ fieldAt r 4 2) &&
      decide (fieldAt r 6 2 ≤ fieldAt r 8 2) && zerosAt r 10 6
  | 8 => ((r.take 32).all fun b => decide (b.toNat ≤ 0xF)) && decide (4 ≤ fieldAt r 32 1) && decide (fieldAt r 32 1 ≤ 32) && zerosAt r 33 15
  | _ => true

/-- No two records of a kind name one channel (R69). -/
def Image.oneEach (im : Image) (kind : Nat) : Bool := noRepeat ((im.records kind).map fun r => fieldAt r 0 1)

/-- The handler strands of the core at a position (R69). -/
def Image.handlersAt (im : Image) (i j : Nat) : List Nat := (im.recordsAt 3 i j).map fun r => fieldAt r 4 1

/-- The issue slot table at a position meets R266 item 2. -/
def Image.tableOk (im : Image) (i j : Nat) : Bool :=
  (im.recordsAt 8 i j).all fun r =>
    let other := (r.take 32).filter fun b => b.getLsbD 3 && !(im.handlersAt i j).contains (b.toNat % 8)
    decide (other.length + fieldAt r 32 1 ≤ 32)

/-- Every position of a shape. -/
def positions (rows cols : Nat) : List (Nat × Nat) := (List.range rows).flatMap fun i => (List.range cols).map fun j => (i, j)

/-- What the supervisor checks of an image (R67 to R69). -/
def Image.ok (im : Image) : Bool :=
  decide (1 ≤ im.rows) && decide (im.rows ≤ 336) && decide (1 ≤ im.cols) && decide (im.cols ≤ 464) && decide (im.flags ≤ 1) &&
    decide (decide (im.flags = 1) = im.sections.any fun x => x.kind = 7) &&
    (im.sections.all fun x =>
      decide (1 ≤ x.kind) && decide (x.kind ≤ 8) && decide (x.row0 ≤ x.row1) && decide (x.col0 ≤ x.col1) &&
        (if x.kind = 1 then inWell x.addr x.body.length else decide (x.addr = 0)) &&
        decide (x.body.length % recordSize x.kind = 0) && x.records.all (recordOk x.kind im.rows im.cols)) &&
    im.oneEach 3 && im.oneEach 4 && decide ((im.records 5).length ≤ 1) && decide ((im.records 6).length ≤ 1) &&
    decide ((im.sections.filter fun x => x.kind = 8).length ≤ 1) && decide ((im.records 8).length ≤ 1) &&
    (positions im.rows im.cols).all fun p => im.tableOk p.1 p.2

/-- The image in a list of bytes, unless its header or a descriptor is malformed (R67, R68). -/
def imageOf (bs : List Byte) : Option Image :=
  let n := fieldAt bs 6 2
  let off := fieldAt bs 16 8
  let size := fieldAt bs 24 8
  let ds := recordsOf 32 n ((bs.drop off).take (32 * n))
  let fits := ds.all fun d => zerosAt d 2 2 && decide (fieldAt d 16 8 + fieldAt d 24 8 ≤ size)
  let im : Image := { rows := fieldAt bs 8 2, cols := fieldAt bs 10 2, flags := fieldAt bs 12 4, sections := ds.map (sectionOf bs), bytes := bs }
  if fieldAt bs 0 4 = 0x314C4349 ∧ fieldAt bs 4 2 = 1 ∧ zerosAt bs 32 32 ∧ off + 32 * n ≤ size ∧ fits ∧ im.ok then some im else none

/-- The image at a far address, if it can be read and is valid. -/
def State.readImage (s : State) (asid : BitVec 16) (va : Nat) : Option Image :=
  match s.farRead asid va 64 with
  | none => none
  | some h =>
    let size := fieldAt h 24 8
    if size < 64 ∨ farSize < size then none
    else match s.farRead asid va size with
      | some bs => imageOf bs
      | none => none

/-- Firmware's checks at load and on every route or table change (R276): of the four conditions, R266 item 2 at the positions of a
shape, R71 and R220; R201 is the route compiler's. -/
def Image.behaves (im : Image) (rows cols : Nat) (slots : Nat × Nat × Nat) : Bool :=
  Config.wellBehaved im.bytes rows cols slots && (positions rows cols).all fun p => im.tableOk p.1 p.2

/-- The PUMPS record of an image: pump count and slot counts (R69). -/
def Image.pumps (im : Image) : Option (Nat × Nat × Nat × Nat) :=
  (im.records 5).head?.map fun r => (fieldAt r 0 2, fieldAt r 2 2, fieldAt r 4 2, fieldAt r 6 2)

/-! ## Loading a core (R69, R269 step 3) -/

/-- CHBn from a CHANNEL record (R69). -/
def bindOfRecord (r : List Byte) : Word :=
  let hv := decide (fieldAt r 4 1 ≠ 0xFF)
  BitVec.ofNat 16 (fieldAt r 8 4 / 8) ++ BitVec.ofNat 16 (fieldAt r 12 4 / 8) ++ (0#13) ++ BitVec.ofNat 1 (fieldAt r 5 1 / 2) ++
    BitVec.ofNat 1 (fieldAt r 5 1) ++ BitVec.ofNat 3 (if hv then fieldAt r 4 1 else 0) ++ (if hv then 1#1 else 0#1) ++
    BitVec.ofNat 3 (fieldAt r 3 1) ++ BitVec.ofNat 2 (fieldAt r 2 1) ++ (0#4) ++ BitVec.ofNat 4 (fieldAt r 1 1)

/-- Entry pcs and plain strands of the STRAND records (R258). -/
def Core.loadStrand (c : Core) (r : List Byte) : Core :=
  let n : StrandNo := BitVec.ofNat 3 (fieldAt r 0 1)
  let c1 := c.setStrand n fun st => { st with entry := BitVec.ofNat 64 (fieldAt r 4 4) }
  if fieldAt r 1 1 % 2 = 1 then c1
  else { c1 with issue := { c1.issue with plain := c1.issue.plain ||| (1#8 <<< n.toNat) } }

/-- OWNB and OWNM of the OWNER record (R43). -/
def Core.loadOwner (c : Core) (r : List Byte) : Core :=
  { c with csr := { c.csr with ownB := BitVec.ofNat 64 (fieldAt r 0 8), ownM := BitVec.ofNat 64 (fieldAt r 8 4) } }

/-- The binding of a CHANNEL record (R69). -/
def Core.loadChannel (c : Core) (r : List Byte) : Core :=
  c.setChan (BitVec.ofNat 5 (fieldAt r 0 1)) fun h => h.rebind (bindOfRecord r)

/-- The issue slot table and HMIN of the SLOTS record (R69, R264). -/
def Core.loadSlots (c : Core) (r : List Byte) : Core :=
  let t : Vector (BitVec 4) 32 := Vector.ofFn fun i => BitVec.ofNat 4 (fieldAt r i.val 1)
  { c with issue := { c.issue with table := t, next := t, hmin := BitVec.ofNat 64 (fieldAt r 32 1) } }

/-- The image loaded into the core at a position (R269 step 3), routes and pump set left out. -/
def Image.load (im : Image) (i j : Nat) (c : Core) : Core :=
  let w := (im.sections.filter fun x => decide (x.kind = 1) && x.covers i j).foldl (fun w x => w.store x.addr x.body) c.well
  let c1 := (im.recordsAt 2 i j).foldl Core.loadStrand { c with well := w }
  let c2 := (im.recordsAt 6 i j).foldl Core.loadOwner c1
  let c3 := (im.recordsAt 3 i j).foldl Core.loadChannel c2
  (im.recordsAt 8 i j).foldl Core.loadSlots c3

end Sys2Proof.Machine
end

