-- ==== Sys2Proof/Machine/Routes.lean ====
section
/-! DEFINITION. Sys2Proof/Machine/Routes.lean: the route compiler (R305, R332, R345, R367 to R370). Routes are built as paths of
hops between logical positions of one rectangle. -/

namespace Sys2Proof.Machine

/-- A core's logical row and column in its rectangle (R14). -/
abbrev Node := Nat × Nat

/-- A route's passage through a router: channel, node, input, output, and the mode of the input (R187). -/
structure Hop where
  ch : Chan
  node : Node
  inp : Port
  out : Port
  mode : BitVec 2
  deriving DecidableEq, Repr

/-- Modes of an input (R187). -/
def Mode.forward : BitVec 2 := 0
def Mode.reduce : BitVec 2 := 1
def Mode.max : BitVec 2 := 2
def Mode.vote : BitVec 2 := 3

/-! ## Paths -/

/-- The numbers from a (left out) to b. -/
def between (a b : Nat) : List Nat :=
  if a ≤ b then (List.range (b - a)).map fun k => a + 1 + k else (List.range (a - b)).map fun k => a - 1 - k

/-- Along the row to the column of the destination, then along that column (R369). -/
def rowFirst (p q : Node) : List Node := p :: (between p.2 q.2).map (fun c => (p.1, c)) ++ (between p.1 q.1).map fun r => (r, q.2)

/-- Along the column first (R368). -/
def columnFirst (p q : Node) : List Node := p :: (between p.1 q.1).map (fun r => (r, p.2)) ++ (between p.2 q.2).map fun c => (q.1, c)

/-- The output towards a neighbour. -/
def towards (p q : Node) : Port :=
  if p.2 < q.2 then .e else if q.2 < p.2 then .w else if p.1 < q.1 then .s else .n

/-- The hops of a path that enters its first node on an input and ends at the local port of its last. -/
def hopsOf (ch : Chan) (mode : BitVec 2) : Port → List Node → List Hop
  | _, [] => []
  | inp, [p] => [⟨ch, p, inp, .loc, mode⟩]
  | inp, p :: q :: rest => ⟨ch, p, inp, towards p q, mode⟩ :: hopsOf ch mode (opposite (towards p q)) (q :: rest)

/-! ## Patterns -/

/-- A triplicated range (R345): its nodes, and the node of each in copies 1 and 2. -/
structure Triple where
  nodes : List Node
  copy1 : List (Node × Node)
  copy2 : List (Node × Node)
  deriving DecidableEq, Repr

/-- The nodes of the copies of a node. -/
def Triple.copies (t : Triple) (p : Node) : List Node :=
  (t.copy1 ++ t.copy2).filterMap fun x => if x.1 = p then some x.2 else none

/-- The nodes of all copies. -/
def Triple.places (t : Triple) : List Node := (t.copy1 ++ t.copy2).map (·.2)

/-- The shape of a field in its rectangle: origin and size. -/
structure Shape where
  row : Nat
  col : Nat
  rows : Nat
  cols : Nat
  deriving DecidableEq, Repr

/-- The nodes of a shape, in row-major order. -/
def Shape.nodes (x : Shape) : List Node := (positions x.rows x.cols).map fun p => (x.row + p.1, x.col + p.2)

/-- A node lies in a shape. -/
def Shape.has (x : Shape) (p : Node) : Bool :=
  decide (x.row ≤ p.1) && decide (p.1 < x.row + x.rows) && decide (x.col ≤ p.2) && decide (p.2 < x.col + x.cols)

/-- The delivery at a node of the range goes on to the copies of the node (R345). -/
def Triple.spread (t : Triple) (ch : Chan) (dest : Node) (hs : List Hop) : List Hop :=
  hs ++ (hs.filter fun h => decide (h.node = dest) && decide (h.out = .loc)).flatMap fun h =>
    (t.copies dest).flatMap fun q => (hopsOf ch Mode.forward h.inp (rowFirst dest q)).map fun k =>
      if k.node = dest then { k with mode := h.mode } else k

/-- `to`, `reduce` and `max` (R367, R369): the senders send along their rows, then along the destination's column. -/
def gather (ch : Chan) (mode : BitVec 2) (senders : List Node) (dest : Node) : List Hop :=
  ((senders.filter fun p => p ≠ dest).flatMap fun p => hopsOf ch mode .loc (rowFirst p dest)).eraseDups

/-- `bcast` (R368): along the root's column, then along each row, to every core and every copy that is to receive. A root with
nothing to reach keeps its local input in JOIN, as a hop from the local port to itself. -/
def spreadAll (ch : Chan) (nodes : List Node) (root : Node) : List Hop :=
  let hs := ((nodes.filter fun p => p ≠ root).flatMap fun p => hopsOf ch Mode.forward .loc (columnFirst root p)).eraseDups
  if hs.isEmpty then [⟨ch, root, .loc, .loc, Mode.forward⟩] else hs

/-- The first node of a path of hops that two other paths also meet, each on its own input (R370). -/
def meeting (a b c : List Hop) : Option Node :=
  a.findSome? fun h =>
    match b.find? (fun x => x.node = h.node), c.find? (fun x => x.node = h.node) with
    | some y, some z => if h.inp ≠ y.inp ∧ h.inp ≠ z.inp ∧ y.inp ≠ z.inp then some h.node else none
    | _, _ => none

/-- The hops of a path up to a node, with that node's input made a member of its VOTE group. -/
def upTo (n : Node) : List Hop → List Hop
  | [] => []
  | h :: rest => if h.node = n then [{ h with mode := Mode.vote }] else h :: upTo n rest

/-- The hops of a path after a node. -/
def after (n : Node) : List Hop → List Hop
  | [] => []
  | h :: rest => if h.node = n then rest else after n rest

/-- What a triplicated core sends passes a VOTE group at the core's own router: its local input and the inputs on which its copies'
messages come, each with the outputs that its local input would have (R345, R187). None where they do not come on inputs of
their own. -/
def voteHere (ch : Chan) (t : Triple) (p : Node) (hs : List Hop) : Option (List Hop) :=
  let own := hs.filter fun h => decide (h.node = p) && decide (h.inp = .loc)
  match t.copies p with
  | [q1, q2] =>
    let a := hopsOf ch Mode.forward .loc (rowFirst q1 p)
    let b := hopsOf ch Mode.forward .loc (rowFirst q2 p)
    match a.find? (fun h => h.node = p), b.find? (fun h => h.node = p) with
    | some x, some y =>
      if x.inp = y.inp ∨ x.inp = .loc ∨ y.inp = .loc then none
      else
        let member (i : Port) : List Hop := own.map fun h => { h with inp := i, mode := Mode.vote }
        some (hs.filter (fun h => !own.contains h) ++ a.filter (fun h => h.node ≠ p) ++ b.filter (fun h => h.node ≠ p) ++
          [Port.loc, x.inp, y.inp].flatMap member)
    | _, _ => none
  | _ => none

/-- The same for several triplicated cores. -/
def voteEach (ch : Chan) (t : Triple) : List Node → List Hop → Option (List Hop)
  | [], hs => some hs
  | p :: rest, hs => (voteHere ch t p hs).bind (voteEach ch t rest)

/-- `vote` (R370): for each sender of the range, three paths to their VOTE group and one path on. -/
def votes (ch : Chan) (t : Triple) (dest : Node) : List Node → Option (List Hop)
  | [] => some []
  | p :: rest =>
    match t.copies p with
    | [q1, q2] =>
      let a := hopsOf ch Mode.forward .loc (rowFirst p dest)
      let b := hopsOf ch Mode.forward .loc (rowFirst q1 dest)
      let c := hopsOf ch Mode.forward .loc (rowFirst q2 dest)
      match meeting a b c with
      | none => none
      | some n => (votes ch t dest rest).map fun hs => upTo n a ++ upTo n b ++ upTo n c ++ after n a ++ hs
    | _ => none

/-- A REDUCE or MAX tree with a triplicated root (R345): the root's line goes to its copies too. Where one input comes to the root, that
is an input in FORWARD mode, as every line there is combined already; a group of more has one output and no more (R187), so there is
none. -/
def Triple.spreadRoot (t : Triple) (ch : Chan) (dest : Node) (hs : List Hop) : Option (List Hop) :=
  let root (h : Hop) : Bool := decide (h.node = dest) && decide (h.out = .loc)
  if (((hs.filter root).map (·.inp)).eraseDups).length = 1 then
    some (t.spread ch dest (hs.map fun h => if root h then { h with mode := Mode.forward } else h))
  else none

/-- A pattern of a field with a triplicated range (R345, R370): every route into the range goes to the three copies, every route out
of it passes a VOTE group. A REDUCE or MAX group has one output (R187), so a triplicated root takes one input; and a group of these modes
takes a voted line from the next router only, so a triplicated core that adds to it has nothing but its own lines (log entry
51). With `to`, the cores outside the range keep the route of R369 beside the voted paths: R370 takes their local inputs out of a
`vote` pattern, and is silent on a `to` that triplicated cores send on too (DESIGN CHOICE, log entry 82). -/
def compileTripled (ch : Chan) (x : Shape) (t : Triple) (dest : Node) (pattern : Nat) : Option (List Hop) :=
  let senders := t.nodes.filter fun p => p ≠ dest
  let others := x.nodes.filter fun p => !t.nodes.contains p
  let combine (mode : BitVec 2) : Option (List Hop) :=
    let hs := gather ch mode x.nodes dest
    (if t.nodes.contains dest then t.spreadRoot ch dest hs else some hs).bind (voteEach ch t senders)
  match pattern with
  | 1 => (votes ch t dest senders).map fun hs => t.spread ch dest (gather ch Mode.forward others dest ++ hs).eraseDups
  | 2 =>
    if t.nodes.contains dest then
      voteHere ch t dest (spreadAll ch ((x.nodes ++ t.places).filter fun p => !(t.copies dest).contains p) dest)
    else some (spreadAll ch (x.nodes ++ t.places) dest)
  | 3 => combine Mode.reduce
  | 4 => combine Mode.max
  | 5 => if senders.isEmpty then none else (votes ch t dest senders).map fun hs => t.spread ch dest hs.eraseDups
  | _ => none

/-- One ROUTE record compiled (R367 to R370); none where the compiler refuses it. -/
def compileRoute (x : Shape) (t : Option Triple) (r : List Byte) : Option (List Hop) :=
  let ch : Chan := BitVec.ofNat 5 (fieldAt r 0 1)
  let dest : Node := (x.row + fieldAt r 2 2, x.col + fieldAt r 4 2)
  if !x.has dest then none
  else match t, fieldAt r 1 1 with
    | none, 1 => some (gather ch Mode.forward x.nodes dest)
    | none, 2 => some (spreadAll ch x.nodes dest)
    | none, 3 => some (gather ch Mode.reduce x.nodes dest)
    | none, 4 => some (gather ch Mode.max x.nodes dest)
    | some t, k => compileTripled ch x t dest k
    | none, _ => none

/-! ## Checks of a route set -/

/-- The outputs that an input of a channel names at a node. -/
def outsAt (hs : List Hop) (h : Hop) : List Port :=
  (hs.filter fun k => decide (k.ch = h.ch) && decide (k.node = h.node) && decide (k.inp = h.inp)).map (·.out)

/-- Every input has one mode and none names itself, an input that combines has one output, a VOTE group has three inputs with the
same outputs, and an output that a combining group feeds is fed by nothing else (R187). -/
def inputsOk (hs : List Hop) : Bool :=
  let plain (h : Hop) : Bool := decide (h.mode = Mode.forward) || decide (h.mode = Mode.vote)
  hs.all fun h =>
    let here := hs.filter fun k => decide (k.ch = h.ch) && decide (k.node = h.node)
    let group := here.filter fun k => k.mode = h.mode
    (decide (h.inp ≠ h.out) || decide (h.inp = .loc)) &&
      (here.all fun k => !decide (k.inp = h.inp) || decide (k.mode = h.mode)) &&
      (if h.mode = Mode.forward then true
       else if h.mode = Mode.vote then
        decide ((group.map (·.inp)).eraseDups.length = 3) &&
          group.all fun k => (outsAt hs h).all (outsAt hs k).contains && (outsAt hs k).all (outsAt hs h).contains
       else decide ((outsAt hs h).eraseDups.length = 1)) &&
      here.all fun k => decide (k.out ≠ h.out) || decide (k.mode = h.mode) || (plain h && plain k)

/-- The node that an output leads to. -/
def neighbourOf (p : Node) : Port → Node
  | .n => (p.1 - 1, p.2) | .s => (p.1 + 1, p.2) | .e => (p.1, p.2 + 1) | .w => (p.1, p.2 - 1) | .loc => p

/-- The edges of a graph that lead to a vertex with edges of its own, taken again and again: without a cycle none is left. -/
def prune {α : Type} [DecidableEq α] : Nat → List (α × α) → List (α × α)
  | 0, es => es
  | n + 1, es => prune n (es.filter fun e => es.any fun f => f.1 = e.2)

/-- A graph has no cycle. -/
def acyclic {α : Type} [DecidableEq α] (es : List (α × α)) : Bool := (prune es.length es).isEmpty

/-- The graph of (router, input) vertices over all channels (R332). -/
def linkEdges (hs : List Hop) : List ((Node × Port) × (Node × Port)) :=
  ((hs.filter fun h => h.out ≠ .loc).map fun h => ((h.node, h.inp), (neighbourOf h.node h.out, opposite h.out))).eraseDups

/-- The graph of (router, input, channel) vertices, with the edges that a marker takes (R201). -/
def markerEdges (hs : List Hop) : List ((Chan × Node × Port) × (Chan × Node × Port)) :=
  (hs.flatMap fun h => (hs.filter fun k => decide (k.ch = h.ch) && decide (k.node = h.node) && decide (k.out ≠ .loc)).map fun k =>
    ((h.ch, h.node, h.inp), (h.ch, neighbourOf h.node k.out, opposite k.out))).eraseDups

/-- The routes of an image for a shape; none where the compiler refuses the set (R305, R201, R332). They pass through no router but
those of the field's cores, its copies among them (R367). -/
def compileRoutes (im : Image) (x : Shape) (t : Option Triple) : Option (List Hop) :=
  let parts := (im.records 4).map (compileRoute x t)
  if parts.any (·.isNone) then none
  else
    let hs := parts.flatMap fun p => p.getD []
    let place := ((t.map Triple.places).getD [])
    if inputsOk hs && (hs.all fun h => x.has h.node || place.contains h.node) &&
        acyclic (linkEdges hs) && acyclic (markerEdges hs) then some hs
    else none

/-! ## Entries -/

/-- The outputs of an input. -/
def outsOf (hs : List Hop) (inp : Port) : BitVec 5 :=
  hs.foldl (fun m h => if h.inp = inp ∧ h.out ≠ inp then m ||| (1#5 <<< portNo h.out) else m) 0

/-- The mode of an input. -/
def modeFor (hs : List Hop) (inp : Port) : BitVec 2 := ((hs.find? fun h => h.inp = inp).map (·.mode)).getD 0

/-- JOIN (R187, R367 to R370): the VOTE group where there is one, every input that carries the channel otherwise. -/
def joinFor (hs : List Hop) : BitVec 5 :=
  let vs := hs.filter fun h => h.mode = Mode.vote
  (if vs.isEmpty then hs else vs).foldl (fun m h => m ||| (1#5 <<< portNo h.inp)) 0

/-- The route entry of a channel at a node (R187). -/
def entryFor (all : List Hop) (ch : Chan) (n : Node) : Word :=
  let hs := all.filter fun h => decide (h.ch = ch) && decide (h.node = n)
  let part (p : Port) : Word := zext (modeFor hs p ++ outsOf hs p) <<< (8 * portNo p)
  part .n ||| part .e ||| part .s ||| part .w ||| part .loc ||| (zext (joinFor hs) <<< 40)

/-- The core with the compiled entries of its node. -/
def Core.loadRoutes (c : Core) (hs : List Hop) (n : Node) : Core :=
  userChans.foldl (fun c ch => c.routeSet ch (entryFor hs ch n)) c

end Sys2Proof.Machine
end

