-- ==== Sys2Proof/Machine/Fields.lean ====
section
/-! DEFINITION. Sys2Proof/Machine/Fields.lean: launch, placement, grant and completion of fields (R3, R268 to R270, R303, R305,
R309, R388). -/

namespace Sys2Proof.Machine

/-! ## Where fields lie -/

/-- The site of a logical node of a rectangle (R14). -/
def Wafer.siteOf (w : Wafer) (rect : Nat) (p : Node) : Option Site :=
  match w.rects[rect]? with
  | none => none
  | some r => if r.a + p.1 ≤ r.b then (r.cols[p.2]?).map fun c => ⟨r.a + p.1, c⟩ else none

/-- The name of a logical node (R16). -/
def nameOfNode (rect : Nat) (p : Node) : BitVec 26 := BitVec.ofNat 6 rect ++ BitVec.ofNat 10 p.1 ++ BitVec.ofNat 10 p.2

/-- The shape of a field in its rectangle. -/
def Field.shape (f : Field) : Shape := { row := f.row, col := f.col, rows := f.rows, cols := f.cols }

/-- The sites of a field in row-major order; a descheduled field holds none (R337). -/
def State.sitesOf (s : State) (f : Field) : List Site :=
  if f.phase = .descheduled then [] else f.shape.nodes.filterMap (s.wafer.siteOf f.rect)

/-- The node of a copy, of a field at an origin (R345). -/
def CopyAt.node (k : CopyAt) (org : Node) : Node := ((org.1 + k.drow : Int).toNat, (org.2 + k.dcol : Int).toNat)

/-- The sites of a field's copies, with the field-relative positions that they copy (R345). -/
def State.copySites (s : State) (f : Field) : List (Site × Node) :=
  if f.phase = .descheduled then []
  else f.copyAt.filterMap fun k => (s.wafer.siteOf f.rect (k.node (f.row, f.col))).map fun t => (t, (k.row, k.col))

/-- The sites whose cores run the field: its own and its copies' (R345). -/
def State.coreSites (s : State) (f : Field) : List Site := s.sitesOf f ++ (s.copySites f).map (·.1)

/-- The field that holds a site, if one does. -/
def State.holder (s : State) (site : Site) : Option Field := s.sup.fields.find? fun f => (s.coreSites f).contains site

/-- The field of a number. -/
def State.field (s : State) (fnum : BitVec 16) : Option Field := s.sup.fields.find? fun f => f.fnum = fnum

/-- The machine with a field's record changed. -/
def State.setField (s : State) (fnum : BitVec 16) (g : Field → Field) : State :=
  { s with sup := { s.sup with fields := s.sup.fields.map fun f => if f.fnum = fnum then g f else f } }

/-- The supervisors' own state changed. -/
def State.mapSup (s : State) (g : Sup → Sup) : State := { s with sup := g s.sup }

/-- FIELDID of a field on this wafer (R303). -/
def State.fieldIdOf (s : State) (f : Field) : Word := (0#16) ++ f.asid ++ (0#7) ++ s.waferNo ++ f.fnum

/-- A site that a grant may take (R31, R12, R349). -/
def State.free? (s : State) (site : Site) : Bool := (s.holder site).isNone && !s.wafer.withheld.contains site

/-! ## Clocks (R3) -/

/-- The clock of a field on some sites: that of the slowest-graded region it touches. -/
def Wafer.clockFor (w : Wafer) (sites : List Site) : Nat := if sites.any fun t => w.gradeB.contains (regionOf t) then 1550 else 1750

/-- No region that the sites touch holds cores of a field, one left out, that runs at another clock than theirs: a field keeps for as
long as it holds cores the clock that it was placed with. -/
def State.clockOk (s : State) (mhz : Nat) (but : BitVec 16) (sites : List Site) : Bool :=
  s.sup.fields.all fun f =>
    decide (f.fnum = but) || decide (f.mhz = mhz) || !(s.coreSites f).any fun t => sites.any fun u => regionOf t = regionOf u

/-- The clocks of the cores that hold a clock, as the wafer's record gives them. -/
def State.setClocks (s : State) : State := s.mapCores fun c => { c with ident := { c.ident with mhz := s.wafer.mhzOf c.ident.site } }

/-- The regions that the sites touch run at a field's clock. -/
def State.clockGrant (s : State) (mhz : Nat) (sites : List Site) : State :=
  let rs := (sites.map regionOf).eraseDups
  let rest := s.wafer.lowered.filter fun r => !rs.contains r
  let low := if mhz = 1550 then rs.filter fun r => !s.wafer.gradeB.contains r else []
  { s with wafer := { s.wafer with lowered := rest ++ low } }.setClocks

/-- CLOCK_CHANGE (R3): a region returns to its grade's clock when no field holds cores in it. -/
def execClockChange (region : Region) (s : State) : Result :=
  let used := s.sup.fields.any fun f => (s.coreSites f).any fun t => regionOf t = region
  .next (if used then s else { s with wafer := { s.wafer with lowered := s.wafer.lowered.filter fun r => r ≠ region } }.setClocks)

/-! ## Launch records (R268) -/

/-- A completion record (R270). -/
def completion (status launchId : Nat) (fieldId cycles : Word) (detail : Nat) : List Word :=
  [BitVec.ofNat 64 (1 + status * 2 ^ 16 + launchId * 2 ^ 32), fieldId, cycles, BitVec.ofNat 64 detail]

/-- A completion record written to the ring. -/
def State.complete (s : State) (r : List Word) : State := s.mapSup fun u => { u with completions := u.completions ++ [r] }

/-- A record rejected (R270). -/
def State.reject (s : State) (bs : List Byte) (status detail : Nat) : State :=
  s.complete (completion status (fieldAt bs 4 4) 0 0 detail)

/-- The first field of a launch record that holds an excluded value, by its offset (R268); a record of KIND 2 is a resize record. -/
def launchFault (bs : List Byte) : Option Nat :=
  if fieldAt bs 0 2 ≠ 1 then some 0
  else if fieldAt bs 2 2 = 0 then some 2
  else if fieldAt bs 8 8 % 64 ≠ 0 then some 8
  else if 63 < fieldAt bs 21 1 then some 21
  else if 1 < fieldAt bs 22 1 then some 22
  else if 7 < fieldAt bs 23 1 then some 23
  else if 256 < fieldAt bs 28 2 then some 28
  else if 15 < fieldAt bs 36 4 then some 36
  else if fieldAt bs 40 8 % 4096 ≠ 0 then some 40
  else if !zerosAt bs 48 16 then some 48
  else none

/-- The pump-set size and slot counts of a record (R268). -/
def pumpsOf (bs : List Byte) (im : Image) : Option (Nat × Nat × Nat × Nat) :=
  if fieldAt bs 28 2 = 0 then im.pumps else some (fieldAt bs 28 2, fieldAt bs 30 2, fieldAt bs 32 2, fieldAt bs 34 2)

/-! ## Placements (R269) -/

/-- Some nodes of a rectangle may be granted together (R3, R31). -/
def State.nodesFree (s : State) (rect : Nat) (nodes : List Node) (aOnly : Bool) : Bool :=
  let sites := nodes.filterMap (s.wafer.siteOf rect)
  decide (sites.length = nodes.length) && decide nodes.Nodup && sites.all s.free? && s.clockOk (s.wafer.clockFor sites) 0 sites &&
    (!aOnly || decide (s.wafer.clockFor sites = 1750))

/-- The places of a shape, in a rectangle or at an origin where one is asked for: by rectangle, then row, then column (R269). -/
def Wafer.shapes (w : Wafer) (rows cols : Nat) (rect : Option Nat) (org : Option Node) : List (Nat × Shape) :=
  w.rects.zipIdx.flatMap fun (r, k) =>
    if (rect.getD k) ≠ k then []
    else (List.range (r.b + 1 - r.a)).flatMap fun i => (List.range r.cols.length).filterMap fun j =>
      if org.getD (i, j) = (i, j) then some (k, { row := i, col := j, rows := rows, cols := cols }) else none

/-- The first free placement of a shape with the copies that go with it (R337). -/
def State.freePlace (s : State) (rows cols : Nat) (copies : List CopyAt) (aOnly : Bool) : Option (Nat × Shape) :=
  (s.wafer.shapes rows cols none none).find? fun (k, x) =>
    (copies.all fun c => decide (0 ≤ x.row + c.drow) && decide (0 ≤ x.col + c.dcol)) &&
      s.nodesFree k (x.nodes ++ copies.map (·.node (x.row, x.col))) aOnly

/-- The places that a launch record's ROWS, COLS, PLACE, RECT, ORGROW and ORGCOL allow. -/
def Wafer.placesOf (w : Wafer) (bs : List Byte) : List (Nat × Shape) :=
  let place := fieldAt bs 20 1
  w.shapes (fieldAt bs 16 2) (fieldAt bs 18 2) (if place % 2 = 1 then some (fieldAt bs 21 1) else none)
    (if place / 2 % 2 = 1 then some (fieldAt bs 24 2, fieldAt bs 26 2) else none)

/-- Priority of what waits: of the record, or of the field to be restored. -/
def State.prioOf (s : State) (q : Queued) : Nat :=
  match q with
  | .record ws => fieldAt (recordBytes ws) 23 1
  | .restore fnum _ => ((s.field fnum).map (·.prio)).getD 0

/-- What is placed next: the highest priority, and within it the earliest posted (R269). -/
def State.queueHead (s : State) : Option Queued :=
  s.sup.queued.foldl (fun a q => match a with
    | none => some q
    | some b => if s.prioOf b < s.prioOf q then some q else some b) none

/-! ## Triplicated ranges (R345) -/

/-- The range that the TRIPLE records name, in field-relative positions. -/
def Image.tripled (im : Image) : List Node :=
  (positions im.rows im.cols).filter fun p =>
    (im.records 7).any fun r =>
      if fieldAt r 0 1 = 1 then (im.recordsAt 2 p.1 p.2).any fun x => fieldAt x 0 1 = fieldAt r 1 1
      else decide (fieldAt r 2 2 ≤ p.1) && decide (p.1 ≤ fieldAt r 4 2) && decide (fieldAt r 6 2 ≤ p.2) && decide (p.2 ≤ fieldAt r 8 2)

/-- The strands that are created in a copy of the core at a position (R345). -/
def Image.copyStrands (im : Image) (i j : Nat) : BitVec 8 :=
  (im.records 7).foldl (fun m r =>
    if fieldAt r 0 1 = 1 then m ||| (1#8 <<< fieldAt r 1 1)
    else if fieldAt r 2 2 ≤ i ∧ i ≤ fieldAt r 4 2 ∧ fieldAt r 6 2 ≤ j ∧ j ≤ fieldAt r 8 2 then 0xFF else m) 0

/-- The least of a list of numbers. -/
def leastOf (xs : List Nat) : Nat := xs.foldl min (xs.headD 0)

/-- The triplicated range of an image in a shape, with copies at the given nodes. -/
def Image.triple (im : Image) (x : Shape) (c1 c2 : Node) : Option Triple :=
  let ps := im.tripled
  let i0 := leastOf (ps.map (·.1))
  let j0 := leastOf (ps.map (·.2))
  let node (p : Node) : Node := (x.row + p.1, x.col + p.2)
  let copy (c : Node) (p : Node) : Node × Node := (node p, (c.1 + p.1 - i0, c.2 + p.2 - j0))
  if ps.isEmpty then none else some { nodes := ps.map node, copy1 := ps.map (copy c1), copy2 := ps.map (copy c2) }

/-- Every pair of nodes of a rectangle, as origins of copies 1 and 2. -/
def Rect.pairs (r : Rect) : List (Node × Node) :=
  let ns := positions (r.b + 1 - r.a) r.cols.length
  ns.flatMap fun a => ns.map fun b => (a, b)

/-- The copies of an image's triplicated range in a shape, with the routes: where firmware puts them, or at the first origins, of those
whose nodes may be taken with the shape's and where the routes compile (R345, R370). None where there are none. -/
def State.tripleFor (s : State) (im : Image) (may : List Node → Bool) (rect : Nat) (x : Shape) : Option (Option Triple × List Hop) :=
  if im.tripled.isEmpty then if may x.nodes then (compileRoutes im x none).map fun hs => (none, hs) else none
  else
    let all := ((s.wafer.rects[rect]?).map Rect.pairs).getD []
    (Config.copyPlace s.free :: all).findSome? fun (c1, c2) =>
      match im.triple x c1 c2 with
      | none => none
      | some t => if may (x.nodes ++ t.places) then (compileRoutes im x (some t)).map fun hs => (some t, hs) else none

/-- The first placement that a launch record allows whose nodes, those of the copies among them, may be taken, with the copies and the
routes. -/
def State.placeAmong (s : State) (bs : List Byte) (im : Image) (may : Nat → List Node → Bool) :
    Option (Nat × Shape × Option Triple × List Hop) :=
  (s.wafer.placesOf bs).findSome? fun (k, x) => (s.tripleFor im (may k) k x).map fun r => (k, x, r)

/-- The first free placement that a launch record allows (R269, R345). -/
def State.placeFor (s : State) (bs : List Byte) (im : Image) : Option (Nat × Shape × Option Triple × List Hop) :=
  s.placeAmong bs im fun k ns => s.nodesFree k ns (fieldAt bs 22 1 = 1)

/-- Nodes of a rectangle that exist and are distinct. -/
def Wafer.nodesExist (w : Wafer) (rect : Nat) (ns : List Node) : Bool := decide ns.Nodup && ns.all fun n => (w.siteOf rect n).isSome

/-- The route compiler refuses the image's routes (R305, R345, R370): they compile nowhere, or the copies of a triplicated range can
be put nowhere that the record allows, whatever is free, so that they do. -/
def State.routesRefused (s : State) (bs : List Byte) (im : Image) : Bool :=
  if im.tripled.isEmpty then (compileRoutes im { row := 0, col := 0, rows := im.rows, cols := im.cols } none).isNone
  else (s.placeAmong bs im s.wafer.nodesExist).isNone

/-! ## Launch (R268, R269) -/

/-- What the supervisor rejects a launch record for before it changes any state (R268, R276, R345, R270): status and DETAIL. -/
def State.launchRefused (s : State) (bs : List Byte) : Option (Nat × Nat) :=
  match launchFault bs with
  | some off => some (0x10, off)
  | none =>
    let asid : BitVec 16 := BitVec.ofNat 16 (fieldAt bs 2 2)
    if (s.context asid).isNone then some (0x14, 2)
    else match s.readImage asid (fieldAt bs 8 8) with
      | none => some (0x12, 8)
      | some im =>
        if im.rows ≠ fieldAt bs 16 2 then some (0x12, 16)
        else if im.cols ≠ fieldAt bs 18 2 then some (0x12, 18)
        else if (pumpsOf bs im).isNone then some (0x12, 28)
        else if im.flags = 1 ∧ !(BitVec.ofNat 32 (fieldAt bs 36 4)).getLsbD 3 then some (0x12, 8)
        else if !im.behaves im.rows im.cols ((pumpsOf bs im).getD (0, 0, 0, 0)).2 then some (0x12, 8)
        else if s.routesRefused bs im then some (0x12, 8)
        else none

/-- The image that a launch record names. -/
def State.imageFor (s : State) (bs : List Byte) : Option Image := s.readImage (BitVec.ofNat 16 (fieldAt bs 2 2)) (fieldAt bs 8 8)

/-- A launch record is accepted into the queue, or rejected (R268, R269). One with PLACE bit 2 has no placement while a record that
goes before it waits (log entry 70). -/
def State.launch (s : State) (ws : List Word) : State :=
  let bs := recordBytes ws
  let blocked := s.sup.queued.any fun q => decide (fieldAt bs 23 1 ≤ s.prioOf q)
  match s.launchRefused bs with
  | some (status, detail) => s.reject bs status detail
  | none =>
    if fieldAt bs 20 1 / 4 % 2 = 1 ∧ (blocked ∨ ((s.imageFor bs).bind (s.placeFor bs)).isNone) then s.reject bs 0x11 20
    else s.mapSup fun u => { u with queued := u.queued ++ [.record ws] }

/-- The copies of a range as the field keeps them. -/
def Triple.offsets (t : Triple) (x : Shape) : List CopyAt :=
  (t.copy1 ++ t.copy2).map fun (p, q) =>
    { drow := (q.1 : Int) - x.row, dcol := (q.2 : Int) - x.col, row := p.1 - x.row, col := p.2 - x.col }

/-- The copies of a placed field as its route compiler sees them. -/
def Field.triple (f : Field) : Option Triple :=
  let pairs := f.copyAt.map fun k => ((f.row + k.row, f.col + k.col), k.node (f.row, f.col))
  let half := pairs.length / 2
  if pairs.isEmpty then none
  else some { nodes := (pairs.take half).map (·.1), copy1 := pairs.take half, copy2 := pairs.drop half }

/-! ## Slots (R215, R388) -/

/-- A slot put into a table where the pump would accept it: an IDLE slot of a live lane whose claims collide with none. -/
def Pump.put (p : Pump) (t : Vector (Vector Slot 64) 8) (l : BitVec 3) (i : BitVec 6) (x : Slot) : Option (Vector (Vector Slot 64) 8) :=
  let lane := (t[l.toNat]).set i.toNat x
  if p.laneLive l && decide ((t[l.toNat])[i.toNat] = Slot.idle) && claimsOk p.coming[l.toNat] lane then some (t.set l.toNat lane) else none

/-- The first place that takes a slot, by lane and then by index. -/
def Pump.putFirst (p : Pump) (t : Vector (Vector Slot 64) 8) (x : Slot) : Option (Vector (Vector Slot 64) 8) :=
  laneNos.findSome? fun l => (List.range frameSlots).findSome? fun i => p.put t l (BitVec.ofNat 6 i) x

/-- Slots put where firmware chooses, or where they first fit: a choice for each, 256 apart, so that every pump has its own. -/
def Pump.putAll (p : Pump) : Nat → Vector (Vector Slot 64) 8 → List Slot → Option (Vector (Vector Slot 64) 8)
  | _, t, [] => some t
  | n, t, x :: xs =>
    let pick := Config.slotChoice n
    match p.put t pick.1 pick.2 x with
    | some t1 => p.putAll (n + 256) t1 xs
    | none => match p.putFirst t x with
      | some t1 => p.putAll (n + 256) t1 xs
      | none => none

/-- Slots put where they first fit. -/
def Pump.putGreedy (p : Pump) : Vector (Vector Slot 64) 8 → List Slot → Option (Vector (Vector Slot 64) 8)
  | t, [] => some t
  | t, x :: xs => match p.putFirst t x with
    | some t1 => p.putGreedy t1 xs
    | none => none

/-- The contexts that own slots of a table. -/
def tableContexts (t : Vector (Vector Slot 64) 8) : List (BitVec 16) :=
  ((t.toList.flatMap fun l => l.toList.map (·.asid)).filter fun a => a ≠ 0).eraseDups

/-- MAINT slots that a pump's table still needs on live lanes when some contexts own slots there: the one of R215 rule 4, and in addition
to it one for each 12 contexts (R387). Whether the one may count among the others R387 leaves open: the model installs them beside each
other, which meets it either way (DESIGN CHOICE, log entry 89). -/
def Pump.maintMissing (p : Pump) (t : Vector (Vector Slot 64) 8) (more : List (BitVec 16)) : Nat :=
  let owners := ((tableContexts t ++ more.filter fun a => a ≠ 0).eraseDups).length
  1 + (owners + 11) / 12 -
    (laneNos.flatMap fun l => if p.laneLive l then t[l.toNat].toList.filter fun x => x.kind = .maint else []).length

/-- A MAINT slot (R211). -/
def Slot.maint : Slot := { kind := .maint, asid := 0, fnum := 0 }

/-- Slots put into a table of a pump by firmware's choices from number n on, or else where they first fit. -/
def Pump.putSlots (p : Pump) (n : Nat) (t : Vector (Vector Slot 64) 8) (xs : List Slot) : Option (Vector (Vector Slot 64) 8) :=
  match p.putAll (n + p.no.toNat) t xs with
  | some t1 => some t1
  | none => p.putGreedy t xs

/-- The first number of firmware's choices that the choices for some slots from number n on have not used. -/
def State.chosen (s : State) (n : Nat) (xs : List Slot) : State := { s with free := max s.free (n + 256 * xs.length) }

/-- A pump's table without the slots of a field, and of fields that no longer are or have left the pump: slots that the pump could not be
told to make IDLE when the field ended, as it would have refused the table (R216), go with the next table that it takes. -/
def State.freeSlots (s : State) (no : BitVec 8) (fnum : BitVec 16) (t : Vector (Vector Slot 64) 8) : Vector (Vector Slot 64) 8 :=
  t.map fun l => l.map fun x => if (x.fnum = fnum ∧ x.fnum ≠ 0) ∨ !s.slotOwnerOk no x then Slot.idle else x

/-- Slots added at a pump for their field, by firmware's choices from number n on, with the MAINT slots that it then needs; none where
they do not fit, or where the pump would refuse the table (R388, R215). -/
def State.addSlots (s : State) (n : Nat) (no : BitVec 8) (xs : List Slot) : Option State :=
  let p := (s.pump no).switched s.slot
  let t0 := s.freeSlots no ((xs.head?.map (·.fnum)).getD 0) p.coming
  let ys := xs ++ List.replicate (p.maintMissing t0 (xs.map (·.asid))) Slot.maint
  (p.putSlots n t0 ys).bind fun t =>
    if t = p.coming then some s else if p.tableSound t then some ((s.chosen n ys).installTable no t) else none

/-- The slots of a field at each pump of its set. -/
def slotsWanted (asid fnum : BitVec 16) (reads writes atomics : Nat) : List Slot :=
  List.replicate reads { kind := .readreq, asid := asid, fnum := fnum } ++
    List.replicate writes { kind := .write, asid := asid, fnum := fnum } ++
    List.replicate atomics { kind := .atomic, asid := asid, fnum := fnum }

/-- Every pump number. -/
def pumpNos : List (BitVec 8) := (List.range 256).map (BitVec.ofNat 8)

/-- A pump set for a field (R388): as firmware chooses, of the pumps with a live lane and room for the slots. -/
def State.choosePumps (s : State) (count : Nat) (want : List Slot) : Option (List (BitVec 8)) :=
  let ok := pumpNos.filter fun no => s.usable no && (s.addSlots s.free no want).isSome
  let pick := Config.pumpChoice s.free ok count
  if pick.length = count ∧ pick.Nodup ∧ pick.all ok.contains then some pick
  else if count ≤ ok.length then some (ok.take count) else none

/-- Slots added at each pump of a set, by firmware's choices from number n on; none where some pump has no room. -/
def State.addAll (s : State) (n : Nat) (want : List Slot) : List (BitVec 8) → Option State
  | [] => some s
  | no :: rest => (s.addSlots n no want).bind fun t => t.addAll n want rest

/-- The pump as a field leaves it (R309, R344, R355): its queued and stalled requests and its replay buffer go; what is placed in slots
still performs, as a request of no field. A posted FST of a field that completes by DRAIN, which R270 does not wait for, goes too where it
still waits for a slot, as R217 gives it none any more (DESIGN CHOICE, log entry 91). -/
def Pump.leave (p : Pump) (fnum : BitVec 16) : Pump :=
  { p with
    queue := p.queue.filter fun r => r.fnum ≠ fnum
    stalled := p.stalled.filter fun x => x.req.fnum ≠ fnum
    placed := p.placed.map fun x => if x.req.fnum = fnum then { x with req := { x.req with fnum := 0 } } else x
    replay := p.replay.filter fun b => b.fnum ≠ fnum }

/-- A field's slots of a pump become IDLE, with the MAINT slots that the pump then needs. -/
def State.idleSlots (s : State) (no : BitVec 8) (fnum : BitVec 16) : State :=
  let p := (s.pump no).switched s.slot
  let idle := s.freeSlots no fnum p.coming
  if idle = p.coming then s
  else s.installTable no ((p.putGreedy idle (List.replicate (p.maintMissing idle []) Slot.maint)).getD idle)

/-- A field's slots become IDLE at every pump, and its requests leave (R309, R344). -/
def State.dropSlots (s : State) (fnum : BitVec 16) : State :=
  s.pumps.foldl (fun t p => (t.setPump p.no fun p => p.leave fnum).idleSlots p.no fnum) s

/-! ## Borders and seams (R269 step 1, R271, R305, R306) -/

/-- The link ports of a router. -/
def linkPorts : List Port := [.n, .e, .s, .w]

/-- The input that an output of a site leads to. -/
def State.fedBy (s : State) (site : Site) (out : Port) : Option (Site × Port) := (s.wafer.neighbour site out).map fun t => (t, opposite out)

/-- The entry of a core for a channel carries an input to an output. -/
def Core.carries (c : Core) (ch : Chan) (inp out : Port) : Bool := (omask (c.route ch) (portNo inp)).getLsbD (portNo out)

/-- An entry of the core leads into some of the sites. -/
def Core.leadsInto (c : Core) (w : Wafer) (sites : List Site) (ch : Chan) : Bool :=
  linkPorts.any fun out => allPorts.any (fun p => c.carries ch p out) &&
    match w.neighbour c.ident.site out with
    | some t => sites.contains t
    | none => false

/-- The copies of an entry that some conditions select are closed: the current one, and a next one that waits. -/
def Core.closeCopies (c : Core) (ch : Chan) (now later : Bool) : Core :=
  let c1 := if now then c.routeSet ch (c.route ch ||| closedMask) else c
  if later && decide ((c.route ch) &&& nextvBit ≠ 0) then c1.routeNext ch (c.coming ch ||| closedMask) else c1

/-- The entries of a core that lead into the sites are closed, those that wait for MEMBER too. -/
def Core.closeInto (c : Core) (w : Wafer) (sites : List Site) : Core :=
  userChans.foldl (fun c ch => c.closeCopies ch (c.leadsInto w sites ch) (c.ahead.leadsInto w sites ch)) c

/-- Every entry outside the sites, and outside some others, that leads into them is closed. -/
def State.closeBorder (s : State) (but sites : List Site) : State :=
  s.mapCores fun c => if (sites ++ but).contains c.ident.site then c else c.closeInto s.wafer sites

/-- The fields that a channel's message reaches which arrives on an input: the field of that site, or those that the entry of a
site in no field leads on to (R305). -/
def State.reaches (s : State) (ch : Chan) : Nat → Site × Port → List (BitVec 16)
  | 0, _ => []
  | n + 1, (t, q) => match s.holder t with
    | some f => [f.fnum]
    | none => linkPorts.flatMap fun out =>
      if (s.coreAt t).carries ch q out then ((s.fedBy t out).map (s.reaches ch n)).getD [] else []

/-- Steps along a seam route through sites of no field that the model follows: more than a wafer has on one path. -/
def seamSteps (s : State) : Nat := s.others.length + 2

/-- The inputs from which a channel's messages come to some inputs by one router (R305). -/
def State.backOnce (s : State) (ch : Chan) (vs : List (Site × Port)) : List (Site × Port) :=
  (s.core :: s.others).flatMap fun c =>
    (allPorts.filter fun p => linkPorts.any fun out => c.carries ch p out && ((s.fedBy c.ident.site out).map vs.contains).getD false).map
      fun p => (c.ident.site, p)

/-- The inputs from which a channel's messages come to some inputs by routers of sites in no field, back to the routers of
fields. -/
def State.upstream (s : State) (ch : Chan) : Nat → List (Site × Port) → List (Site × Port) → List (Site × Port)
  | 0, _, found => found
  | n + 1, vs, found =>
    let new := ((s.backOnce ch vs).filter fun v => !found.contains v).eraseDups
    if new.isEmpty then found else s.upstream ch n (new.filter fun v => (s.holder v.1).isNone) (found ++ new)

/-- The inputs of some sites that come from outside them. -/
def State.outerInputs (s : State) (sites : List Site) (site : Site) : List Port :=
  linkPorts.filter fun p => match s.wafer.neighbour site p with
    | some t => !sites.contains t
    | none => true

/-- The inputs by which a channel's seam routes into some sites come. -/
def State.seamInputs (s : State) (sites : List Site) (ch : Chan) : List (Site × Port) :=
  s.upstream ch (seamSteps s) (sites.flatMap fun t => (s.outerInputs sites t).map fun p => (t, p)) []

/-- The entry of a site and a channel is closed because it leads into some field that is stopping or descheduled (R271). -/
def State.noted (s : State) (site : Site) (ch : Chan) : Bool := s.sup.seams.any fun x => decide (x.site = site) && decide (x.ch = ch)

/-- The entries at the sending side of the seams into a field: those that are open, and those that another field's stop has closed. -/
def State.seamsInto (s : State) (sites : List Site) (fnum : BitVec 16) : List Seam :=
  userChans.flatMap fun ch =>
    (((s.seamInputs sites ch).map (·.1)).eraseDups.filter fun t =>
      (s.holder t).isSome && (!closedBit ((s.coreAt t).route ch) || s.noted t ch)).map fun t => { site := t, ch := ch, fnum := fnum }

/-- An entry closed. -/
def State.closeAt (s : State) (site : Site) (ch : Chan) : State := s.setCoreAt site fun c => c.closeCopies ch true false

/-- The machine with every entry that waits for MEMBER made current. -/
def State.ahead (s : State) : State := s.mapCores Core.ahead

/-- The seams into a field close at their sending sides, and are noted (R271, R306): the current copy of an entry that leads into it, and
a next copy that would. -/
def State.closeSeams (s : State) (f : Field) : State :=
  let xs := s.seamsInto (s.coreSites f) f.fnum
  let ys := (s.ahead.seamsInto (s.coreSites f) f.fnum).filter fun y => (s.coreAt y.site).route y.ch &&& nextvBit ≠ 0
  (xs ++ ys).eraseDups.foldl (fun t x => t.setCoreAt x.site fun c => c.closeCopies x.ch (xs.contains x) (ys.contains x))
    (s.mapSup fun u => { u with seams := u.seams ++ (xs ++ ys).eraseDups })

/-- An entry is open again, a next copy of it too. -/
def Core.openEntry (c : Core) (ch : Chan) : Core :=
  let c1 := c.routeSet ch (c.route ch &&& ~~~closedMask)
  if (c.route ch) &&& nextvBit = 0 then c1 else c1.routeNext ch (c.coming ch &&& ~~~closedMask)

/-- The seams noted for a field reopen (R331), but those that lead into another field too that is stopping or descheduled (R271). -/
def State.openSeams (s : State) (fnum : BitVec 16) : State :=
  let t := s.mapSup fun u => { u with seams := u.seams.filter fun x => x.fnum ≠ fnum }
  (s.sup.seams.filter fun x => decide (x.fnum = fnum) && !t.noted x.site x.ch).foldl (fun t x =>
    t.setCoreAt x.site fun c => c.openEntry x.ch) t

/-- The fields that the seam routes of an entry of a site join: those it leads to, those it comes from, and the site's own. -/
def State.seamFields (s : State) (site : Site) (ch : Chan) : List (BitVec 16) :=
  let c := s.coreAt site
  let outs := linkPorts.filter fun out => allPorts.any fun p => c.carries ch p out
  let dests := outs.flatMap fun out => ((s.fedBy site out).map (s.reaches ch (seamSteps s))).getD []
  let sources := if (s.holder site).isSome then [] else
    (s.upstream ch (seamSteps s) (allPorts.map fun p => (site, p)) []).filterMap fun v => (s.holder v.1).map (·.fnum)
  (((s.holder site).map (·.fnum)).toList ++ dests ++ sources).eraseDups

/-- A field's entries that lead out of it, with the fields that each leads into; 0 for one that is closed for good (R271, R306). -/
def State.seamsOf (s : State) (f : Field) : List SeamOut :=
  (((s.sitesOf f).zip (positions f.rows f.cols))).flatMap fun (t, i, j) =>
    let c := s.coreAt t
    (userChans.filter fun ch => (s.outerInputs (s.coreSites f) t).any fun out => allPorts.any fun p => c.carries ch p out).map fun ch =>
      let away := (s.sup.seams.filter fun x => decide (x.site = t) && decide (x.ch = ch)).map (·.fnum)
      let lost := closedBit (c.route ch) && away.isEmpty
      { row := i, col := j, ch := ch
        fnums := if lost then [0] else (away ++ (s.seamFields t ch).filter fun n => n ≠ f.fnum).eraseDups }

/-- Fields of one context at most. -/
def State.oneContext (s : State) (fnums : List (BitVec 16)) : Bool := (fnums.map fun n => (s.field n).map (·.asid)).eraseDups.length ≤ 1

/-- The fields whose messages of a channel come to an input of a site in no field, or go on from it. -/
def State.inputFields (s : State) (ch : Chan) (site : Site) (p : Port) : List (BitVec 16) :=
  let outs := linkPorts.filter fun out => (s.coreAt site).carries ch p out
  if outs.isEmpty then []
  else (outs.flatMap fun out => ((s.fedBy site out).map (s.reaches ch (seamSteps s))).getD []) ++
    (s.upstream ch (seamSteps s) [(site, p)] []).filterMap fun v => (s.holder v.1).map (·.fnum)

/-- No input buffer of a site in no field carries user channels of two contexts (R202, R308). -/
def State.unshared (s : State) : Bool :=
  (s.core :: s.others).all fun c => (s.holder c.ident.site).isSome ||
    allPorts.all fun p => s.oneContext (userChans.flatMap fun ch => s.inputFields ch c.ident.site p)

/-- The steps of some inputs of a channel to the inputs that outputs of their routers feed. -/
def State.steps (s : State) (outs : Core → Port → List Port) : List ((Site × Port) × (Site × Port)) :=
  ((s.core :: s.others).flatMap fun c => allPorts.flatMap fun p => (outs c p).filterMap fun out =>
    (s.fedBy c.ident.site out).map fun v => ((c.ident.site, p), v)).eraseDups

/-- The routes have no cycle: of (router, input) vertices over all user channels (R332), nor, with the ways of its markers, on a channel
(R201). -/
def State.noCycle (s : State) (ch : Chan) : Bool :=
  let along (k : Chan) (c : Core) (p : Port) : List Port := linkPorts.filter fun out => c.carries k p out
  let marks (c : Core) (p : Port) : List Port :=
    if inJoin (c.route ch) p then linkPorts.filter fun out => (markOuts (c.route ch)).getLsbD (portNo out) else []
  acyclic (s.steps fun c p => userChans.flatMap fun k => along k c p) && acyclic (s.steps fun c p => along ch c p ++ marks c p)

/-- The core with each entry that has a next copy naming the outputs of both. -/
def Core.united (c : Core) : Core :=
  { c with router := { c.router with route := Vector.ofFn fun i => c.router.route[i.val] ||| (c.coming (BitVec.ofNat 5 i.val) &&& 0x1F1F1F1F1F) } }

/-- The supervisor sets an entry of a user channel, or loads it to become current, only where the fields that its seam routes join are of
one context (R305) and no buffer is shared by two (R202, R308), whichever copies of other entries are current then; where no cycle
arises (R276, R201, R332), and the other conditions of R276 hold; and it opens no entry that it has closed because of a field that is
stopping or descheduled (R271). -/
def State.mayRoute (s : State) (site : Site) (ch : Chan) (entry : Word) : Bool :=
  let put (t : State) : State := t.setCoreAt site fun c => c.routeSet ch entry
  let both := put (s.mapCores Core.united)
  reservedChan ch || (both.oneContext (both.seamFields site ch) && both.unshared && (put s).noCycle ch && (put s.ahead).noCycle ch &&
    (closedBit entry || !s.noted site ch) && s.behavesWith ((s.coreAt site).routeSet ch entry))

/-- ROUTENEXT (R304, R198). -/
def execRoutenext (ch : Chan) (entry : Word) (s : State) : Result :=
  .next (if s.mayRoute s.core.ident.site ch entry then s.command' 0x02 (some (s.core.routeNext ch entry)) else s)

/-- ROUTESET (R304, R197). -/
def execRouteset (ch : Chan) (entry : Word) (s : State) : Result :=
  .next (if s.mayRoute s.core.ident.site ch entry then s.command' 0x03 (some (s.core.routeSet ch entry)) else s)

/-! ## Grant (R269) -/

/-- FIELDDIM of a shape (R274). -/
def dimWord (rows cols : Nat) : Word := BitVec.ofNat 64 (cols % 1024 + rows % 1024 * 2 ^ 10)

/-- What the supervisor gives a core of every field: the entries of channels 0 to 3 (R202, R305), and SR (R347). -/
def Core.systemSet (c : Core) (n : Nat) : Core :=
  let c1 := [(0 : Chan), 1, 2, 3].foldl (fun c ch => c.routeSet ch (Config.systemRoute n c.ident.site ch)) c
  { c1 with check := { c1.check with sr := Config.sampleRate n % 9 } }

/-- A core as the grant leaves it before START (R269 steps 2 and 3, R303): cleared, identified, loaded, routed; no
entry of the site from before it stays, nor one that waited for MEMBER (R305, R308). -/
def Core.grant (c : Core) (im : Image) (hs : List Hop) (f : Field) (id : Word) (n : Nat) (node : Node) (i j : Nat) : Core :=
  let c1 := c.clear.dropRoutes
  let c2 := { c1 with csr := { c1.csr with
    fieldId := id, fieldOrg := zext (nameOfNode f.rect (f.row, f.col)), fieldDim := dimWord f.rows f.cols } }
  let c3 := ((im.load i j c2).loadRoutes hs node).systemSet n
  { c3 with far := { c3.far with pset := f.pumps } }

/-- A granted core that lies in a triplicated range, or is a copy of one of its cores (R345, R346). -/
def Core.tripled (c : Core) (im : Image) (i j : Nat) (copyOf : Option (BitVec 26)) : Core :=
  let c1 := { c with ident := { c.ident with triple := true, readsAs := copyOf } }
  match copyOf with
  | some _ => { c1 with issue := { c1.issue with plain := c1.issue.plain &&& im.copyStrands i j, allowed := im.copyStrands i j } }
  | none => c1

/-- The cores of a shape granted (R269 steps 2 and 3): those at some positions. -/
def State.grantCores (s : State) (f : Field) (im : Image) (hs : List Hop) (t : Option Triple) (ps : List Node) : State :=
  let id := s.fieldIdOf f
  let n := s.free
  ps.foldl (fun s (i, j) =>
    let node : Node := (f.row + i, f.col + j)
    let copies := (t.map fun t => t.copies node).getD []
    let put (s : State) (q : Node) (g : Core → Core) : State := match s.wafer.siteOf f.rect q with
      | some site => s.setCoreAt site g
      | none => s
    let base (q : Node) (c : Core) : Core := c.grant im hs f id n q i j
    let s1 := put s node fun c => if copies.isEmpty then base node c else (base node c).tripled im i j none
    copies.foldl (fun s q => put s q fun c => (base q c).tripled im i j (some (nameOfNode f.rect node))) s1) { s with free := n + 1 }

/-- The start barrier is sent to some sites (R269 step 4): each START is a step of its own, and they come next. -/
def State.sendStart (s : State) (sites : List Site) : State :=
  { s with agenda := (sites.map fun t => { site := t, act := some .start }) ++ s.agenda }

/-- The home supervisor of a field (R27, R269): the nearest attachment column, the lower number on a tie. -/
def nearestSup (col : Nat) : Nat :=
  let far (k : Nat) : Nat :=
    let c := (supAt k).col
    if c ≤ col then col - c else c - col
  (List.range 32).foldl (fun a k => if far k < far a then k else a) 0

/-- The lowest field number that no field of the wafer holds (R269). -/
def State.freeFnum (s : State) : BitVec 16 :=
  ((List.range 65535).find? fun k => !s.sup.fields.any fun f => f.fnum.toNat = k + 1).elim 0 fun k => BitVec.ofNat 16 (k + 1)

/-- The field that a record makes at a placement, before pumps are chosen. -/
def State.newField (s : State) (ws : List Word) (im : Image) (rect : Nat) (x : Shape) : Field :=
  let bs := recordBytes ws
  let pn := (pumpsOf bs im).getD (0, 0, 0, 0)
  { fnum := s.freeFnum, asid := BitVec.ofNat 16 (fieldAt bs 2 2), launchId := BitVec.ofNat 32 (fieldAt bs 4 4), record := ws
    image := fieldAt bs 8 8, rect := rect, row := x.row, col := x.col, rows := x.rows, cols := x.cols, prio := fieldAt bs 23 1
    options := BitVec.ofNat 32 (fieldAt bs 36 4), save := fieldAt bs 40 8, pumps := [], slots := pn.2
    imgm := Config.shake256 im.bytes, home := nearestSup (((s.wafer.siteOf rect (x.row, x.col)).map (·.col)).getD 0), phase := .loaded
    started := none, saves := [], replays := [], resizes := [], copyAt := [], drains := none, doneAt := none, seamsOut := []
    mhz := 0, borders := 0, rtm := [] }

/-- A field that a record makes at a placement is granted (R269); none where a pump that was chosen has no room. -/
def State.grantField (s : State) (ws : List Word) (im : Image) (rect : Nat) (x : Shape) (t : Option Triple) (hs : List Hop) : Option State :=
  let f0 := s.newField ws im rect x
  let pn := (pumpsOf (recordBytes ws) im).getD (0, 0, 0, 0)
  let want := slotsWanted f0.asid f0.fnum pn.2.1 pn.2.2.1 pn.2.2.2
  (s.choosePumps pn.1 want).bind fun ps =>
    let f1 := { f0 with pumps := ps, copyAt := (t.map fun t => t.offsets x).getD [] }
    let sites := s.coreSites f1
    let f := { f1 with mhz := s.wafer.clockFor sites }
    let s0 := { s with free := s.free + 1 }.mapSup fun u => { u with fields := u.fields ++ [f] }
    (State.addAll s0 s.free want ps).map fun s1 =>
      (((s1.clockGrant f.mhz sites).closeBorder [] sites).grantCores f im hs t (positions x.rows x.cols)).sendStart sites

/-- A launch record placed at a free placement, or rejected; none while there is no placement (R269). -/
def State.placeRecord (s : State) (ws : List Word) : Option State :=
  let bs := recordBytes ws
  match s.launchRefused bs, s.imageFor bs with
  | some (status, detail), _ => some (s.reject bs status detail)
  | none, none => some (s.reject bs 0x12 8)
  | none, some im => match s.placeFor bs im with
    | none => if fieldAt bs 20 1 / 4 % 2 = 1 then some (s.reject bs 0x11 20) else none
    | some (rect, x, t, hs) => some ((s.grantField ws im rect x t hs).getD (s.reject bs 0x13 30))

/-! ## Completion (R270) -/

/-- A core that leaves its field: cleared, in no field, without routes (R303, R305). -/
def Core.vacate (c : Core) : Core :=
  let c1 := c.clear
  { c1 with csr := { c1.csr with fieldId := 0, fieldOrg := 0, fieldDim := 0 }, router := Router.reset }

/-- The acknowledgement of a shoot-down of the core at some sites (R279). -/
def Mail.shootFrom (sites : List Site) : Mail → Bool
  | .ack site code _ _ => sites.contains site && decide (code = 0x09)
  | _ => false

/-- Some sites leave their field. Acknowledgements of shoot-downs by their cores say nothing of the cores that come (R280). -/
def State.vacate (s : State) (sites : List Site) : State :=
  (sites.foldl (fun s t => s.setCoreAt t Core.vacate) s).mapSup fun u => { u with mail := u.mail.filter fun x => !x.mail.shootFrom sites }

/-- The cycles that a field has counted since its start barrier (R270). -/
def State.cyclesOf (s : State) (f : Field) : Word :=
  match f.started with
  | none => 0
  | some (site, n) => if f.phase = .descheduled then n else (s.coreAt site).csr.cycle - n

/-- Notes about the entries of some sites go, and seams into a field that is no longer where they lead close for good, whatever other
field they lead into (R306). -/
def Sup.dropSeams (u : Sup) (sites : List Site) (fnum : BitVec 16) : Sup :=
  let lost := (u.seams.filter fun x => x.fnum = fnum).map fun x => (x.site, x.ch)
  { u with
    seams := u.seams.filter fun x => !sites.contains x.site && !lost.contains (x.site, x.ch)
    fields := u.fields.map fun f =>
      { f with seamsOut := f.seamsOut.map fun y => { y with fnums := y.fnums.map fun n => if n = fnum then 0 else n } } }

/-- Nothing in the mailboxes and in what is held concerns a field any more; border reports stay in the log (R307, R339). -/
def Sup.forget (u : Sup) (fnum : BitVec 16) : Sup :=
  let mine := u.mail.filter fun x => x.fnum = fnum
  { u with
    mail := u.mail.filter fun x => x.fnum ≠ fnum
    log := u.log ++ (mine.map (·.mail)).filter fun m => match m with
      | .border _ _ _ _ _ => true
      | _ => false
    held := u.held.filter fun h => h.2.fnum ≠ fnum }

/-- A field ends: the record is written, its seams close for good, and its cores and slots become free (R270, R306). -/
def State.endField (s : State) (f : Field) (status : Nat) : State :=
  let cycles := f.doneAt.getD (s.cyclesOf f)
  let sites := s.coreSites f
  let s1 := s.complete (completion status f.launchId.toNat (s.fieldIdOf f) cycles 0)
  let s2 := ((((s1.closeSeams f).closeBorder [] sites).vacate sites).dropSlots f.fnum)
  s2.mapSup fun u =>
    let v := (u.dropSeams sites f.fnum).forget f.fnum
    { v with
      fields := v.fields.filter fun x => x.fnum ≠ f.fnum
      queued := v.queued.filter fun q => match q with | .restore n _ => n ≠ f.fnum | .record _ => true }

/-! ## DRAIN (R270) -/

/-- A core is idle (R270, R291): no strand, no engine command, nothing staged. -/
def Core.idle (c : Core) : Bool :=
  (c.strands.toList.all fun st => !st.exists) && c.cmds.isEmpty && c.router.staged.isEmpty

/-- The DRAIN code of a marker (R177). -/
def drainCode : BitVec 5 := 0x10

/-- A core's DRAIN markers, at its local input (R270). -/
def Core.injectDrain (c : Core) : Core :=
  userChans.foldl (fun c ch => if omask (c.route ch) 4 = 0 then c else c.inject (c.marker ch drainCode)) c

/-- The DRAIN records that a channel of a core holds. -/
def Core.drainRecords (c : Core) (ch : Chan) : Nat := (c.chan ch).items.count (.marker drainCode)

/-- The sinks of a field, which are the local ports that its routes name as an output (R270), by number of core and channel, with the
DRAIN records that each holds. -/
def State.sinks (s : State) (f : Field) : List (Nat × Chan × Nat) :=
  (s.coreSites f).zipIdx.flatMap fun (t, i) =>
    let c := s.coreAt t
    (userChans.filter fun ch => allPorts.any fun p => c.carries ch p .loc).map fun ch => (i, ch, c.drainRecords ch)

/-- The injected markers have reached every sink: each holds a DRAIN record more than before (R270). One that has no ring never does
(R182; log entry 16). -/
def State.drained (s : State) (f : Field) (before : List (Nat × Chan × Nat)) : Bool :=
  before.all fun (i, ch, n) => match (s.coreSites f)[i]? with
    | some t => decide (n < (s.coreAt t).drainRecords ch)
    | none => true

/-- DRAIN (R270): once the field is idle its markers are injected; once they have reached every sink it completes. -/
def execDrain (fnum : BitVec 16) (s : State) : Result :=
  .next (match s.field fnum with
    | none => s
    | some f =>
      let sites := s.coreSites f
      match f.phase, f.drains with
      | .loaded, none =>
        if sites.all fun t => (s.coreAt t).idle && decide ((s.coreAt t).issue.plain = 0) then
          sites.foldl (fun s t => s.setCoreAt t Core.injectDrain) (s.setField fnum fun f => { f with drains := some (s.sinks f) })
        else s
      | .loaded, some before => if s.drained f before then s.endField f 0 else s
      | _, _ => s)

end Sys2Proof.Machine
end

