-- ==== Sys2Proof/Machine/Stop.lean ====
section
/-! DEFINITION. Sys2Proof/Machine/Stop.lean: stopping a field and what follows: pre-emption, checkpoints, save images, restores,
rollback (R330 to R342), placement of what waits (R269), and resizing (R272 to R275). -/

namespace Sys2Proof.Machine

/-! ## Stopping (R330 to R332) -/

/-- Whether QUIESCE passes from a site to a neighbour: inside a field, and along a seam route from a site in no field into a field
that stops (R330, R332). -/
def State.quiesces (s : State) (a b : Site) : Bool :=
  match s.holder a, s.holder b with
  | some f, some g => decide (f.fnum = g.fnum)
  | some _, none => false
  | none, none => true
  | none, some g => match g.phase with
    | .stopping _ => true
    | _ => false

/-- QUIESCE_FORWARD (R332): it passes on an output, and closes every renorm window there (R194). -/
def execQuiesceForward (out : Port) (s : State) : Result :=
  let c := s.core
  .next (if !c.quiesced out || c.router.qOut.contains out || !allPorts.any (fun p => c.feeds p out) then s
    else
      let s1 := s.mapRouter fun r => { r with qOut := r.qOut ++ [out] }
      match out with
      | .loc => s1.mapCore fun c => userChans.foldl (fun c ch => c.closeWindows ch fun _ => true) c
      | _ => match s.wafer.neighbour c.ident.site out with
        | some t =>
          if s.quiesces c.ident.site t then
            s1.setCoreAt t fun x => { x with router := { x.router with qIn := x.router.qIn ++ [opposite out] } }
          else s1
        | none => s1)

/-- The routers of sites in no field that seam routes into some sites pass: channel, site, input. -/
def State.transit (s : State) (sites : List Site) : List (Chan × Site × Port) :=
  userChans.flatMap fun ch => ((s.seamInputs sites ch).filter fun v => (s.holder v.1).isNone).map fun v => (ch, v)

/-- The inputs that they feed. -/
def State.fedByTransit (s : State) (ts : List (Chan × Site × Port)) : List (Site × Port) :=
  ts.flatMap fun (ch, x, p) => (linkPorts.filter fun out => (s.coreAt x).carries ch p out).filterMap (s.fedBy x)

/-- QUIESCE is sent into every seam route into some sites (R330 step 2), where the entries at the sending sides are closed. It stands
behind what they have forwarded: on an input that such a link feeds it has arrived, and through sites in no field it goes on by
QUIESCE_FORWARD. -/
def State.quiesceSeams (s : State) (sites : List Site) : State :=
  let ts := s.transit sites
  let later := s.fedByTransit ts
  let own := sites.foldl (fun t site => t.setCoreAt site fun c => { c with router := { c.router with
    qIn := (s.outerInputs sites site).filter fun p => !later.contains (site, p) } }) s
  ((ts.map (·.2)).eraseDups).foldl (fun t (x, p) => t.setCoreAt x fun c => { c with router := { c.router with
    qIn := c.router.qIn.filter (· ≠ p) ++ (if later.contains (x, p) then [] else [p])
    qOut := c.router.qOut.filter fun out => !((s.fedBy x out).map later.contains).getD false } }) own

/-- The image that a stopped field will be restored from, if it is to be (R330, R339). -/
def stopKind (why : BitVec 2) : Option Nat := if why = 0 then some 1 else if why = 3 then some 2 else none

/-- A field is stopped (R330 steps 1 and 2, R339, R355): seams close behind their QUIESCE, and QUIESCE is sent to every core,
each a step of its own that comes next. Its restore takes its place among what waits for cores (R337). Why: 0 pre-emption,
1 checkpoint, 2 SUPV DONE, of which the cycles are counted now (R270), 3 rollback. -/
def State.stopField (s : State) (f : Field) (why : BitVec 2) : State :=
  let sites := s.coreSites f
  let done := if why = 2 then some (s.cyclesOf f) else f.doneAt
  let s1 := (s.closeSeams f).setField f.fnum fun f => { f with phase := .stopping why, doneAt := done }
  let s2 := (s1.quiesceSeams sites).mapSup fun u =>
    { u with queued := u.queued ++ ((stopKind why).map fun k => Queued.restore f.fnum k).toList }
  { s2 with agenda := (sites.map fun t => { site := t, act := some .quiesce }) ++ s2.agenda }

/-- A field holds a site that is withheld from grants (R349). -/
def State.holdsWithheld (s : State) (f : Field) : Bool := (s.coreSites f).any fun t => s.wafer.withheld.contains t

/-- Something of higher priority waits for cores (R269). -/
def State.outranked (s : State) (f : Field) : Bool := s.sup.queued.any fun q => decide (f.prio < s.prioOf q)

/-- A page-table change waits for a locked entry of the field (R280). -/
def State.holdsLocked (s : State) (f : Field) : Bool :=
  s.sup.changes.any fun x => decide (x.asid = f.asid) && (s.coreSites f).any fun t => x.waits.contains t

/-- PREEMPT (R330, R269, R280, R349): a pre-emptible field that is outranked, or must move, is stopped. -/
def execPreempt (fnum : BitVec 16) (s : State) : Result :=
  .next (match s.field fnum with
    | none => s
    | some f =>
      if f.phase = .loaded ∧ f.options.getLsbD 0 ∧ (s.outranked f ∨ s.holdsWithheld f ∨ s.holdsLocked f) then s.stopField f 0 else s)

/-! ## Resizing (R272 to R275) -/

/-- The fields of a launch record that are zero in a resize record, by offset and size (R268, R274): those before FIELDID, and those
after it. -/
def resizeZeros1 : List (Nat × Nat) := [(2, 2), (4, 4)]
def resizeZeros2 : List (Nat × Nat) := [(20, 1), (21, 1), (22, 1), (23, 1), (24, 2), (26, 2)]
def resizeZeros3 : List (Nat × Nat) := [(32, 2), (34, 2), (36, 4), (40, 8), (48, 16)]

/-- The first of some fields that is not zero, by its offset. -/
def firstNonzero (bs : List Byte) (fields : List (Nat × Nat)) : Option Nat := (fields.find? fun x => !zerosAt bs x.1 x.2).map (·.1)

/-- The first field of a resize record that holds an excluded value, by its offset (R274, R268); `known` tells whether FIELDID names a
field. -/
def resizeFault (bs : List Byte) (known : Bool) : Option Nat :=
  [firstNonzero bs resizeZeros1, if known then none else some 8, if fieldAt bs 16 2 = 0 then some 16 else none,
    if fieldAt bs 18 2 = 0 then some 18 else none, firstNonzero bs resizeZeros2, if fieldAt bs 28 4 = 0 then some 28 else none,
    firstNonzero bs resizeZeros3].findSome? id

/-- A resize ends with a status; the next one of the field may begin. -/
def State.resizeOver (s : State) (f : Field) (status : Nat) : State :=
  (s.complete (completion status ((f.resizes.head?.map fun r => r.launchId.toNat).getD 0) (s.fieldIdOf f) (s.cyclesOf f) 0)).setField
    f.fnum fun f => { f with resizes := f.resizes.drop 1, drains := none }

/-- A resize is rejected, as the field's image is not valid in the new shape (R270): FIELDID is zero, and DETAIL is the offset of the
field that is at fault. Which one that is R270 leaves open: the model gives ROWS (DESIGN CHOICE, log entry 96). -/
def State.resizeRefused (s : State) (f : Field) : State :=
  (s.complete (completion 0x12 ((f.resizes.head?.map fun r => r.launchId.toNat).getD 0) 0 0 16)).setField f.fnum fun f =>
    { f with resizes := f.resizes.drop 1, drains := none }

/-- A field in another shape, with the copies of the cores that it has there. -/
def Field.reshaped (f : Field) (rows cols : Nat) : Field :=
  { f with rows := rows, cols := cols, copyAt := f.copyAt.filter fun k => decide (k.row < rows) && decide (k.col < cols) }

/-- The nodes of a field's copies. -/
def Field.copyNodes (f : Field) : List Node := f.copyAt.map fun k => k.node (f.row, f.col)

/-- The routes of a field's image for its shape, with the channels that the image routes; none where firmware's checks refuse them
(R305, R276). -/
def State.routesFor (s : State) (f : Field) : Option (Image × List Chan × List Hop) :=
  match s.readImage f.asid f.image with
  | none => none
  | some im =>
    if im.behaves f.rows f.cols f.slots then
      (compileRoutes im f.shape f.triple).map fun hs => (im, (im.records 4).map (fun r => BitVec.ofNat 5 (fieldAt r 0 1)), hs)
    else none

/-- An entry without what a router's state adds to it (R187). -/
def bareEntry (e : Word) : Word := e &&& ~~~(closedMask ||| nextvBit)

/-- The next entries of a core on some channels (R273 step 1), where the entry that it has, or that waits for MEMBER, is another. A
router that joins no marker on a channel takes its entry at once. -/
def Core.nextRoutes (c : Core) (chs : List Chan) (hs : List Hop) (n : Node) : Core :=
  chs.foldl (fun c ch =>
    let e := entryFor hs ch n
    if e = bareEntry (c.coming ch) then c
    else if joinOf (c.route ch) = 0 then (c.dropNext ch).routeSet ch e else c.routeNext ch e) c

/-- The channels, of some, on which the entry of some node changes. -/
def State.changedChans (s : State) (f : Field) (chs : List Chan) (hs : List Hop) (ns : List Node) : List Chan :=
  chs.filter fun ch => ns.any fun n => match s.wafer.siteOf f.rect n with
    | some t => decide (entryFor hs ch n ≠ bareEntry ((s.coreAt t).coming ch))
    | none => false

/-- A channel mask. -/
def chanMask (chs : List Chan) : BitVec 32 := chs.foldl (fun m ch => m ||| (1#32 <<< ch.toNat)) 0

/-- The membership change of R273 at the cores that stay, copies among them: next entries, then FIELDDIM and the MEMBER markers of
the channels that the core sends on. -/
def State.memberChange (s : State) (f : Field) (chs : List Chan) (hs : List Hop) (stay : List Node) (dim : Word) : State :=
  let changed := s.changedChans f chs hs stay
  let at' (s : State) (n : Node) (g : Core → Core) : State := match s.wafer.siteOf f.rect n with
    | some t => s.setCoreAt t g
    | none => s
  let s1 := stay.foldl (fun s n => at' s n fun c => c.nextRoutes changed hs n) s
  stay.foldl (fun s n => at' s n fun c =>
    c.member dim (chanMask (changed.filter fun ch => omask (c.route ch) 4 ≠ 0))) s1

/-- Growth (R275): the strip is granted, the membership changes, the strip's strands start. The field keeps its clock, so that the strip
may touch no region that has a slower one (R3). -/
def State.grow (s : State) (f : Field) (r : ResizeRun) : State :=
  let strip := (positions r.rows r.cols).filter fun p => !(decide (p.1 < f.rows) && decide (p.2 < f.cols))
  let nodes := strip.map fun p => (f.row + p.1, f.col + p.2)
  let sites := nodes.filterMap (s.wafer.siteOf f.rect)
  let own := s.coreSites f
  let f1 := f.reshaped r.rows r.cols
  if sites.length ≠ nodes.length ∨ !sites.all s.free? ∨ s.wafer.clockFor sites < f.mhz ∨ !s.clockOk f.mhz f.fnum sites then
    s.resizeOver f 0x31
  else match s.routesFor f1 with
    | some (im, chs, hs) =>
      let s1 := ((s.setField f.fnum fun f => f.reshaped r.rows r.cols).clockGrant f.mhz sites).closeBorder own sites
      let s2 := s1.grantCores f1 im hs none strip
      let s3 := s2.memberChange f chs hs (f.shape.nodes ++ f.copyNodes) (dimWord r.rows r.cols)
      (s3.sendStart sites).resizeOver f1 0x30
    | none => s.resizeRefused f

/-- The membership change of a router is over: it has taken its next entries (R198, R273). -/
def Core.switched (c : Core) : Bool := userChans.all fun ch => c.route ch &&& nextvBit = 0

/-- No membership change of a field is under way. -/
def State.settled (s : State) (f : Field) : Bool := (s.coreSites f).all fun t => (s.coreAt t).switched

/-- A requested shrink as FIELDDIM shows it (R274). -/
def pendDim (f : Field) (r : ResizeRun) : Word :=
  dimWord f.rows f.cols ||| (dimWord r.rows r.cols <<< 20) ||| (1#64 <<< 40)

/-- FIELDDIM written in every core of a field. -/
def State.setDims (s : State) (f : Field) (dim : Word) : State :=
  (s.coreSites f).foldl (fun s t => s.setCoreAt t fun c => { c with csr := { c.csr with fieldDim := dim } }) s

/-- A resize that would grow one way and shrink the other (R274). -/
def Field.mixed (f : Field) (rows cols : Nat) : Bool :=
  (decide (f.rows < rows) && decide (cols < f.cols)) || (decide (rows < f.rows) && decide (f.cols < cols))

/-- A shrink has been requested of a field's image. -/
def State.requested (s : State) (f : Field) (r : ResizeRun) : Bool := (s.coreSites f).any fun t => (s.coreAt t).csr.fieldDim = pendDim f r

/-- The first of a field's resizes begins (R275), once the membership change of the one before is over: a growth is carried out, a shrink
is requested of the image, unless it has come further. One that by its turn would grow one way and shrink the other is no strip and fails. -/
def State.beginResize (s : State) (fnum : BitVec 16) : State :=
  match s.field fnum with
  | none => s
  | some f => match f.resizes with
    | [] => s
    | r :: _ =>
      if r.cut ∨ !s.settled f then s
      else if f.mixed r.rows r.cols then s.resizeOver f 0x31
      else if f.rows ≤ r.rows ∧ f.cols ≤ r.cols then s.grow f r
      else s.setDims f (pendDim f r)

/-- Resizes begin, each when the one before has ended. -/
def State.beginResizes : Nat → BitVec 16 → State → State
  | 0, _, s => s
  | n + 1, fnum, s =>
    let s1 := s.beginResize fnum
    match s.field fnum, s1.field fnum with
    | some f, some f1 => if f1.resizes.length < f.resizes.length then State.beginResizes n fnum s1 else s1
    | _, _ => s1

/-- A resize record (R274, R275): checked, queued at its field, begun when it is the first. One record may change rows and columns
the same way; the strip is then both (log entry 71). -/
def State.resize (s : State) (ws : List Word) : State :=
  let bs := recordBytes ws
  let field := s.sup.fields.find? fun f => (s.fieldIdOf f).toNat = fieldAt bs 8 8
  match resizeFault bs field.isSome, field with
  | some off, _ => s.reject bs 0x10 off
  | none, none => s.reject bs 0x10 8
  | none, some f =>
    let rows := fieldAt bs 16 2
    let cols := fieldAt bs 18 2
    if f.mixed rows cols then s.reject bs 0x10 16
    else
      let r : ResizeRun := { rows := rows, cols := cols, launchId := BitVec.ofNat 32 (fieldAt bs 4 4), micros := fieldAt bs 28 4
                             cut := false }
      let s1 := s.setField f.fnum fun f => { f with resizes := f.resizes ++ [r] }
      if f.resizes.isEmpty ∧ f.phase = .loaded then s1.beginResizes 1 f.fnum else s1

/-- A record of the launch ring is read (R268): KIND 2 is a resize record. -/
def State.readRecord (s : State) (ws : List Word) : State :=
  if fieldAt (recordBytes ws) 0 2 = 2 then s.resize ws else s.launch ws

/-- A record that the host posts: it stays in the ring until the wafer is READY and has joined its domain (R384, R232). -/
def State.postRecord (s : State) (ws : List Word) : State :=
  if s.boot.ready && s.sup.domain.isSome then s.readRecord ws else s.mapSup fun u => { u with ring := u.ring ++ [ws] }

/-- LAUNCH (R268, R384, R232). -/
def execLaunch (ws : List Word) (s : State) : Result := .next (s.postRecord ws)

/-- RESIZE (R274, R384, R232): a record of the same ring. -/
def execResize (ws : List Word) (s : State) : Result := .next (s.postRecord ws)

/-- The nodes that a shrink gives up: outside the new shape, and the copies of cores there. -/
def Field.stripOf (f : Field) (r : ResizeRun) : List Node :=
  let f1 := f.reshaped r.rows r.cols
  (f.shape.nodes ++ f.copyNodes).filter fun n => !(f1.shape.has n || f1.copyNodes.contains n)

/-- A pending shrink of the field, if one has been requested. -/
def Field.shrinking (f : Field) : Option ResizeRun := match f.resizes with
  | r :: _ => if r.rows < f.rows ∨ r.cols < f.cols then some r else none
  | [] => none

/-- The inputs of a router that come from some sites. -/
def State.inputsFrom (s : State) (site : Site) (gone : List Site) : List Port :=
  linkPorts.filter fun p => match s.wafer.neighbour site p with
    | some t => gone.contains t
    | none => false

/-- Some inputs leave every JOIN of a core (R272). -/
def Core.withdrawInputs (c : Core) (ports : List Port) : Core :=
  userChans.foldl (fun c ch => c.routeSet ch (ports.foldl (fun e p => e &&& ~~~(1#64 <<< (40 + portNo p))) (c.route ch))) c

/-- The inputs of some cores are withdrawn from every JOIN, in the routers that stay and in their own (R272). -/
def State.withdrawAll (s : State) (stay gone : List Site) : State :=
  let s1 := stay.foldl (fun s t => s.setCoreAt t fun c => c.withdrawInputs (s.inputsFrom t gone)) s
  gone.foldl (fun s t => s.setCoreAt t fun c => c.withdrawInputs (.loc :: s.inputsFrom t gone)) s1

/-- Markers of a channel come to an input from the router that feeds it, of some sites (R196). -/
def State.marked (s : State) (sites : List Site) (ch : Chan) (site : Site) (p : Port) : Bool :=
  match s.wafer.neighbour site p with
  | some t => sites.contains t && (markOuts ((s.coreAt t).route ch)).getLsbD (portNo (opposite p))
  | none => false

/-- The inputs in JOIN to which markers came in a machine as it was before, and come no more. -/
def State.deadInputs (s was : State) (sites : List Site) : List (Site × Chan × Port) :=
  sites.flatMap fun t => userChans.flatMap fun ch =>
    (linkPorts.filter fun p => inJoin ((s.coreAt t).route ch) p && was.marked sites ch t p && !s.marked sites ch t p).map fun p => (t, ch, p)

/-- An input leaves JOIN of a core on a channel. -/
def Core.withdrawInput (c : Core) (ch : Chan) (p : Port) : Core := c.routeSet ch (c.route ch &&& ~~~(1#64 <<< (40 + portNo p)))

/-- What is left to withdraw behind inputs that have been: those that no marker reaches any more, one router after the other (R272). -/
def State.withdrawDead (was : State) (sites : List Site) : Nat → State → State
  | 0, s => s
  | n + 1, s => match s.deadInputs was sites with
    | [] => s
    | xs => State.withdrawDead was sites n (xs.foldl (fun t (x, ch, p) => t.setCoreAt x fun c => c.withdrawInput ch p) s)

/-- The participants of a strip leave (R272): at their own routers, where the routers that stay face the strip, and wherever nothing but
their markers came. -/
def State.withdrawStrip (s : State) (kept gone : List Site) : State :=
  State.withdrawDead s (kept ++ gone) (kept ++ gone).length (s.withdrawAll kept gone)

/-- The inputs of a core that leave JOIN of a channel from one machine to another. -/
def State.withdrawn (s t : State) (site : Site) (ch : Chan) : List Port :=
  allPorts.filter fun p => inJoin ((s.coreAt site).route ch) p && !inJoin ((t.coreAt site).route ch) p

/-- No copy of a message waits where a VOTE group loses its members, so that none passes unvoted (R199). -/
def State.voteDrained (s t : State) (sites : List Site) : Bool :=
  userChans.all fun ch =>
    !(sites.any fun x => (s.withdrawn t x ch).any (voteMembers ((s.coreAt x).route ch)).contains) ||
      sites.all fun x => (s.withdrawn t x ch).all fun p => (s.coreAt x).router.inq.all fun m => !(decide (m.1 = p) && decide (m.2.ch = ch))

/-- A message in the router of a core goes on to another router. -/
def Core.passing (c : Core) : Bool :=
  !c.router.staged.isEmpty || c.router.inq.any fun x => linkPorts.any fun out => c.carries x.2.ch x.1 out

/-- RESIZE_SHRINK (R275, R272, R273): the strip is idle; its inputs are withdrawn and the membership changes. Once every router that
stays has taken its new entries and nothing that goes on to one of them is left in the strip, the strip is cleared (log entry 84). A
resize that waits for the membership change before it begins here, too. -/
def execResizeShrink (fnum : BitVec 16) (s : State) : Result :=
  .next (match s.field fnum with
    | none => s
    | some f => match f.resizes.head? with
      | none => s
      | some r =>
        let gone := (f.stripOf r).filterMap (s.wafer.siteOf f.rect)
        let f1 := f.reshaped r.rows r.cols
        let stay := f1.shape.nodes ++ f1.copyNodes
        let kept := stay.filterMap (s.wafer.siteOf f.rect)
        let s1 := s.withdrawStrip kept gone
        if f.phase ≠ .loaded then s
        else if r.cut then
          if (kept.all fun t => (s.coreAt t).switched) && !gone.any fun t => (s.coreAt t).passing then
            ((((s.closeBorder [] gone).vacate gone).setField fnum fun f => f.reshaped r.rows r.cols).resizeOver f1 0x30).beginResizes
              f.resizes.length fnum
          else s
        else if !s.requested f r then s.beginResizes f.resizes.length fnum
        else if !gone.all fun t => (s.coreAt t).idle then s
        else match s.routesFor f1 with
          | none => ((s.setDims f (dimWord f.rows f.cols)).resizeRefused f).beginResizes f.resizes.length fnum
          | some (_, chs, hs) =>
            if !s.voteDrained s1 (kept ++ gone) then s
            else (s1.memberChange f chs hs stay (dimWord r.rows r.cols)).setField fnum fun f =>
              { f with resizes := { r with cut := true } :: f.resizes.drop 1 })

/-- RESIZE_TIMEOUT (R275): the strip of a field that runs is not idle in time. -/
def execResizeTimeout (fnum : BitVec 16) (s : State) : Result :=
  .next (match s.field fnum with
    | none => s
    | some f => match f.shrinking with
      | none => s
      | some r =>
        let gone := (f.stripOf r).filterMap (s.wafer.siteOf f.rect)
        if f.phase ≠ .loaded ∨ r.cut ∨ !s.requested f r ∨ gone.all fun t => (s.coreAt t).idle then s
        else ((s.setDims f (dimWord f.rows f.cols)).resizeOver f 0x31).beginResizes f.resizes.length fnum)

/-! ## SUPV results (R355, R356) -/

/-- The register that a parked SUPV names (R350). -/
def Core.supvReg (c : Core) (n : StrandNo) : GReg := (c.iword (c.strand n).trapPc.toNat).extractLsb' 16 5

/-- The strand is parked on a SUPV. -/
def Strand.onSupv (st : Strand) : Bool := st.parked && decide (st.trapCause = Code.supv.zeroExtend 64)

/-- The service code of a parked SUPV. -/
def Strand.supvCode (st : Strand) : Nat := natBits st.trapVal.toNat 58 6

/-- A SUPV is served: the result goes to g[a], and the strand goes on at the next instruction (R355). -/
def Core.served (c : Core) (n : StrandNo) (x : Word) : Core :=
  let a := c.supvReg n
  c.setStrand n fun st =>
    { st.setLive .run with pc := st.trapPc + 4, g := if a = 0 then st.g else st.g.set a.toNat x }

/-- Every CHECKPOINT of the core is served (R356). -/
def Core.checkpointed (c : Core) (x : Word) : Core :=
  strandNos.foldl (fun c n => if (c.strand n).onSupv && decide ((c.strand n).supvCode = 1) then c.served n x else c) c

/-! ## Save images (R334 to R336) -/

/-- Bytes of a save image (R334). -/
def imageSize (n p : Nat) : Nat := 4096 + n * 524288 + p * 65536

/-- Bytes of a well, a core record and a spill area (R334, R335). -/
def recordBase (i : Nat) : Nat := 4096 + 458752 * i

/-- The words of a spilled message as they would stand in the ring (R333). -/
def Spill.ringWords (x : Spill) : List Word :=
  match x.item with
  | .entry e => e.hdr :: x.words
  | .held h => h.hdr :: h.content
  | .marker _ => []

/-- The cells of memory contents placed at an offset. -/
def cellsAt (base : Nat) (cells : List Host.Cell) : List Host.Cell := cells.map fun x => (base + x.1, x.2)

/-- The bytes of words. -/
def bytesOf (ws : List Word) : List Byte := ws.flatMap fun w => leBytes 8 w.toNat

/-- The cells of a core record at a position. -/
def Core.recordCells (c : Core) (i : Nat) : List Host.Cell :=
  cellsAt (recordBase i) c.well.bytes ++ cellsAt (recordBase i + 393216) (cellsOf (bytesOf c.stateWords))

/-- Where the spill area of a core stands in an image of n cores (R334). -/
def spillBase (n i : Nat) : Nat := recordBase n + spillSize * i

/-- The contents of a core's spill area. -/
def Core.spillArea (c : Core) : List Host.Cell := cellsOf ((bytesOf (c.spilled.flatMap Spill.ringWords)).take spillSize)

/-- The kind of an access in a replay record. -/
def FarKind.code : FarKind → Nat
  | .fld => 0 | .fst => 1 | .famo op => 16 + op.toNat | .fget => 2 | .fput => 3

/-- How an access ended, in a replay record. -/
def FarStatus.code : FarStatus → Nat
  | .ok => 0 | .ueFar => 1 | .farUnsup => 2

/-- The size of an access in a replay record: 0 to 3 for 1, 2, 4 and 8 bytes; a granule's kind tells its size. -/
def sizeCode (nb : Nat) : Nat := if nb = 1 then 0 else if nb = 2 then 1 else if nb = 4 then 2 else 3

/-- The bytes of a replay record (R341): 16 that identify it, then the data. R341 names the fields and not their places, nor how an
operand of more than 44 bits is held (log entry 27). -/
def Replay.image (r : Replay) : List Byte :=
  leBytes 8 (r.va % 2 ^ 52 + r.strand.toNat * 2 ^ 52 + r.kind.code * 2 ^ 55 + sizeCode r.nb * 2 ^ 60 + r.status.code * 2 ^ 62) ++
    leBytes 8 (r.pos % 2 ^ 20 + (Config.replayOperand r.operand).toNat * 2 ^ 20) ++
    (r.data ++ List.replicate (if r.kind = FarKind.fget then 64 else 8) 0).take (if r.kind = FarKind.fget then 64 else 8)

/-- The bytes of a replay area in use. -/
def ReplayBuf.bytes (b : ReplayBuf) : List Byte := (b.recs.flatMap Replay.image).take replaySize

/-- RUSE of a replay area (R334). -/
def ReplayBuf.ruse (b : ReplayBuf) : Nat := b.bytes.length + if b.uncovered then 2 ^ 31 else 0

/-- The contents of a replay area, none in a checkpoint (R342). -/
def replayCells (n : Nat) (bufs : List ReplayBuf) : List Host.Cell :=
  bufs.zipIdx.flatMap fun (b, i) => cellsAt (4096 + 524288 * n + 65536 * i) (cellsOf b.bytes)

/-- Exactly n bytes. -/
def padBytes (n : Nat) (bs : List Byte) : List Byte := (bs ++ List.replicate (n - bs.length) 0).take n

/-- RTM of a field (R318): of the entries that its cores have, or, while it holds no cores, of those that they had when it was
descheduled. -/
def State.rtmOf (s : State) (f : Field) : List Byte :=
  let entries := (s.sitesOf f).flatMap fun t =>
    userChans.flatMap fun ch => leBytes 8 ((s.coreAt t).route ch &&& ~~~(closedMask ||| nextvBit)).toNat
  if f.phase = .descheduled then f.rtm
  else Config.shake256 (entries ++ leBytes 2 f.pumps.length ++ leBytes 2 f.slots.1 ++ leBytes 2 f.slots.2.1 ++ leBytes 2 f.slots.2.2)

/-- The header of a save image (R334). -/
def State.imageHeader (s : State) (f : Field) (kind : Nat) (spilled : Bool) (bufs : List ReplayBuf) (digest : List Byte) : List Byte :=
  leBytes 4 0x45564153 ++ leBytes 2 1 ++ leBytes 2 kind ++ leBytes 2 f.rows ++ leBytes 2 f.cols ++ leBytes 4 (if spilled then 1 else 0) ++
    leBytes 8 (s.fieldIdOf f).toNat ++ leBytes 4 f.launchId.toNat ++ leBytes 2 f.pumps.length ++ leBytes 2 0 ++ padBytes 64 f.imgm ++
    padBytes 64 (s.rtmOf f) ++ padBytes 64 digest ++ bufs.flatMap (fun b => leBytes 4 b.ruse)

/-- The replay buffers of a field by position of its pump set. -/
def State.replaysOf (s : State) (f : Field) : List ReplayBuf := f.pumps.map fun no => (s.pump no).replayOf f.fnum

/-- The save area of an image kind (R334). -/
def Field.imageAt (f : Field) (kind : Nat) : Nat :=
  f.save + if kind = 2 then imageSize (f.rows * f.cols) f.pumps.length else 0

/-- Everything of an image but its header. -/
def State.imageCells (s : State) (f : Field) (bufs : List ReplayBuf) : List Host.Cell :=
  let cs := (s.sitesOf f).map s.coreAt
  cs.zipIdx.flatMap (fun (c, i) => c.recordCells i) ++ cs.zipIdx.flatMap (fun (c, i) => cellsAt (spillBase cs.length i) c.spillArea) ++
    replayCells cs.length bufs

/-- The cores of a field as an image keeps them: its own by position, then the copies. -/
def State.savedCores (s : State) (f : Field) : List SavedCore :=
  (s.coreSites f).zipIdx.map fun (t, i) => { pos := i, core := s.coreAt t }

/-- The image of a kind written to the save area, header last; none where the area cannot be written (R334, R340). -/
def State.writeImage (s : State) (f : Field) (kind : Nat) : Option State :=
  let n := f.rows * f.cols
  let size := imageSize n f.pumps.length
  let bufs := if kind = 2 then f.pumps.map (fun _ => ({ fnum := f.fnum, recs := [], uncovered := false, unused := [] } : ReplayBuf)) else s.replaysOf f
  let body := s.imageCells f bufs
  let digest := Config.shake256 (Mem.read body 4096 (size - 4096))
  let spilled := (s.sitesOf f).any fun t => !(s.coreAt t).spilled.isEmpty
  let cells := cellsOf (s.imageHeader f kind spilled bufs digest) ++ body
  (s.farWrite f.asid (f.imageAt kind) size cells).map fun t =>
    t.setField f.fnum fun f =>
      { f with saves := { kind := kind, cores := s.savedCores f } :: f.saves.filter fun x => x.kind ≠ kind }

/-- No valid image of a kind is left (R334: MAGIC zero; R340). -/
def State.voidImage (s : State) (f : Field) (kind : Nat) : State :=
  ((s.farWrite f.asid (f.imageAt kind) 8 []).getD s).setField f.fnum fun f => { f with saves := f.saves.filter fun x => x.kind ≠ kind }

/-- The bits of a word of an image from lo on, n of them, are zero. -/
def bitsZero (bs : List Byte) (off lo n : Nat) : Bool := decide (natBits (fieldAt bs off 8) lo n = 0)

/-- The reserved fields of an image's header are zero (R8, R334): for p pumps. -/
def headerReserved (p : Nat) (bs : List Byte) : Bool :=
  decide (fieldAt bs 12 4 ≤ 1) && zerosAt bs 30 2 && zerosAt bs 1248 2848 && (List.range 256).all fun i =>
    let x := fieldAt bs (224 + 4 * i) 4
    if i < p then decide (natBits x 17 14 = 0) else decide (x = 0)

/-- The reserved fields of a strand record are zero (R8, R336). -/
def strandReserved (bs : List Byte) : Bool := zerosAt bs 72 8 && bitsZero bs 88 3 61 && zerosAt bs 96 32 && zerosAt bs 904 120

/-- The reserved fields of a state area are zero (R8, R335). -/
def stateReserved (bs : List Byte) : Bool :=
  ((List.range 8).all fun i => strandReserved ((bs.drop (1024 * i)).take 1024)) &&
    ((List.range 16).all fun i => zerosAt bs (0x2000 + 160 * i + 152) 8) && zerosAt bs 0x34E0 0x120 && zerosAt bs 0x3600 32 &&
    ((List.range 64).all fun i => bitsZero bs (0x3950 + 8 * i) 5 3 && bitsZero bs (0x3950 + 8 * i) 13 2 && bitsZero bs (0x3950 + 8 * i) 32 32) &&
    zerosAt bs 0x3B50 0xC4B0

/-- Every reserved field of an image of n cores and p pumps is zero (R8). -/
def imageReserved (n p : Nat) (bs : List Byte) : Bool :=
  headerReserved p bs && (List.range n).all fun i => stateReserved ((bs.drop (recordBase i + 393216)).take 65536)

/-- MAGIC and DIGEST of an image check (R337), and it holds no nonzero reserved field (R8). -/
def State.imageValid (s : State) (f : Field) (kind : Nat) : Bool :=
  let size := imageSize (f.rows * f.cols) f.pumps.length
  match s.farRead f.asid (f.imageAt kind) size with
  | none => false
  | some bs => decide (fieldAt bs 0 4 = 0x45564153) && decide ((bs.drop 160).take 64 = padBytes 64 (Config.shake256 (bs.drop 4096))) &&
      imageReserved (f.rows * f.cols) f.pumps.length bs

/-! ## Quiet (R332, R333) -/

/-- The image that a stopping field is being saved to: for a pre-emption and for a checkpoint. -/
def Field.savingTo (f : Field) : Option Nat := match f.phase with
  | .stopping why => if why = 0 then some 1 else if why = 1 then some 2 else none
  | _ => none

/-- The place of the acting core's spill area in the image that its field is being saved to, if there is one: the field, the kind, the
far address. A copy of a triplicated core has none (R334). -/
def State.spillPlace (s : State) : Option (Field × Nat × Nat) :=
  (s.holder s.core.ident.site).bind fun f => f.savingTo.bind fun kind =>
    let sites := s.sitesOf f
    let i := sites.findIdx fun t => t = s.core.ident.site
    if i < sites.length then some (f, kind, f.imageAt kind + spillBase sites.length i) else none

/-- What the acting core writes of its spill area, by far address and 64 bytes each. -/
def Core.spillWrites (c : Core) (base : Nat) : List (Nat × List Byte) :=
  (recordsOf 64 (spillSize / 64) ((bytesOf (c.spilled.flatMap Spill.ringWords)).take spillSize)).zipIdx.map fun (b, i) =>
    (base + 64 * i, padBytes 64 b)

/-- A write of the spill area leaves the acting core for the pump of R207, as a granule that no strand and no engine command waits for;
it takes the field's WRITE slots there (R333, R217). One whose page cannot be written is left to the image (R334). -/
def State.spillWrite (s : State) (asid : BitVec 16) (va : Nat) (data : List Byte) : State :=
  match s.translate asid va with
  | some (pa, e) =>
    if pteW e then
      s.request { seq := 0, strand := 0, kind := .fput, va := va, nb := 64, sx := false, dst := 0, pc := noPc, cmd := s.core.far.seq
                  well := 0, stall := none } pa data []
    else s
  | none => s

/-- The messages that the acting core has spilled are sent to its spill area in the image (R333), which is not valid from then
on (R334). -/
def State.sendSpill (s : State) (f : Field) (kind base : Nat) : State :=
  ((s.core.spillWrites base).foldl (fun t x => t.spillWrite f.asid x.1 x.2) (s.voidImage f kind)).mapCore fun c => { c with spillSent := true }

/-- QUIET (R332, R333): what the core has spilled is sent to its spill area, and once that is written the core signals quiet on ch1. -/
def execQuiet (s : State) : Result :=
  .next (if s.core.isQuiet && !s.core.quiet then
      match s.core.spillSent || s.core.spilled.isEmpty, s.spillPlace with
      | false, some (f, kind, base) => s.sendSpill f kind base
      | _, _ => (s.mapCore fun c => { c with quiet := true }).post (.quiet s.core.ident.site)
    else s)

/-! ## After QUIESCE -/

/-- An FLD or FAMO of a strand parked on STALL that has its response has performed: its instruction completes before the strand is
saved, and the strand's resume point is behind it (R223, R331). One that has failed has done nothing, and is issued again. -/
def Core.settleAccess (c : Core) (r : Resp) : Core :=
  match c.outFor r with
  | some o =>
    if c.respHeld o && decide (r.status = .ok) then
      (((((c.dropOut r o).putG o.strand o.dst (farValue o r)).setStrand o.strand fun st =>
        { st with resume := o.pc + 8 }).signLate o.strand)).retire
    else c
  | none => c

/-- A strand whose wait is over completes its instruction before it is saved (R257), as does an access that has its response. -/
def Core.settle (c : Core) : Core :=
  c.far.resps.foldl Core.settleAccess (strandNos.foldl Core.finishWait c)

/-- The quiet signals of a field have been taken. -/
def Sup.dropQuiet (u : Sup) (fnum : BitVec 16) : Sup :=
  { u with mail := u.mail.filter fun x => !(decide (x.fnum = fnum) && match x.mail with
      | .quiet _ => true
      | _ => false) }

/-- A FAULTQ record of HOSTNOTE of a field (R355). -/
def isNote (fnum : BitVec 16) (r : List Word) : Bool :=
  decide (natBits (r.getD 0 0).toNat 0 8 = 4) && decide (natBits (r.getD 0 0).toNat 32 16 = fnum.toNat)

/-- A message about a strand that is parked on SUPV or STALL: it is sent anew when the strand is restored (R356, R223). -/
def Mail.ofPark : Mail → Bool
  | .fault _ _ m => m.faultStrand.isSome && (decide (m.faultCode = Code.supv) || decide (m.faultCode = Code.stall))
  | _ => false

/-- A field loses its cores and waits for its restore (R271, R330 step 4, R337). What waits of its SUPVs and stalls, and a HOSTNOTE
whose record is not written yet, is taken up after the restore (R356). -/
def State.deschedule (s : State) (f : Field) : State :=
  let bufs := s.replaysOf f
  let cycles := s.cyclesOf f
  let out := s.seamsOf f
  let rtm := s.rtmOf f
  let sites := s.coreSites f
  let s1 := ((s.vacate sites).dropSlots f.fnum).setField f.fnum fun f =>
    { f with phase := .descheduled, replays := bufs, seamsOut := out, rtm := rtm, started := f.started.map fun x => (x.1, cycles) }
  s1.mapSup fun u =>
    { u.dropQuiet f.fnum with
      mail := (u.dropQuiet f.fnum).mail.filter fun x => !(decide (x.fnum = f.fnum) && x.mail.ofPark)
      held := u.held.filter fun h => h.2.fnum ≠ f.fnum
      seams := u.seams.filter fun x => !sites.contains x.site
      faultqs := u.faultqs.map fun q => { q with held := q.held.filter fun r => !isNote f.fnum r } }

/-- Every core of a field returns to what it was doing (R331, R340). -/
def State.resumeField (s : State) (f : Field) : State :=
  let s1 := (s.coreSites f).foldl (fun t site => t.setCoreAt site Core.resume) s
  (((s1.openSeams f.fnum).setField f.fnum fun f => { f with phase := .loaded }).mapSup fun u => u.dropQuiet f.fnum).beginResizes
    f.resizes.length f.fnum

/-- A strand of a core that a host command disposes of (R328): 0 RETRY, 1 SKIP, 2 KILL. -/
def Core.hostCommand (c : Core) (op : BitVec 2) (n : StrandNo) : Core :=
  let st := c.strand n
  if op = 0 then
    if st.inPark && (decide (st.trapCause = Code.farfault.zeroExtend 64) || st.toSupervisor) then c.setStrand n Strand.resumed else c
  else if op = 1 then if st.inPark && st.toSupervisor then c.skip n else c
  else if st.exists then c.endStrand n else c

/-- A host command acts on the strand that it names (R312, R328), or is held while the field stops (R330). -/
def State.hostAct (s : State) (op : BitVec 2) (t : HostTarget) : State :=
  match s.field t.fnum with
  | none => s
  | some f =>
    if t.wafer ≠ s.waferNo then s
    else if f.phase = .loaded then
      ((s.coreSites f).filter fun x => (s.coreAt x).ident.name = t.core).foldl (fun s x => s.setCoreAt x fun c => c.hostCommand op t.strand) s
    else if f.phase = .descheduled then s
    else s.mapSup fun u => { u with held := u.held ++ [(op, t)] }

/-- The host commands held for a field act (R330). -/
def State.unhold (s : State) (fnum : BitVec 16) : State :=
  let mine := s.sup.held.filter fun h => h.2.fnum = fnum
  mine.foldl (fun s h => s.hostAct h.1 h.2) (s.mapSup fun u => { u with held := u.held.filter fun h => h.2.fnum ≠ fnum })

/-- The strand's fault message as it stands to be handled again: it is parked on a SUPV that is still to be served (R356). -/
def Core.supvMail (c : Core) (n : StrandNo) : Option Mail :=
  if (c.strand n).onSupv then some (c.faultMail n Code.supv (c.strand n).trapPc (c.strand n).trapVal) else none

/-- The same of a strand that the supervisor resumes when its stalled access is complete (R223). -/
def Core.stallMail (c : Core) (n : StrandNo) : Option Mail :=
  let st := c.strand n
  if st.parked && st.toSupervisor && decide (st.trapCause = Code.stall.zeroExtend 64) then
    some (c.faultMail n Code.stall st.trapPc st.trapVal)
  else none

/-- The FAULTQ record of a HOSTNOTE (R355, R312): KIND 4, and the value at offset 8. What the other bytes hold is not stated; they are
laid out as in the records of R312 and R328, the core's name at offset 16, the rest zero (DESIGN CHOICE, log entry 83). -/
def State.noteRecord (s : State) (f : Field) (site : Site) (n : StrandNo) (arg : Word) : List Word :=
  [recordHead 4 0 0 n.toNat f.fnum s.waferNo.toNat, arg, zext (s.coreAt site).ident.name, 0]

/-- Some record is held for room in the context's ring (R312). -/
def State.noteHeld (s : State) (asid : BitVec 16) (r : List Word) : Bool :=
  s.sup.faultqs.any fun q => decide (q.asid = asid) && q.held.contains r

/-- A strand's SUPV is being served, or will be: its message waits, or its HOSTNOTE's record is held for room. -/
def State.supvWaits (s : State) (f : Field) (site : Site) (n : StrandNo) : Bool :=
  (((s.coreAt site).supvMail n).all fun m => s.sup.mail.any fun x => x.mail = m) ||
    s.noteHeld f.asid (s.noteRecord f site n ((0#6) ++ ((s.coreAt site).strand n).trapVal.extractLsb' 0 58))

/-- The messages of a field's parked SUPVs that have been taken and not served. -/
def State.supvAgain (s : State) (f : Field) : List Mail :=
  (s.coreSites f).flatMap fun x => (strandNos.filter fun n => !s.supvWaits f x n).filterMap (s.coreAt x).supvMail

/-- QUIESCE is withdrawn (R331): the supervisor logs it, and every strand returns to its saved state. A checkpoint has failed
(R355) and leaves no valid image (R340); a SUPV DONE and a rollback decision are taken up again, and the cycles that were counted for
the one are forgotten. -/
def State.withdraw (s : State) (f : Field) (why : BitVec 2) : State :=
  let s1 := s.mapSup fun u =>
    { u with
      log := u.log ++ [.note Code.quiesce f.fnum]
      queued := u.queued.filter fun q => match q with | .restore n _ => n ≠ f.fnum | .record _ => true }
  let s2 := if why = 1 then (s.coreSites f).foldl (fun t x => t.setCoreAt x fun c => c.checkpointed 2) (s1.voidImage f 2) else s1
  let s3 := ((s2.resumeField f).unhold f.fnum)
  if why = 2 then (s3.setField f.fnum fun f => { f with doneAt := none }).postAll (s3.supvAgain f)
  else if why = 3 then s3.post (.note Code.ueWell f.fnum) else s3

/-- QUIESCE_TIMEOUT (R331): a field not quiet within 10 ms, or whose spill area overflows. -/
def execQuiesceTimeout (fnum : BitVec 16) (s : State) : Result :=
  .next (match s.field fnum with
    | none => s
    | some f => match f.phase with
      | .stopping why => if (s.coreSites f).all fun t => (s.coreAt t).quiet then s else s.withdraw f why
      | _ => s)

/-- A checkpoint: every waiting CHECKPOINT is served by one image, the replay buffers are emptied, the field runs on
(R340, R356); a failed one leaves no valid image. -/
def State.checkpoint (s : State) (f : Field) : State :=
  let sites := s.coreSites f
  let t := sites.foldl (fun t x => t.setCoreAt x fun c => c.checkpointed 0) s
  match t.writeImage f 2 with
  | none => s.withdraw f 1
  | some t1 =>
    let t2 := f.pumps.foldl (fun t no => t.setPump no fun p => { p with replay := p.replay.filter fun b => b.fnum ≠ f.fnum }) t1
    (t2.resumeField f).unhold f.fnum

/-- SAVE_WRITE (R330 step 4, R334, R339, R340, R355): once every core is quiet. -/
def execSaveWrite (fnum : BitVec 16) (s : State) : Result :=
  .next (match s.field fnum with
    | none => s
    | some f =>
      match f.phase, (s.coreSites f).all fun t => (s.coreAt t).quiet with
      | .stopping why, true =>
        let s1 := (s.coreSites f).foldl (fun t x => t.setCoreAt x Core.settle) s
        if why = 1 then s1.checkpoint f
        else if why = 2 then s1.endField f 1
        else if why = 3 then s1.deschedule f
        else match s1.writeImage f 1 with
          | some s2 => s2.deschedule f
          | none => (s1.voidImage f 1).withdraw f 0
      | _, _ => s)

/-! ## Restore (R337) -/

/-- A strand out of an image: a wait is issued again (R300, R336). A yield is over (R292): its round does not go on at the new core, and
a strand record has no bit for it (DEDUCED, log entry 93). -/
def Strand.restored (st : Strand) : Strand :=
  let st := { st with yielded := false }
  match st.liveState with
  | some (.wait _) => st.setLive (.wait .reissue)
  | _ => st

/-- A core out of an image in the place of the core that stands there (R337, R338): names, clock and checker are the new
core's. -/
def Core.restored (x cur : Core) (id org : Word) (ps : List (BitVec 8)) (route : Vector Word 32) (readsAs : Option (BitVec 26)) : Core :=
  { x with
    ident := { cur.ident with triple := x.ident.triple, readsAs := readsAs }
    strands := x.strands.map Strand.restored
    csr := { x.csr with fieldId := id, fieldOrg := org, cycle := cur.csr.cycle }
    issue := { x.issue with roundDue := cur.issue.roundDue }
    loop := none
    far := { FarPath.reset with seq := max x.far.seq cur.far.seq, regions := x.far.regions, pset := ps }
    chans := x.chans.map fun h => { h with lines := 0 }
    router := { Router.reset with route := route }
    check := { x.check with sr := cur.check.sr, suspended := cur.check.suspended, queue := [], raised := none, ended := none }
    stopped := true, quiet := false }

/-- The pages of a core's locked regions walked and locked again (R314); none where one may not be. A page that a locked entry covers
has been walked with it. -/
def State.lockPages (s : State) (site : Site) : List (BitVec 2 × Nat) → Option State
  | [] => some s
  | (r, page) :: rest =>
    let c := s.coreAt site
    if c.far.ftb.any fun e => e.lock && e.covers c.csr.asid page then s.lockPages site rest
    else match s.leafOf c.csr.asid (page * pageSize) with
      | none => none
      | some (pte, level, _) =>
        if pteQuar pte || !pteLockable pte then none
        else if ftbEntries - 8 ≤ c.lockedCount then s.lockPages site rest
        else
          ({ s with free := s.free + 1 }.setCoreAt site fun c =>
            c.loadFtb (leafEntry c.csr.asid (page * pageSize) pte (decide (level = 1)) true r) (Config.ftbVictim s.free)).lockPages site rest

/-- The pages of a core's regions. -/
def Core.regionPages (c : Core) : List (BitVec 2 × Nat) :=
  c.far.regions.zipIdx.flatMap fun (r, i) => match r with
    | some x => (List.range x.count).map fun k => (BitVec.ofNat 2 i, x.page + k)
    | none => []

/-- Every locked region of some sites walked again. -/
def State.lockAll (s : State) : List Site → Option State
  | [] => some s
  | t :: rest => match s.lockPages t (s.coreAt t).regionPages with
    | some s1 => s1.lockAll rest
    | none => none

/-- The records of a replay buffer by core position, for the replay after a rollback (R341). -/
def ReplayBuf.rewound (b : ReplayBuf) : ReplayBuf :=
  { b with unused := ((b.recs.map (·.pos)).eraseDups).map fun p => (p, b.recs.filter fun r => r.pos = p) }

/-- The entries of a saved core for its new place: its own, with CLOSED and NEXTV clear (R337 step 4). -/
def Core.savedRoutes (c : Core) : Vector Word 32 := c.router.route.map fun e => e &&& ~~~(closedMask ||| nextvBit)

/-- The nodes of a field's cores in the order of an image, copies last, with the name that a copy reads as its own (R346). -/
def Field.imageNodes (f : Field) : List (Node × Option (BitVec 26)) :=
  f.shape.nodes.map (fun n => (n, none)) ++
    f.copyAt.map fun k => (k.node (f.row, f.col), some (nameOfNode f.rect (f.row + k.row, f.col + k.col)))

/-- An image's cores put at the sites of a field (R337 steps 3 and 4). -/
def State.putSaved (s : State) (f : Field) (xs : List SavedCore) : State :=
  let n := s.free
  let org : Word := zext (nameOfNode f.rect (f.row, f.col))
  xs.foldl (fun s x => match f.imageNodes[x.pos]? with
    | none => s
    | some (node, readsAs) => match s.wafer.siteOf f.rect node with
      | none => s
      | some site => s.setCoreAt site fun cur =>
        (x.core.restored cur (s.fieldIdOf f) org f.pumps x.core.savedRoutes readsAs).systemSet n) { s with free := n + 1 }

/-- The seams that lead out of a restored field (R271, R306): one is open where the field stands where it stood and the seam leads to
the live fields that it led to; any other is closed, and where those fields may come back, noted for them. -/
def State.restoreSeams (s : State) (f : Field) (same : Bool) : List SeamOut → State
  | [] => s
  | x :: rest => match s.wafer.siteOf f.rect (f.row + x.row, f.col + x.col) with
    | none => s.restoreSeams f same rest
    | some t =>
      let there (n : BitVec 16) : Bool :=
        (s.sup.fields.any fun g => decide (g.fnum = n) && decide (g.phase = .loaded)) && (s.seamFields t x.ch).contains n
      let back := same && !x.fnums.isEmpty && !x.fnums.contains 0
      let away := if back then x.fnums.filter fun n => !there n else []
      let s1 := if back && away.isEmpty then s
        else (s.closeAt t x.ch).mapSup fun u => { u with seams := u.seams ++ away.map fun n => { site := t, ch := x.ch, fnum := n } }
      s1.restoreSeams f same rest

/-- A field whose slots have been put restored from its image of a kind at a placement (R337 steps 2 to 7); none where a region
walk fails. -/
def State.restoreAt (s : State) (f : Field) (kind : Nat) (save : SaveRec) (f1 : Field) : Option State :=
  let sites := s.coreSites f1
  let same := decide (f.rect = f1.rect) && decide (f.row = f1.row) && decide (f.col = f1.col)
  let s1 := (s.clockGrant f1.mhz sites).closeBorder [] sites
  let s2 := sites.foldl (fun s x => s.setCoreAt x Core.clear) s1
  let s3 := s2.putSaved f1 save.cores
  let bufs := if kind = 2 then f.replays.map ReplayBuf.rewound else f.replays
  let s4 := (f1.pumps.zip bufs).foldl (fun s (no, b) => s.setPump no fun p => p.setReplay f1.fnum fun _ => b) s3
  match s4.lockAll sites with
  | none => none
  | some s5 =>
    let first := sites.headD ⟨0, 0⟩
    let s6 := (sites.foldl (fun s x => s.setCoreAt x Core.resume) s5).restoreSeams f1 same f.seamsOut
    let s7 := if same then s6.openSeams f.fnum else s6.mapSup fun u => u.dropSeams [] f.fnum
    let s8 := s7.setField f.fnum fun f => { f with started := f.started.map fun x => (first, (s7.coreAt first).csr.cycle - x.2) }
    let mails := sites.flatMap fun x =>
      strandNos.filterMap (s8.coreAt x).supvMail ++ strandNos.filterMap (s8.coreAt x).stallMail
    some ((s8.postAll mails).beginResizes f.resizes.length f.fnum)

/-- The restore of a descheduled field (R337): done, failed with status 0x0020, or none while nothing is free. -/
def State.restoreField (s : State) (f : Field) (kind : Nat) : Option State :=
  match f.saves.find? (fun x => x.kind = kind), s.imageValid f kind with
  | some save, true =>
    let fast := save.cores.all fun x => x.core.ident.mhz = 1750
    let want := slotsWanted f.asid f.fnum f.slots.1 f.slots.2.1 f.slots.2.2
    match s.freePlace f.rows f.cols f.copyAt fast, s.choosePumps f.pumps.length want with
    | some (rect, x), some ps =>
      let f0 : Field :=
        { f with
          rect := rect, row := x.row, col := x.col, pumps := ps, phase := .loaded, replays := [], seamsOut := []
          home := nearestSup (((s.wafer.siteOf rect (x.row, x.col)).map (·.col)).getD 0) }
      let f1 := { f0 with mhz := s.wafer.clockFor (s.coreSites f0) }
      let s0 := { s with free := s.free + 1 }.setField f.fnum fun _ => f1
      (State.addAll s0 s.free want ps).map fun s1 => (s1.restoreAt f kind save f1).getD (s.endField f 0x20)
    | _, _ => none
  | _, _ => some (s.endField f 0x20)

/-- What heads the queue leaves it and is placed, if it can be (R269, R337): on a wafer that belongs to a domain (R233). -/
def State.placeHead (s : State) : State :=
  match s.queueHead with
  | none => s
  | some q => if s.sup.domain.isNone then s else
    let s1 := s.mapSup fun u => { u with queued := u.queued.erase q }
    let done := match q with
      | .record ws => s1.placeRecord ws
      | .restore fnum kind => match s.field fnum with
        | some f => match f.phase with
          | .descheduled => s1.restoreField f kind
          | _ => none
        | none => some s1
    done.getD s

/-- PLACEMENT (R269). -/
def execPlacement (s : State) : Result := .next s.placeHead

/-- RESTORE (R337): the restore of a field, when it is its turn. -/
def execRestore (fnum : BitVec 16) (s : State) : Result :=
  .next (match s.queueHead with
    | some (.restore n _) => if n = fnum then s.placeHead else s
    | _ => s)

/-! ## Rollback (R339) -/

/-- No pump of a field is uncovered (R341). -/
def State.covered (s : State) (f : Field) : Bool := (s.replaysOf f).all fun b => !b.uncovered

/-- The codes of consumed errors (R339). -/
def consumedCodes : List (BitVec 8) := [Code.ueWell, Code.ueFar, Code.poison, Code.check]

/-- ROLLBACK (R339): the decision on a consumed error of the field that the supervisor holds. -/
def execRollback (fnum : BitVec 16) (s : State) : Result :=
  .next (match s.field fnum, s.sup.mail.find? (fun m => match m.mail with
      | .note code n => decide (n = fnum) && consumedCodes.contains code
      | _ => false) with
    | some f, some m =>
      let s1 := s.mapSup fun u => { u with mail := u.mail.erase m }
      match f.phase with
      | .loaded =>
        if f.options.getLsbD 1 ∧ (f.saves.any fun x => x.kind = 2) ∧ s.imageValid f 2 ∧ s.covered f then s1.stopField f 3
        else s1.endField f 0x20
      | _ => s
    | _, _ => s)

end Sys2Proof.Machine
end

