-- ==== Sys2Proof/Machine/Supervisor.lean ====
section
/-! DEFINITION. Sys2Proof/Machine/Supervisor.lean: what the supervisors and the host do while fields run: fault messages and SUPV
services (R307, R324, R328, R355, R356), host commands, contexts and page-table changes (R280, R301, R302, R344), attestation
(R318, R319), domains (R232, R233) and cores retired in service (R349). -/

namespace Sys2Proof.Machine

/-- A mailbox command: before READY it is answered with a not-ready status (R384). -/
def State.mailbox (s : State) (k : State → State) : State :=
  if s.boot.ready then k s else s.mapSup fun u => { u with notReady := u.notReady + 1 }

/-! ## SUPV services (R355) -/

/-- The sites of the copies of a core of a field (R345). -/
def State.copiesOf (s : State) (f : Field) (site : Site) : List Site :=
  let name := (s.coreAt site).ident.name
  ((s.copySites f).map (·.1)).filter fun t => (s.coreAt t).ident.readsAs = some name

/-- A SUPV of a core's strand is served, and the copies of the core get the same result (R355, R356). -/
def State.serve (s : State) (f : Field) (site : Site) (n : StrandNo) (x : Word) : State :=
  (site :: s.copiesOf f site).foldl (fun t y => t.setCoreAt y fun c => if (c.strand n).onSupv then c.served n x else c) s

/-- A lane's slots of a context moved to the other live lanes of the pump, with the MAINT slots that the pump then needs there, where
firmware chooses (R388) or else by lane and index; none where they do not fit so (R355 SLOTMOVE; log entry 54): from the table that the pump would have without them. -/
def Pump.moved (p : Pump) (t : Vector (Vector Slot 64) 8) (n : Nat) (asid : BitVec 16) (lane : BitVec 3) : Option (List Slot × Vector (Vector Slot 64) 8) :=
  let mine (x : Slot) : Bool := decide (x.asid = asid) && decide (x.kind ≠ .idle)
  let t0 := t.set lane.toNat ((t[lane.toNat]).map fun x => if mine x then Slot.idle else x)
  let xs := (t[lane.toNat]).toList.filter mine ++ List.replicate (p.maintMissing t0 [asid]) Slot.maint
  (Pump.putSlots { p with lanes := p.lanes.set lane.toNat .retraining } n t0 xs).map fun u => (xs, u)

/-- SLOTMOVE (R355, R223): the machine and the result. The stalled requests of the context's lane are re-sent on the others. -/
def State.slotMove (s : State) (asid : BitVec 16) (no : BitVec 8) (lane : BitVec 3) : State × Word :=
  let p := (s.pump no).switched s.slot
  match p.moved (s.freeSlots no 0 p.coming) s.free asid lane with
  | none => (s, 1)
  | some (xs, t) =>
    if !s.tableAccepted p t then (s, 1)
    else (((s.chosen s.free xs).installTable no t).resendAll no (laneNos.filter fun l => l ≠ lane)
      (p.stalled.filter fun x => decide (x.lane = lane) && decide (x.req.asid = asid)), 0)

/-- A pump's requests of a field that are not acknowledged, oldest first to each granule (R209). -/
def Pump.pendingOf (p : Pump) (fnum : BitVec 16) : List FarReq :=
  ((p.stalled.filter fun x => x.req.fnum = fnum).map (·.req)) ++
    ((sortPlaced (p.placed.filter fun x => x.req.fnum = fnum)).map (·.req)) ++ p.queue.filter fun r => r.fnum = fnum

/-- The pump without a field's requests and replay buffer. -/
def Pump.without (p : Pump) (fnum : BitVec 16) : Pump :=
  { p with
    queue := p.queue.filter fun r => r.fnum ≠ fnum
    stalled := p.stalled.filter fun x => x.req.fnum ≠ fnum
    placed := p.placed.filter fun x => x.req.fnum ≠ fnum
    replay := p.replay.filter fun b => b.fnum ≠ fnum }

/-- One pump substituted for another at a position of a field's pump set (R209): the pending requests, their identifiers and
their order move. None where the other has no room for the field's slots. -/
def State.swapPump (s : State) (f : Field) (i : Nat) (p q : BitVec 8) : Option State :=
  let ps := f.pumps.set i q
  let old := s.pump p
  let again := old.pendingOf f.fnum
  ((s.setField f.fnum fun f => { f with pumps := ps }).addSlots s.free q (slotsWanted f.asid f.fnum f.slots.1 f.slots.2.1 f.slots.2.2)).map
    fun s1 =>
      let s2 := (s1.setPump p fun p => p.without f.fnum).idleSlots p f.fnum
      let s3 := s2.setPump q fun q => { q.setReplay f.fnum fun _ => old.replayOf f.fnum with queue := q.queue ++ again }
      let s4 := again.foldl State.unstallAt s3
      (s4.coreSites f).foldl (fun s t => s.setCoreAt t fun c => { c with far := { c.far with pset := ps } }) s4

/-- The pumps that may be substituted at a position of a field's pump set (R209, R388). -/
def State.swapsFor (s : State) (f : Field) (i : Nat) (p : BitVec 8) : List (BitVec 8) :=
  pumpNos.filter fun q => !f.pumps.contains q && s.usable q && (s.swapPump f i p q).isSome

/-- PUMPSWAP (R355, R209): the machine and the result. Firmware chooses among the pumps that may be substituted. Of a list position at
which the field's pump set has none R355 states no result: the model gives 1, no pump substituted (DESIGN CHOICE, log entry 95). -/
def State.pumpSwap (s : State) (f : Field) (i : Nat) : State × Word :=
  let s0 := { s with free := s.free + 1 }
  match f.pumps[i]? with
  | none => (s0, 1)
  | some p =>
    let ok := s0.swapsFor f i p
    let pick := match Config.pumpSwap s.free with
      | some q => if ok.contains q then some q else ok.head?
      | none => ok.head?
    match pick.bind (s0.swapPump f i p) with
    | some s1 => (s1, 0)
    | none => (s0, 1)

/-- The service of a SUPV (R355) for a strand that is parked on it, its field running. A HOSTNOTE is served once its record is in
the ring. -/
def State.supvService (s : State) (f : Field) (site : Site) (n : StrandNo) (code : Nat) (arg : Word) : State :=
  match code with
  | 0 => s.stopField f 2
  | 1 => if f.options.getLsbD 1 then s.stopField f 1 else s.serve f site n 1
  | 2 =>
    let r := s.slotMove f.asid (arg.extractLsb' 0 8) (arg.extractLsb' 8 3)
    r.1.serve f site n r.2
  | 3 =>
    let r := s.pumpSwap f (natBits arg.toNat 0 8)
    r.1.serve f site n r.2
  | 4 =>
    let r := s.noteRecord f site n arg
    let s1 := s.faultRecord f.asid r
    if s1.noteHeld f.asid r then s1 else s1.serve f site n 0
  | 5 => s.serve f site n (BitVec.ofNat 64 s.slot)
  | _ => s.serve f site n 0xFFFFFFFFFFFFFFFF

/-- The strand whose HOSTNOTE a FAULTQ record carries is served (R355). -/
def State.serveNote (s : State) (r : List Word) : State :=
  let n : StrandNo := (r.getD 0 0).extractLsb' 24 3
  match s.field ((r.getD 0 0).extractLsb' 32 16) with
  | none => s
  | some f =>
    if !isNote f.fnum r then s
    else match (s.sitesOf f).find? fun t => decide ((zext (s.coreAt t).ident.name : Word) = r.getD 2 0) &&
        ((s.coreAt t).strand n).onSupv && decide (((s.coreAt t).strand n).supvCode = 4) with
      | some t => s.serve f t n 0
      | none => s

/-- A held FAULTQ record may be written: a HOSTNOTE's not while its field stops, as writing it would end the service (R355, R356). -/
def State.mayWrite (s : State) (r : List Word) : Bool :=
  match s.field ((r.getD 0 0).extractLsb' 32 16) with
  | some f => !isNote f.fnum r || decide (f.phase = .loaded)
  | none => true

/-- FAULTQ_ROOM (R312): the host has read the oldest record of a full ring, and the oldest held record that may be is written. -/
def execFaultqRoom (asid : BitVec 16) (s : State) : Result :=
  .next (match s.sup.faultqs.find? (fun q => q.asid = asid), s.context asid with
    | some q, some c =>
      match q.held.find? s.mayWrite with
      | none => s
      | some r =>
        let ring := if q.ring.length < c.fqlen then q.ring else q.ring.drop 1
        (s.mapSup fun u =>
          { u with faultqs := { q with ring := ring ++ [r], held := q.held.erase r } :: u.faultqs.filter fun q => q.asid ≠ asid }).serveNote r
    | _, _ => s)

/-! ## Fault messages (R324, R328, R356) -/

/-- Mail that FAULT_MESSAGE takes: acknowledgements, quiet signals and pending decisions stay for the steps that wait for them. -/
def Mail.taken : Mail → Bool
  | .ack _ _ _ _ => false
  | .quiet _ => false
  | .note _ _ => false
  | _ => true

/-- The strand of a fault message is still parked by that fault. -/
def State.stillParked (s : State) (site : Site) (n : StrandNo) (code : BitVec 8) (pc val : Word) : Bool :=
  let st := (s.coreAt site).strand n
  st.parked && decide (st.trapCause = code.zeroExtend 64) && decide (st.trapPc = pc) && decide (st.trapVal = val)

/-- The stalled access of a STALL message has completed (R223). -/
def State.accessDone (s : State) (site : Site) (val : Word) : Bool :=
  !(s.coreAt site).far.outs.any fun o => decide (o.va = natBits val.toNat 0 52)

/-- The supervisor can take a message now: a STALL once its access has completed (R223), a SUPV while its field runs and every
copy of the core has parked (R356). -/
def State.canTake (s : State) (m : Mail) : Bool :=
  m.taken && match m with
    | .fault site fid msg => match msg.faultStrand with
      | none => true
      | some n =>
        if !s.stillParked site n msg.faultCode msg.faultPc msg.faultVal then true
        else if msg.faultCode = Code.stall then ((s.coreAt site).strand n).inPark && s.accessDone site msg.faultVal
        else if msg.faultCode = Code.supv then
          match s.field (fid.extractLsb' 0 16) with
          | some f =>
            decide (f.phase = .loaded) && (s.copiesOf f site).all fun t =>
              ((s.coreAt t).strand n).parked || !((s.coreAt t).strand n).exists
          | none => true
        else true
    | _ => true

/-- A fault recorded in the context's FAULTQ (R328); one that no strand took has TRAPPC 0. -/
def State.recordFault (s : State) (fid : Word) (m : Msg) : State :=
  let pc := if m.faultStrand.isSome then natBits m.faultPc.toNat 0 32 else 0
  let head := recordHead 3 m.faultCode.toNat 0 (m.faultStrand.elim 0xFF (·.toNat)) (fid.extractLsb' 0 16) (waferOf fid)
  s.faultRecord (fid.extractLsb' 32 16)
    [head, m.faultVal, BitVec.ofNat 64 (m.faultName.toNat + pc * 2 ^ 32), 0]

/-- Codes that the supervisor only logs (R324). -/
def loggedCodes : List (BitVec 8) := [Code.quiesce, Code.check, Code.vote]

/-- The supervisor's handling of one message (R324, R307). -/
def State.handle (s : State) (x : Posted) : State :=
  let logged := s.mapSup fun u => { u with log := u.log ++ [x.mail] }
  match x.mail with
  | .fault site fid msg =>
    let code := msg.faultCode
    let val := msg.faultVal
    if code = Code.farfault then s
    else if code = Code.stall then
      match msg.faultStrand with
      | some n => if s.stillParked site n code msg.faultPc val ∧ ((s.coreAt site).strand n).inPark then s.setCoreAt site fun c => c.setStrand n Strand.resumed else s
      | none => s
    else if consumedCodes.contains code ∧ code ≠ Code.check then s.post (.note code (fid.extractLsb' 0 16))
    else if code = Code.supv then
      match msg.faultStrand, s.field (fid.extractLsb' 0 16) with
      | some n, some f =>
        if s.stillParked site n code msg.faultPc val ∧ (s.coreAt site).ident.readsAs.isNone then
          s.supvService f site n (natBits val.toNat 58 6) ((0#6) ++ val.extractLsb' 0 58)
        else s
      | _, _ => s
    else if loggedCodes.contains code then logged
    else s.recordFault fid msg
  | .border _ _ _ _ _ => logged.setField x.fnum fun f => { f with borders := f.borders + 1 }
  | _ => logged

/-- FAULT_MESSAGE (R328, R355): the oldest message that can be taken. -/
def execFaultMessage (s : State) : Result :=
  .next (match s.sup.mail.find? (fun x => s.canTake x.mail) with
    | none => s
    | some m => (s.mapSup fun u => { u with mail := u.mail.erase m }).handle m)

/-- HOST_RETRY (R312, R328). -/
def execHostRetry (t : HostTarget) (s : State) : Result := .next (s.mailbox fun s => s.hostAct 0 t)

/-- HOST_SKIP (R328). -/
def execHostSkip (t : HostTarget) (s : State) : Result := .next (s.mailbox fun s => s.hostAct 1 t)

/-- HOST_KILL (R328). -/
def execHostKill (t : HostTarget) (s : State) : Result := .next (s.mailbox fun s => s.hostAct 2 t)

/-! ## Contexts (R301, R302) -/

/-- Frames for which an ASID stays unused after its context was deleted (R302). -/
def reuseFrames : Nat := 256

/-- CONTEXT_CREATE (R301, R8): a descriptor with a reserved byte set, a value out of range, or an ASID in use or just deleted is
rejected. -/
def execContextCreate (desc : List Word) (s : State) : Result :=
  let bs := recordBytes desc
  let asid : BitVec 16 := BitVec.ofNat 16 (fieldAt bs 0 2)
  let ok := decide (asid ≠ 0) && zerosAt bs 2 2 && zerosAt bs 28 4 && decide (1 ≤ fieldAt bs 4 4) && decide (fieldAt bs 4 4 ≤ 4096) &&
    decide (fieldAt bs 8 8 % pageSize = 0) && decide (fieldAt bs 16 8 % 64 = 0) && decide (16 ≤ fieldAt bs 24 4) &&
    decide (fieldAt bs 24 4 ≤ 65536) && (s.context asid).isNone && !s.sup.deleted.any fun d => d.1 = asid
  .next (s.mailbox fun s =>
    if ok then s.mapSup fun u =>
      { u with
        contexts := u.contexts ++ [{ asid := asid, l0len := fieldAt bs 4 4, root := fieldAt bs 8 8, faultq := fieldAt bs 16 8, fqlen := fieldAt bs 24 4 }]
        faultqs := { asid := asid, ring := [], held := [] } :: u.faultqs.filter fun q => q.asid ≠ asid }
    else s)

/-- Entries of pump translation caches dropped. -/
def State.dropCached (s : State) (p : TransEntry → Bool) : State :=
  { s with pumps := s.pumps.map fun x => { x with cache := x.cache.filter fun e => !p e } }

/-- Page walks of a context that a pump still has to do. -/
def State.dropWalks (s : State) (asid : BitVec 16) : State :=
  { s with pumps := s.pumps.map fun p =>
      { p with walks := p.walks.filter fun w => w.req.asid ≠ asid, walkq := p.walkq.filter fun r => r.asid ≠ asid } }

/-- CONTEXT_DELETE (R302): only a context of which no field exists. Its translations go, and what walks its ended fields have left. -/
def execContextDelete (asid : BitVec 16) (s : State) : Result :=
  .next (s.mailbox fun s =>
    if (s.context asid).isNone ∨ s.sup.fields.any (fun f => f.asid = asid) then s
    else ((s.dropCached fun e => e.asid = asid).dropWalks asid).mapSup fun u =>
      { u with
        contexts := u.contexts.filter fun c => c.asid ≠ asid
        deleted := u.deleted ++ [(asid, s.slot)] })

/-- CONTEXT_REUSE_EXPIRE (R302): 256 frames after the deletion. -/
def execContextReuseExpire (asid : BitVec 16) (s : State) : Result :=
  .next (s.mapSup fun u =>
    { u with deleted := u.deleted.filter fun d => !(decide (d.1 = asid) && decide (d.2 + reuseFrames * frameSlots ≤ s.slot)) })

/-! ## Page-table changes (R280) -/

/-- Pages of a translation cache entry. -/
def TransEntry.pages (e : TransEntry) : Nat := if e.big then bigPages else 1

/-- Walks of a context's pages in progress at the pumps begin anew: what they have read of the tables may have changed (R280). -/
def State.restartWalks (s : State) (asid : BitVec 16) (page count : Nat) : State :=
  match s.context asid with
  | none => s
  | some c =>
    let again (w : WalkRun) : WalkRun :=
      if w.req.asid = asid ∧ page ≤ w.req.va / pageSize ∧ w.req.va / pageSize < page + count then
        { w with level := 0, addr := c.root + 8 * walkIndex w.req.va 0, sent := none, got := none }
      else w
    { s with pumps := s.pumps.map fun p => { p with walks := p.walks.map again } }

/-- Steps 1 and 2 of R280: pump caches and walks first, then the shoot-down of R279 at every core of the context. -/
def State.changePages (s : State) (asid : BitVec 16) (page count : Nat) : State :=
  let sites := (s.sup.fields.filter fun f => f.asid = asid).flatMap s.coreSites
  let s1 := ((s.restartWalks asid page count).dropCached fun e => decide (e.asid = asid) && overlap page count e.page e.pages).mapSup fun u =>
    { u with changes := u.changes ++ [{ asid := asid, page := page, count := count, waits := sites }] }
  sites.foldl (fun s t => s.setCoreAt t fun c => c.shootDown asid page count) s1

/-- PAGE_TABLE_CHANGE (R280). -/
def execPageTableChange (asid : BitVec 16) (page count : Nat) (s : State) : Result := .next (s.mailbox fun s => s.changePages asid page count)

/-- The acknowledgement of a shoot-down by a core, if it has come. -/
def State.shootAck (s : State) (x : PageChange) (site : Site) : Option Posted :=
  s.sup.mail.find? fun m => match m.mail with
    | .ack t code nak ws => decide (t = site) && decide (code = 0x09) && !nak && decide (ws.drop 1 = [zext x.asid, BitVec.ofNat 64 x.page, BitVec.ofNat 64 x.count])
    | _ => false

/-- LOCKED of an acknowledgement. -/
def Mail.locked : Mail → Bool
  | .ack _ _ _ (w :: _) => w.getLsbD 63
  | _ => false

/-- A core whose entry is locked: its field is pre-empted, or killed (R280). -/
def State.unlockBy (s : State) (site : Site) : State :=
  match s.holder site with
  | none => s
  | some f =>
    if f.options.getLsbD 0 then if f.phase = .loaded then s.stopField f 0 else s
    else s.endField f 0x20

/-- The first change that waits is looked at: a core that has acknowledged, or was cleared with its shoot-down pending, is
waited for no longer; one with a locked entry first loses its field. -/
def State.changeStep (s : State) (x : PageChange) : State :=
  let gone (t : Site) : Bool := (s.shootAck x t).isNone &&
    !(s.coreAt t).far.shoots.any fun y => decide (y.asid = x.asid) && decide (y.page = x.page) && decide (y.count = x.count)
  let free (t : Site) : Bool := gone t || match s.shootAck x t with
    | some m => !m.mail.locked
    | none => false
  let acks := x.waits.filterMap fun t => if free t then s.shootAck x t else none
  let rest := x.waits.filter fun t => !free t
  let stuck := rest.filter fun t => (s.shootAck x t).isSome
  let s1 := s.mapSup fun u =>
    { u with
      mail := acks.foldl List.erase u.mail
      changes := if rest.isEmpty then u.changes.erase x else u.changes.map fun y => if y = x then { x with waits := rest } else y
      pageDone := if rest.isEmpty then u.pageDone ++ [x.asid] else u.pageDone }
  stuck.foldl State.unlockBy s1

/-- PAGE_TABLE_DONE (R280): completion is reported when every acknowledgement has come. -/
def execPageTableDone (s : State) : Result :=
  .next (match s.sup.changes with
    | [] => s
    | x :: _ => s.changeStep x)

/-! ## Quarantine (R344) -/

/-- The QUAR bit of a page's leaf entry written in the cistern (R310). -/
def State.setQuar (s : State) (asid : BitVec 16) (page : Nat) (on : Bool) : State :=
  match s.leafOf asid (page * pageSize) with
  | none => s
  | some (e, _, a) =>
    let new := if on then e ||| 0x8 else e &&& ~~~0x8
    { s with cis := { s.cis with bytes := Mem.write s.cis.bytes a (leBytes 8 new.toNat) } }

/-- The QUAR bits of a range of pages. -/
def State.setQuars (s : State) (asid : BitVec 16) (page count : Nat) (on : Bool) : State :=
  (List.range count).foldl (fun s k => s.setQuar asid (page + k) on) s

/-- A context is killed (R344): every field of it ends with status 0x0021; translation cache entries and walks go. -/
def State.killContext (s : State) (asid : BitVec 16) : State :=
  (((s.sup.fields.filter fun f => f.asid = asid).foldl (fun s f => s.endField f 0x21) s).dropCached fun e => e.asid = asid).dropWalks asid

/-- CISTERN_ERROR (R344): pages are quarantined; where a live field asks for it, the context is killed. -/
def execCisternError (asid : BitVec 16) (page count : Nat) (s : State) : Result :=
  .next (s.mailbox fun s =>
    let kill := s.sup.fields.any fun f => decide (f.asid = asid) && f.options.getLsbD 2
    let s1 := (s.setQuars asid page count true).changePages asid page count
    if kill then s1.killContext asid else s1)

/-- QUAR_CLEAR (R344). -/
def execQuarClear (asid : BitVec 16) (page count : Nat) (s : State) : Result :=
  .next (s.mailbox fun s => (s.setQuars asid page count false).changePages asid page count)

/-! ## Attestation (R318, R319) -/

/-- FWM (R318): of the bundle that was accepted. Where none was, in the report after a failed boot, R384 gives no value: 64 zero bytes
stand there (DESIGN CHOICE, log entry 86). -/
def State.fwm (s : State) : List Byte := (s.flash.accepted.map Config.shake256).getD []

/-- A report of 384 bytes (R319). -/
def State.report (s : State) (nonce : List Word) (f : Option Field) : List Byte :=
  let id : Word := (f.map s.fieldIdOf).getD 0
  let body := leBytes 4 0x41545354 ++ leBytes 2 1 ++ leBytes 2 (if f.isSome then 2 else 1) ++ leBytes 8 Config.serial.toNat ++
    padBytes 32 (bytesOf nonce) ++ padBytes 64 s.fwm ++ leBytes 8 s.flash.version ++ leBytes 8 id.toNat ++
    padBytes 64 ((f.map (·.imgm)).getD []) ++ padBytes 64 ((f.map s.rtmOf).getD [])
  body ++ padBytes 114 (Config.ed448Sign Config.deviceSecret (Config.shake256 body)) ++ List.replicate 14 0

/-- A report sent to the host. -/
def State.reply (s : State) (r : List Byte) : State := s.mapSup fun u => { u with replies := u.replies ++ [r] }

/-- ATTEST (R319, R384): before READY only the wafer report, and that after FAIL; a FIELDID of no field gets none. -/
def execAttest (nonce : List Word) (field : Option Word) (s : State) : Result :=
  .next (match field with
    | none => if s.boot.fail then s.reply (s.report nonce none) else s.mailbox fun s => s.reply (s.report nonce none)
    | some id => s.mailbox fun s => match s.sup.fields.find? fun f => s.fieldIdOf f = id with
      | some f => s.reply (s.report nonce (some f))
      | none => s)

/-! ## Domains (R232, R233) -/

/-- The longest declared read latency, in ns, of a third-party device that is accepted into a domain (R226). -/
def maxLatency : Nat := 400

/-- A range of a domain's map is accepted (R226). -/
def DomainRange.accepted (r : DomainRange) : Bool := r.thirdParty.all fun ns => decide (ns ≤ maxLatency)

/-- Lanes are trained against the domain's switches and MAINT slots installed, at every pump with a live lane (R232 step 3). -/
def State.trainLanes (s : State) : State :=
  pumpNos.foldl (fun s no =>
    let s2 := s.setPump no fun p => { p with lanes := p.lanes.map fun l => if l = .dead then .dead else .live }
    if laneNos.any (s2.pump no).laneLive then (s2.addSlots s2.free no []).getD s2 else s2) s

/-- DOMAIN_CONFIG (R232, R226, R319, R384): the wafer joins a domain. The map is taken without devices that are too slow, lanes are
trained, the wafer report is presented against the domain's nonce, and the records of the launch ring are read. -/
def execDomainConfig (cfg : DomainCfg) (s : State) : Result :=
  .next (s.mailbox fun s =>
    if s.sup.domain.isSome then s
    else
      let s1 := (s.mapSup fun u => { u with domain := some { cfg with ranges := cfg.ranges.filter DomainRange.accepted } }).trainLanes
      let s2 := s1.reply (s1.report cfg.nonce none)
      s2.sup.ring.foldl State.readRecord (s2.mapSup fun u => { u with ring := [] }))

/-- DOMAIN_LEAVE (R233): every field has been stopped, its far accesses and page walks have performed, and the controllers' records have
aged out; the pumps detach. -/
def execDomainLeave (s : State) : Result :=
  let done := (s.sup.fields.all fun f => f.phase = .descheduled) &&
    (s.pumps.all fun p => p.queue.isEmpty && p.placed.isEmpty && p.stalled.isEmpty && p.walkq.isEmpty && p.walks.isEmpty) &&
    s.cis.outcomes.isEmpty
  .next (s.mailbox fun s =>
    if !done ∨ s.sup.domain.isNone then s
    else { s with
      pumps := s.pumps.map fun p => { p with table := (Pump.blank p.no).table, next := [], prev := none, cache := [] }
      sup := { s.sup with domain := none } })

/-! ## Cores retired in service (R349) -/

/-- CORE_RETIRE (R349, R12): the site goes into the log and is withheld; a pre-emptible field is moved. -/
def execCoreRetire (site : Site) (s : State) : Result :=
  let s1 := { s with wafer := { s.wafer with logX := s.wafer.logX ++ [site], withheld := s.wafer.withheld ++ [site] } }
  .next (match s.holder site with
    | some f => if f.options.getLsbD 0 ∧ f.phase = .loaded then s1.stopField f 0 else s1
    | none => s1)

end Sys2Proof.Machine
end

