-- ==== Sys2Proof/Machine/Bringup.lean ====
section
/-! DEFINITION. Sys2Proof/Machine/Bringup.lean: power-up, secure boot, grading, enumeration and resets (R12 to R15, R316, R378 to
R385). -/

namespace Sys2Proof.Machine

/-! ## Power and resets (R378, R385) -/

/-- A step of bring-up: it is taken in its phase only, and not after a failure. -/
def State.inPhase (s : State) (n : Nat) (k : State → State) : State :=
  if s.boot.phase = n ∧ !s.boot.fail then k s else s

/-- The next phase of bring-up. -/
def State.toPhase (s : State) (n : Nat) : State := { s with boot := { s.boot with phase := n } }

/-- Boot has failed in the current phase, with a reason (R383). -/
def State.bootFail (s : State) (code : BitVec 8) : State := { s with boot := { s.boot with fail := true, fcode := code } }

/-- POWER_GOOD (R378): phase 1. -/
def execPowerGood (s : State) : Result := .next (if s.boot.phase = 0 then s.toPhase 1 else s)

/-- The wafer starts again at phase 1 (R385): READY, fields and everything that the cores, pumps and supervisors held go. What
lies in host memory, in flash, in fuses and in the cistern stays. -/
def State.restart (s : State) : State :=
  let w : Wafer :=
    { Wafer.reset with
      fuseX := s.wafer.fuseX, fuseM := s.wafer.fuseM, fuseB := s.wafer.fuseB, logX := s.wafer.logX, logM := s.wafer.logM
      logB := s.wafer.logB }
  let u : Sup :=
    { Sup.reset with
      ring := s.sup.ring, completions := s.sup.completions, replies := s.sup.replies, faultqs := s.sup.faultqs
      notReady := s.sup.notReady }
  { s with
    core := Core.blank s.core.ident.site, cur := 0, others := [], agenda := s.agenda, pumps := []
    cis := { s.cis with outcomes := [] }, sup := u, wafer := w, boot := { Boot.reset with phase := 1 }
    flash := { s.flash with accepted := none } }

/-- PORT0_RESET (R385). -/
def execPort0Reset (s : State) : Result := .next s.restart

/-- LOSS_OF_POWER_GOOD (R385): the slots are counted from 0 again (R210). -/
def execLossOfPowerGood (s : State) : Result := .next { s.restart with slot := 0 }

/-- PORT_RESET (R385): ports 1 to 3 retrain their link, and nothing else changes; the link is not modelled. A reset of port 0 is
PORT0_RESET. -/
def execPortReset (_port : BitVec 2) (s : State) : Result := .next s

/-! ## Secure boot (R316) -/

/-- The bundle of a flash bank; an empty bank holds none. -/
def Flash.bank (f : Flash) (i : Nat) : Bundle := f.banks.getD i { body := [], key := [], sig := [], version := 0 }

/-- Steps 1 to 4 of R316. -/
def Flash.accepts (f : Flash) (b : Bundle) : Bool :=
  decide (b.key.length = 57) && Config.ed448Verify b.key (Config.shake256 b.body) b.sig &&
    decide (Config.shake256 b.key = Config.rootDigest) && decide (f.version ≤ b.version)

/-- The bank that is not active. -/
def Flash.other (f : Flash) : Nat := 1 - f.active

/-- The body that a supervisor accepts: of the active bank, or of the second; `rejects` says that it does not accept the
first. -/
def Flash.choice (f : Flash) (rejects : Bool) : Option (List Byte) :=
  if !rejects && f.accepts (f.bank f.active) then some (f.bank f.active).body
  else if f.accepts (f.bank f.other) then some (f.bank f.other).body
  else none

/-- SECURE_BOOT (R316, R383): every supervisor checks; `rejecting` are those whose check of the first bank fails. All must accept
one digest. Where they accept two, R384 leaves open which of them FWM reflects: it is that of the lowest-numbered supervisor that accepts
one (DESIGN CHOICE, log entry 85). -/
def execSecureBoot (rejecting : List (BitVec 5)) (s : State) : Result :=
  let picks := (List.range 32).map fun i => s.flash.choice (rejecting.contains (BitVec.ofNat 5 i))
  let digests := picks.map fun p => p.map Config.shake256
  .next (s.inPhase 1 fun s =>
    let first := picks.findSome? id
    let s1 := { s with flash := { s.flash with accepted := first } }
    match first with
    | none => s1.bootFail 1
    | some b => if digests.all fun d => d = some (Config.shake256 b) then s1.toPhase 2 else s1.bootFail 2)

/-- BUNDLE_UPDATE (R316): the inactive bank is written, and becomes active if its bundle passes. -/
def execBundleUpdate (bundle : Bundle) (s : State) : Result :=
  let f := s.flash
  let banks := if f.active = 0 then [f.bank 0, bundle] else [bundle, f.bank 1]
  let f1 := { f with banks := banks }
  .next (s.mailbox fun s => { s with flash := if f.accepts bundle then { f1 with active := f.other } else f1 })

/-- VERSION_ADVANCE (R316): one of the 64 one-time steps, by a running valid bundle. -/
def execVersionAdvance (s : State) : Result :=
  .next (if s.flash.accepted.isSome ∧ s.flash.version < 64 then { s with flash := { s.flash with version := s.flash.version + 1 } } else s)

/-! ## Calibration and grading (R378, R379, R12) -/

/-- Sites of a clock region (R3). -/
def regionSites (r : Region) : List Site :=
  (List.range 16).flatMap fun i => (List.range 16).map fun j => ⟨16 * r.row + i, 16 * r.col + j⟩

/-- Supply levels (R378): 320 to 400 mV in steps of 2.5 mV. -/
def supplySteps : Nat := 33

/-- The lowest level of some that pass, in steps above 320 mV. -/
def lowestPass (passing : List Nat) : Option Nat := (List.range supplySteps).find? passing.contains

/-- SUPPLY (R378, R379, R383): each region takes the lowest level that passes. `passes` gives the levels that pass in the regions where
not all do; the sites of a region with none are logged as X (log entry 72). `systems` says that the supervisor and photonics
regions calibrate. -/
def execSupply (found : SupplyFound) (s : State) : Result :=
  .next (s.inPhase 2 fun s =>
    let levels := found.passes.filterMap fun (r, ks) => (lowestPass ks).map fun k => (r, k)
    let dead := (found.passes.filter fun x => (lowestPass x.2).isNone).map (·.1)
    let s1 := { s with wafer := { s.wafer with supply := levels, logX := s.wafer.logX ++ dead.flatMap regionSites } }
    if found.systems then s1.toPhase 3 else s1.bootFail 3)

/-- CLOCKS (R378, R379): regions that lock only at 1.55 GHz are logged as B, sites of regions that lock at neither clock as X;
the cores' cycles count from here (R352). -/
def execClocks (slow dead : List Region) (s : State) : Result :=
  .next (s.inPhase 3 fun s =>
    let w := { s.wafer with logB := s.wafer.logB ++ slow, logX := s.wafer.logX ++ dead.flatMap regionSites }
    (({ s with wafer := w }).mapCores fun c => { c with csr := { c.csr with cycle := 0 } }).toPhase 4)

/-- WELL_INIT (R378, R379): every word zero with valid check bits; sites that fail the read-back are logged as X. -/
def execWellInit (bad : List Site) (s : State) : Result :=
  .next (s.inPhase 4 fun s =>
    (({ s with wafer := { s.wafer with logX := s.wafer.logX ++ bad } }).mapCores fun c => { c with well := Well.reset }).toPhase 5)

/-- GRADING (R12, R379): the more restrictive of the fuse map and the log. -/
def execGrading (s : State) : Result :=
  .next (s.inPhase 5 fun s =>
    let w := s.wafer
    let x := (w.fuseX ++ w.logX).eraseDups
    ({ s with wafer := { w with
      gradeX := x, gradeM := ((w.fuseM ++ w.logM).eraseDups).filter fun t => !x.contains t, gradeB := (w.fuseB ++ w.logB).eraseDups
      withheld := [] } }).toPhase 6)

/-! ## Enumeration (R380 to R382) -/

/-- A candidate of R380 for a row range: its rows, its columns, which begin and end with good ones. -/
structure Candidate where
  a : Nat
  b : Nat
  cols : List Nat
  deriving DecidableEq, Repr

/-- The number of cores of a candidate. -/
def Candidate.count (x : Candidate) : Nat := (x.b + 1 - x.a) * x.cols.length

/-- The order of R380: the larger count; then the smaller a, first column, b, and last column. -/
def Candidate.better (x y : Candidate) : Bool :=
  let k (c : Candidate) : List Nat := [c.a, c.cols.headD 0, c.b, c.cols.getLastD 0]
  decide (y.count < x.count) || (decide (x.count = y.count) && decide (k x < k y))

/-- The columns of a mask of bits that are clear in one mask and in the runs that another mask ends: for a row range, the good
columns of each stretch that holds no chosen site. -/
def stretches (bad taken : Nat) : Nat → List Nat → List (List Nat)
  | 0, run => [run]
  | n + 1, run =>
    let c := meshCols - (n + 1)
    if taken.testBit c then run :: stretches bad taken n []
    else if bad.testBit c then stretches bad taken n run
    else stretches bad taken n (run ++ [c])

/-- The best candidate of a row range: of every stretch without chosen sites the whole is the largest (R380). -/
def bestOfRows (a b bad taken : Nat) : Option Candidate :=
  (stretches bad taken meshCols []).foldl (fun best cols =>
    let x : Candidate := { a := a, b := b, cols := cols }
    if cols.isEmpty then best
    else match best with
      | none => some x
      | some y => if x.better y then some x else best) none

/-- The mask of a row's columns that some sites name. -/
def rowMask (sites : List Site) (row : Nat) : Nat := sites.foldl (fun m t => if t.row = row then m ||| 2 ^ t.col else m) 0

/-- The mask of a row's columns that chosen rectangles span (R380). -/
def takenMask (rs : List Rect) (row : Nat) : Nat :=
  rs.foldl (fun m r =>
    let c0 := r.cols.headD 0
    let c1 := r.cols.getLastD 0
    if r.a ≤ row ∧ row ≤ r.b then m ||| ((2 ^ (c1 + 1 - c0) - 1) * 2 ^ c0) else m) 0

/-- The better of two candidates, the first where they are equal. -/
def pickBetter (x y : Option Candidate) : Option Candidate :=
  match x, y with
  | none, _ => y
  | _, none => x
  | some p, some q => if q.better p then y else x

/-- The best candidate of the row ranges that begin at a row. -/
def bestFrom (bad taken : List Nat) (a : Nat) : Nat → Nat → Nat → Option Candidate → Option Candidate
  | 0, _, _, best => best
  | n + 1, bm, tm, best =>
    let b := meshRows - (n + 1)
    let bm1 := bm ||| bad.getD b 0
    let tm1 := tm ||| taken.getD b 0
    bestFrom bad taken a n bm1 tm1 (pickBetter best (bestOfRows a b bm1 tm1))

/-- The best candidate beside the chosen rectangles (R380). -/
def bestRect (bad : List Nat) (rs : List Rect) : Option Candidate :=
  let taken := (List.range meshRows).map (takenMask rs)
  (List.range meshRows).foldl (fun best a => pickBetter best (bestFrom bad taken a (meshRows - a) 0 0 none)) none

/-- At most n rectangles chosen one after another (R380). -/
def chooseRects (bad : List Nat) : Nat → List Rect → List Rect
  | 0, rs => rs
  | n + 1, rs => match bestRect bad rs with
    | none => rs
    | some x => chooseRects bad n (rs ++ [{ a := x.a, b := x.b, cols := x.cols }])

/-- The rectangles of a wafer (R15, R380): at most 64. -/
def Wafer.enumerate (w : Wafer) : List Rect :=
  chooseRects ((List.range meshRows).map fun r => rowMask (w.gradeX ++ w.gradeM) r) 64 []

/-- A site before another in the order of R381. -/
def Site.before (x y : Site) : Bool := decide (x.row < y.row) || (decide (x.row = y.row) && decide (x.col < y.col))

/-- A site put into an ordered list. -/
def insertSite (x : Site) : List Site → List Site
  | [] => [x]
  | y :: ys => if Site.before x y then x :: y :: ys else y :: insertSite x ys

/-- The four physical neighbours in the order of R381. -/
def around (t : Site) : List Site :=
  (if t.row = 0 then [] else [⟨t.row - 1, t.col⟩]) ++ [⟨t.row, t.col + 1⟩, ⟨t.row + 1, t.col⟩] ++
    (if t.col = 0 then [] else [⟨t.row, t.col - 1⟩])

/-- The checkers and their cores (R381). -/
def Wafer.pairing (w : Wafer) : List (Site × Site) :=
  (w.gradeM.foldr insertSite []).foldl (fun ps m =>
    match (around m).find? fun t => (w.place t).isSome && !ps.any fun p => p.2 = t with
    | some t => ps ++ [(m, t)]
    | none => ps) []

/-- Cores in rectangles (R383). -/
def Wafer.coreCount (w : Wafer) : Nat := (w.rects.map fun r => (r.b + 1 - r.a) * r.cols.length).foldl (· + ·) 0

/-- Cores in rectangles whose region is graded A (R2). -/
def Wafer.gradeACount (w : Wafer) : Nat :=
  (w.rects.map fun r => (((List.range (r.b + 1 - r.a)).map fun i =>
    (r.cols.filter fun c => !w.gradeB.contains (regionOf ⟨r.a + i, c⟩)).length).foldl (· + ·) 0)).foldl (· + ·) 0

/-- BELOW (R383, R2). -/
def Wafer.below (w : Wafer) : Bool := decide (w.coreCount < 143360) || decide (10 * w.gradeACount < 9 * w.coreCount)

/-- A core as enumeration leaves it: named, cleared, its cycles counting on (R352). -/
def State.enumerated (s : State) (c : Core) : Core :=
  { s.untouched c.ident.site with csr := { Csrs.reset with cycle := c.csr.cycle } }

/-- ENUMERATION (R380 to R382, R378 phase 6): rectangles, pairs, names and READY; CLEAR runs on every core. -/
def execEnumeration (s : State) : Result :=
  .next (s.inPhase 6 fun s =>
    let w1 := { s.wafer with rects := s.wafer.enumerate, lowered := [] }
    let w2 := { w1 with pairs := w1.pairing }
    let s1 := { s with wafer := w2, boot := { s.boot with below := w2.below } }
    let s2 := s1.mapCores s1.enumerated
    if w2.rects.isEmpty then s2.bootFail 4 else s2.toPhase 7)

/-- PHOTONICS (R378, R379): dead lanes are marked, and READY is set. The launch ring is read once the wafer has joined its domain
(R384, R232; log entry 49). -/
def execPhotonics (deadLanes : List (BitVec 8 × BitVec 3)) (s : State) : Result :=
  .next (s.inPhase 7 fun s =>
    let s1 := { s with wafer := { s.wafer with deadLanes := deadLanes.eraseDups } }
    let s2 := deadLanes.foldl (fun s (no, l) => s.setPump no fun p => { p with lanes := p.lanes.set l.toNat .dead }) s1
    { s2 with boot := { s2.boot with phase := 8, ready := true } })

/-- What the host reads of the device's identity (R317): public key and certificate. -/
def State.identity (s : State) : List Byte × List Byte := (s.flash.devKey, s.flash.devCert)

/-- HSTAT (R383). -/
def State.hstat (s : State) : Word :=
  let up := decide (7 ≤ s.boot.phase)
  let n (x : Nat) : Nat := if up then x else 0
  BitVec.ofNat 64 (n s.wafer.coreCount * 2 ^ 40 + n s.wafer.rects.length * 2 ^ 32 + s.wafer.deadLanes.length * 2 ^ 16 +
    s.boot.fcode.toNat * 2 ^ 8 + s.boot.phase * 2 ^ 4) ||| bitAt s.boot.below 2 ||| bitAt s.boot.fail 1 ||| bitAt s.boot.ready 0

end Sys2Proof.Machine
end

