-- ==== Sys2Proof/Machine/Dispatch.lean ====
section
/-! DEFINITION. Sys2Proof/Machine/Dispatch.lean: what each instruction does, one arm per constructor of Instr. -/

namespace Sys2Proof.Machine

def exec (i : Instr) (s : State) : Host.Outcome State Fault Refusal :=
  match i with
  | .add d a b => Sys2Proof.Machine.execAdd d a b s
  | .sub d a b => Sys2Proof.Machine.execSub d a b s
  | .and d a b => Sys2Proof.Machine.execAnd d a b s
  | .or d a b => Sys2Proof.Machine.execOr d a b s
  | .xor d a b => Sys2Proof.Machine.execXor d a b s
  | .sll d a b => Sys2Proof.Machine.execSll d a b s
  | .srl d a b => Sys2Proof.Machine.execSrl d a b s
  | .sra d a b => Sys2Proof.Machine.execSra d a b s
  | .slt d a b => Sys2Proof.Machine.execSlt d a b s
  | .sltn d a b => Sys2Proof.Machine.execSltn d a b s
  | .min d a b => Sys2Proof.Machine.execMin d a b s
  | .max d a b => Sys2Proof.Machine.execMax d a b s
  | .minn d a b => Sys2Proof.Machine.execMinn d a b s
  | .maxn d a b => Sys2Proof.Machine.execMaxn d a b s
  | .mul d a b => Sys2Proof.Machine.execMul d a b s
  | .mulh d a b => Sys2Proof.Machine.execMulh d a b s
  | .mulhn d a b => Sys2Proof.Machine.execMulhn d a b s
  | .div d a b => Sys2Proof.Machine.execDiv d a b s
  | .divn d a b => Sys2Proof.Machine.execDivn d a b s
  | .rem d a b => Sys2Proof.Machine.execRem d a b s
  | .remn d a b => Sys2Proof.Machine.execRemn d a b s
  | .clz d a => Sys2Proof.Machine.execClz d a s
  | .ctz d a => Sys2Proof.Machine.execCtz d a s
  | .popc d a => Sys2Proof.Machine.execPopc d a s
  | .brev d a => Sys2Proof.Machine.execBrev d a s
  | .bswap d a => Sys2Proof.Machine.execBswap d a s
  | .sextB d a => Sys2Proof.Machine.execSextB d a s
  | .sextH d a => Sys2Proof.Machine.execSextH d a s
  | .sextW d a => Sys2Proof.Machine.execSextW d a s
  | .zextB d a => Sys2Proof.Machine.execZextB d a s
  | .zextH d a => Sys2Proof.Machine.execZextH d a s
  | .zextW d a => Sys2Proof.Machine.execZextW d a s
  | .cmovnz d a b => Sys2Proof.Machine.execCmovnz d a b s
  | .cmovz d a b => Sys2Proof.Machine.execCmovz d a b s
  | .addsh1 d a b => Sys2Proof.Machine.execAddsh1 d a b s
  | .addsh2 d a b => Sys2Proof.Machine.execAddsh2 d a b s
  | .addsh3 d a b => Sys2Proof.Machine.execAddsh3 d a b s
  | .qshift d a b => Sys2Proof.Machine.execQshift d a b s
  | .addi d a imm => Sys2Proof.Machine.execAddi d a imm s
  | .andi d a imm => Sys2Proof.Machine.execAndi d a imm s
  | .ori d a imm => Sys2Proof.Machine.execOri d a imm s
  | .xori d a imm => Sys2Proof.Machine.execXori d a imm s
  | .slti d a imm => Sys2Proof.Machine.execSlti d a imm s
  | .shiSll d a n => Sys2Proof.Machine.execShiSll d a n s
  | .shiSrl d a n => Sys2Proof.Machine.execShiSrl d a n s
  | .shiSra d a n => Sys2Proof.Machine.execShiSra d a n s
  | .lih d a imm => Sys2Proof.Machine.execLih d a imm s
  | .li48 d imm => Sys2Proof.Machine.execLi48 d imm s
  | .beq a b disp => Sys2Proof.Machine.execBeq a b disp s
  | .bne a b disp => Sys2Proof.Machine.execBne a b disp s
  | .blt a b disp => Sys2Proof.Machine.execBlt a b disp s
  | .bge a b disp => Sys2Proof.Machine.execBge a b disp s
  | .bltn a b disp => Sys2Proof.Machine.execBltn a b disp s
  | .bgen a b disp => Sys2Proof.Machine.execBgen a b disp s
  | .jal disp => Sys2Proof.Machine.execJal disp s
  | .jalr d a imm => Sys2Proof.Machine.execJalr d a imm s
  | .dbnz a disp => Sys2Proof.Machine.execDbnz a disp s
  | .cmk d a b => Sys2Proof.Machine.execCmk d a b s
  | .cgx d a => Sys2Proof.Machine.execCgx d a s
  | .cgy d a => Sys2Proof.Machine.execCgy d a s
  | .cgr d a => Sys2Proof.Machine.execCgr d a s
  | .cadd d a b => Sys2Proof.Machine.execCadd d a b s
  | .cdist d a b => Sys2Proof.Machine.execCdist d a b s
  | .ld d a sz sx off => Sys2Proof.Machine.execLd d a sz sx off s
  | .st s0 a sz off => Sys2Proof.Machine.execSt s0 a sz off s
  | .ldx d a b sh sx sz => Sys2Proof.Machine.execLdx d a b sh sx sz s
  | .stx s0 a b sh sz => Sys2Proof.Machine.execStx s0 a b sh sz s
  | .amoadd d a b w64 => Sys2Proof.Machine.execAmoadd d a b w64 s
  | .amoand d a b w64 => Sys2Proof.Machine.execAmoand d a b w64 s
  | .amoor d a b w64 => Sys2Proof.Machine.execAmoor d a b w64 s
  | .amoxor d a b w64 => Sys2Proof.Machine.execAmoxor d a b w64 s
  | .amomin d a b w64 => Sys2Proof.Machine.execAmomin d a b w64 s
  | .amomax d a b w64 => Sys2Proof.Machine.execAmomax d a b w64 s
  | .amominn d a b w64 => Sys2Proof.Machine.execAmominn d a b w64 s
  | .amomaxn d a b w64 => Sys2Proof.Machine.execAmomaxn d a b w64 s
  | .amoswap d a b w64 => Sys2Proof.Machine.execAmoswap d a b w64 s
  | .amocas d a b w64 => Sys2Proof.Machine.execAmocas d a b w64 s
  | .fence core => Sys2Proof.Machine.execFence core s
  | .ffence scope => Sys2Proof.Machine.execFfence scope s
  | .fadd d a b rm p => Sys2Proof.Machine.execFadd d a b rm p s
  | .fsub d a b rm p => Sys2Proof.Machine.execFsub d a b rm p s
  | .fmul d a b rm p => Sys2Proof.Machine.execFmul d a b rm p s
  | .fdiv d a b rm p => Sys2Proof.Machine.execFdiv d a b rm p s
  | .fsqrt d a rm p => Sys2Proof.Machine.execFsqrt d a rm p s
  | .fmin d a b p => Sys2Proof.Machine.execFmin d a b p s
  | .fmax d a b p => Sys2Proof.Machine.execFmax d a b p s
  | .feq d a b p => Sys2Proof.Machine.execFeq d a b p s
  | .flt d a b p => Sys2Proof.Machine.execFlt d a b p s
  | .fle d a b p => Sys2Proof.Machine.execFle d a b p s
  | .fclass d a p => Sys2Proof.Machine.execFclass d a p s
  | .fsgcp d a b p => Sys2Proof.Machine.execFsgcp d a b p s
  | .fsgcn d a b p => Sys2Proof.Machine.execFsgcn d a b p s
  | .fsgxr d a b p => Sys2Proof.Machine.execFsgxr d a b p s
  | .fma d a b c p rm => Sys2Proof.Machine.execFma d a b c p rm s
  | .fms d a b c p rm => Sys2Proof.Machine.execFms d a b c p rm s
  | .fnma d a b c p rm => Sys2Proof.Machine.execFnma d a b c p rm s
  | .fnms d a b c p rm => Sys2Proof.Machine.execFnms d a b c p rm s
  | .fcvt d a sat rm src dst => Sys2Proof.Machine.execFcvt d a sat rm src dst s
  | .vld v a s0 esz k off => Sys2Proof.Machine.execVld v a s0 esz k off s
  | .vst v a s0 esz k off => Sys2Proof.Machine.execVst v a s0 esz k off s
  | .vgath v a vi e64 k off => Sys2Proof.Machine.execVgath v a vi e64 k off s
  | .vscat v a vi e64 k off => Sys2Proof.Machine.execVscat v a vi e64 k off s
  | .vfadd d a b k p => Sys2Proof.Machine.execVfadd d a b k p s
  | .vfsub d a b k p => Sys2Proof.Machine.execVfsub d a b k p s
  | .vfmul d a b k p => Sys2Proof.Machine.execVfmul d a b k p s
  | .vfdiv d a b k p => Sys2Proof.Machine.execVfdiv d a b k p s
  | .vfsqrt d a k p => Sys2Proof.Machine.execVfsqrt d a k p s
  | .vfmin d a b k p => Sys2Proof.Machine.execVfmin d a b k p s
  | .vfmax d a b k p => Sys2Proof.Machine.execVfmax d a b k p s
  | .vfabs d a k p => Sys2Proof.Machine.execVfabs d a k p s
  | .vfneg d a k p => Sys2Proof.Machine.execVfneg d a k p s
  | .vfeq d a b k p => Sys2Proof.Machine.execVfeq d a b k p s
  | .vflt d a b k p => Sys2Proof.Machine.execVflt d a b k p s
  | .vfle d a b k p => Sys2Proof.Machine.execVfle d a b k p s
  | .vfrcp d a k => Sys2Proof.Machine.execVfrcp d a k s
  | .vfrsq d a k => Sys2Proof.Machine.execVfrsq d a k s
  | .vfex2 d a k => Sys2Proof.Machine.execVfex2 d a k s
  | .vflg2 d a k => Sys2Proof.Machine.execVflg2 d a k s
  | .vftanh d a k => Sys2Proof.Machine.execVftanh d a k s
  | .vfma d a b c k p => Sys2Proof.Machine.execVfma d a b c k p s
  | .vfms d a b c k p => Sys2Proof.Machine.execVfms d a b c k p s
  | .vfnma d a b c k p => Sys2Proof.Machine.execVfnma d a b c k p s
  | .vfnms d a b c k p => Sys2Proof.Machine.execVfnms d a b c k p s
  | .vadd d a b k esz => Sys2Proof.Machine.execVadd d a b k esz s
  | .vsub d a b k esz => Sys2Proof.Machine.execVsub d a b k esz s
  | .vmul d a b k esz => Sys2Proof.Machine.execVmul d a b k esz s
  | .vmulh d a b k esz => Sys2Proof.Machine.execVmulh d a b k esz s
  | .vmulhn d a b k esz => Sys2Proof.Machine.execVmulhn d a b k esz s
  | .vand d a b k esz => Sys2Proof.Machine.execVand d a b k esz s
  | .vor d a b k esz => Sys2Proof.Machine.execVor d a b k esz s
  | .vxor d a b k esz => Sys2Proof.Machine.execVxor d a b k esz s
  | .vsll d a b k esz => Sys2Proof.Machine.execVsll d a b k esz s
  | .vsrl d a b k esz => Sys2Proof.Machine.execVsrl d a b k esz s
  | .vsra d a b k esz => Sys2Proof.Machine.execVsra d a b k esz s
  | .vmin d a b k esz => Sys2Proof.Machine.execVmin d a b k esz s
  | .vmax d a b k esz => Sys2Proof.Machine.execVmax d a b k esz s
  | .vminn d a b k esz => Sys2Proof.Machine.execVminn d a b k esz s
  | .vmaxn d a b k esz => Sys2Proof.Machine.execVmaxn d a b k esz s
  | .vadds d a b k esz => Sys2Proof.Machine.execVadds d a b k esz s
  | .vsubs d a b k esz => Sys2Proof.Machine.execVsubs d a b k esz s
  | .vaddsn d a b k esz => Sys2Proof.Machine.execVaddsn d a b k esz s
  | .vsubsn d a b k esz => Sys2Proof.Machine.execVsubsn d a b k esz s
  | .veq d a b k e64 => Sys2Proof.Machine.execVeq d a b k e64 s
  | .vlt d a b k e64 => Sys2Proof.Machine.execVlt d a b k e64 s
  | .vltn d a b k e64 => Sys2Proof.Machine.execVltn d a b k e64 s
  | .vabs d a k esz => Sys2Proof.Machine.execVabs d a k esz s
  | .vperm d a b k esz => Sys2Proof.Machine.execVperm d a b k esz s
  | .vbcast d a k esz => Sys2Proof.Machine.execVbcast d a k esz s
  | .vext d a x esz => Sys2Proof.Machine.execVext d a x esz s
  | .vins d a x esz => Sys2Proof.Machine.execVins d a x esz s
  | .vredadd d a k p => Sys2Proof.Machine.execVredadd d a k p s
  | .vredmax d a k p => Sys2Proof.Machine.execVredmax d a k p s
  | .vredmin d a k p => Sys2Proof.Machine.execVredmin d a k p s
  | .vmaxx d a k p => Sys2Proof.Machine.execVmaxx d a k p s
  | .vminx d a k p => Sys2Proof.Machine.execVminx d a k p s
  | .vsel d a b k esz => Sys2Proof.Machine.execVsel d a b k esz s
  | .vmov d a k esz => Sys2Proof.Machine.execVmov d a k esz s
  | .vzip d a b k esz => Sys2Proof.Machine.execVzip d a b k esz s
  | .vunzip d a b k esz => Sys2Proof.Machine.execVunzip d a b k esz s
  | .vrot d a c k esz => Sys2Proof.Machine.execVrot d a c k esz s
  | .kand d a b => Sys2Proof.Machine.execKand d a b s
  | .kor d a b => Sys2Proof.Machine.execKor d a b s
  | .knot d a => Sys2Proof.Machine.execKnot d a s
  | .kmovKk d a => Sys2Proof.Machine.execKmovKk d a s
  | .kmovKg d a => Sys2Proof.Machine.execKmovKg d a s
  | .kmovGk d a => Sys2Proof.Machine.execKmovGk d a s
  | .vcvt d a dst sat vr k rm src => Sys2Proof.Machine.execVcvt d a dst sat vr k rm src s
  | .vrng d a b k => Sys2Proof.Machine.execVrng d a b k s
  | .vrngi d a c k => Sys2Proof.Machine.execVrngi d a c k s
  | .bld b a f off => Sys2Proof.Machine.execBld b a f off s
  | .bst b a f off => Sys2Proof.Machine.execBst b a f off s
  | .blds b a f off => Sys2Proof.Machine.execBlds b a f off s
  | .bmma m a b => Sys2Proof.Machine.execBmma m a b s
  | .bmmz m a b => Sys2Proof.Machine.execBmmz m a b s
  | .badd d a b => Sys2Proof.Machine.execBadd d a b s
  | .bsub d a b => Sys2Proof.Machine.execBsub d a b s
  | .bmul d a b => Sys2Proof.Machine.execBmul d a b s
  | .bneg d a => Sys2Proof.Machine.execBneg d a s
  | .bmaxe d a b => Sys2Proof.Machine.execBmaxe d a b s
  | .bscl d a x => Sys2Proof.Machine.execBscl d a x s
  | .bnorm d a => Sys2Proof.Machine.execBnorm d a s
  | .bexp d a => Sys2Proof.Machine.execBexp d a s
  | .bmaxi d a => Sys2Proof.Machine.execBmaxi d a s
  | .bclr d f => Sys2Proof.Machine.execBclr d f s
  | .bmov d a => Sys2Proof.Machine.execBmov d a s
  | .blsf d m => Sys2Proof.Machine.execBlsf d m s
  | .blsft d m => Sys2Proof.Machine.execBlsft d m s
  | .blsfc m => Sys2Proof.Machine.execBlsfc m s
  | .benc d hi f => Sys2Proof.Machine.execBenc d hi f s
  | .bdec hi b => Sys2Proof.Machine.execBdec hi b s
  | .bmrd v m => Sys2Proof.Machine.execBmrd v m s
  | .bmrb d m j f => Sys2Proof.Machine.execBmrb d m j f s
  | .bmsv m x => Sys2Proof.Machine.execBmsv m x s
  | .bmrs m x => Sys2Proof.Machine.execBmrs m x s
  | .mxin d ty v x f => Sys2Proof.Machine.execMxin d ty v x f s
  | .mxout v ty x b => Sys2Proof.Machine.execMxout v ty x b s
  | .dmma d a b => Sys2Proof.Machine.execDmma d a b s
  | .send s0 t ch cls => Sys2Proof.Machine.execSend s0 t ch cls s
  | .sendv v t ch cls => Sys2Proof.Machine.execSendv v t ch cls s
  | .sendb b t ch cls => Sys2Proof.Machine.execSendb b t ch cls s
  | .recv d ch => Sys2Proof.Machine.execRecv d ch s
  | .recvv d ch => Sys2Proof.Machine.execRecvv d ch s
  | .recvb d ch => Sys2Proof.Machine.execRecvb d ch s
  | .poll d ch => Sys2Proof.Machine.execPoll d ch s
  | .qflush ch => Sys2Proof.Machine.execQflush ch s
  | .mark ch m cls => Sys2Proof.Machine.execMark ch m cls s
  | .spawn d a => Sys2Proof.Machine.execSpawn d a s
  | .exit => Sys2Proof.Machine.execExit s
  | .yield => Sys2Proof.Machine.execYield s
  | .waitq d a => Sys2Proof.Machine.execWaitq d a s
  | .waite a => Sys2Proof.Machine.execWaite a s
  | .waitm ch m => Sys2Proof.Machine.execWaitm ch m s
  | .barr ch n => Sys2Proof.Machine.execBarr ch n s
  | .sleep a => Sys2Proof.Machine.execSleep a s
  | .wake a => Sys2Proof.Machine.execWake a s
  | .slotw a b => Sys2Proof.Machine.execSlotw a b s
  | .stid d => Sys2Proof.Machine.execStid d s
  | .csrr d csr => Sys2Proof.Machine.execCsrr d csr s
  | .csrw csr a => Sys2Proof.Machine.execCsrw csr a s
  | .csrs csr a => Sys2Proof.Machine.execCsrs csr a s
  | .csrc csr a => Sys2Proof.Machine.execCsrc csr a s
  | .csrrw d csr a => Sys2Proof.Machine.execCsrrw d csr a s
  | .supvDone a => Sys2Proof.Machine.execSupvDone a s
  | .supvCheckpoint a => Sys2Proof.Machine.execSupvCheckpoint a s
  | .supvSlotmove a => Sys2Proof.Machine.execSupvSlotmove a s
  | .supvPumpswap a => Sys2Proof.Machine.execSupvPumpswap a s
  | .supvHostnote a => Sys2Proof.Machine.execSupvHostnote a s
  | .supvSlottime a => Sys2Proof.Machine.execSupvSlottime a s
  | .supvUnassigned code a => Sys2Proof.Machine.execSupvUnassigned code a s
  | .brk code => Sys2Proof.Machine.execBrk code s
  | .idle => Sys2Proof.Machine.execIdle s
  | .fltres a => Sys2Proof.Machine.execFltres a s
  | .fltskp a => Sys2Proof.Machine.execFltskp a s
  | .fltkil a => Sys2Proof.Machine.execFltkil a s
  | .chksig d a => Sys2Proof.Machine.execChksig d a s
  | .strmOut d a ch len => Sys2Proof.Machine.execStrmOut d a ch len s
  | .strmIn d a ch len => Sys2Proof.Machine.execStrmIn d a ch len s
  | .strmCopy d a b len => Sys2Proof.Machine.execStrmCopy d a b len s
  | .fget d a b len => Sys2Proof.Machine.execFget d a b len s
  | .fput d a b len => Sys2Proof.Machine.execFput d a b len s
  | .fld d a sz sx off => Sys2Proof.Machine.execFld d a sz sx off s
  | .fst s0 a sz off => Sys2Proof.Machine.execFst s0 a sz off s
  | .famoadd d a b w64 off => Sys2Proof.Machine.execFamoadd d a b w64 off s
  | .famoand d a b w64 off => Sys2Proof.Machine.execFamoand d a b w64 off s
  | .famoor d a b w64 off => Sys2Proof.Machine.execFamoor d a b w64 off s
  | .famoxor d a b w64 off => Sys2Proof.Machine.execFamoxor d a b w64 off s
  | .famomin d a b w64 off => Sys2Proof.Machine.execFamomin d a b w64 off s
  | .famomax d a b w64 off => Sys2Proof.Machine.execFamomax d a b w64 off s
  | .famominn d a b w64 off => Sys2Proof.Machine.execFamominn d a b w64 off s
  | .famomaxn d a b w64 off => Sys2Proof.Machine.execFamomaxn d a b w64 off s
  | .famoswap d a b w64 off => Sys2Proof.Machine.execFamoswap d a b w64 off s
  | .famocas d a b w64 off => Sys2Proof.Machine.execFamocas d a b w64 off s
  | .ftbl a count => Sys2Proof.Machine.execFtbl a count s
  | .ftbu a count => Sys2Proof.Machine.execFtbu a count s
  | .ftbp a count => Sys2Proof.Machine.execFtbp a count s
  | .bmloop f s0 a b n t fmt sa sb => Sys2Proof.Machine.execBmloop f s0 a b n t fmt sa sb s
  | .chbind ch a base len => Sys2Proof.Machine.execChbind ch a base len s
  | .strandRelease n => Sys2Proof.Machine.execStrandRelease n s
  | .sleepExpire n => Sys2Proof.Machine.execSleepExpire n s
  | .roundStart => Sys2Proof.Machine.execRoundStart s
  | .localPortSend cls engine => Sys2Proof.Machine.execLocalPortSend cls engine s
  | .routeMessage inp ch noise => Sys2Proof.Machine.execRouteMessage inp ch noise s
  | .classPromote inp ch => Sys2Proof.Machine.execClassPromote inp ch s
  | .combineLine ch out => Sys2Proof.Machine.execCombineLine ch out s
  | .renormApply inp ch => Sys2Proof.Machine.execRenormApply inp ch s
  | .markerForward ch => Sys2Proof.Machine.execMarkerForward ch s
  | .voteForward ch => Sys2Proof.Machine.execVoteForward ch s
  | .routerDelivery cls => Sys2Proof.Machine.execRouterDelivery cls s
  | .headerAccept cls => Sys2Proof.Machine.execHeaderAccept cls s
  | .markerRecordAccept cls => Sys2Proof.Machine.execMarkerRecordAccept cls s
  | .spillDelivery => Sys2Proof.Machine.execSpillDelivery s
  | .bankPromote req bank => Sys2Proof.Machine.execBankPromote req bank s
  | .eccWriteback word => Sys2Proof.Machine.execEccWriteback word s
  | .scrub => Sys2Proof.Machine.execScrub s
  | .engineCommandComplete idx => Sys2Proof.Machine.execEngineCommandComplete idx s
  | .fgetGranuleData => Sys2Proof.Machine.execFgetGranuleData s
  | .engineResume idx => Sys2Proof.Machine.execEngineResume idx s
  | .farRequestPlace turn => Sys2Proof.Machine.execFarRequestPlace turn s
  | .outboundSlot pump lane slot => Sys2Proof.Machine.execOutboundSlot pump lane slot s
  | .inboundSlot pump lane slot => Sys2Proof.Machine.execInboundSlot pump lane slot s
  | .farResponse => Sys2Proof.Machine.execFarResponse s
  | .controllerPerform turn => Sys2Proof.Machine.execControllerPerform turn s
  | .outcomeExpire => Sys2Proof.Machine.execOutcomeExpire s
  | .laneRetrain pump lane => Sys2Proof.Machine.execLaneRetrain pump lane s
  | .laneReturn pump lane => Sys2Proof.Machine.execLaneReturn pump lane s
  | .pageWalk pump => Sys2Proof.Machine.execPageWalk pump s
  | .walkReadReturn turn => Sys2Proof.Machine.execWalkReadReturn turn s
  | .faultqRoom asid => Sys2Proof.Machine.execFaultqRoom asid s
  | .slotTableSwitch pump => Sys2Proof.Machine.execSlotTableSwitch pump s
  | .csrset csr value => Sys2Proof.Machine.execCsrset csr value s
  | .routenext ch entry => Sys2Proof.Machine.execRoutenext ch entry s
  | .routeset ch entry => Sys2Proof.Machine.execRouteset ch entry s
  | .wellw addr words => Sys2Proof.Machine.execWellw addr words s
  | .wellr addr n => Sys2Proof.Machine.execWellr addr n s
  | .clear => Sys2Proof.Machine.execClear s
  | .start => Sys2Proof.Machine.execStart s
  | .member dim chans => Sys2Proof.Machine.execMember dim chans s
  | .shoot asid page count => Sys2Proof.Machine.execShoot asid page count s
  | .shootAck => Sys2Proof.Machine.execShootAck s
  | .strandKill n => Sys2Proof.Machine.execStrandKill n s
  | .strandRetry n => Sys2Proof.Machine.execStrandRetry n s
  | .strandSetpc n pc => Sys2Proof.Machine.execStrandSetpc n pc s
  | .stater off n => Sys2Proof.Machine.execStater off n s
  | .statew off words => Sys2Proof.Machine.execStatew off words s
  | .pumpset pumps => Sys2Proof.Machine.execPumpset pumps s
  | .controlNak code => Sys2Proof.Machine.execControlNak code s
  | .quiesce => Sys2Proof.Machine.execQuiesce s
  | .quiesceForward out => Sys2Proof.Machine.execQuiesceForward out s
  | .quiet => Sys2Proof.Machine.execQuiet s
  | .quiesceTimeout fnum => Sys2Proof.Machine.execQuiesceTimeout fnum s
  | .launch rec0 => Sys2Proof.Machine.execLaunch rec0 s
  | .resize rec0 => Sys2Proof.Machine.execResize rec0 s
  | .resizeShrink fnum => Sys2Proof.Machine.execResizeShrink fnum s
  | .resizeTimeout fnum => Sys2Proof.Machine.execResizeTimeout fnum s
  | .placement => Sys2Proof.Machine.execPlacement s
  | .preempt fnum => Sys2Proof.Machine.execPreempt fnum s
  | .saveWrite fnum => Sys2Proof.Machine.execSaveWrite fnum s
  | .restore fnum => Sys2Proof.Machine.execRestore fnum s
  | .drain fnum => Sys2Proof.Machine.execDrain fnum s
  | .faultMessage => Sys2Proof.Machine.execFaultMessage s
  | .hostRetry t => Sys2Proof.Machine.execHostRetry t s
  | .hostSkip t => Sys2Proof.Machine.execHostSkip t s
  | .hostKill t => Sys2Proof.Machine.execHostKill t s
  | .rollback fnum => Sys2Proof.Machine.execRollback fnum s
  | .contextCreate desc => Sys2Proof.Machine.execContextCreate desc s
  | .contextDelete asid => Sys2Proof.Machine.execContextDelete asid s
  | .contextReuseExpire asid => Sys2Proof.Machine.execContextReuseExpire asid s
  | .pageTableChange asid page count => Sys2Proof.Machine.execPageTableChange asid page count s
  | .pageTableDone => Sys2Proof.Machine.execPageTableDone s
  | .cisternError asid page count => Sys2Proof.Machine.execCisternError asid page count s
  | .quarClear asid page count => Sys2Proof.Machine.execQuarClear asid page count s
  | .attest nonce field => Sys2Proof.Machine.execAttest nonce field s
  | .domainConfig cfg => Sys2Proof.Machine.execDomainConfig cfg s
  | .domainLeave => Sys2Proof.Machine.execDomainLeave s
  | .checkIntervalEnd => Sys2Proof.Machine.execCheckIntervalEnd s
  | .check sig => Sys2Proof.Machine.execCheck sig s
  | .checkRecheck sig => Sys2Proof.Machine.execCheckRecheck sig s
  | .coreRetire site => Sys2Proof.Machine.execCoreRetire site s
  | .clockChange region => Sys2Proof.Machine.execClockChange region s
  | .powerGood => Sys2Proof.Machine.execPowerGood s
  | .secureBoot rejecting => Sys2Proof.Machine.execSecureBoot rejecting s
  | .supply found => Sys2Proof.Machine.execSupply found s
  | .clocks slow dead => Sys2Proof.Machine.execClocks slow dead s
  | .wellInit bad => Sys2Proof.Machine.execWellInit bad s
  | .grading => Sys2Proof.Machine.execGrading s
  | .enumeration => Sys2Proof.Machine.execEnumeration s
  | .photonics deadLanes => Sys2Proof.Machine.execPhotonics deadLanes s
  | .port0Reset => Sys2Proof.Machine.execPort0Reset s
  | .portReset port => Sys2Proof.Machine.execPortReset port s
  | .bundleUpdate bundle => Sys2Proof.Machine.execBundleUpdate bundle s
  | .versionAdvance => Sys2Proof.Machine.execVersionAdvance s
  | .reservedEncoding w0 w1 => Sys2Proof.Machine.execReservedEncoding w0 w1 s
  | .fetchFault => Sys2Proof.Machine.execFetchFault s
  | .lossOfPowerGood => Sys2Proof.Machine.execLossOfPowerGood s
  | .softError word uncorrectable => Sys2Proof.Machine.execSoftError word uncorrectable s

end Sys2Proof.Machine
end

