-- ==== Sys2Proof/Machine/Step.lean ====
section
/-! DEFINITION. Sys2Proof/Machine/Step.lean: one step of the machine. It is marked noncomputable, because the decoder is;
stepC is the same function for compiled code, and step_eq_stepC says so. -/

namespace Sys2Proof.Machine

/-- The acting strand goes on with its running BMLOOP or with its instruction's accesses, or issues the instruction at its pc (R18, R166,
R138, R58: an excluded encoding changes nothing but what its fault changes, so it does not end a BMLOOP). -/
noncomputable def issueNow (s : State) : Host.Outcome State Fault Refusal :=
  match s.heldLoop, s.st.part with
  | some r, _ => s.loopAgain r
  | none, some p => .next (s.partAgain p)
  | none, none =>
    match s.core.fetchFault s.pc with
    | some _ => exec .fetchFault s
    | none =>
      match decode (s.core.fetch s.pc).1 (s.core.fetch s.pc).2 with
      | .ok i => exec i (s.issued (isBmloop i) (isBarr i))
      | .error _ => exec (.reservedEncoding (s.core.fetch s.pc).1 (s.core.fetch s.pc).2) s.fetched

/-- A step of the acting core of its own accord: what is due there, else its next cycle and what it issues in it. -/
noncomputable def coreStep (s : State) : Host.Outcome State Fault Refusal :=
  match s.core.dueEvent with
  | some i => exec i s
  | none =>
    match (s.mapCore Core.tick).pick with
    | none => .next (s.mapCore Core.tick)
    | some s1 => issueNow s1

/-- A turn: an event, or the acting core's own cycle. Where the site takes no part in it nothing changes (R11 to R13). -/
noncomputable def turnStep (act : Option Instr) (s : State) : Host.Outcome State Fault Refusal :=
  if s.deafTo act then .next s
  else
    match act with
    | some i => exec i s
    | none => coreStep s

/-- ONE STEP: the head of the agenda, else the acting core's own (log entry 1). -/
noncomputable def step (s : State) : Host.Outcome State Fault Refusal :=
  match s.agenda with
  | [] => turnStep none s
  | t :: rest => turnStep t.act (s.begin t rest)

/-! ## The same for compiled code -/

/-- exec of what a word decodes to, without building the instruction. -/
def execDecoded (f : Decoded) (s : State) : Host.Outcome State Fault Refusal :=
  match f with
  | .low i => exec i s
  | .upper (.fld d a sz sx off) => execFld d a sz sx off s
  | .upper (.fst r a sz off) => execFst r a sz off s
  | .upper (.famo op d a b w off) =>
    match op.toNat with
    | 0 => execFamoadd d a b w off s
    | 1 => execFamoand d a b w off s
    | 2 => execFamoor d a b w off s
    | 3 => execFamoxor d a b w off s
    | 4 => execFamomin d a b w off s
    | 5 => execFamomax d a b w off s
    | 6 => execFamominn d a b w off s
    | 7 => execFamomaxn d a b w off s
    | 8 => execFamoswap d a b w off s
    | _ => execFamocas d a b w off s
  | .upper (.ftb fn a c) =>
    match fn.toNat with
    | 0 => execFtbl a c s
    | 1 => execFtbu a c s
    | _ => execFtbp a c s
  | .upper (.bmloop f0 s0 a b n t fmt sa sb) => execBmloop f0 s0 a b n t fmt sa sb s
  | .upper (.chbind ch a base len) => execChbind ch a base len s

theorem execDecoded_eq (f : Decoded) (s : State) : execDecoded f s = exec f.instr s := by
  match f with
  | .low _ => rfl
  | .upper (.fld ..) => rfl
  | .upper (.fst ..) => rfl
  | .upper (.famo op ..) =>
    unfold execDecoded Decoded.instr Upper.instr
    dsimp only
    generalize op.toNat = k
    match k with
    | 0 | 1 | 2 | 3 | 4 | 5 | 6 | 7 | 8 | _ + 9 => rfl
  | .upper (.ftb fn ..) =>
    unfold execDecoded Decoded.instr Upper.instr
    dsimp only
    generalize fn.toNat = k
    match k with
    | 0 | 1 | _ + 2 => rfl
  | .upper (.bmloop ..) => rfl
  | .upper (.chbind ..) => rfl

theorem loopDecoded_eq (f : Decoded) : loopDecoded f = isBmloop f.instr := by
  match f with
  | .low _ => rfl
  | .upper (.fld ..) => rfl
  | .upper (.fst ..) => rfl
  | .upper (.famo op ..) =>
    unfold loopDecoded Decoded.instr Upper.instr
    dsimp only
    generalize op.toNat = k
    match k with
    | 0 | 1 | 2 | 3 | 4 | 5 | 6 | 7 | 8 | _ + 9 => rfl
  | .upper (.ftb fn ..) =>
    unfold loopDecoded Decoded.instr Upper.instr
    dsimp only
    generalize fn.toNat = k
    match k with
    | 0 | 1 | _ + 2 => rfl
  | .upper (.bmloop ..) => rfl
  | .upper (.chbind ..) => rfl

theorem barrDecoded_eq (f : Decoded) : barrDecoded f = isBarr f.instr := by
  match f with
  | .low _ => rfl
  | .upper (.fld ..) => rfl
  | .upper (.fst ..) => rfl
  | .upper (.famo op ..) =>
    unfold barrDecoded Decoded.instr Upper.instr
    dsimp only
    generalize op.toNat = k
    match k with
    | 0 | 1 | 2 | 3 | 4 | 5 | 6 | 7 | 8 | _ + 9 => rfl
  | .upper (.ftb fn ..) =>
    unfold barrDecoded Decoded.instr Upper.instr
    dsimp only
    generalize fn.toNat = k
    match k with
    | 0 | 1 | _ + 2 => rfl
  | .upper (.bmloop ..) => rfl
  | .upper (.chbind ..) => rfl

def issueNowC (s : State) : Host.Outcome State Fault Refusal :=
  match s.heldLoop, s.st.part with
  | some r, _ => s.loopAgain r
  | none, some p => .next (s.partAgain p)
  | none, none =>
    match s.core.fetchFault s.pc with
    | some _ => exec .fetchFault s
    | none =>
      match decodeForm (s.core.fetch s.pc).1 (s.core.fetch s.pc).2 with
      | .ok f => execDecoded f (s.issued (loopDecoded f) (barrDecoded f))
      | .error _ => exec (.reservedEncoding (s.core.fetch s.pc).1 (s.core.fetch s.pc).2) s.fetched

def coreStepC (s : State) : Host.Outcome State Fault Refusal :=
  match s.core.dueEvent with
  | some i => exec i s
  | none =>
    match (s.mapCore Core.tick).pick with
    | none => .next (s.mapCore Core.tick)
    | some s1 => issueNowC s1

def turnStepC (act : Option Instr) (s : State) : Host.Outcome State Fault Refusal :=
  if s.deafTo act then .next s
  else
    match act with
    | some i => exec i s
    | none => coreStepC s

def stepC (s : State) : Host.Outcome State Fault Refusal :=
  match s.agenda with
  | [] => turnStepC none s
  | t :: rest => turnStepC t.act (s.begin t rest)

theorem issueNow_eq (s : State) : issueNow s = issueNowC s := by
  unfold issueNow issueNowC decode
  cases h : decodeForm (s.core.fetch s.pc).1 (s.core.fetch s.pc).2 with
  | error e => rfl
  | ok f =>
    simp only [Except.map, loopDecoded_eq, barrDecoded_eq, execDecoded_eq]

theorem coreStep_eq (s : State) : coreStep s = coreStepC s := by
  unfold coreStep coreStepC
  simp only [issueNow_eq]

/-- Compiled code runs stepC for step. -/
@[csimp] theorem step_eq_stepC : @step = @stepC := by
  funext s
  unfold step stepC turnStep turnStepC
  simp only [coreStep_eq]

/-! ## A program placed for the next step -/

/-- The core with an instruction's words at address 0 and strand 0 the only strand, in RUN, with its pc there and nothing
due before its issue (log entry 1). -/
def Core.placeFirst (c : Core) (xs : List Byte) : Core :=
  { c with
    strands := (Vector.replicate 8 Strand.blank).set 0
      { c.strands[0] with pc := 0, state := .live .run, yielded := false, part := none }
    well := c.well.store 0 xs
    issue := { c.issue with roundDue := false }
    check := { c.check with ended := none }
    stopped := false }

/-- The machine with the instruction in bits w, numbered as spec/opcode_table.json numbers them, where the next step
fetches. -/
def State.withFetchWord (s : State) (_nbits w : Nat) : State :=
  { s with
    agenda := [], cur := 0
    core := s.core.placeFirst (wordBytes (BitVec.ofNat 32 w) ++ wordBytes (BitVec.ofNat 32 (w / 2 ^ 32))) }

end Sys2Proof.Machine
end

