-- ==== Sys2Proof/Safety.lean ====
section
/-! DEFINITION. Sys2Proof/Safety.lean: the conditions that the statements speak of: an instruction that completes, what it
may change, taking a fault (R326), and the invariant of the machine's memories. -/

namespace Sys2Proof.Machine

/-! ## Completing -/

/-- Instruction i completes in state s with a next state of which P holds. -/
def Runs (i : Instr) (s : State) (P : State → Prop) : Prop := ∃ t, exec i s = .next t ∧ P t

/-- A byte of the acting core's well. -/
def State.byte (s : State) (a : Nat) : Byte := Mem.get s.core.well.bytes a

/-- Every byte of the acting core's well reads as before. -/
def SameBytes (s t : State) : Prop := ∀ a, t.byte a = s.byte a

/-- After t the n bytes from address a on are xs, and every other byte of the well reads as in s. -/
def StoredBytes (s t : State) (a : Nat) (xs : List Byte) : Prop :=
  ∀ x, t.byte x = if a ≤ x ∧ x < a + xs.length then xs.getD (x - a) 0 else s.byte x

/-- From s to t the acting core becomes c but for its strands, for the checker's record of results (R347, R361) and for
RETIRED, which counts one instruction (R352); no strand but the acting one changes, and nothing outside the core does. -/
def Own (c : Core) (s t : State) : Prop :=
  ∃ (strands : Vector Strand 8) (check : Check),
    (∀ n : StrandNo, n ≠ s.cur → strands[n.toNat] = s.core.strands[n.toNat]) ∧
    t = { s with core := { c with
          strands := strands, check := check, csr := { c.csr with retired := s.core.csr.retired + 1 } } }

/-- An instruction of len bytes that writes no register completes, with the core otherwise c: pc past it, flags added. -/
def Stepped (c : Core) (s t : State) (fl : Flags) (len : Nat) : Prop :=
  Own c s t ∧ t.st = { s.st with pc := s.pc + BitVec.ofNat 64 len, fflags := s.st.fflags ||| zext fl }

/-- An instruction that leaves the strand at address pc completes with x in g[d], a write to g0 discarded (R40); flags
added; every other register and all else as before, with the core otherwise c. -/
def WroteG (c : Core) (s t : State) (d : GReg) (x : Word) (fl : Flags) (pc : Word) : Prop :=
  Own c s t ∧ t.st = { s.st with pc := pc, g := t.st.g, fflags := s.st.fflags ||| zext fl } ∧
  ∀ r, t.g r = if r = d ∧ d ≠ 0 then x else s.g r

/-- A one-word instruction completes with x in g[d] and its flags added, and nothing else changed: every byte of the well
reads as before. -/
def PutF (s t : State) (d : GReg) (x : Word) (fl : Flags) : Prop := WroteG s.core s t d x fl (s.pc + 4) ∧ SameBytes s t

/-- A one-word instruction that raises no flag completes with x in g[d] and nothing else changed. -/
def PutG (s t : State) (d : GReg) (x : Word) : Prop := PutF s t d x 0

/-- A one-word instruction that writes no register and no memory completes, with the core otherwise c. -/
def Passed (c : Core) (s t : State) : Prop := Stepped c s t 0 4 ∧ SameBytes s t

/-- An instruction that writes no register and no memory leaves the strand at address pc. -/
def Goes (s t : State) (pc : Word) : Prop := Own s.core s t ∧ t.st = { s.st with pc := pc } ∧ SameBytes s t

/-- A one-word instruction completes with x in v[d] and nothing else changed but the flags. -/
def PutV (c : Core) (s t : State) (d : VReg) (x : VWord) (fl : Flags) : Prop :=
  Own c s t ∧ SameBytes s t ∧
  t.st = { s.st with pc := s.pc + 4, v := t.st.v, fflags := s.st.fflags ||| zext fl } ∧
  ∀ r, t.v r = if r = d then x else s.v r

/-- A one-word instruction completes with x in k[d], a write to k0 discarded (R40), and nothing else changed but the
flags. -/
def PutK (c : Core) (s t : State) (d : KReg) (x : BitVec 8) (fl : Flags) : Prop :=
  Own c s t ∧ SameBytes s t ∧
  t.st = { s.st with pc := s.pc + 4, k := t.st.k, fflags := s.st.fflags ||| zext fl } ∧
  ∀ r, t.k r = if r = d ∧ d ≠ 0 then x else s.k r

/-- No trap is enabled for any of these flags (R103, R106). -/
def Quiet (s : State) (fl : Flags) : Prop := trapEnabled s.st.fmode &&& fl = 0

/-- The instruction of 4 bytes takes ARITH for flags fl after its work, which u shows (R106): the state is u with the strand
back at the instruction, and then the fault. -/
def TrapsArith (i : Instr) (s u : State) (fl : Flags) : Prop :=
  exec i s = .next ((u.jump s.pc).trapAfter Code.arith (zext fl) 4)

/-- The instruction of 4 bytes raises flags fl and does what P says: it completes so where no trap is enabled for them, and takes
ARITH after that work where one is (R106). -/
def Raises (i : Instr) (s : State) (fl : Flags) (P : State → Prop) : Prop :=
  (Quiet s fl → Runs i s P) ∧ (¬ Quiet s fl → ∃ u, P u ∧ TrapsArith i s u fl)

/-- A vector instruction of element width w completes: each active element of v[d] is f of its index, each inactive one as
before (R41, R125). -/
def PutElems (s t : State) (w : Nat) (d : VReg) (k : KReg) (f : Nat → Nat) (fl : Flags) : Prop :=
  ∃ x, PutV s.core s t d x fl ∧
    ∀ i < 256 / w, velem w x i = if kbit w (s.k k) i then f i else velem w (s.v d) i

/-- A compare of element width w completes: each bit of k[d] is the result of the element it governs, 0 for an inactive
one (R141). -/
def PutMask (s t : State) (w : Nat) (d k : KReg) (f : Nat → Bool) (fl : Flags) : Prop :=
  ∃ x, PutK s.core s t d x fl ∧ ∀ j < 8, x.getLsbD j = (kbit w (s.k k) (32 * j / w) && f (32 * j / w))

/-- The acting strand owns every b and m register of two lists (R43, R150). -/
def Owns (s : State) (bs : List BReg) (ms : List MReg) : Prop :=
  (∀ r ∈ bs, natBits s.core.csr.ownB.toNat (4 * r.toNat) 4 = 8 + s.cur.toNat) ∧
  (∀ r ∈ ms, natBits s.core.csr.ownM.toNat (4 * r.toNat) 4 = 8 + s.cur.toNat)

/-- The core with POISONCTL.SEEN set where poison was consumed (R105). -/
def Core.seen (c : Core) (p : Bool) : Core :=
  { c with csr := { c.csr with poisonCtl := if p then c.csr.poisonCtl ||| 0x100 else c.csr.poisonCtl } }

/-- A one-word block instruction completes with x in b[d], SEEN set where poison was consumed, its flags added, and nothing
else changed. -/
def PutB (s t : State) (d : BReg) (x : BLine) (seen : Bool) (fl : Flags) : Prop :=
  Stepped ({ s.core with b := s.core.b.set d.toNat x }.seen seen) s t fl 4 ∧ SameBytes s t ∧
  ∀ r, t.b r = if r = d then x else s.b r

/-- A one-word block instruction completes with the tile x in m[d], SEEN set where poison was consumed, its flags added, and
nothing else changed. -/
def PutM (s t : State) (d : MReg) (x : Tile) (seen : Bool) (fl : Flags) : Prop :=
  Stepped ({ s.core with m := s.core.m.set d.toNat x }.seen seen) s t fl 4 ∧ SameBytes s t ∧
  ∀ r, t.m r = if r = d then x else s.m r

/-- The little-endian number in n bytes of the acting core's well (R7). -/
def State.number (s : State) (a n : Nat) : Nat := ofLeBytes ((List.range n).map fun i => s.byte (a + i))

/-- An access of n bytes, aligned to m, that R236 lets through: aligned, inside the well, no uncorrectable word. -/
def Accessible (s : State) (a : Word) (n m : Nat) : Prop :=
  a.toNat % m = 0 ∧ a.toNat + n ≤ 393216 ∧ s.core.well.badIn a.toNat n = false

/-! ## Canonical memories -/

/-- The memories of a core are in canonical form. -/
def Core.memWf (c : Core) : Bool := Memory.wf c.well.bytes

/-- Every memory of the module is in canonical form: the wells of all cores and of saved cores, and the cistern. -/
def State.memWf (s : State) : Bool :=
  s.core.memWf && s.others.all Core.memWf && Memory.wf s.cis.bytes &&
    s.sup.fields.all fun f => f.saves.all fun r => r.cores.all fun x => x.core.memWf

end Sys2Proof.Machine
end

