-- ==== Sys2Proof/Certificates/Slice0/Obligations.lean ====
section
/-! DEFINITION. Sys2Proof/Certificates/Slice0/Obligations.lean: the statements. The predicates they use stand in Safety.lean.
Each docstring names the rules of the spec it formalises, and says what is the model's own choice. -/

open Sys2Proof Sys2Proof.Machine

/-! ## Encoding -/

/-- R34 to R57: decoding what the encoder writes gives the instruction back, for every well-formed instruction and every
value of its operands, with a second word exactly for majors 0x38 to 0x3F (R37). A step of the hardware has no words. -/
def Obligations.EncodeDecode : Prop := ∀ (i : Instr) (w0 : IWord) (rest : List IWord),
  i.wellFormed = true → encode i = w0 :: rest →
    decode w0 (rest.getD 0 0) = .ok i ∧ rest.length = if 0x38 ≤ (w0.extractLsb' 26 6).toNat then 1 else 0

/-- R57 and R37: words that decode are the one encoding of a well-formed instruction, so no two words of one form stand for one
instruction and every bit is accounted for. -/
def Obligations.DecodeEncode : Prop := ∀ (w0 w1 : IWord) (i : Instr), decode w0 w1 = .ok i →
  i.wellFormed = true ∧ encode i = if 0x38 ≤ (w0.extractLsb' 26 6).toNat then [w0, w1] else [w0]

/-- Words that the spec writes out in its examples decode to the instructions that it names there, and the all-zero and the
all-ones word to none (R57). -/
def Obligations.DecodeWords : Prop :=
  decode 0x04843800 0 = .ok (.add 4 4 7) ∧ decode 0x48C0FFFD 0 = .ok (.dbnz 6 0xFFFD) ∧
  decode 0x3085FFFC 0 = .ok (.blt 4 5 0xFFFC) ∧ decode 0x40000380 0 = .ok (.jal 0x380) ∧
  decode 0x4C853000 0 = .ok (.cmk 4 5 6) ∧ decode 0x9CC80044 0 = .ok (.vredadd 3 2 0 .s) ∧
  decode 0xB4918000 0 = .ok (.bmma 1 2 3) ∧ decode 0xD0E82801 0 = .ok (.send 7 8 5 1) ∧
  decode 0xD4850000 0 = .ok (.spawn 4 5) ∧ decode 0xD80D0421 0 = .ok (.csrw 0x042 13) ∧
  (∃ e, decode 0 0 = .error e) ∧ (∃ e, decode 0xFFFFFFFF 0xFFFFFFFF = .error e)

/-! ## The step -/

/-- R18, R37, R165 and R265: the acting core, with nothing due and nothing told to move before it, issues the strand that the
issue stage picks; where the words at its pc decode, the step is the meaning of that instruction in that state: its words read
(R171), a BARR waited in before it left unless it is a BARR that issues (R296), and MPROG.ACT cleared by R165 first. A BMLOOP under way goes on with the operands
that it read at its issue (R166), and an instruction whose accesses are under way with those that are left (R138; which of them come next is the
model's own, log entry 53). What is due goes first, and a cycle in which no strand may issue only counts. A turn told to
move first (the model's own, log entry 1) is the meaning of its event at its site; a core that is powered off, or whose router
is in pass-through, takes no part in a step of its own (R11 to R13). -/
def Obligations.StepRunsDecoded : Prop := ∀ (s u : State) (i : Instr),
  let w0 (a : Word) : IWord := BitVec.ofNat 32 (u.number a.toNat 4)
  let live := s.agenda = [] ∧ ¬ (s.core.ident.site ∈ s.wafer.gradeX ∨ s.wafer.through s.core.ident.site = true)
  (live → s.core.dueEvent = none → (s.mapCore Core.tick).pick = some u → u.heldLoop = none → u.st.part = none →
    u.pc.toNat % 4 = 0 →
    (let n := if 0x38 ≤ ((w0 u.pc).extractLsb' 26 6).toNat then 8 else 4
     u.pc.toNat + n ≤ 393216 → u.core.well.badIn u.pc.toNat 4 = false → (n = 8 → u.core.well.badIn (u.pc.toNat + 4) 4 = false) →
     decode (w0 u.pc) (if n = 8 then BitVec.ofNat 32 (u.number (u.pc.toNat + 4) 4) else 0) = .ok i →
     step s = exec i (((u.touch u.pc.toNat n).setSt fun st => { st with inBarr := st.inBarr && isBarr i }).mapCore fun c =>
       c.leaveLoop u.cur (isBmloop i)))) ∧
  (∀ r, live → s.core.dueEvent = none → (s.mapCore Core.tick).pick = some u → u.heldLoop = some r →
    step s = exec (.bmloop r.f0 r.s0 0 0 0 r.tiles r.fmt r.sa r.sb) u) ∧
  (∀ p, live → s.core.dueEvent = none → (s.mapCore Core.tick).pick = some u → u.heldLoop = none → u.st.part = some p →
    step s = .next ({ u with split := u.split.drop 1 }.partStep p (u.split.headD 0xFFFFFFFF))) ∧
  (live → s.core.dueEvent = some i → step s = exec i s) ∧
  (live → s.core.dueEvent = none → (s.mapCore Core.tick).pick = none → step s = .next (s.mapCore Core.tick)) ∧
  (s.agenda = [] → ¬ live → step s = .next s) ∧
  (∀ site rest, s.agenda = ⟨site, some i⟩ :: rest →
    let v : State := { s with agenda := rest }.focus site
    (isLocal i = true ∧ (site ∈ s.wafer.gradeX ∨ s.wafer.through site = true) → step s = .next v) ∧
    (¬ (isLocal i = true ∧ (site ∈ s.wafer.gradeX ∨ s.wafer.through site = true)) → step s = exec i v)) ∧
  (∀ site, s.agenda = [⟨site, none⟩] → step s = step ({ s with agenda := [] }.focus site))

/-- R58: words that are no instruction raise ILLEGAL with the words in TRAPVAL, and the step changes nothing but what a fault
changes.
R18 and R59: the fetch faults in their order: MISALIGN, WELLRANGE, UE_WELL, with TRAPVAL the address of the word whose fetch
met the error. TRAPVAL of the first two is a free value (log entry 5: the spec states none). The instruction is one of two words
for the skip of R360 where its first word can be read and has two (R37). -/
def Obligations.FetchAndDecodeFaults : Prop :=
  (∀ (s : State) (w0 w1 : IWord),
   exec (.reservedEncoding w0 w1) s = .next (
     if 0x38 ≤ (w0.extractLsb' 26 6).toNat then s.trap 0x01 (w1 ++ w0) 8 else s.trap 0x01 ((0#32) ++ w0) 4) ∧
   (∀ u e, s.agenda = [] → s.wafer.deaf s.core.ident.site = false → s.core.dueEvent = none →
     (s.mapCore Core.tick).pick = some u → u.heldLoop = none → u.st.part = none → u.core.fetchFault u.pc = none →
     decode (u.core.fetch u.pc).1 (u.core.fetch u.pc).2 = .error e →
     step s = exec (.reservedEncoding (u.core.fetch u.pc).1 (u.core.fetch u.pc).2)
       (u.touch u.pc.toNat (if 0x38 ≤ ((u.core.fetch u.pc).1.extractLsb' 26 6).toNat then 8 else 4)))) ∧
  (∀ (s : State),
   let a := s.pc.toNat
   let n := if 0x38 ≤ ((BitVec.ofNat 32 (s.number a 4) : IWord).extractLsb' 26 6).toNat then 8 else 4
   let free (code : BitVec 8) (len : Nat) : Prop := ∃ v, exec .fetchFault s = .next ({ s with free := s.free + 1 }.trap code v len)
   (a % 4 ≠ 0 → free 0x02 4) ∧
   (a % 4 = 0 → a + 4 > 393216 → free 0x03 4) ∧
   (a % 4 = 0 → a + 4 ≤ 393216 → s.core.well.badIn a 4 = true → exec .fetchFault s = .next (s.trap 0x0C s.pc 4)) ∧
   (a % 4 = 0 → a + 4 ≤ 393216 → s.core.well.badIn a 4 = false → n = 8 → a + 8 > 393216 → free 0x03 8) ∧
   (a % 4 = 0 → a + 8 ≤ 393216 → s.core.well.badIn a 4 = false → n = 8 → s.core.well.badIn (a + 4) 4 = true →
     exec .fetchFault s = .next (s.trap 0x0C (s.pc + 4) 8)) ∧
   (s.core.fetchFault s.pc = none → exec .fetchFault s = .next s))

/-- R265 and R292: what the issue stage chooses in a cycle: the ready strand of a named entry; else the next ready handler strand
after hlast while hcount is below HMIN.SHARE; else the next ready strand after olast; a strand that has yielded only by a named
entry; none where no strand may issue.
R257, R261, R263, R297, R265, R267, R292, R347 and R348: STRAND_RELEASE, SLEEP_EXPIRE, ROUND_START, CHECK_INTERVAL_END, CHECK
and CHECK_RECHECK: what each changes where its condition holds, and that it changes nothing where it does not. TRAPVAL of CHECK is
a free value (log entry 5), and whether an interval's log is too long is one too. What a core has due comes before its next cycle,
in the model's order (log entry 1); a cycle counts in CYCLE, and one before a cycle number divisible by 32 ends the round. -/
def Obligations.Issue : Prop :=
  (∀ (c : Core) (k : Nat),
   let e := c.issue.table.toList.getD (k % 32) 0
   let ready (n : StrandNo) : Bool := decide ((c.strand n).state = .live .run)
   let able (n : StrandNo) : Bool := ready n && !(c.strand n).yielded
   let next (last : BitVec 3) (p : StrandNo → Bool) (n : StrandNo) : Prop :=
     p n = true ∧ ∀ j, p j = true → (n - last - 1).toNat ≤ (j - last - 1).toNat
   let named := (e.getLsbD 3 && ready (e.extractLsb' 0 3)) = true
   let hands := c.issue.hcount < (c.issue.hmin.extractLsb' 0 6).toNat ∧ ∃ n, (able n && c.isHandler n) = true
   (named → c.choose k = some (.named (e.extractLsb' 0 3))) ∧
   (¬ named → hands → ∃ n, c.choose k = some (.handler n) ∧ next c.issue.hlast (fun n => able n && c.isHandler n) n) ∧
   (¬ named → ¬ hands → (∃ n, able n = true) → ∃ n, c.choose k = some (.other n) ∧ next c.issue.olast able n) ∧
   (¬ named → (∀ n, able n = false) → c.choose k = none) ∧
   (∀ s : State, s.core = c → c.stopped = true → s.pick = none)) ∧
  (∀ (s : State) (n : StrandNo) (w : Wait) (len d : Nat) (sig own : BitVec 32) (i : Nat)
     (rest : List (Nat × BitVec 32)),
   let c := s.core
   let st := c.strand n
   let set (f : Strand → Strand) : State := { s with core := c.setStrand n f }
   let completes (len : Nat) : Prop := Runs (.strandRelease n) s (fun t =>
     (∃ strands check, t = { s with core := { c with
       strands := strands, check := check, csr := { c.csr with retired := c.csr.retired + 1 } } }) ∧
     t.core.check = (c.sign st.late).retire.check ∧
     t.core.strand n = { st.setLive .run with pc := st.pc + BitVec.ofNat 64 len, late := [] } ∧ ∀ m, m ≠ n → t.core.strand m = c.strand m)
   let k := c.check
   let ends (k' : Check) (used : Nat) : Prop :=
     exec .checkIntervalEnd s = .next { s with core := { c with check := k' }, free := s.free + used }
   let skipped : Check := { k with ended := none, skip := if k.skip.toNat < 0xFFFF then k.skip + 1 else k.skip }
   let due := c.ident.chkd = true ∧ k.suspended = false ∧ sampled Config.checkSeed (k.idx - 1) k.sr = true
   let retired (s : State) : State :=
     { s with wafer := { s.wafer with logX := s.wafer.logX ++ [c.ident.site], withheld := s.wafer.withheld ++ [c.ident.site] } }
   (st.liveState = some (.wait (.finished len)) → completes len) ∧
   (∀ b upto, st.liveState = some (.wait (.ffence b upto)) → c.fenceHolds b n upto = false → completes 4) ∧
   (st.liveState = some (.wait w) → c.waitOver n w = true → (∀ l, w ≠ .finished l) → (∀ b u, w ≠ .ffence b u) →
     exec (.strandRelease n) s = .next (set fun st => st.setLive .run)) ∧
   ((∀ w, st.liveState = some (.wait w) → c.waitOver n w = false) → exec (.strandRelease n) s = .next s) ∧
   (st.state = .live (.wait (.sleep (some d))) → d ≤ c.csr.cycle.toNat →
     exec (.sleepExpire n) s = .next (set fun st => { st with state := .live (.wait (.finished 4)) })) ∧
   (st.state = .live (.wait (.sleep (some d))) → c.csr.cycle.toNat < d → exec (.sleepExpire n) s = .next s) ∧
   ((∀ d, st.state ≠ .live (.wait (.sleep (some d)))) → exec (.sleepExpire n) s = .next s) ∧
   (c.issue.roundDue = false → exec .roundStart s = .next s) ∧
   (c.issue.roundDue = true → Runs .roundStart s (fun t => t = { s with core := { c with
       strands := t.core.strands, issue := { c.issue with table := c.issue.next, hcount := 0, roundDue := false } } } ∧
     ∀ m, t.core.strand m = { c.strand m with yielded := false })) ∧
   (k.ended = some sig → ¬ due → ends { k with ended := none } 0) ∧
   (k.ended = some sig → due → 2 ≤ k.queue.length → ends skipped 1) ∧
   (k.ended = some sig → due → k.queue.length < 2 →
     ends skipped 1 ∨ ends { k with ended := none, queue := k.queue ++ [(k.idx - 1, sig)] } 1) ∧
   (k.ended = none → ends k 0) ∧
   (k.queue = (i, own) :: rest → own = sig → exec (.check sig) s = .next { s with core := { c with check := { k with queue := rest } } }) ∧
   (k.queue = (i, own) :: rest → own ≠ sig → ∃ v,
     let c' : Core := { c with check := { k with queue := rest, raised := some own } }
     exec (.check sig) s = .next ({ s with core := c', free := s.free + 1 }.asyncFault c' 0x14 v)) ∧
   (k.queue = [] → exec (.check sig) s = .next s) ∧
   (k.raised = some own → own = sig → exec (.checkRecheck sig) s = .next ({ s with
     core := { c with check := { k with raised := none, suspended := true } } }.post (.note 0x14 0))) ∧
   (k.raised = some own → own ≠ sig → exec (.checkRecheck sig) s = .next ((retired { s with
     core := { c with check := { k with raised := none } } }).post (.note 0x14 c.csr.fnum))) ∧
   (k.raised = none → exec (.checkRecheck sig) s = .next s) ∧
   (c.issue.roundDue = true → c.dueEvent = some .roundStart) ∧
   (c.issue.roundDue = false → k.ended = some sig → c.dueEvent = some .checkIntervalEnd) ∧
   (c.issue.roundDue = false → k.ended = none →
     let expired (m : StrandNo) : Prop := ∃ d, (c.strand m).state = .live (.wait (.sleep (some d))) ∧ d ≤ c.csr.cycle.toNat
     let released (m : StrandNo) : Prop := ∃ w, (c.strand m).liveState = some (.wait w) ∧ c.waitOver m w = true
     (expired n → (∀ m, m.toNat < n.toNat → ¬ expired m) → c.dueEvent = some (.sleepExpire n)) ∧
     ((∀ m, ¬ expired m) → released n → (∀ m, m.toNat < n.toNat → ¬ released m) → c.dueEvent = some (.strandRelease n)) ∧
     ((∀ m, ¬ expired m) → (∀ m, ¬ released m) → c.dueEvent = none)) ∧
   c.tick.csr = { c.csr with cycle := c.csr.cycle + 1 } ∧
   (c.tick.issue.roundDue = true ↔ (c.csr.cycle.toNat + 2) % 32 = 0))

/-! ## Faults -/

/-- R326 and R359: taking a fault of code c against a strand in RUN or WAIT, or in STOP with such a saved state (R257):
TRAPCAUSE, TRAPPC and TRAPVAL are written, the strand parks with its resume point, and the fault strand is woken where FAULTMASK
and FAULTST name it and it may be woken; else the supervisor is told. No other strand and nothing else of the core changes, but
that a BMLOOP of the strand reads its operands again when it is issued again (R166). The fault message is of kind 5 on ch1, class 3
and LEN 2, with the code, the strand and the asynchronous bit 0 in TAG, the core's name in SRC, then TRAPPC and TRAPVAL.
R326 over the machine: the fault of an instruction against the acting strand changes the acting core as FaultTaken says and,
outside it, only posts the message. The resume point is the instruction itself, or the next one (R359). An asynchronous fault parks
nothing, its message has the asynchronous bit set, and its TRAPPC and strand number are free values (log entry 5). R27: what is
posted lies with the home supervisor of the core's field, and with supervisor 0 where the core has none. -/
def Obligations.FaultTaken : Prop :=
  (∀ (c : Core) (n : StrandNo) (code : BitVec 8) (val resume : Word) (len : Nat) (l : Live),
   let f : StrandNo := c.csr.faultSt.extractLsb' 0 3
   let here := c.csr.faultMask.getLsbD code.toNat = true ∧ c.csr.faultSt.getLsbD 3 = true ∧ f ≠ n ∧
     ((c.strand f).state = .live .run ∨ ∃ w, (c.strand f).state = .live (.wait w))
   let r := c.fault n code val resume len
   let parked (sup : Bool) (x : StrandState) : Strand :=
     { c.strand n with state := x, trapCause := code.zeroExtend 64, trapPc := (c.strand n).pc, trapVal := val, resume := resume
                       twoWord := decide (len = 8), toSupervisor := sup, part := none }
   (here → (c.strand n).state = .live l →
     r.1.strand n = parked false (.live .park) ∧ r.2 = [] ∧ r.1.strand f = (c.strand f).wake) ∧
   (¬ here → (c.strand n).state = .live l → r.1.strand n = parked true (.live .park)) ∧
   (here → (c.strand n).state = .stop l → r.1.strand n = parked false (.stop .park)) ∧
   (¬ here → (c.strand n).state = .stop l → r.1.strand n = parked true (.stop .park)) ∧
   (¬ here → ∃ m : Msg, r.2 = [.fault c.ident.site c.csr.fieldId m] ∧ m.ch = 1 ∧ m.bad = false ∧
     m.pay = [(c.strand n).pc, val] ∧ m.hdr.extractLsb' 60 4 = 5 ∧ m.hdr.extractLsb' 58 2 = 3 ∧ m.hdr.extractLsb' 48 10 = 2 ∧
     m.hdr.extractLsb' 26 8 = code ∧ m.hdr.extractLsb' 34 3 = n ∧ m.hdr.getLsbD 37 = false ∧
     m.hdr.extractLsb' 0 26 = c.ident.name) ∧
   (∀ m, m ≠ n → ¬ (here ∧ m = f) → r.1.strand m = c.strand m) ∧
   ∃ strands loop, r.1 = { c with strands := strands, loop := loop }) ∧
  (∀ (s : State) (code : BitVec 8) (val : Word) (len : Nat),
   let told (c : Core × List Mail) : State := { s with core := c.1 }.postAll c.2
   (∀ (m : Mail) (ms : List Mail), ∃ p : Posted, p.mail = m ∧
     s.postAll (m :: ms) = { s with sup := { s.sup with mail := s.sup.mail ++ [p] } }.postAll ms ∧ s.postAll [] = s ∧
     p.fnum = s.fieldOf m ∧ (∀ f, s.sup.fields.find? (fun f => f.fnum = p.fnum) = some f → p.dst = f.home) ∧
     (s.sup.fields.find? (fun f => f.fnum = p.fnum) = none → p.dst = 0)) ∧
   (∀ (c : Core) (m : Msg), s.fieldOf (.fault c.ident.site c.csr.fieldId m) = c.csr.fieldId.extractLsb' 0 16) ∧
   (∀ c : Core, ∃ (m : Msg) (pc : Word),
     s.asyncFault c code val = ({ s with free := s.free + 2 }).post (.fault c.ident.site c.csr.fieldId m) ∧ m.ch = 1 ∧
     m.bad = false ∧ m.pay = [pc, val] ∧ m.hdr.extractLsb' 60 4 = 5 ∧ m.hdr.extractLsb' 58 2 = 3 ∧
     m.hdr.extractLsb' 48 10 = 2 ∧ m.hdr.extractLsb' 26 8 = code ∧ m.hdr.getLsbD 37 = true ∧
     m.hdr.extractLsb' 0 26 = c.ident.name) ∧
   s.trap code val len = told (s.core.fault s.cur code val s.pc len) ∧
   s.trapAfter code val len = told (s.core.fault s.cur code val (s.pc + BitVec.ofNat 64 len) len) ∧
   ∀ a, (s.trap code val len).byte a = s.byte a)

/-- R361 and R347: a value written to a g, v, k, b or m register, or stored, enters the signature as its little-endian bytes; a
write to g0 or k0 enters nothing (R40), and the order of a b register's words and the layout of a tile are the model's choice (log
entry 8). The 1,024th retirement of an interval ends it and the next one starts with SIG 0; any
other only counts.
R362: CHKSIG appends the eight bytes of g[a] to the interval, ends it, writes its signature to gd, and starts the next one
with SIG 0 and IDX one more. -/
def Obligations.ResultSignature : Prop :=
  (∀ (s : State) (d : GReg) (x : Word) (v : VReg) (y : VWord) (k : KReg) (z : BitVec 8)
     (b : BReg) (line : BLine) (m : MReg) (tile : Tile) (a : Nat) (xs : List Byte),
   let sig := s.core.check.sig
   (s.setG d x).core.check.sig = (if d = 0 then sig else crc32c sig (leBytes 8 x.toNat)) ∧
   (s.setV v y).core.check.sig = crc32c sig (leBytes 32 y.toNat) ∧
   (s.setK k z).core.check.sig = (if k = 0 then sig else crc32c sig [z]) ∧
   (s.setB b line).core.check.sig = crc32c sig (leBytes 8 line.hdr.toNat ++
     (line.pay.toList.map fun w => leBytes 8 w.toNat).flatten ++ leBytes 8 line.mask.toNat) ∧
   (s.setM m tile).core.check.sig =
     crc32c sig ((tile.toList.map fun e => (accWords e).flatMap fun w => leBytes 8 w.toNat).flatten) ∧
   (s.store a xs).core.check.sig = crc32c sig xs ∧
   (∀ ys zs, crc32c (crc32c sig ys) zs = crc32c sig (ys ++ zs)) ∧
   (∀ n, (s.core.signLate n).check.sig = crc32c sig (s.core.strand n).late) ∧
   s.core.retire.csr.retired = s.core.csr.retired + 1 ∧
   s.core.retire.check = (if s.core.check.count + 1 < 1024 then { s.core.check with count := s.core.check.count + 1 }
     else { s.core.check with sig := 0, idx := s.core.check.idx + 1, count := 0, ended := some sig }) ∧
   crc32c 0 ([0x31, 0x32, 0x33, 0x34, 0x35, 0x36, 0x37, 0x38, 0x39] : List Byte) = 0xE3069283) ∧
  (∀ (s : State) (d a : GReg),
   Runs (.chksig d a) s (fun t =>
     let sig := crc32c s.core.check.sig (leBytes 8 (s.g a).toNat)
     WroteG s.core s t d (BitVec.ofNat 64 sig.toNat) 0 (s.pc + 4) ∧ SameBytes s t ∧
     t.core.check = { s.core.check with sig := 0, idx := s.core.check.idx + 1, count := 0, ended := some sig }))

/-! ## Reset and the invariant -/

/-- The values that the spec gives at reset, at every site: no strand exists (R258, R384), and each strand's FMODE, FFLAGS (R103, R104),
STRAND fields (R260), pending wake and trap registers (R352) are 0; every CSR of the core that holds a word is 0 but WIN, which is 7
(R108); SHARE is 4 and every slot entry open (R264), nothing is bound, queued or routed (R178, R181, R187), FTBCTL counts no miss (R313),
CHKSIG is 0 and SR 4 (R352, R347), every outbound slot IDLE (R211), HSTAT 0 (R383), the well zero (R378); and every memory is in
canonical form. The value at reset of the registers for which the spec gives none is the model's choice (log entry 2) and is not
stated here. -/
def Obligations.ResetValues : Prop :=
  (∀ site : Site,
    let c := State.reset.coreAt site
    (∀ n : StrandNo, (c.strand n).state = .absent ∧ (c.strand n).fmode = 0 ∧ (c.strand n).fflags = 0 ∧ (c.strand n).cause = 0 ∧
      (c.strand n).wch = 0 ∧ (c.strand n).wakePending = false ∧ (c.strand n).trapCause = 0 ∧ (c.strand n).trapPc = 0 ∧
      (c.strand n).trapVal = 0) ∧
    c.csr = { fieldId := 0, fieldOrg := 0, fieldDim := 0, cycle := 0, retired := 0, faultSt := 0, faultMask := 0, dpw := 7
              poisonCtl := 0, mprog := 0, q := Vector.replicate 8 0, ownB := 0, ownM := 0, voteLog := 0 } ∧
    c.issue.hmin = 4 ∧ (∀ i : Fin 32, c.issue.table[i] = 0) ∧
    (∀ ch : Fin 32, c.chans[ch] = { bind := 0, head := 0, free := 0, items := [], lines := 0 } ∧ c.router.route[ch] = 0) ∧
    c.far.misses = 0 ∧ c.far.ftb = [] ∧ c.check.sig = 0 ∧ c.check.idx = 0 ∧ c.check.skip = 0 ∧ c.check.sr = 4 ∧
    c.well.bytes = [] ∧ c.well.marks = []) ∧
  (∀ no l n, ((State.reset.pump no).slotAt l n).kind = .idle) ∧ (∀ a, State.reset.byte a = 0) ∧ State.reset.hstat = 0 ∧
  State.reset.memWf = true

/-- EVERY STEP KEEPS EVERY MEMORY IN CANONICAL FORM: the wells of the acting core, of every other core and of every saved core,
and the cistern, so that equal memories are equal data and a read of a byte gives what was last stored there. -/
def Obligations.MemoryStaysCanonical : Prop := ∀ (s t : State), s.memWf = true → step s = .next t → t.memWf = true

/-! ## Integer instructions -/

/-- R128: the two-operand and one-operand members of major 0x01, division and QSHIFT apart. Each completes from every state
with the table's result in gd (a write to g0 is discarded, R40) and changes nothing else but the pc, RETIRED and the
checker's record. The counts and permutations are said by their bits. -/
def Obligations.IntegerOperations : Prop := ∀ (s : State) (d a b : GReg),
  Runs (.add d a b) s (fun t => PutG s t d (s.g a + s.g b)) ∧
  Runs (.sub d a b) s (fun t => PutG s t d (s.g a - s.g b)) ∧
  Runs (.and d a b) s (fun t => PutG s t d (s.g a &&& s.g b)) ∧
  Runs (.or d a b) s (fun t => PutG s t d (s.g a ||| s.g b)) ∧
  Runs (.xor d a b) s (fun t => PutG s t d (s.g a ^^^ s.g b)) ∧
  Runs (.sll d a b) s (fun t => PutG s t d (BitVec.ofNat 64 ((s.g a).toNat * 2 ^ ((s.g b).toNat % 64)))) ∧
  Runs (.srl d a b) s (fun t => PutG s t d (BitVec.ofNat 64 ((s.g a).toNat / 2 ^ ((s.g b).toNat % 64)))) ∧
  Runs (.sra d a b) s (fun t => PutG s t d (BitVec.ofInt 64 ((s.g a).toInt / 2 ^ ((s.g b).toNat % 64)))) ∧
  Runs (.slt d a b) s (fun t => PutG s t d (if (s.g a).toInt < (s.g b).toInt then 1 else 0)) ∧
  Runs (.sltn d a b) s (fun t => PutG s t d (if (s.g a).toNat < (s.g b).toNat then 1 else 0)) ∧
  Runs (.min d a b) s (fun t => PutG s t d (BitVec.ofInt 64 (Min.min (s.g a).toInt (s.g b).toInt))) ∧
  Runs (.max d a b) s (fun t => PutG s t d (BitVec.ofInt 64 (Max.max (s.g a).toInt (s.g b).toInt))) ∧
  Runs (.minn d a b) s (fun t => PutG s t d (BitVec.ofNat 64 (Min.min (s.g a).toNat (s.g b).toNat))) ∧
  Runs (.maxn d a b) s (fun t => PutG s t d (BitVec.ofNat 64 (Max.max (s.g a).toNat (s.g b).toNat))) ∧
  Runs (.mul d a b) s (fun t => PutG s t d (BitVec.ofNat 64 ((s.g a).toNat * (s.g b).toNat))) ∧
  Runs (.mulh d a b) s (fun t => PutG s t d (((s.g a).signExtend 128 * (s.g b).signExtend 128).extractLsb' 64 64)) ∧
  Runs (.mulhn d a b) s (fun t => PutG s t d (((s.g a).zeroExtend 128 * (s.g b).zeroExtend 128).extractLsb' 64 64)) ∧
  Runs (.clz d a) s (fun t => ∃ n ≤ 64, PutG s t d (BitVec.ofNat 64 n) ∧
    (∀ i, 64 - n ≤ i → (s.g a).getLsbD i = false) ∧ (n < 64 → (s.g a).getLsbD (63 - n) = true)) ∧
  Runs (.ctz d a) s (fun t => ∃ n ≤ 64, PutG s t d (BitVec.ofNat 64 n) ∧
    (∀ i < n, (s.g a).getLsbD i = false) ∧ (n < 64 → (s.g a).getLsbD n = true)) ∧
  Runs (.popc d a) s (fun t => PutG s t d (BitVec.ofNat 64 ((List.range 64).countP fun i => (s.g a).getLsbD i))) ∧
  Runs (.brev d a) s (fun t => ∃ x, PutG s t d x ∧ ∀ i < 64, x.getLsbD i = (s.g a).getLsbD (63 - i)) ∧
  Runs (.bswap d a) s (fun t => ∃ x, PutG s t d x ∧ ∀ i < 8, x.extractLsb' (8 * i) 8 = (s.g a).extractLsb' (8 * (7 - i)) 8) ∧
  Runs (.sextB d a) s (fun t => PutG s t d (((s.g a).setWidth 8).signExtend 64)) ∧
  Runs (.sextH d a) s (fun t => PutG s t d (((s.g a).setWidth 16).signExtend 64)) ∧
  Runs (.sextW d a) s (fun t => PutG s t d (((s.g a).setWidth 32).signExtend 64)) ∧
  Runs (.zextB d a) s (fun t => PutG s t d ((s.g a) &&& 0xFF)) ∧
  Runs (.zextH d a) s (fun t => PutG s t d ((s.g a) &&& 0xFFFF)) ∧
  Runs (.zextW d a) s (fun t => PutG s t d ((s.g a) &&& 0xFFFFFFFF)) ∧
  (s.g b ≠ 0 → Runs (.cmovnz d a b) s (fun t => PutG s t d (s.g a)) ∧ Runs (.cmovz d a b) s (fun t => Stepped s.core s t 0 4)) ∧
  (s.g b = 0 → Runs (.cmovz d a b) s (fun t => PutG s t d (s.g a)) ∧ Runs (.cmovnz d a b) s (fun t => Stepped s.core s t 0 4)) ∧
  Runs (.addsh1 d a b) s (fun t => PutG s t d (s.g a * 2 + s.g b)) ∧
  Runs (.addsh2 d a b) s (fun t => PutG s t d (s.g a * 4 + s.g b)) ∧
  Runs (.addsh3 d a b) s (fun t => PutG s t d (s.g a * 8 + s.g b))

/-- R129, with the quotients and remainders of R128: the four division members complete on every pair of operands. -/
def Obligations.Division : Prop := ∀ (s : State) (d a b : GReg),
  (s.g b ≠ 0 → ¬ (s.g a = 0x8000000000000000 ∧ s.g b = 0xFFFFFFFFFFFFFFFF) →
    Runs (.div d a b) s (fun t => PutG s t d (BitVec.ofInt 64 ((s.g a).toInt.tdiv (s.g b).toInt))) ∧
    Runs (.rem d a b) s (fun t => PutG s t d
      (BitVec.ofInt 64 ((s.g a).toInt - (s.g b).toInt * (s.g a).toInt.tdiv (s.g b).toInt)))) ∧
  (s.g b ≠ 0 →
    Runs (.divn d a b) s (fun t => PutG s t d (BitVec.ofNat 64 ((s.g a).toNat / (s.g b).toNat))) ∧
    Runs (.remn d a b) s (fun t => PutG s t d
      (BitVec.ofNat 64 ((s.g a).toNat - (s.g b).toNat * ((s.g a).toNat / (s.g b).toNat))))) ∧
  (s.g a = 0x8000000000000000 → s.g b = 0xFFFFFFFFFFFFFFFF →
    Runs (.div d a b) s (fun t => PutG s t d 0x7FFFFFFFFFFFFFFF) ∧ Runs (.rem d a b) s (fun t => PutG s t d 0)) ∧
  (s.g b = 0 →
    Runs (.div d a b) s (fun t => PutG s t d
      (if (s.g a).toInt = 0 then 0 else if 0 < (s.g a).toInt then 0x7FFFFFFFFFFFFFFF else 0x8000000000000000)) ∧
    Runs (.divn d a b) s (fun t => PutG s t d (if s.g a = 0 then 0 else 0xFFFFFFFFFFFFFFFF)) ∧
    Runs (.rem d a b) s (fun t => PutG s t d (s.g a)) ∧
    Runs (.remn d a b) s (fun t => PutG s t d (s.g a)))

/-- R130 and R131: the immediate members, LIH and the two-word LI48.
R132: QSHIFT writes the clamped shift, or 0 with NV or ZERO, and completes where NV is not enabled to trap; ZERO never
traps. A and T are the operands' decoded values; the shift is the least s with A × 2^(-s) ≤ T, said by cross-multiplying. -/
def Obligations.ImmediatesAndQshift : Prop :=
  (∀ (s : State) (d a : GReg) (imm : BitVec 16) (n : BitVec 6) (imm48 : BitVec 48),
   Runs (.addi d a imm) s (fun t => PutG s t d (s.g a + imm.signExtend 64)) ∧
   Runs (.andi d a imm) s (fun t => PutG s t d (s.g a &&& imm.signExtend 64)) ∧
   Runs (.ori d a imm) s (fun t => PutG s t d (s.g a ||| imm.zeroExtend 64)) ∧
   Runs (.xori d a imm) s (fun t => PutG s t d (s.g a ^^^ imm.zeroExtend 64)) ∧
   Runs (.slti d a imm) s (fun t => PutG s t d (if (s.g a).toInt < imm.toInt then 1 else 0)) ∧
   Runs (.shiSll d a n) s (fun t => PutG s t d (BitVec.ofNat 64 ((s.g a).toNat * 2 ^ n.toNat))) ∧
   Runs (.shiSrl d a n) s (fun t => PutG s t d (BitVec.ofNat 64 ((s.g a).toNat / 2 ^ n.toNat))) ∧
   Runs (.shiSra d a n) s (fun t => PutG s t d (BitVec.ofInt 64 ((s.g a).toInt / 2 ^ n.toNat))) ∧
   Runs (.lih d a imm) s (fun t => PutG s t d (s.g a + imm.signExtend 64 * 65536)) ∧
   Runs (.li48 d imm48) s (fun t => WroteG s.core s t d (imm48.signExtend 64) 0 (s.pc + 8))) ∧
  (∀ (s : State) (d a b : GReg),
   let A := FFmt.f32.decode ((s.g a).toNat % 2 ^ 32)
   let T := FFmt.f32.decode ((s.g b).toNat % 2 ^ 32)
   ((∀ n m e, A ≠ .fin n m e) ∨ (∀ m e, m ≠ 0 → T ≠ .fin false m e) →
     (Quiet s .nv → Runs (.qshift d a b) s (fun t => PutF s t d 0 .nv)) ∧
     (¬ Quiet s .nv → ∃ u, PutF s u d 0 .nv ∧ TrapsArith (.qshift d a b) s u .nv)) ∧
   (∀ n e m' e', A = .fin n 0 e → m' ≠ 0 → T = .fin false m' e' → Runs (.qshift d a b) s (fun t => PutF s t d 0 .zero)) ∧
   (∀ n m e m' e', A = .fin n m e → m ≠ 0 → m' ≠ 0 → T = .fin false m' e' →
     Runs (.qshift d a b) s (fun t => ∃ x : Int, PutG s t d (BitVec.ofInt 64 x) ∧ -128 ≤ x ∧ x ≤ 127 ∧
       (x < 127 → (m : Int) * 2 ^ (e + 2000 - x).toNat ≤ (m' : Int) * 2 ^ (e' + 2000).toNat) ∧
       (-128 < x → (m' : Int) * 2 ^ (e' + 2000).toNat < (m : Int) * 2 ^ (e + 2000 - (x - 1)).toNat))))

/-! ## Scalar floating point -/

/-- R133, R135, R124 and R106: the arithmetic members write their result, rounded under rm, into the low bits of gd, the bits above
cleared, and raise their flags; where a flag that they raise is enabled to trap they take ARITH after that. The sign-transfer
members act on the bit patterns and raise nothing.
R134 and R124: minimum, maximum and compares. A compare writes 1 or 0; equality and order are those of the decoded
values, never of a NaN; FLT and FLE raise NV for any NaN, FEQ for a signalling one; FMIN and FMAX put −0 below +0, and give the
first NaN made quiet, with NV for a signalling one (R89); ARITH follows where NV is enabled to trap (R106). FCLASS gives each of its six kinds where R134 says. -/
def Obligations.ScalarFloatAndCompare : Prop :=
  (∀ (s : State) (d a b c : GReg) (rm : Rm) (p : Prec),
   let x := (s.g a).toNat % 2 ^ p.fmt.bits
   let y := (s.g b).toNat % 2 ^ p.fmt.bits
   let z := (s.g c).toNat % 2 ^ p.fmt.bits
   let md := s.mode rm
   let gives (i : Instr) (r : Nat × Flags) : Prop := Raises i s r.2 (fun t => PutF s t d (BitVec.ofNat 64 r.1) r.2)
   gives (.fadd d a b rm p) (p.fmt.add md x y) ∧ gives (.fsub d a b rm p) (p.fmt.sub md x y) ∧
   gives (.fmul d a b rm p) (p.fmt.mul md x y) ∧ gives (.fdiv d a b rm p) (p.fmt.div md x y) ∧
   gives (.fsqrt d a rm p) (p.fmt.sqrt md x) ∧
   gives (.fma d a b c p rm) (p.fmt.fma md false false x y z) ∧ gives (.fms d a b c p rm) (p.fmt.fma md false true x y z) ∧
   gives (.fnma d a b c p rm) (p.fmt.fma md true false x y z) ∧ gives (.fnms d a b c p rm) (p.fmt.fma md true true x y z) ∧
   (let top := 2 ^ (p.fmt.bits - 1)
    Runs (.fsgcp d a b p) s (fun t => PutG s t d (BitVec.ofNat 64 (x % top + y / top * top))) ∧
    Runs (.fsgcn d a b p) s (fun t => PutG s t d (BitVec.ofNat 64 (x % top + (1 - y / top) * top))) ∧
    Runs (.fsgxr d a b p) s (fun t => PutG s t d (BitVec.ofNat 64 (x % top + (if x / top = y / top then 0 else top)))))) ∧
  (∀ (s : State) (d a b : GReg) (p : Prec),
   let x := (s.g a).toNat % 2 ^ p.fmt.bits
   let y := (s.g b).toNat % 2 ^ p.fmt.bits
   let isNan (v : Nat) : Prop := ∃ n f sg, p.fmt.decode v = .nan n f sg
   let isSnan (v : Nat) : Prop := ∃ n f, p.fmt.decode v = .nan n f true
   (¬ isNan x → ¬ isNan y →
     (Runs (.feq d a b p) s (fun t => PutG s t d (if FFmt.cmpVals (p.fmt.decode x) (p.fmt.decode y) = 0 then 1 else 0)) ∧
      Runs (.flt d a b p) s (fun t => PutG s t d (if FFmt.cmpVals (p.fmt.decode x) (p.fmt.decode y) < 0 then 1 else 0)) ∧
      Runs (.fle d a b p) s (fun t => PutG s t d (if FFmt.cmpVals (p.fmt.decode x) (p.fmt.decode y) ≤ 0 then 1 else 0)) ∧
      Runs (.fmin d a b p) s (fun t => PutG s t d (BitVec.ofNat 64
        (if FFmt.ltZeros (p.fmt.decode y) (p.fmt.decode x) then y else x))) ∧
      Runs (.fmax d a b p) s (fun t => PutG s t d (BitVec.ofNat 64
        (if FFmt.ltZeros (p.fmt.decode x) (p.fmt.decode y) then y else x))))) ∧
   ((isNan x ∨ isNan y) → Raises (.flt d a b p) s .nv (fun t => PutF s t d 0 .nv) ∧ Raises (.fle d a b p) s .nv (fun t => PutF s t d 0 .nv)) ∧
   ((isNan x ∨ isNan y) →
     let r (v : Nat) : Nat := if v / 2 ^ (p.fmt.fb - 1) % 2 = 1 then v else v + 2 ^ (p.fmt.fb - 1)
     let fl (f : Flags) : Prop := (isSnan x ∨ isSnan y → f = .nv) ∧ (¬ isSnan x → ¬ isSnan y → f = 0)
     let gives (i : Instr) : Prop := ∀ f, fl f →
       (isNan x → Raises i s f (fun t => PutF s t d (BitVec.ofNat 64 (r x)) f)) ∧
       (¬ isNan x → Raises i s f (fun t => PutF s t d (BitVec.ofNat 64 (r y)) f))
     gives (.fmin d a b p) ∧ gives (.fmax d a b p)) ∧
   ((isNan x ∨ isNan y) → ¬ isSnan x → ¬ isSnan y → Runs (.feq d a b p) s (fun t => PutG s t d 0)) ∧
   ((isSnan x ∨ isSnan y) → Raises (.feq d a b p) s .nv (fun t => PutF s t d 0 .nv)) ∧
   Runs (.fclass d a p) s (fun t => ∃ kind < 8, PutG s t d (BitVec.ofNat 64 (kind + 8 * (x / 2 ^ (p.fmt.bits - 1)))) ∧
     kind ≠ 4 ∧ kind ≠ 5 ∧
     (kind = 0 ↔ ∃ n e, p.fmt.decode x = .fin n 0 e) ∧
     (kind = 1 ↔ x / 2 ^ p.fmt.fb % 2 ^ p.fmt.eb = 0 ∧ x % 2 ^ p.fmt.fb ≠ 0) ∧
     (kind = 2 ↔ x / 2 ^ p.fmt.fb % 2 ^ p.fmt.eb ≠ 0 ∧ x / 2 ^ p.fmt.fb % 2 ^ p.fmt.eb ≠ 2 ^ p.fmt.eb - 1) ∧ (kind = 3 ↔ ∃ n, p.fmt.decode x = .inf n) ∧
     (kind = 6 ↔ ∃ n f, p.fmt.decode x = .nan n f false) ∧ (kind = 7 ↔ ∃ n f, p.fmt.decode x = .nan n f true)))

/-- R136 and R124: FCVT converts the low bits of ga once under rm and writes the result, sign-extended for an i type and
zero-extended otherwise, for every conversion that R136 does not reserve; ARITH follows where a raised flag is enabled (R106). -/
def Obligations.ScalarConvert : Prop := ∀ (s : State) (d a : GReg) (sat : Bool) (rm : Rm) (src dst : Ty),
  let r := convert src dst (s.mode rm) sat ((s.g a).toNat % 2 ^ src.bits)
  (Instr.fcvt d a sat rm src dst).wellFormed = true → Raises (.fcvt d a sat rm src dst) s r.2 (fun t => PutF s t d (extend dst.bits dst.signed r.1) r.2)

/-- R106: that every form which can raise a flag takes ARITH where the flag is enabled stands in the statement of its result
(Raises). Here, for a member of each of the five ways to write results (a g, v, k, b and m register): an instruction that raises a
flag enabled to trap writes all its results and flags and retires, as u says, and then ARITH is taken with TRAPPC at the
instruction, the raised flags in TRAPVAL, and its resume point after itself.
R121: with DPW.LSFTRAP set and no ARITH due, a BMMA in which a bit is discarded writes its tile and its flags, retires,
and takes LSF with the tile and the elements in TRAPVAL, STEP 0, resuming after itself. -/
def Obligations.ArithAndLsfTraps : Prop :=
  (∀ (s : State) (d a b : GReg) (vd va vb : VReg) (k kd : KReg) (rm : Rm) (p : Prec) (bd ba bb : BReg) (m : MReg),
   (let r := p.fmt.add (s.mode rm) ((s.g a).toNat % 2 ^ p.fmt.bits) ((s.g b).toNat % 2 ^ p.fmt.bits)
    ¬ Quiet s r.2 → ∃ u, PutF s u d (BitVec.ofNat 64 r.1) r.2 ∧ TrapsArith (.fadd d a b rm p) s u r.2) ∧
   (let fl := unionFlags p.fmt.bits (s.k k) fun i => (p.fmt.mul s.rm (velem p.fmt.bits (s.v va) i) (velem p.fmt.bits (s.v vb) i)).2
    ¬ Quiet s fl → ∃ u, PutElems s u p.fmt.bits vd k
      (fun i => (p.fmt.mul s.rm (velem p.fmt.bits (s.v va) i) (velem p.fmt.bits (s.v vb) i)).1) fl ∧
      TrapsArith (.vfmul vd va vb k p) s u fl) ∧
   (let fl := unionFlags p.fmt.bits (s.k k) fun i => (p.fmt.flt (velem p.fmt.bits (s.v va) i) (velem p.fmt.bits (s.v vb) i)).2
    ¬ Quiet s fl → ∃ u, PutMask s u p.fmt.bits kd k
      (fun i => (p.fmt.flt (velem p.fmt.bits (s.v va) i) (velem p.fmt.bits (s.v vb) i)).1) fl ∧
      TrapsArith (.vflt kd va vb k p) s u fl) ∧
   (let f := (s.b ba).tag
    let A := (s.b ba).blks f
    let B := (s.b bb).blks f
    let blk (j : Nat) : Blk × Flags :=
      if (A.getD j Blk.zero).isPoison || (B.getD j Blk.zero).isPoison then (Blk.poison, 0)
      else formBlock f.w s.rm (List.zipWith valAdd (blkVals f.w (A.getD j Blk.zero)) (blkVals f.w (B.getD j Blk.zero)))
    let fl := (blk 0).2 ||| (blk 1).2 ||| (blk 2).2 ||| (blk 3).2
    Owns s [bd, ba, bb] [] → ¬ Quiet s fl → ∃ u,
      PutB s u bd (BLine.ofBlks f [(blk 0).1, (blk 1).1, (blk 2).1, (blk 3).1] ((s.b ba).mask ||| (s.b bb).mask))
        (anyPoison A || anyPoison B) fl ∧ TrapsArith (.badd bd ba bb) s u fl) ∧
   (let f := (s.b ba).tag
    let r := stepTile f.w (s.core.csr.dpw.extractLsb' 0 4) (s.m m) ((s.b ba).blks f) ((s.b bb).blks f)
    Owns s [ba, bb] [m] → ¬ Quiet s r.flags → ∃ u, PutM s u m r.tile r.seen r.flags ∧ TrapsArith (.bmma m ba bb) s u r.flags)) ∧
  (∀ (s : State) (m : MReg) (a b : BReg),
   let f := (s.b a).tag
   let r := stepTile f.w (s.core.csr.dpw.extractLsb' 0 4) (s.m m) ((s.b a).blks f) ((s.b b).blks f)
   Owns s [a, b] [m] → Quiet s r.flags → s.core.csr.dpw.getLsbD 8 = true → r.flags &&& .ls ≠ 0 →
     ∃ u, PutM s u m r.tile r.seen r.flags ∧
       exec (.bmma m a b) s = .next ((u.jump s.pc).trapAfter Code.lsf ((0#32) ++ (0#13) ++ m ++ r.lost) 4))

/-- R92 and R93: each mode's integer for num / 2^sh, a magnitude with its sign; `lost` says that a bit was discarded.
R85 to R92, the case where nothing is lost: rounding the exact value of any finite pattern of a format gives that very
pattern, under every mode, with or without SAT, and raises no flag. -/
def Obligations.RoundingModes : Prop :=
  (∀ (neg : Bool) (num sh r : Nat),
   (∀ md, (roundShift md neg num sh).2 = true ↔ num % 2 ^ sh ≠ 0) ∧
   (∀ md, (∀ r, md ≠ .sto r) → num % 2 ^ sh = 0 → (roundShift md neg num sh).1 * 2 ^ sh = num) ∧
   (let n := (roundShift .rtz neg num sh).1; n * 2 ^ sh ≤ num ∧ num < (n + 1) * 2 ^ sh) ∧
   (num % 2 ^ sh ≠ 0 → (roundShift .rup neg num sh).1 = num / 2 ^ sh + if neg then 0 else 1) ∧
   (num % 2 ^ sh ≠ 0 → (roundShift .rdn neg num sh).1 = num / 2 ^ sh + if neg then 1 else 0) ∧
   (let n := (roundShift .rne neg num sh).1
    2 * num ≤ (2 * n + 1) * 2 ^ sh ∧ 2 * n * 2 ^ sh ≤ 2 * num + 2 ^ sh ∧
    ((2 * num = (2 * n + 1) * 2 ^ sh ∨ 2 * n * 2 ^ sh = 2 * num + 2 ^ sh) → n % 2 = 0)) ∧
   (let n := (roundShift .rna neg num sh).1; 2 * num < (2 * n + 1) * 2 ^ sh ∧ 2 * n * 2 ^ sh ≤ 2 * num + 2 ^ sh) ∧
   (roundShift (.sto r) neg num sh).1 = num / 2 ^ sh + if 2 ^ 16 ≤ num % 2 ^ sh * 2 ^ 16 / 2 ^ sh + r then 1 else 0) ∧
  (∀ (f : FFmt) (md : Mode) (sat : Bool) (x : Nat) (n : Bool) (m : Nat) (e : Int),
   (∀ r, md = .sto r → r < 2 ^ 16) → f ∈ [FFmt.f16, FFmt.bf16, FFmt.f32, FFmt.f64, FFmt.e4m3, FFmt.e5m2] → x < 2 ^ f.bits → f.decode x = .fin n m e →
     f.round md sat n m e = (x, 0))

/-- R85 to R93, R133, R135 and R136 in plain arithmetic, for values that the format need not hold. Rounding: the kept integer q at
the place of its last bit is the one of RoundingModes, the result has exactly that value where the format reaches so far, with NX
where a bit was lost and UF where the result is also tiny (R86), and else what R87 lists, with OF and NX. Sums, products and fused
sums are exact before their one rounding; a quotient or root is rounded from a value of more than 140 bits that is exact where
even, and where odd says that the exact one lies strictly between its even neighbours, which decides every rounding. NaN operands
and invalid operations follow R89 and R90, those of the fused members too (R135), and comparisons are those of the exact values
(R134). A conversion to an integer type gives the rounded integer, or the nearer bound with NV (R88). An infinity converted to E4M3
without SAT gives NaN with NV (R87); that the NaN keeps the infinity's sign is the model's choice (log entry 33). Values are compared in units of 2^-6000. -/
def Obligations.InexactArithmetic : Prop :=
  let units (n : Bool) (m : Nat) (e : Int) : Int := (if n then -1 else 1) * (m * 2 ^ (e + 6000).toNat : Nat)
  let signed (f : FFmt) (n : Bool) (x : Nat) : Nat := x + if n then 2 ^ (f.bits - 1) else 0
  let quieted (f : FFmt) (x : Nat) : Nat := if x / 2 ^ (f.fb - 1) % 2 = 1 then x else x + 2 ^ (f.fb - 1)
  (∀ (f : FFmt) (md : Mode) (sat n : Bool) (m : Nat) (e : Int) (M : Nat) (E : Int), f ∈ [FFmt.f16, FFmt.bf16, FFmt.f32, FFmt.f64, FFmt.e4m3, FFmt.e5m2] →
    (∀ r, md = .sto r → r < 2 ^ 16) → m ≠ 0 → f.decode f.maxFinite = .fin false M E →
    let top := (m.log2 : Int) + e
    let emin := 1 - (f.bias : Int)
    let place := Max.max emin top - f.fb
    let q := roundDyadic md n m (e - place)
    let tiny := top + 1 < emin ∨ (top + 1 = emin ∧ (roundDyadic md n m (e - (top - f.fb))).1 < 2 ^ (f.fb + 1))
    let r := f.round md sat n m e
    (units false q.1 place ≤ units false M E →
      (∃ m' e', f.decode r.1 = .fin n m' e' ∧ units n m' e' = units n q.1 place) ∧ r.1 < 2 ^ f.bits ∧
      r.2 = Flags.when q.2 .nx ||| Flags.when (q.2 && decide tiny) .uf) ∧
    (units false M E < units false q.1 place → r.2 = (.of ||| .nx) ∧
      (sat = true → r.1 = signed f n f.maxFinite) ∧
      (sat = false → f = FFmt.e4m3 → r.1 = signed f n f.nan) ∧
      (sat = false → f ≠ FFmt.e4m3 → r.1 = signed f n
        (if md = .rtz ∨ (md = .rup ∧ n = true) ∨ (md = .rdn ∧ n = false) then f.maxFinite else f.infBits)))) ∧
  ([FFmt.f16, FFmt.bf16, FFmt.f32, FFmt.f64, FFmt.e4m3, FFmt.e5m2].map fun f => (f.maxFinite, f.nan)) =
    [(0x7BFF, 0x7E00), (0x7F7F, 0x7FC0), (0x7F7FFFFF, 0x7FC00000), (0x7FEFFFFFFFFFFFFF, 0x7FF8000000000000), (0x7E, 0x7F), (0x7B, 0x7E)] ∧
  (∀ (f : FFmt) (md : Mode) (x y z : Nat) (nx ny nz : Bool) (mx my mz : Nat) (ex ey ez : Int), f ∈ [FFmt.f32, FFmt.f64] →
    f.decode x = .fin nx mx ex → f.decode y = .fin ny my ey → f.decode z = .fin nz mz ez →
    let X := units nx mx ex
    let Y := units ny my ey
    let Z := units nz mz ez
    let XY := units (nx != ny) (mx * my) (ex + ey)
    let sum (r : Nat × Flags) (T : Int) : Prop := T ≠ 0 → r = f.round md false (decide (T < 0)) T.natAbs (-6000)
    sum (f.add md x y) (X + Y) ∧ sum (f.sub md x y) (X - Y) ∧
    (X + Y = 0 → f.add md x y = (signed f (if nx = ny then nx else decide (md = .rdn)) 0, 0)) ∧
    (X - Y = 0 → f.sub md x y = (signed f (if nx = ny then decide (md = .rdn) else nx) 0, 0)) ∧
    (mx * my ≠ 0 → f.mul md x y = f.round md false (nx != ny) (mx * my) (ex + ey)) ∧
    (mx * my = 0 → f.mul md x y = (signed f (nx != ny) 0, 0)) ∧
    sum (f.fma md false false x y z) (XY + Z) ∧ sum (f.fma md false true x y z) (XY - Z) ∧
    sum (f.fma md true false x y z) (-XY + Z) ∧ sum (f.fma md true true x y z) (-XY - Z) ∧
    (mx ≠ 0 → my ≠ 0 → ∃ (N : Nat) (e : Int), f.div md x y = f.round md false (nx != ny) N e ∧ 2 ^ 140 ≤ N ∧
      (N % 2 = 0 → units false (N * my) (e + ey) = units false mx ex) ∧
      (N % 2 = 1 → units false ((N - 1) * my) (e + ey) < units false mx ex ∧ units false mx ex < units false ((N + 1) * my) (e + ey))) ∧
    (my ≠ 0 → mx = 0 → f.div md x y = (signed f (nx != ny) 0, 0)) ∧
    (my = 0 → f.div md x y = if mx = 0 then (f.nan, .nv) else (signed f (nx != ny) f.infBits, .dz)) ∧
    (mx ≠ 0 → nx = false → ∃ (N : Nat) (e : Int), f.sqrt md x = f.round md false false N e ∧ 2 ^ 140 ≤ N ∧
      (N % 2 = 0 → units false (N * N) (2 * e) = units false mx ex) ∧
      (N % 2 = 1 → units false ((N - 1) * (N - 1)) (2 * e) < units false mx ex ∧
        units false mx ex < units false ((N + 1) * (N + 1)) (2 * e))) ∧
    (mx = 0 → f.sqrt md x = (signed f nx 0, 0)) ∧ (mx ≠ 0 → nx = true → f.sqrt md x = (f.nan, .nv))) ∧
  (∀ (f : FFmt) (md : Mode) (x y : Nat) (nx ny : Bool), f ∈ [FFmt.f32, FFmt.f64] → x < 2 ^ f.bits → y < 2 ^ f.bits →
    let nan (v : Nat) (sg : Bool) : Prop := ∃ n fr, f.decode v = .nan n fr sg
    let two (r : Nat × Flags) : Prop :=
      (∀ sx, nan x sx → r.1 = quieted f x ∧ (sx = true ∨ nan y true → r.2 = .nv) ∧ (sx = false → ¬ nan y true → r.2 = 0)) ∧
      ((∀ sx, ¬ nan x sx) → ∀ sy, nan y sy → r = (quieted f y, Flags.when sy .nv))
    two (f.add md x y) ∧ two (f.sub md x y) ∧ two (f.mul md x y) ∧ two (f.div md x y) ∧
    (∀ sx, nan x sx → f.sqrt md x = (quieted f x, Flags.when sx .nv)) ∧
    (f.decode x = .inf nx → f.decode y = .inf ny →
      f.add md x y = (if nx = ny then (x, 0) else (f.nan, .nv)) ∧ f.sub md x y = (if nx = ny then (f.nan, .nv) else (x, 0)) ∧
      f.mul md x y = (signed f (nx != ny) f.infBits, 0) ∧ f.div md x y = (f.nan, .nv)) ∧
    (f.decode x = .inf nx → ∀ m e, f.decode y = .fin ny m e → f.add md x y = (x, 0) ∧ f.sub md x y = (x, 0) ∧
      f.add md y x = (x, 0) ∧ f.div md x y = (signed f (nx != ny) f.infBits, 0) ∧ f.div md y x = (signed f (nx != ny) 0, 0) ∧
      f.mul md x y = (if m = 0 then (f.nan, .nv) else (signed f (nx != ny) f.infBits, 0)) ∧
      f.mul md y x = (if m = 0 then (f.nan, .nv) else (signed f (nx != ny) f.infBits, 0))) ∧
    (f.decode x = .inf nx → f.sqrt md x = if nx then (f.nan, .nv) else (x, 0))) ∧
  (∀ (f : FFmt) (md : Mode) (x y z : Nat) (negP negC : Bool), f ∈ [FFmt.f32, FFmt.f64] → x < 2 ^ f.bits → y < 2 ^ f.bits → z < 2 ^ f.bits →
    let r := f.fma md negP negC x y z
    let nan (v : Nat) : Prop := ∃ n fr sg, f.decode v = .nan n fr sg
    let snan (v : Nat) : Prop := ∃ n fr, f.decode v = .nan n fr true
    let inf (v : Nat) : Prop := ∃ n, f.decode v = .inf n
    let zero (v : Nat) : Prop := ∃ n e, f.decode v = .fin n 0 e
    let finite (v : Nat) : Prop := ∃ n m e, f.decode v = .fin n m e
    let bad := (inf x ∧ zero y) ∨ (zero x ∧ inf y)
    let neg (v : Nat) : Bool := decide (2 ^ (f.bits - 1) ≤ v)
    let sp := (neg x != neg y) != negP
    let sc := neg z != negC
    let some' := nan x ∨ nan y ∨ nan z
    (nan x → r.1 = quieted f x) ∧ (¬ nan x → nan y → r.1 = quieted f y) ∧ (¬ nan x → ¬ nan y → nan z → r.1 = quieted f z) ∧
    (some' → (snan x ∨ snan y ∨ snan z ∨ bad → r.2 = .nv) ∧ (¬ (snan x ∨ snan y ∨ snan z ∨ bad) → r.2 = 0)) ∧
    (¬ some' → bad → r = (f.nan, .nv)) ∧
    (¬ some' → ¬ bad → inf x ∨ inf y → finite z → r = (signed f sp f.infBits, 0)) ∧
    (¬ some' → ¬ bad → inf x ∨ inf y → inf z → r = if sp = sc then (signed f sp f.infBits, 0) else (f.nan, .nv)) ∧
    (finite x → finite y → inf z → r = (signed f sc f.infBits, 0)) ∧
    (∀ nx mx ex ny my ey nz mz ez, f.decode x = .fin nx mx ex → f.decode y = .fin ny my ey → f.decode z = .fin nz mz ez →
      units sp (mx * my) (ex + ey) + units sc mz ez = 0 → r = (signed f (if sp = sc then sp else decide (md = .rdn)) 0, 0))) ∧
  (∀ (f : FFmt) (x y : Nat) (nx ny : Bool) (mx my : Nat) (ex ey : Int), f ∈ [FFmt.f32, FFmt.f64] →
    let c (a b : Nat) : Int := FFmt.cmpVals (f.decode a) (f.decode b)
    (f.decode x = .fin nx mx ex → f.decode y = .fin ny my ey →
      (c x y < 0 ↔ units nx mx ex < units ny my ey) ∧ (c x y = 0 ↔ units nx mx ex = units ny my ey) ∧
      (FFmt.ltZeros (f.decode x) (f.decode y) = true ↔ units nx mx ex < units ny my ey ∨ (mx = 0 ∧ my = 0 ∧ nx = true ∧ ny = false))) ∧
    (f.decode x = .inf nx → f.decode y = .fin ny my ey → (c x y < 0 ↔ nx = true) ∧ c x y ≠ 0 ∧ (c y x < 0 ↔ nx = false) ∧ c y x ≠ 0 ∧
      FFmt.ltZeros (f.decode x) (f.decode y) = nx ∧ FFmt.ltZeros (f.decode y) (f.decode x) = !nx) ∧
    (f.decode x = .inf nx → f.decode y = .inf ny → (c x y < 0 ↔ nx = true ∧ ny = false) ∧ (c x y = 0 ↔ nx = ny) ∧
      FFmt.ltZeros (f.decode x) (f.decode y) = (nx && !ny))) ∧
  (∀ (src dst : Ty) (md : Mode) (sat : Bool) (x : Nat), x < 2 ^ src.bits →
    let r := convert src dst md sat x
    let lo : Int := if dst.signed then -2 ^ (dst.bits - 1) else 0
    let hi : Int := if dst.signed then 2 ^ (dst.bits - 1) - 1 else 2 ^ dst.bits - 1
    (∀ f, src.ffmt = some f → dst.ffmt = none → r.1 < 2 ^ dst.bits ∧
      (∀ n fr sg, f.decode x = .nan n fr sg → r = (0, .nv)) ∧
      (∀ n, f.decode x = .inf n → dst.intOf r.1 = (if n then lo else hi) ∧ r.2 = .nv) ∧
      (∀ n m e, f.decode x = .fin n m e →
        let q := roundDyadic md n m e
        let v : Int := (if n then -1 else 1) * q.1
        (lo ≤ v → v ≤ hi → dst.intOf r.1 = v ∧ r.2 = Flags.when q.2 .nx) ∧
        (v < lo → dst.intOf r.1 = lo ∧ r.2 = .nv) ∧ (hi < v → dst.intOf r.1 = hi ∧ r.2 = .nv))) ∧
    (∀ g, src.ffmt = none → dst.ffmt = some g →
      (src.intOf x = 0 → r = (0, 0)) ∧
      (src.intOf x ≠ 0 → r = g.round md sat (decide (src.intOf x < 0)) (src.intOf x).natAbs 0)) ∧
    (∀ f g, src.ffmt = some f → dst.ffmt = some g →
      (∀ n fr sg, f.decode x = .nan n fr sg → (∃ fr', g.decode r.1 = .nan n fr' false) ∧ r.2 = Flags.when sg .nv) ∧
      (∀ n, f.decode x = .inf n → r = if g ≠ FFmt.e4m3 then (signed g n g.infBits, 0)
        else if sat then (signed g n g.maxFinite, .of ||| .nx) else (signed g n g.nan, .nv)) ∧
      (∀ n m e, f.decode x = .fin n m e → r = if m = 0 then (signed g n 0, 0) else g.round md sat n m e)))

/-! ## Vector instructions -/

/-- R139, R140, R142 and R125: vector floating point. Each active element gets the scalar member's result for its elements
under FMODE.RM, each inactive one keeps its value, and the flags are the union over the active elements; where one of them is
enabled to trap, ARITH is taken after that (R106).
R140's table of special operands, for every mode: the results and flags of VFRCP, VFRSQ, VFEX2, VFLG2 and VFTANH for the
zeros, the infinities and the negative numbers; a NaN is made quiet (R89); VFRCP is the rounded quotient 1 / x; VFEX2 of an integer and
VFLG2 of a power of two are exact wherever they are in range; and some values at ordinary operands. -/
def Obligations.VectorFloat : Prop :=
  (∀ (s : State) (d a b c : VReg) (k : KReg) (p : Prec),
   let w := p.fmt.bits
   let x (i : Nat) := velem w (s.v a) i
   let y (i : Nat) := velem w (s.v b) i
   let z (i : Nat) := velem w (s.v c) i
   let gives (w : Nat) (i : Instr) (f : Nat → Nat × Flags) : Prop :=
     Raises i s (unionFlags w (s.k k) fun i => (f i).2) (fun t => PutElems s t w d k (fun i => (f i).1) (unionFlags w (s.k k) fun i => (f i).2))
   gives w (.vfadd d a b k p) (fun i => p.fmt.add s.rm (x i) (y i)) ∧
   gives w (.vfsub d a b k p) (fun i => p.fmt.sub s.rm (x i) (y i)) ∧
   gives w (.vfmul d a b k p) (fun i => p.fmt.mul s.rm (x i) (y i)) ∧
   gives w (.vfdiv d a b k p) (fun i => p.fmt.div s.rm (x i) (y i)) ∧
   gives w (.vfsqrt d a k p) (fun i => p.fmt.sqrt s.rm (x i)) ∧
   gives w (.vfmin d a b k p) (fun i => p.fmt.fmin (x i) (y i)) ∧
   gives w (.vfmax d a b k p) (fun i => p.fmt.fmax (x i) (y i)) ∧
   gives w (.vfma d a b c k p) (fun i => p.fmt.fma s.rm false false (x i) (y i) (z i)) ∧
   gives w (.vfms d a b c k p) (fun i => p.fmt.fma s.rm false true (x i) (y i) (z i)) ∧
   gives w (.vfnma d a b c k p) (fun i => p.fmt.fma s.rm true false (x i) (y i) (z i)) ∧
   gives w (.vfnms d a b c k p) (fun i => p.fmt.fma s.rm true true (x i) (y i) (z i)) ∧
   gives 32 (.vfrcp d a k) (fun i => vfrcp s.rm (velem 32 (s.v a) i)) ∧
   gives 32 (.vfrsq d a k) (fun i => vfrsq s.rm (velem 32 (s.v a) i)) ∧
   gives 32 (.vfex2 d a k) (fun i => vfex2 s.rm (velem 32 (s.v a) i)) ∧
   gives 32 (.vflg2 d a k) (fun i => vflg2 s.rm (velem 32 (s.v a) i)) ∧
   gives 32 (.vftanh d a k) (fun i => vftanh s.rm (velem 32 (s.v a) i)) ∧
   Runs (.vfabs d a k p) s (fun t => PutElems s t w d k (fun i => x i % 2 ^ (w - 1)) 0) ∧
   Runs (.vfneg d a k p) s (fun t => PutElems s t w d k (fun i => (x i + 2 ^ (w - 1)) % 2 ^ w) 0)) ∧
  (∀ (md : Mode),
   (∀ x, vfrcp md x = FFmt.f32.div md 0x3F800000 x) ∧
   (∀ x n fr sg, x < 2 ^ 32 → FFmt.f32.decode x = .nan n fr sg →
     ∀ f ∈ [vfrcp, vfrsq, vfex2, vflg2, vftanh], f md x = (x ||| 0x400000, if sg then .nv else 0)) ∧
   (∀ n m e k, ∀ x, FFmt.f32.decode x = .fin n m e → e ≤ 0 → m = k * 2 ^ (-e).toNat → 0 < k → k < 2 ^ 12 →
     vfex2 md x = FFmt.f32.round md false false 1 (if n then -(k : Int) else k)) ∧
   (∀ (j : Nat) (e : Int), ∀ x, FFmt.f32.decode x = .fin false (2 ^ j) e → vflg2 md x = FFmt.f32.round md false (decide (j + e < 0)) (j + e).natAbs 0) ∧
   (md = .rne → vfrcp md 0x40400000 = (0x3EAAAAAB, .nx) ∧ vfrsq md 0x40000000 = (0x3F3504F3, .nx) ∧ vfex2 md 0x3F000000 = (0x3FB504F3, .nx) ∧
     vflg2 md 0x40400000 = (0x3FCAE00D, .nx) ∧ vftanh md 0x3F800000 = (0x3F42F7D6, .nx)) ∧
   vfrcp md 0 = (0x7F800000, .dz) ∧ vfrcp md 0x80000000 = (0xFF800000, .dz) ∧
   vfrcp md 0x7F800000 = (0, 0) ∧ vfrcp md 0xFF800000 = (0x80000000, 0) ∧
   vfrsq md 0 = (0x7F800000, .dz) ∧ vfrsq md 0x80000000 = (0xFF800000, .dz) ∧
   vfrsq md 0x7F800000 = (0, 0) ∧ vfrsq md 0xFF800000 = (0x7FC00000, .nv) ∧
   vfex2 md 0 = (0x3F800000, 0) ∧ vfex2 md 0x80000000 = (0x3F800000, 0) ∧
   vfex2 md 0x7F800000 = (0x7F800000, 0) ∧ vfex2 md 0xFF800000 = (0, 0) ∧
   vflg2 md 0 = (0xFF800000, .dz) ∧ vflg2 md 0x80000000 = (0xFF800000, .dz) ∧
   vflg2 md 0x7F800000 = (0x7F800000, 0) ∧ vflg2 md 0xFF800000 = (0x7FC00000, .nv) ∧
   vftanh md 0 = (0, 0) ∧ vftanh md 0x80000000 = (0x80000000, 0) ∧
   vftanh md 0x7F800000 = (0x3F800000, 0) ∧ vftanh md 0xFF800000 = (0xBF800000, 0) ∧
   ∀ m e x, m ≠ 0 → FFmt.f32.decode x = .fin true m e → vfrsq md x = (0x7FC00000, .nv) ∧ vflg2 md x = (0x7FC00000, .nv))

/-- R140: VFRCP, VFRSQ, VFEX2, VFLG2 and VFTANH of an ordinary operand are the exact mathematical value, over the real numbers, rounded
once (R86, R87, R91, R92): a value that is a multiple of a power of two is rounded as that; of any other it is enough to know between which
two neighbours of a grid it lies that is finer than every place a mode rounds at. That the model's evaluation does so is its own claim (log
entry 7). -/
def Obligations.VectorFunctions : Prop := ∀ (md : Mode) (x : Nat) (n : Bool) (m : Nat) (e : Int), FFmt.f32.decode x = .fin n m e → 0 < m →
  let v : ℝ := (if n then -1 else 1) * (m : ℝ) * (2 : ℝ) ^ e
  let rounds (y : ℝ) (r : Nat × Flags) : Prop := ∀ neg : Bool, (neg = true ↔ y < 0) →
    (∀ (q : Nat) (k : Int), |y| = (q : ℝ) * (2 : ℝ) ^ k → r = FFmt.f32.round md false neg q k) ∧
    (∀ (q : Nat) (k : Int), 2 ^ 64 ≤ q → k ≤ -200 → (q : ℝ) * (2 : ℝ) ^ k < |y| → |y| < ((q : ℝ) + 1) * (2 : ℝ) ^ k →
      r = FFmt.f32.round md false neg (2 * q + 1) (k - 1))
  rounds (1 / v) (vfrcp md x) ∧
  (n = false → rounds (1 / Real.sqrt v) (vfrsq md x)) ∧
  rounds ((2 : ℝ) ^ v) (vfex2 md x) ∧
  (n = false → rounds (Real.logb 2 v) (vflg2 md x)) ∧
  rounds (Real.tanh v) (vftanh md x)

/-- R141: the vector compares write one bit of kd for each 32 bits, 0 for an inactive element, discard a write to k0, and
raise the flags of their scalar members, with ARITH after that where one of them is enabled (R106).
R143 and R127: vector integers, element by element at the width w of the form, modulo 2^w or clamped; no flag is
raised.
R144: permutes, moves between elements and g registers, and the k register operations. -/
def Obligations.VectorIntegersAndMasks : Prop :=
  (∀ (s : State) (d : KReg) (a b : VReg) (k : KReg) (p : Prec) (e64 : Bool),
   let w := p.fmt.bits
   let fp (i : Instr) (f : Nat → Nat → Bool × Flags) : Prop :=
     let r (i : Nat) := f (velem w (s.v a) i) (velem w (s.v b) i)
     Raises i s (unionFlags w (s.k k) fun i => (r i).2) (fun t => PutMask s t w d k (fun i => (r i).1) (unionFlags w (s.k k) fun i => (r i).2))
   let v := if e64 then 64 else 32
   let x (i : Nat) := velem v (s.v a) i
   let y (i : Nat) := velem v (s.v b) i
   fp (.vfeq d a b k p) p.fmt.feq ∧ fp (.vflt d a b k p) p.fmt.flt ∧ fp (.vfle d a b k p) p.fmt.fle ∧
   Runs (.veq d a b k e64) s (fun t => PutMask s t v d k (fun i => decide (x i = y i)) 0) ∧
   Runs (.vlt d a b k e64) s (fun t => PutMask s t v d k (fun i => decide (intOfNat v (x i) < intOfNat v (y i))) 0) ∧
   Runs (.vltn d a b k e64) s (fun t => PutMask s t v d k (fun i => decide (x i < y i)) 0)) ∧
  (∀ (s : State) (d a b : VReg) (k : KReg) (esz : Sz),
   let w := esz.bits
   let x (i : Nat) := velem w (s.v a) i
   let y (i : Nat) := velem w (s.v b) i
   let X (i : Nat) : Int := intOfNat w (x i)
   let Y (i : Nat) : Int := intOfNat w (y i)
   let lo : Int := -2 ^ (w - 1)
   let hi : Int := 2 ^ (w - 1) - 1
   let gives (i : Instr) (f : Nat → Nat) : Prop := Runs i s (fun t => PutElems s t w d k f 0)
   gives (.vadd d a b k esz) (fun i => (x i + y i) % 2 ^ w) ∧
   gives (.vsub d a b k esz) (fun i => (x i + 2 ^ w - y i) % 2 ^ w) ∧
   gives (.vmul d a b k esz) (fun i => x i * y i % 2 ^ w) ∧
   gives (.vmulh d a b k esz) (fun i => natOfInt w (X i * Y i / 2 ^ w)) ∧
   gives (.vmulhn d a b k esz) (fun i => x i * y i / 2 ^ w) ∧
   gives (.vand d a b k esz) (fun i => x i &&& y i) ∧
   gives (.vor d a b k esz) (fun i => x i ||| y i) ∧
   gives (.vxor d a b k esz) (fun i => x i ^^^ y i) ∧
   gives (.vsll d a b k esz) (fun i => x i * 2 ^ (y i % w) % 2 ^ w) ∧
   gives (.vsrl d a b k esz) (fun i => x i / 2 ^ (y i % w)) ∧
   gives (.vsra d a b k esz) (fun i => natOfInt w (X i / 2 ^ (y i % w))) ∧
   gives (.vmin d a b k esz) (fun i => if Y i < X i then y i else x i) ∧
   gives (.vmax d a b k esz) (fun i => if X i < Y i then y i else x i) ∧
   gives (.vminn d a b k esz) (fun i => Min.min (x i) (y i)) ∧
   gives (.vmaxn d a b k esz) (fun i => Max.max (x i) (y i)) ∧
   gives (.vadds d a b k esz) (fun i => natOfInt w (Max.max lo (Min.min hi (X i + Y i)))) ∧
   gives (.vsubs d a b k esz) (fun i => natOfInt w (Max.max lo (Min.min hi (X i - Y i)))) ∧
   gives (.vaddsn d a b k esz) (fun i => Min.min (2 ^ w - 1) (x i + y i)) ∧
   gives (.vsubsn d a b k esz) (fun i => x i - y i) ∧
   gives (.vabs d a k esz) (fun i => (X i).natAbs)) ∧
  (∀ (s : State) (d a b : VReg) (gd ga : GReg) (kd ka kb k : KReg) (x : BitVec 7) (c : BitVec 8) (esz : Sz),
   let w := esz.bits
   let n := 256 / w
   let A (i : Nat) := velem w (s.v a) i
   let B (i : Nat) := velem w (s.v b) i
   let gives (i : Instr) (f : Nat → Nat) : Prop := Runs i s (fun t => PutElems s t w d k f 0)
   gives (.vperm d a b k esz) (fun i => A (B i % n)) ∧
   gives (.vbcast d ga k esz) (fun _ => (s.g ga).toNat % 2 ^ w) ∧
   gives (.vmov d a k esz) A ∧
   gives (.vzip d a b k esz) (fun i => if i % 2 = 0 then A (i / 2) else B (i / 2)) ∧
   gives (.vunzip d a b k esz) (fun i => if i < n / 2 then A (2 * i) else B (2 * i - n)) ∧
   gives (.vrot d a c k esz) (fun i => A ((i + c.toNat) % n)) ∧
   Runs (.vext gd a x esz) s (fun t => PutG s t gd (BitVec.ofNat 64 (A x.toNat))) ∧
   Runs (.vins d ga x esz) s (fun t => ∃ v, PutV s.core s t d v 0 ∧
     ∀ i < n, velem w v i = if i = x.toNat then (s.g ga).toNat % 2 ^ w else velem w (s.v d) i) ∧
   Runs (.vsel d a b k esz) s (fun t => ∃ v, PutV s.core s t d v 0 ∧ ∀ i < n, velem w v i = if kbit w (s.k k) i then A i else B i) ∧
   Runs (.kand kd ka kb) s (fun t => PutK s.core s t kd (s.k ka &&& s.k kb) 0) ∧
   Runs (.kor kd ka kb) s (fun t => PutK s.core s t kd (s.k ka ||| s.k kb) 0) ∧
   Runs (.knot kd ka) s (fun t => PutK s.core s t kd (~~~ s.k ka) 0) ∧
   Runs (.kmovKk kd ka) s (fun t => PutK s.core s t kd (s.k ka) 0) ∧
   Runs (.kmovKg kd ga) s (fun t => PutK s.core s t kd ((s.g ga).setWidth 8) 0) ∧
   Runs (.kmovGk gd ka) s (fun t => PutG s t gd ((s.k ka).zeroExtend 64)))

/-- R145, R146 and R122: reductions and selections. A reduction writes the value of the fixed pairwise tree over the active
elements to element 0, a selection the selected value and its index to elements 0 and 1, and both clear the rest; with no
active element they give +0, or the canonical NaN and all ones. The lowest NaN is selected, made quiet; else the element whose exact
value is the largest, or the smallest, +0 above -0, ties to the lowest index; only a signalling NaN raises a flag. ARITH follows where a
raised flag is enabled (R106).
R145's tree, for f32 ((e0 + e1) + (e2 + e3)) + ((e4 + e5) + (e6 + e7)) and for f64 (e0 + e1) + (e2 + e3): a node with one operand that
is empty gives the other, any other rounds once, and the flags are the union over the nodes. -/
def Obligations.Reductions : Prop :=
  (∀ (s : State) (d a : VReg) (k : KReg) (p : Prec),
   let w := p.fmt.bits
   let x (i : Nat) : Nat := velem w (s.v a) i
   let red (i : Instr) (op : Nat → Nat → Nat × Flags) : Prop :=
     let r := redTree w (s.k k) (s.v a) op
     (Raises i s r.2 (fun t => ∃ v, PutV s.core s t d v r.2 ∧
       velem w v 0 = r.1 ∧ ∀ j < 256 / w, 0 < j → velem w v j = 0)) ∧
     ((∀ j < 256 / w, kbit w (s.k k) j = false) → r = (0, 0))
   let val (i : Nat) : FVal := p.fmt.decode (x i)
   let cand (i : Nat) : Prop := i < 256 / w ∧ kbit w (s.k k) i = true
   let isNan (i : Nat) : Prop := ∃ n fr sg, val i = .nan n fr sg
   let loud (i : Nat) : Bool := match val i with | .nan _ _ sg => sg | _ => false
   let fl : Flags := if ((List.range (256 / w)).filter fun i => kbit w (s.k k) i).any loud then .nv else 0
   let num (n : Bool) (m : Nat) (e e0 : Int) : Int := (if n then -1 else 1) * (m * 2 ^ (e - e0).toNat)
   let less (u v : FVal) : Prop := match u, v with
     | .inf a, .inf b => a = true ∧ b = false
     | .inf a, .fin _ _ _ => a = true
     | .fin _ _ _, .inf b => b = false
     | .fin a m e, .fin b m' e' => num a m e (Min.min e e') < num b m' e' (Min.min e e') ∨ (m = 0 ∧ m' = 0 ∧ a = true ∧ b = false)
     | _, _ => False
   let picks (j : Nat) (before : FVal → FVal → Prop) : Prop := cand j ∧
     (isNan j → ∀ i < j, cand i → ¬ isNan i) ∧ ((∃ i, cand i ∧ isNan i) → isNan j) ∧
     ((∀ i, cand i → ¬ isNan i) → (∀ i, cand i → ¬ before (val i) (val j)) ∧ ∀ i < j, cand i → before (val j) (val i))
   let pick (i : Instr) (before : FVal → FVal → Prop) : Prop :=
     Raises i s fl (fun t => ∃ v, PutV s.core s t d v fl ∧ (∀ j < 256 / w, 1 < j → velem w v j = 0) ∧
       ((∀ j, ¬ cand j) → velem w v 0 = p.fmt.nan ∧ velem w v 1 = 2 ^ w - 1) ∧
       ((∃ j, cand j) → picks (velem w v 1) before ∧
         (¬ isNan (velem w v 1) → velem w v 0 = x (velem w v 1)) ∧
         (isNan (velem w v 1) → velem w v 0 = x (velem w v 1) ||| if w = 64 then 2 ^ 51 else 2 ^ 22)))
   red (.vredadd d a k p) (p.fmt.add s.rm) ∧ red (.vredmax d a k p) p.fmt.fmax ∧ red (.vredmin d a k p) p.fmt.fmin ∧
   pick (.vmaxx d a k p) (fun u v => less v u) ∧ pick (.vminx d a k p) less) ∧
  (∀ (x : VWord) (k : BitVec 8) (op : Nat → Nat → Nat × Flags),
   let leaf (w i : Nat) : Option (Nat × Flags) := if k.getLsbD (w / 32 * i) then some (velem w x i, 0) else none
   let n (p q : Option (Nat × Flags)) : Option (Nat × Flags) := match p, q with
     | some p, some q => some ((op p.1 q.1).1, p.2 ||| q.2 ||| (op p.1 q.1).2)
     | some p, none => some p
     | none, q => q
   let a := leaf 32
   let b := leaf 64
   redTree 32 k x op = (n (n (n (a 0) (a 1)) (n (a 2) (a 3))) (n (n (a 4) (a 5)) (n (a 6) (a 7)))).getD (0, 0) ∧
   redTree 64 k x op = (n (n (b 0) (b 1)) (n (b 2) (b 3))).getD (0, 0))

/-- R147 to R149, R164 and R94: VCVT with its element count by the wider type and bits beyond the results cleared, the
random draws, and DMMA's two roundings for each of four elements. ARITH follows where a raised flag is enabled (R106). -/
def Obligations.ConvertRandomDmma : Prop := ∀ (s : State) (d a b : VReg) (dst src : Ty) (sat : Bool) (vr : BitVec 3) (k : KReg) (rm : Rm) (c : BitVec 8),
  (let wide := Max.max src.bits dst.bits
   let n := 256 / wide
   let r (i : Nat) := convert src dst (Mode.ofRm rm s.st.fmode (stoRandom n (s.v (vr.setWidth 4)) i)) sat (velem src.bits (s.v a) i)
   let fl := unionFlags wide (s.k k) fun i => (r i).2
   (Instr.vcvt d a dst sat vr k rm src).wellFormed = true → Raises (.vcvt d a dst sat vr k rm src) s fl (fun t => ∃ v, PutV s.core s t d v fl ∧
       (∀ i < n, velem dst.bits v i = if kbit wide (s.k k) i then (r i).1 else velem dst.bits (s.v d) i) ∧
       v.toNat < 2 ^ (n * dst.bits))) ∧
  Runs (.vrng d a b k) s (fun t => PutElems s t 32 d k
    (fun i => (rmx32 (BitVec.ofNat 32 (velem 32 (s.v a) i)) (BitVec.ofNat 32 (velem 32 (s.v b) i))).toNat) 0) ∧
  Runs (.vrngi d a c k) s (fun t => PutElems s t 32 d k
    (fun i => (rmx32 (BitVec.ofNat 32 (velem 32 (s.v a) i)) (BitVec.ofNat 32 (8 * c.toNat + i))).toNat) 0) ∧
  (let A (i : Nat) := velem 64 (s.v a) i
   let B (i : Nat) := velem 64 (s.v b) i
   let one (i j : Nat) := FFmt.f64.fma s.rm false false (A (2 * i)) (B j) (velem 64 (s.v d) (2 * i + j))
   let two (i j : Nat) := FFmt.f64.fma s.rm false false (A (2 * i + 1)) (B (2 + j)) (one i j).1
   let fl := (one 0 0).2 ||| (two 0 0).2 ||| (one 0 1).2 ||| (two 0 1).2 ||| (one 1 0).2 ||| (two 1 0).2 ||| (one 1 1).2 ||| (two 1 1).2
   Raises (.dmma d a b) s fl (fun t => ∃ v, PutV s.core s t d v fl ∧
     ∀ i < 2, ∀ j < 2, velem 64 v (2 * i + j) = (two i j).1))

/-! ## The well -/

/-- R236 (with R7): a load that is aligned, inside the well and meets no uncorrectable word completes with the little-endian
number at its address in gd, sign-extended or zero-extended; no byte changes, and the read only corrects (R171).
R236: a store that is aligned and inside the well, and in a form narrower than 64 bits meets no uncorrectable word (R170),
completes: the low bytes of the source at its address, and every other byte as before (the memory in the canonical form that
every step keeps). A 64-bit store writes over an
uncorrectable word.
R236: what stops LD, ST, LDX and STX: MISALIGN first, then WELLRANGE, then UE_WELL, each with the
address in TRAPVAL, and nothing else of the instruction happens. -/
def Obligations.LoadsAndStores : Prop :=
  (∀ (s : State) (d a b : GReg) (z : Sz) (sx : Bool) (off : BitVec 13) (sh : BitVec 2),
   let loads (i : Instr) (A : Word) : Prop := Accessible s A z.bytes z.bytes →
     Runs i s (fun t => WroteG { s.core with well := s.core.well.touch A.toNat z.bytes } s t d
       (if sx then (BitVec.ofNat z.bits (s.number A.toNat z.bytes)).signExtend 64 else BitVec.ofNat 64 (s.number A.toNat z.bytes))
       0 (s.pc + 4) ∧ SameBytes s t)
   loads (.ld d a z sx off) (s.g a + off.signExtend 64) ∧
   loads (.ldx d a b sh sx z) (s.g a + s.g b * BitVec.ofNat 64 (2 ^ sh.toNat))) ∧
  (∀ (s : State) (src a b : GReg) (z : Sz) (off : BitVec 13) (sh : BitVec 2),
   let stores (i : Instr) (A : Word) : Prop :=
     s.core.memWf = true → A.toNat % z.bytes = 0 → A.toNat + z.bytes ≤ 393216 → (z = .w64 ∨ s.core.well.badIn A.toNat z.bytes = false) →
     Runs i s (fun t => Stepped { s.core with well := s.core.well.store A.toNat (leBytes z.bytes (s.g src).toNat) } s t 0 4 ∧
       StoredBytes s t A.toNat (leBytes z.bytes (s.g src).toNat) ∧ t.core.well.badIn A.toNat z.bytes = false)
   stores (.st src a z off) (s.g a + off.signExtend 64) ∧
   stores (.stx src a b sh z) (s.g a + s.g b * BitVec.ofNat 64 (2 ^ sh.toNat))) ∧
  (∀ (s : State) (d a b : GReg) (z : Sz) (sx : Bool) (off : BitVec 13) (sh : BitVec 2),
   let stops (i : Instr) (A : Word) (n : Nat) (reads : Bool) : Prop :=
     (A.toNat % n ≠ 0 → exec i s = .next (s.trap Code.misalign A 4)) ∧
     (A.toNat % n = 0 → 393216 < A.toNat + n → exec i s = .next (s.trap Code.wellrange A 4)) ∧
     (A.toNat % n = 0 → A.toNat + n ≤ 393216 → reads = true → s.core.well.badIn A.toNat n = true →
       exec i s = .next (s.trap Code.ueWell A 4))
   stops (.ld d a z sx off) (s.g a + off.signExtend 64) z.bytes true ∧
   stops (.st d a z off) (s.g a + off.signExtend 64) z.bytes (decide (z ≠ .w64)) ∧
   stops (.ldx d a b sh sx z) (s.g a + s.g b * BitVec.ofNat 64 (2 ^ sh.toNat)) z.bytes true ∧
   stops (.stx d a b sh z) (s.g a + s.g b * BitVec.ofNat 64 (2 ^ sh.toNat)) z.bytes (decide (z ≠ .w64)))

/-- R237: each atomic reads the old number at its address, stores the new one that its operation makes of it (of the operand's
low bits, and for CAS of gd's), and writes the old one to gd, a 32-bit one zero-extended for MINN and MAXN and sign-extended
for the others; every other byte of the well reads as before. An address that is not aligned, one beyond the well, and an
uncorrectable word stop it in this order, with the address in TRAPVAL, and nothing else of the instruction happens. -/
def Obligations.Atomics : Prop := ∀ (s : State) (d a b : GReg) (w64 : Bool),
  let n := if w64 then 8 else 4
  let A := (s.g a).toNat
  let old := s.number A n
  let v := (s.g b).toNat % 2 ^ (8 * n)
  let cmp := (s.g d).toNat % 2 ^ (8 * n)
  let sgn (x : Nat) : Int := intOfNat (8 * n) x
  let does (i : Instr) (new : Nat) (sx : Bool) : Prop :=
    (A % n ≠ 0 → exec i s = .next (s.trap Code.misalign (s.g a) 4)) ∧
    (A % n = 0 → 393216 < A + n → exec i s = .next (s.trap Code.wellrange (s.g a) 4)) ∧
    (A % n = 0 → A + n ≤ 393216 → s.core.well.badIn A n = true → exec i s = .next (s.trap Code.ueWell (s.g a) 4)) ∧
    (s.core.memWf = true → Accessible s (s.g a) n n → Runs i s (fun t => WroteG { s.core with well := s.core.well.store A (leBytes n new) } s t d
      (if sx then BitVec.ofInt 64 (sgn old) else BitVec.ofNat 64 old) 0 (s.pc + 4) ∧ StoredBytes s t A (leBytes n new)))
  does (.amoadd d a b w64) ((old + v) % 2 ^ (8 * n)) true ∧
  does (.amoand d a b w64) (old &&& v) true ∧
  does (.amoor d a b w64) (old ||| v) true ∧
  does (.amoxor d a b w64) (old ^^^ v) true ∧
  does (.amomin d a b w64) (if sgn v < sgn old then v else old) true ∧
  does (.amomax d a b w64) (if sgn old < sgn v then v else old) true ∧
  does (.amominn d a b w64) (Min.min old v) false ∧
  does (.amomaxn d a b w64) (Max.max old v) false ∧
  does (.amoswap d a b w64) v true ∧
  does (.amocas d a b w64) (if old = cmp then v else old) true

/-- R137, R138, R238 and R125: vector loads and stores. The first active element, in index order, that is not aligned or not inside the
well raises MISALIGN or WELLRANGE before any access; then, for a load and for a store narrower than a word, the first that meets an
uncorrectable word raises UE_WELL, each with the element's address in TRAPVAL. Else a load
gives each active element the bytes at its address and leaves the others; a store leaves every byte that no active element
covers, and gives each covered byte the value of the highest element that covers it, and a store of words writes over an uncorrectable
one. That is one step where nothing divides it. Where something does, each step makes some of the accesses that are left, whole ones, and
other steps may come between; the instruction ends when the last is made. Which are made next is the model's own, the field `split`
(log entry 53): R138 states no order. FENCE completes with no effect of its own
(the model's choice, log entry 9: nothing is outstanding when it is issued). -/
def Obligations.VectorMemory : Prop := ∀ (s : State) (v vi : VReg) (a st : GReg) (z : Sz) (k : KReg) (off : BitVec 7) (e64 core : Bool)
    (p q : Part) (kk : BitVec 8) (mask : BitVec 32) (rest : List (BitVec 32)),
  let base := s.g a + off.signExtend 64 * 32
  let strided (i : Nat) : Word := base + BitVec.ofNat 64 i * (if st = 0 then BitVec.ofNat 64 z.bytes else s.g st)
  let y := if e64 then Sz.w64 else Sz.w32
  let indexed (i : Nat) : Word := base + BitVec.ofInt 64 (intOfNat y.bits (velem y.bits (s.v vi) i))
  let active (z : Sz) (i : Nat) : Prop := i < z.count ∧ kbit z.bits (s.k k) i = true
  let fits (z : Sz) (A : Word) : Prop := A.toNat % z.bytes = 0 ∧ A.toNat + z.bytes ≤ 393216
  let bad (z : Sz) (A : Word) : Prop := s.core.well.badIn A.toNat z.bytes = true
  let faults (i : Instr) (z : Sz) (addr : Nat → Word) (reads : Prop) : Prop :=
    (∀ j, active z j → (∀ l < j, active z l → fits z (addr l)) →
      ((addr j).toNat % z.bytes ≠ 0 → exec i s = .next (s.trap 0x02 (addr j) 4)) ∧
      ((addr j).toNat % z.bytes = 0 → 393216 < (addr j).toNat + z.bytes → exec i s = .next (s.trap 0x03 (addr j) 4))) ∧
    (reads → (∀ j, active z j → fits z (addr j)) → ∀ j, active z j → bad z (addr j) → (∀ l < j, active z l → ¬ bad z (addr l)) →
      exec i s = .next (s.trap 0x0C (addr j) 4))
  let begins (i : Instr) (z : Sz) (addr : Nat → Word) (data : Nat → List Byte) (fin : PartEnd) : Prop :=
    s.split = mask :: rest → exec i s = .next ({ s with split := rest }.partStep
      { elems := (List.range z.count).map fun i => ⟨(addr i).toNat, z.bytes, data i⟩
        got := (List.range z.count).map fun i => if kbit z.bits (s.k k) i then none else some 0, fin := fin } mask)
  let loads (i : Instr) (z : Sz) (addr : Nat → Word) : Prop :=
    faults i z addr True ∧
    ((∀ j, active z j → fits z (addr j) ∧ ¬ bad z (addr j)) →
      begins i z addr (fun _ => []) (.vload v (s.k k) z.bits) ∧
      (s.split = [] → Runs i s (fun t => ∃ w x,
        PutV { s.core with well := w } s t v x 0 ∧ w = { s.core.well with marks := w.marks } ∧
        (∀ n, w.bad n = s.core.well.bad n) ∧
        ∀ i < z.count, velem z.bits x i = if kbit z.bits (s.k k) i then s.number (addr i).toNat z.bytes else velem z.bits (s.v v) i)))
  let covers (z : Sz) (addr : Nat → Word) (i x : Nat) : Prop := active z i ∧ (addr i).toNat ≤ x ∧ x < (addr i).toNat + z.bytes
  let stores (i : Instr) (z : Sz) (addr : Nat → Word) : Prop :=
    faults i z addr (z ≠ .w64) ∧
    ((∀ j, active z j → fits z (addr j) ∧ (z = .w64 ∨ ¬ bad z (addr j))) →
      begins i z addr (fun i => if kbit z.bits (s.k k) i then leBytes z.bytes (velem z.bits (s.v v) i) else []) .vstore ∧
      (s.split = [] → s.core.memWf = true → Runs i s (fun t => ∃ w,
        Stepped { s.core with well := w } s t 0 4 ∧ w = { s.core.well with bytes := w.bytes, marks := w.marks } ∧
        (∀ n, w.bad n = true → s.core.well.bad n = true) ∧ (∀ j, active z j → w.badIn (addr j).toNat z.bytes = false) ∧
        ∀ x, ((∀ i, ¬ covers z addr i x) → t.byte x = s.byte x) ∧
          ∀ i, covers z addr i x → (∀ j, i < j → ¬ covers z addr j x) →
            t.byte x = (leBytes z.bytes (velem z.bits (s.v v) i)).getD (x - (addr i).toNat) 0)))
  let el (i : Nat) : Elem := p.elems.getD i ⟨0, 0, []⟩
  let left (i : Nat) : Prop := i < p.elems.length ∧ p.got.getD i none = none
  let made (i : Nat) : Prop := left i ∧ ∃ j, i ≤ j ∧ mask.getLsbD j = true ∧ left j ∧ (el j).addr = (el i).addr
  let meets (i : Nat) : Prop := left i ∧ ((el i).data = [] ∨ (el i).nb < 8) ∧ s.core.well.badIn (el i).addr (el i).nb = true
  let writes (i x : Nat) : Prop := made i ∧ (el i).addr ≤ x ∧ x < (el i).addr + (el i).data.length
  loads (.vld v a st z k off) z strided ∧ stores (.vst v a st z k off) z strided ∧
  loads (.vgath v a vi e64 k off) y indexed ∧ stores (.vscat v a vi e64 k off) y indexed ∧
  -- some accesses of an instruction that is divided
  (∀ i, meets i → (∀ j < i, ¬ meets j) → ((∀ x, p.fin ≠ .tile x) → s.partStep p mask = s.trap 0x0C (BitVec.ofNat 64 (el i).addr) 4) ∧
    ∀ x, p.fin = .tile x → ∃ val, s.partStep p mask = { s with free := s.free + 1 }.trap 0x0C val 4) ∧
  ((∀ i, ¬ meets i) → ∃ w q, w = { s.core.well with bytes := w.bytes, marks := w.marks } ∧
    (∀ n, w.bad n = true → s.core.well.bad n = true) ∧
    (s.core.memWf = true → ∀ x, ((∀ i, ¬ writes i x) → Mem.get w.bytes x = s.byte x) ∧
      ∀ i, writes i x → (∀ j, i < j → ¬ writes j x) → Mem.get w.bytes x = (el i).data.getD (x - (el i).addr) 0) ∧
    q.elems = p.elems ∧ q.fin = p.fin ∧ q.got.length = p.elems.length ∧
    (∀ i < p.elems.length, (made i → q.got.getD i none = some (if (el i).data = [] then s.number (el i).addr (el i).nb else 0)) ∧
      (¬ made i → q.got.getD i none = p.got.getD i none)) ∧
    let t : State := { s with core := { s.core with well := w } }
    ((∃ i, left i ∧ ¬ made i) → s.partStep p mask = t.setSt fun st => { st with part := some q }) ∧
    ((∀ i, left i → made i) → s.partStep p mask = (t.setSt fun st => { st with part := none }).partEnd q)) ∧
  -- its end
  (q.fin = .vload v kk z.bits → (∀ x, some x ∈ q.got → x < 2 ^ z.bits) → ∃ x, PutV s.core s (s.partEnd q) v x 0 ∧
    ∀ i < z.count, velem z.bits x i = if kbit z.bits kk i then (q.got.getD i none).getD 0 else velem z.bits (s.v v) i) ∧
  (q.fin = .vstore → Stepped s.core s (s.partEnd q) 0 4 ∧ SameBytes s (s.partEnd q)) ∧
  Runs (.fence core) s (fun t => Passed s.core s t)

/-! ## Block and matrix instructions -/

/-- R150, R43 and R59: an instruction of majors 0x2C to 0x2F, 0x34 or 0x3D that names a b or m register which the strand does not own
takes OWNER before any effect: nothing changes but what the fault changes. SENDB and RECVB raise CHAN first, for ch0 to ch3 and a
class mismatch; BMLOOP is checked at its issue, where no other strand's loop holds it back and its own is not running. TRAPVAL
is the model's choice, a free value (log entry 5: the spec states none). -/
def Obligations.Ownership : Prop := ∀ (s : State) (d a b : BReg) (m : MReg) (g : GReg) (k : KReg) (f : Bfmt) (off : BitVec 13)
    (v : BitVec 3) (ty : MxTy) (j : BitVec 2) (hi : Bool) (ch : Chan) (cls : BitVec 2) (n tag : GReg) (t : Tiles) (sa sb : BitVec 16),
  let c := s.core
  let here := c.csr.loopAct = true ∧ c.csr.loopStr = s.cur ∧ (c.csr.loopPcw.setWidth 64 : Word) <<< 2 = s.pc
  let stops (i : Instr) (bs : List BReg) (ms : List MReg) : Prop :=
    ¬ Owns s bs ms → ∃ val, exec i s = .next ({ s with free := s.free + 1 }.trap Code.owner val 4)
  (4 ≤ ch.toNat → (c.chan ch).bind.extractLsb' 8 2 = cls → stops (.sendb a tag ch cls) [a] []) ∧
  (4 ≤ ch.toNat → stops (.recvb d ch) [d] []) ∧
  (¬ (here ∧ c.loop.isSome = true) → (c.csr.loopAct = true → c.csr.loopStr = s.cur) →
    ¬ Owns s ((List.range (t.count + 1)).map fun k => a + BitVec.ofNat 4 k) ((List.range t.count).map fun k => m + BitVec.ofNat 3 k) →
    ∃ val, exec (.bmloop m a g tag n t f sa sb) s = .next ({ s with free := s.free + 1 }.trap Code.owner val 8)) ∧
  stops (.bld d g f off) [d] [] ∧ stops (.blds d g f off) [d] [] ∧ stops (.bst d g f off) [d] [] ∧
  stops (.bmma m a b) [a, b] [m] ∧ stops (.bmmz m a b) [a, b] [m] ∧
  stops (.badd d a b) [d, a, b] [] ∧ stops (.bsub d a b) [d, a, b] [] ∧ stops (.bmul d a b) [d, a, b] [] ∧
  stops (.bmaxe d a b) [d, a, b] [] ∧ stops (.bneg d a) [d, a] [] ∧ stops (.bscl d a g) [d, a] [] ∧
  stops (.bnorm d a) [d, a] [] ∧ stops (.bexp g a) [a] [] ∧ stops (.bmaxi g a) [a] [] ∧ stops (.bclr d f) [d] [] ∧
  stops (.bmov d a) [d, a] [] ∧ stops (.blsf g m) [] [m] ∧ stops (.blsft k m) [] [m] ∧ stops (.blsfc m) [] [m] ∧
  stops (.benc d hi f) [d] [] ∧ stops (.bdec hi a) [a] [] ∧ stops (.bmrd v m) [] [m] ∧ stops (.bmrb d m j f) [d] [m] ∧
  stops (.bmsv m g) [] [m] ∧ stops (.bmrs m g) [] [m] ∧ stops (.mxin d ty v g f) [d] [] ∧ stops (.mxout v ty g a) [a] []

/-- R155, R156 and R42: BLD, BLDS and BST. An address that is no multiple of 8 raises MISALIGN, a line that leaves the well WELLRANGE,
each with the address in TRAPVAL; a load that meets an uncorrectable word raises UE_WELL with the address of the first such word (log
entry 53: R155 says `its address`). Else a load
writes the format's payload words and clears the rest and, but for BLDS, the mask; BST writes header and
payload words of the stated format, over uncorrectable words too, and every other byte reads as before. The words are separate accesses,
made in one step where nothing divides it (log entry 53; VectorMemory says what a step of a divided instruction does).
R158, R120 and R122: the members that read or copy a line or a tile's lost-significance flags: BEXP, BMAXI, BCLR, BMOV, BLSF,
BLSFT and BLSFC. BMAXI selects the lowest poison block's first element; else the lowest NaN; else the element whose exact value is the
largest, ties to the lowest index. -/
def Obligations.BlockMemoryAndReads : Prop :=
  (∀ (s : State) (r : BReg) (a : GReg) (f : Bfmt) (off : BitVec 13) (q : Part) (mask : BitVec 32)
     (rest : List (BitVec 32)) (pois : Bool),
   let A := s.g a + off.signExtend 64 * 8
   let at' (i : Nat) : Word := BitVec.ofNat 64 (s.number (A.toNat + 8 * i) 8)
   let checks (i : Instr) (n : Nat) : Prop :=
     (A.toNat % 8 ≠ 0 → exec i s = .next (s.trap 0x02 A 4)) ∧
     (A.toNat % 8 = 0 → 393216 < A.toNat + 8 * n → exec i s = .next (s.trap 0x03 A 4))
   let begins (i : Instr) (n : Nat) (data : Nat → List Byte) (fin : PartEnd) : Prop :=
     s.split = mask :: rest → exec i s = .next ({ s with split := rest }.partStep
       { elems := (List.range n).map fun i => ⟨A.toNat + 8 * i, 8, data i⟩, got := List.replicate n none, fin := fin } mask)
   let loads (i : Instr) (mask : Bool) : Prop :=
     let n := f.n + if mask then 2 else 1
     (Owns s [r] [] → checks i n) ∧
     (∀ j < n, Owns s [r] [] → A.toNat % 8 = 0 → A.toNat + 8 * n ≤ 393216 → s.core.well.badIn (A.toNat + 8 * j) 8 = true →
       (∀ l < j, s.core.well.badIn (A.toNat + 8 * l) 8 = false) → exec i s = .next (s.trap 0x0C (BitVec.ofNat 64 (A.toNat + 8 * j)) 4)) ∧
     (Owns s [r] [] → Accessible s A (8 * n) 8 → begins i n (fun _ => []) (.line r f)) ∧
     (Owns s [r] [] → Accessible s A (8 * n) 8 → s.split = [] → Runs i s (fun t => ∃ x w,
       Stepped ({ s.core with b := s.core.b.set r.toNat x, well := w }.seen (anyPoison (x.blks f))) s t 0 4 ∧
       w = s.core.well.touch A.toNat (8 * n) ∧ SameBytes s t ∧
       x.tag = f ∧ x.hdr = at' 0 ∧ (∀ j : Fin 16, x.pay[j] = if j.val < f.n then at' (j.val + 1) else 0) ∧
       x.mask = if mask then at' (f.n + 1) else 0))
   let words := (s.b r).hdr :: (s.b r).pay.toList.take f.n
   let got (i : Nat) : Word := BitVec.ofNat 64 ((q.got.getD i none).getD 0)
   loads (.bld r a f off) false ∧ loads (.blds r a f off) true ∧
   (Owns s [r] [] → checks (.bst r a f off) (f.n + 1)) ∧
   (Owns s [r] [] → A.toNat % 8 = 0 → A.toNat + 8 * (f.n + 1) ≤ 393216 →
     begins (.bst r a f off) (f.n + 1) (fun i => leBytes 8 (words.getD i 0).toNat) (.lineStore (anyPoison ((s.b r).blks f)))) ∧
   (q.fin = .line r f → ∃ x, PutB s (s.partEnd q) r x (anyPoison (x.blks f)) 0 ∧ x.tag = f ∧ x.hdr = got 0 ∧
     (∀ j : Fin 16, x.pay[j] = if j.val < f.n then got (j.val + 1) else 0) ∧ x.mask = got (f.n + 1)) ∧
   (q.fin = .lineStore pois → Stepped (s.core.seen pois) s (s.partEnd q) 0 4 ∧ SameBytes s (s.partEnd q)) ∧
   (Owns s [r] [] → s.core.memWf = true → A.toNat % 8 = 0 → A.toNat + 8 * (f.n + 1) ≤ 393216 → s.split = [] →
     Runs (.bst r a f off) s (fun t =>
       let xs := words.flatMap fun x => leBytes 8 x.toNat
       Stepped ({ s.core with well := s.core.well.store A.toNat xs }.seen (anyPoison ((s.b r).blks f))) s t 0 4 ∧
       StoredBytes s t A.toNat xs))) ∧
  (∀ (s : State) (d a : BReg) (g : GReg) (k : KReg) (m : MReg) (f : Bfmt),
   let A := (s.b a).blks (s.b a).tag
   let lsf (n : Nat) : Bool := ((s.m m).toList.getD n Acc.zero).lsf
   let w := (s.b a).tag.w
   let blk (j : Nat) : Blk := A.getD j Blk.zero
   let M (i : Nat) : Int := (blk (i / 16)).ms.getD (i % 16) 0
   let nan (i : Nat) : Prop := M i = -2 ^ (w - 1)
   let unit (i : Nat) : Int := ((blk (i / 16)).e : Int) - (blk (i / 16)).mu / 4 ^ (i % 16 / 4) % 4
   let num (i : Nat) : Int := M i * 2 ^ (unit i + 4).toNat
   let picks (n : Nat) : Prop :=
     ((∃ j < 4, (blk j).e = 255) → n % 16 = 0 ∧ (blk (n / 16)).e = 255 ∧ ∀ j < n / 16, (blk j).e ≠ 255) ∧
     ((∀ j < 4, (blk j).e ≠ 255) → (∃ i < 64, nan i) → nan n ∧ ∀ i < n, ¬ nan i) ∧
     ((∀ j < 4, (blk j).e ≠ 255) → (∀ i < 64, ¬ nan i) → (∀ i < 64, num i ≤ num n) ∧ ∀ i < n, num i < num n)
   (Owns s [a] [] → Runs (.bexp g a) s (fun t => ∃ x, WroteG (s.core.seen (anyPoison A)) s t g x 0 (s.pc + 4) ∧ SameBytes s t ∧
     (∀ j < 4, natBits x.toNat (8 * j) 8 = natBits (s.b a).hdr.toNat (16 * j + 8) 8) ∧ x.toNat < 2 ^ 32)) ∧
   (Owns s [a] [] → Runs (.bmaxi g a) s (fun t => ∃ n < 64, picks n ∧
     WroteG (s.core.seen (anyPoison A)) s t g (BitVec.ofNat 64 n) 0 (s.pc + 4) ∧ SameBytes s t)) ∧
   (Owns s [d] [] → Runs (.bclr d f) s (fun t => ∃ x, PutB s t d x false 0 ∧
     x.tag = f ∧ x.hdr = 0 ∧ x.mask = 0 ∧ ∀ i : Fin 16, x.pay[i] = 0)) ∧
   (Owns s [d, a] [] → Runs (.bmov d a) s (fun t => PutB s t d (s.b a) (anyPoison A) 0)) ∧
   (Owns s [] [m] → Runs (.blsf g m) s (fun t => ∃ x, PutG s t g x ∧ ∀ n < 64, x.getLsbD n = (decide (n < 16) && lsf n))) ∧
   (Owns s [] [m] → Runs (.blsft k m) s (fun t => ∃ x, PutK s.core s t k x 0 ∧
     ∀ i < 4, x.getLsbD i = (lsf (4 * i) || lsf (4 * i + 1) || lsf (4 * i + 2) || lsf (4 * i + 3)) ∧
       x.getLsbD (4 + i) = (lsf i || lsf (4 + i) || lsf (8 + i) || lsf (12 + i)))) ∧
   (Owns s [] [m] → Runs (.blsfc m) s (fun t => ∃ x, PutM s t m x false 0 ∧ ∀ n : Fin 16, x[n] = { (s.m m)[n] with lsf := false })))

/-- R157, R111, R152: BMMA takes one align_window step in each of the 16 elements, element 4i + j from block i of ba and block
j of bb under ba's tag and DPW.WIN; BMMZ the same from zeroed elements. After that either takes ARITH where a raised flag is enabled
(R106), else LSF with the tile and its elements in TRAPVAL, STEP 0, where a bit is discarded and DPW.LSFTRAP is set (R121).
R110 and R111 in plain arithmetic: a step of an element that meets neither poison nor a NaN leaves it at the exact sum of its
value and the 16 products where no bit is discarded, and else below that sum by less than 18 units of its last place; LSF is set
exactly where the two differ, the significand stays out of the guard bits, Wrec becomes WIN, and only a sum of magnitude 2^511 or
more can saturate, with EA 1023 and SAT. Poison and NaN change their flag alone. The blocks are any that
a line of element width w can hold. Values are in units of 2^-2000. -/
def Obligations.MatrixStep : Prop :=
  (∀ (s : State) (m : MReg) (a b : BReg),
   let f := (s.b a).tag
   let win := s.core.csr.dpw.extractLsb' 0 4
   let steps (i : Instr) (old : Nat → Acc) : Prop :=
     let r (n : Nat) := alignWindow f.w win (old n) (((s.b a).blks f).getD (n / 4) Blk.zero) (((s.b b).blks f).getD (n % 4) Blk.zero)
     let any (p : StepFx → Bool) : Bool := (List.range 16).any fun n => p (r n).2
     let fl := Flags.when (any StepFx.overflow) .of ||| Flags.when (any StepFx.lost) .ls
     let stepped (t : State) : Prop := ∃ x, PutM s t m x (any StepFx.seen) fl ∧ ∀ n : Fin 16, x[n] = (r n).1
     let lsf := s.core.csr.dpw.getLsbD 8 = true ∧ any StepFx.lost = true
     Owns s [a, b] [m] →
       (Quiet s fl → ¬ lsf → Runs i s stepped) ∧
       (¬ Quiet s fl → ∃ u, stepped u ∧ TrapsArith i s u fl) ∧
       (Quiet s fl → lsf → ∃ u, ∃ e : BitVec 16, stepped u ∧ (∀ n < 16, e.getLsbD n = (r n).2.lost) ∧
         exec i s = .next ((u.jump s.pc).trapAfter Code.lsf ((0#32) ++ (0#13) ++ m ++ e) 4))
   steps (.bmma m a b) (fun n => (s.m m).toList.getD n Acc.zero) ∧ steps (.bmmz m a b) (fun _ => Acc.zero)) ∧
  (∀ (w : Nat) (win : BitVec 4) (e : Acc) (A B : Blk), w ∈ [4, 8, 16] →
   A.e < 256 → B.e < 256 → (∀ x ∈ A.ms ++ B.ms, x.natAbs ≤ 2 ^ (w - 1)) →
   let r := alignWindow w win e A B
   let units (x p : Int) : Int := x * (2 ^ (p + 2000).toNat : Nat)
   let W : Int := 20 + 4 * win.toNat
   let nu (b : Blk) (k : Nat) : Int := b.mu / 4 ^ (k / 4) % 4
   let prod (k : Nat) : Int := units (A.ms.getD k 0 * B.ms.getD k 0) ((A.e : Int) + B.e - 256 - nu A k - nu B k - (2 * w - 2))
   let exact := units e.sig.toInt ((e.ea.toNat : Int) - 512 - (20 + 4 * e.win.toNat - 6)) + ((List.range 16).map prod).sum
   let last := (r.1.ea.toNat : Int) - 512 - (W - 6)
   let kept := units r.1.sig.toInt last
   let nan := e.nan = true ∨ ∃ x, x ∈ A.ms ++ B.ms ∧ x = -2 ^ (w - 1)
   let poison := e.poi = true ∨ A.e = 255 ∨ B.e = 255
   (poison → r = ({ e with poi := true }, ⟨true, false, false⟩)) ∧
   (¬ poison → nan → r = ({ e with nan := true }, ⟨false, false, false⟩)) ∧
   (¬ poison → ¬ nan → r.2.seen = false ∧ r.1.win = win ∧ r.1.nan = false ∧ r.1.poi = false ∧
     r.1.lsf = (e.lsf || r.2.lost) ∧ r.1.sat = (e.sat || r.2.overflow) ∧
     (r.2.overflow = false → kept ≤ exact ∧ exact < kept + 18 * units 1 last ∧ (r.2.lost = true ↔ kept ≠ exact) ∧
       -2 ^ (W - 5).toNat ≤ r.1.sig.toInt ∧ r.1.sig.toInt < 2 ^ (W - 5).toNat) ∧
     (exact.natAbs < 2 ^ 2511 → r.2.overflow = false) ∧
     (r.2.overflow = true → r.1.ea = 1023 ∧ r.1.sig.toInt = (if exact < 0 then -1 else 1) * (2 ^ (W - 1).toNat - 1))))

/-- R158 (with R78, R79, R105): block arithmetic. Each block of the result is formed under FMODE.RM from the 16 exact values,
or is the poison block where a source block is poison; the tag is ba's, the masks are joined or kept. ARITH follows where a raised
flag is enabled (R106). -/
def Obligations.BlockArithmetic : Prop := ∀ (s : State) (d a b : BReg) (x : GReg),
  let f := (s.b a).tag
  let A := (s.b a).blks f
  let B := (s.b b).blks f
  let pair (i : Instr) (op : FVal → FVal → FVal) : Prop :=
    let blk (j : Nat) : Blk × Flags :=
      if (A.getD j Blk.zero).isPoison || (B.getD j Blk.zero).isPoison then (Blk.poison, 0)
      else formBlock f.w s.rm (List.zipWith op (blkVals f.w (A.getD j Blk.zero)) (blkVals f.w (B.getD j Blk.zero)))
    let fl := (blk 0).2 ||| (blk 1).2 ||| (blk 2).2 ||| (blk 3).2
    Owns s [d, a, b] [] → Raises i s fl (fun t =>
      PutB s t d (BLine.ofBlks f [(blk 0).1, (blk 1).1, (blk 2).1, (blk 3).1] ((s.b a).mask ||| (s.b b).mask))
        (anyPoison A || anyPoison B) fl)
  let one (i : Instr) (op : FVal → FVal) : Prop :=
    let blk (j : Nat) : Blk × Flags :=
      if (A.getD j Blk.zero).isPoison then (Blk.poison, 0)
      else formBlock f.w s.rm ((blkVals f.w (A.getD j Blk.zero)).map op)
    let fl := (blk 0).2 ||| (blk 1).2 ||| (blk 2).2 ||| (blk 3).2
    Owns s [d, a] [] → Raises i s fl (fun t =>
      PutB s t d (BLine.ofBlks f [(blk 0).1, (blk 1).1, (blk 2).1, (blk 3).1] (s.b a).mask) (anyPoison A) fl)
  pair (.badd d a b) valAdd ∧ pair (.bsub d a b) valSub ∧ pair (.bmul d a b) valMul ∧ pair (.bmaxe d a b) valMax ∧
  one (.bscl d a x) (scaleVal (Max.max (-2000) (Min.min 2000 (s.g x).toInt))) ∧ one (.bnorm d a) id ∧
  (Owns s [d, a] [] → Runs (.bneg d a) s (fun t => PutB s t d (BLine.ofBlks f (A.map (negBlk f.w)) (s.b a).mask) (anyPoison A) 0))

/-- R74, R78 and R79 in plain arithmetic: the block formed from 16 values x under a mode. E is 0 where no value counts, 254 where one
is infinite, else floor(log2 amax) + 129 within 0 to 254, and one more where a magnitude does not fit under it; each quad takes
the largest micro code under which all four fit, 0 where it holds only zeros and NaNs; each mantissa is its value rounded in
those units and clamped; and each flag says what R79 says.
R97 to R100, R162, R163, R179 and R241 in plain arithmetic: what an MX element's code stands for under its scale code; the scale
code of 32 values, the code that each takes, which is its value rounded once to the element type and clamped, with the flags of R100; the
two blocks of a line; and a line or a block whose SHIFT is not 0, which moves E where it stays within 0 to 254 and is formed anew else. -/
def Obligations.BlockForms : Prop :=
  (∀ (f : Bfmt) (md : Mode) (xs : List FVal), xs.length = 16 →
   let w := f.w
   let lim : Int := 2 ^ (w - 1) - 1
   let x (i : Nat) : FVal := xs.getD i (.fin false 0 0)
   let unit (E c : Nat) : Int := (E : Int) - 128 - (w - 1 : Nat) - c
   let rnd (u : Int) (n : Bool) (m : Nat) (e : Int) : Int := (if n then -1 else 1) * (roundDyadic md n m (e - u)).1
   let fits (u : Int) (v : FVal) : Prop := (∀ n, v ≠ .inf n) ∧ ∀ n m e, v = .fin n m e → (roundDyadic md n m (e - u)).1 ≤ lim
   let counts (v : FVal) : Prop := (∃ n, v = .inf n) ∨ ∃ n m e, v = .fin n m e ∧ m ≠ 0
   let r := formBlock w md xs
   ∃ (E0 E : Nat) (nu : Nat → Nat) (M : Nat → Int),
     ((∀ i < 16, ¬ counts (x i)) → E0 = 0) ∧ ((∃ i < 16, ∃ n, x i = .inf n) → E0 = 254) ∧
     (∀ i < 16, ∀ n m e, x i = .fin n m e → m ≠ 0 → (∀ j < 16, ∀ n, x j ≠ .inf n) →
       (∀ j < 16, ∀ n' m' e', x j = .fin n' m' e' → m' ≠ 0 → (m'.log2 : Int) + e' ≤ m.log2 + e) →
       (E0 : Int) = Min.min 254 (Max.max 0 ((m.log2 : Int) + e + 129))) ∧
     (E0 < 254 ∧ ¬ (∀ i < 16, fits (unit E0 0) (x i)) → E = E0 + 1) ∧
     (¬ (E0 < 254 ∧ ¬ (∀ i < 16, fits (unit E0 0) (x i))) → E = E0) ∧
     (∀ q < 4, ((∀ k < 4, ¬ counts (x (4 * q + k))) → nu q = 0) ∧
       ((∃ k < 4, counts (x (4 * q + k))) → nu q ≤ 3 ∧ (nu q = 0 ∨ ∀ k < 4, fits (unit E (nu q)) (x (4 * q + k))) ∧
         ∀ c ≤ 3, nu q < c → ¬ ∀ k < 4, fits (unit E c) (x (4 * q + k)))) ∧
     (∀ i < 16, (∀ n fr sg, x i = .nan n fr sg → M i = -2 ^ (w - 1)) ∧ (∀ n, x i = .inf n → M i = if n then -lim else lim) ∧
       ∀ n m e, x i = .fin n m e → M i = Max.max (-lim) (Min.min lim (rnd (unit E (nu (i / 4))) n m e))) ∧
     ((∀ i < 16, M i = 0) → r.1 = ⟨0, 0, List.replicate 16 0⟩) ∧
     ((∃ i < 16, M i ≠ 0) → r.1 = ⟨E, nu 0 + 4 * nu 1 + 16 * nu 2 + 64 * nu 3, (List.range 16).map M⟩) ∧
     (let cut (i : Nat) : Prop := (∃ n, x i = .inf n) ∨ ∃ n m e, x i = .fin n m e ∧ M i ≠ rnd (unit E (nu (i / 4))) n m e
      let lost (i : Nat) : Prop := ∃ n m e, x i = .fin n m e ∧ (roundDyadic md n m (e - unit E (nu (i / 4)))).2 = true
      (r.2.getLsbD 0 = true ↔ ∃ i < 16, cut i ∨ lost i) ∧ (r.2.getLsbD 2 = true ↔ ∃ i < 16, cut i) ∧
      (r.2.getLsbD 1 = true ↔ ∃ i < 16, ∃ n m e, x i = .fin n m e ∧ m ≠ 0 ∧ M i = 0) ∧
      (r.2.getLsbD 4 = true ↔ ∃ i < 16, ∃ n fr, x i = .nan n fr true) ∧ r.2 &&& 0x68 = 0)) ∧
  (∀ (ty : MxTy) (md : Mode) (c x : Nat) (xs : List FVal) (bs : List Blk) (f : Bfmt) (shift : Int),
   let eb : Nat := match ty with | .fp8e4 => 4 | .fp8e5 => 5 | .fp6e2 => 2 | .fp6e3 => 3 | .fp4 => 2 | .int8 => 0
   let fb : Nat := match ty with | .fp8e4 => 3 | .fp8e5 => 2 | .fp6e2 => 3 | .fp6e3 => 2 | .fp4 => 1 | .int8 => 0
   let bias : Int := match ty with | .fp8e4 => 7 | .fp8e5 => 15 | .fp6e2 => 1 | .fp6e3 => 3 | .fp4 => 1 | .int8 => 0
   let width : Nat := match ty with | .fp8e4 | .fp8e5 | .int8 => 8 | .fp6e2 | .fp6e3 => 6 | .fp4 => 4
   let emax : Int := match ty with | .fp8e4 => 8 | .fp8e5 => 15 | .fp6e2 => 2 | .fp6e3 => 4 | .fp4 => 2 | .int8 => 0
   -- the largest element in units of 2 ^ (1 - bias - fb)
   let largest : Nat := match ty with | .fp8e4 => 448 * 2 ^ 9 | .fp8e5 => 57344 * 2 ^ 16 | .fp6e2 => 60 | .fp6e3 => 28 * 2 ^ 4 | .fp4 => 12 | .int8 => 127
   let nan : Nat := match ty with | .fp8e4 => 0x7F | .fp8e5 => 0x7E | _ => 0
   let s := x / 2 ^ (eb + fb) % 2 = 1
   let e := x / 2 ^ fb % 2 ^ eb
   let fr := x % 2 ^ fb
   -- elements read
   (mxElem ty 255 x = .nan false 0 false) ∧
   (c ≠ 255 → ty = .int8 → x < 256 → mxElem ty c x =
     if x < 128 then .fin false x (-6 + (c - 127)) else .fin true (256 - x) (-6 + (c - 127))) ∧
   (c ≠ 255 → ty ≠ .int8 → x < 2 ^ width →
     let special := (ty = .fp8e4 ∧ e = 15 ∧ fr = 7) ∨ (ty = .fp8e5 ∧ e = 31)
     (special → ty = .fp8e5 → fr = 0 → mxElem ty c x = .inf (decide s)) ∧
     (special → (ty = .fp8e4 ∨ fr ≠ 0) → ∃ n g q, mxElem ty c x = .nan n g q) ∧
     (¬ special → mxElem ty c x = .fin (decide s) (if e = 0 then fr else fr + 2 ^ fb) ((if e = 0 then 1 else (e : Int)) - bias - fb + (c - 127)))) ∧
   (∀ packed c0 c1, (mxLine ty packed c0 c1).length = 64 ∧ ∀ k < 64, (mxLine ty packed c0 c1).getD k (.inf false) =
     mxElem ty (if k < 32 then c0 else c1) (natBits packed (width * k) width)) ∧
   -- elements written
   (let r := mxForm ty md xs
    let value (i : Nat) : FVal := xs.getD i (.fin false 0 0)
    let odd := ∃ v ∈ xs, ∀ n m e, v ≠ .fin n m e
    (xs.length = 32 → odd → r = (255, List.replicate 32 nan, .nv)) ∧
    (¬ odd → (∀ v ∈ xs, ∃ n e, v = .fin n 0 e) → r.1 = 127) ∧
    (¬ odd → ∀ n m e, .fin n m e ∈ xs → m ≠ 0 → (∀ n' m' e', .fin n' m' e' ∈ xs → m' ≠ 0 → (m'.log2 : Int) + e' ≤ m.log2 + e) →
      (r.1 : Int) = Min.min 254 (Max.max 0 ((m.log2 : Int) + e - emax + 127))) ∧
    (xs.length = 32 → ¬ odd → ∀ i < 32, ∀ n m e, value i = .fin n m e →
      let y := e + 127 - r.1
      let top := (m.log2 : Int) + y
      let place : Int := if ty = .int8 then -6 else (if top < 1 - bias then 1 - bias else top) - fb
      let q := (roundDyadic md n m (y - place)).1
      let units : Nat := if ty = .int8 then q else q * 2 ^ (place - (1 - bias - fb)).toNat
      let code := r.2.1.getD i 0
      r.2.1.length = 32 ∧ code < 2 ^ width ∧
      (if ty = .int8 then code = if n = true ∧ q ≠ 0 then 256 - Min.min 127 q else Min.min 127 q
       else ∃ m' e', mxElem ty 127 code = .fin n m' e' ∧ m' * 2 ^ (e' - (1 - bias - fb)).toNat = Min.min largest units ∧ 1 - bias - fb ≤ e')) ∧
    (xs.length = 32 → ¬ odd →
      let at' (p : Bool → Nat → Int → Prop) : Prop := ∃ i < 32, ∃ n m e, value i = .fin n m e ∧ p n m (e + 127 - r.1)
      let place (m : Nat) (y : Int) : Int := if ty = .int8 then -6 else (if (m.log2 : Int) + y < 1 - bias then 1 - bias else (m.log2 : Int) + y) - fb
      let out (n : Bool) (m : Nat) (y : Int) : Prop := m ≠ 0 ∧ largest <
        (roundDyadic md n m (y - place m y)).1 * if ty = .int8 then 1 else 2 ^ (place m y - (1 - bias - fb)).toNat
      let lost (n : Bool) (m : Nat) (y : Int) : Prop := m ≠ 0 ∧ (roundDyadic md n m (y - place m y)).2 = true
      let tiny (n : Bool) (m : Nat) (y : Int) : Prop := ty ≠ .int8 ∧ m ≠ 0 ∧ (m.log2 : Int) + y < 1 - bias ∧
        ¬ ((m.log2 : Int) + y + 1 = 1 - bias ∧ (roundDyadic md n m (fb - m.log2)).1 = 2 ^ (fb + 1))
      (r.2.2.getLsbD 0 = true ↔ at' fun n m y => out n m y ∨ lost n m y) ∧ (r.2.2.getLsbD 2 = true ↔ r.1 = 254 ∧ at' out) ∧
      (r.2.2.getLsbD 1 = true ↔ at' fun n m y => tiny n m y ∧ lost n m y ∧ ¬ out n m y) ∧ r.2.2 &&& 0x78 = 0)) ∧
   (bs.length = 4 → let r := mxOf ty f.w md shift bs
    let value (k : Nat) : FVal :=
      let b := bs.getD (k / 16) Blk.zero
      if b.e = 255 then .nan false 0 false else match elemVal f.w b (k % 16) with | .fin n m e => .fin n m (e + shift) | v => v
    let lo := mxForm ty md ((List.range 32).map value)
    let hi := mxForm ty md ((List.range 32).map fun k => value (32 + k))
    r.1 = lo.1 ∧ r.2.1 = hi.1 ∧ r.2.2.2 = lo.2.2 ||| hi.2.2 ∧ r.2.2.1 < 2 ^ (64 * width) ∧
    ∀ k < 64, natBits r.2.2.1 (width * k) width = if k < 32 then lo.2.1.getD k 0 else hi.2.1.getD (k - 32) 0) ∧
   -- SHIFT of a line
   (∀ b : Blk, let E : Int := (b.e : Int) + shift
     ((b.e = 255 ∨ shift = 0) → shiftBlk f.w md shift b = (b, 0)) ∧
     (b.e ≠ 255 → shift ≠ 0 → 0 ≤ E → E ≤ 254 → shiftBlk f.w md shift b = ({ b with e := E.toNat }, 0)) ∧
     (b.e ≠ 255 → shift ≠ 0 → (E < 0 ∨ 254 < E) → shiftBlk f.w md shift b = formBlock f.w md ((List.range 16).map fun i =>
       match elemVal f.w b i with | .fin n m e => .fin n m (e + shift) | v => v))) ∧
   (let rs := bs.map (shiftBlk f.w md (-shift))
    lineOut f md shift bs = (hdrOf (rs.map (·.1)) :: payOf f (rs.map (·.1)), (rs.map (·.2)).foldl (fun a b => a ||| b) 0)))

/-- R159 to R163, R105, R118 and R119: conversions between lines, tiles, v registers and MX blocks. BDEC, BMRD and MXOUT give
poison as NaN with NV where POISONCTL.TRAP is 0, and take POISON and write nothing where it is 1. ARITH follows where a raised flag
is enabled (R106). BMSV and BMRS raise MISALIGN where gx is no multiple of 16, and WELLRANGE where the 256 bytes leave the well, with gx in
TRAPVAL; BMRS raises UE_WELL on an uncorrectable word, whose TRAPVAL is a free value (log entry 5: R161 states none). Their words are
separate accesses, made in one step where nothing divides it (R156; log entry 53). -/
def Obligations.BlockConversions : Prop := ∀ (s : State) (d b : BReg) (m : MReg) (g : GReg) (hi : Bool) (f : Bfmt) (v : BitVec 3) (j : BitVec 2) (ty : MxTy)
    (q : Part) (mask : BitVec 32) (rest : List (BitVec 32)) (pois : Bool),
  let lane (k : Nat) : Nat := velem 32 (s.v (BitVec.ofNat 4 (k / 8 + if hi then 8 else 0))) (k % 8)
  let B := (s.b b).blks (s.b b).tag
  let T := s.m m
  let trap := s.core.csr.poisonCtl.getLsbD 0
  (let r := formLine f.w s.rm ((List.range 64).map fun k => FFmt.f32.decode (lane k))
   Owns s [d] [] → Raises (.benc d hi f) s r.2 (fun t => PutB s t d (BLine.ofBlks f r.1 0) false r.2)) ∧
  (let fl := Flags.when (anyPoison B) .nv
   Owns s [b] [] → (anyPoison B = true → trap = false) → Raises (.bdec hi b) s fl (fun t =>
     Own (s.core.seen (anyPoison B)) s t ∧ SameBytes s t ∧
     t.st = { s.st with pc := s.pc + 4, v := t.st.v, fflags := s.st.fflags ||| zext fl } ∧
     (∀ r, (r.getLsbD 3 ≠ hi → t.v r = s.v r)) ∧
     ∀ k < 64, let y := velem 32 (t.v (BitVec.ofNat 4 (k / 8 + if hi then 8 else 0))) (k % 8)
       let w := (s.b b).tag.w
       let A := B.getD (k / 16) Blk.zero
       let M : Int := A.ms.getD (k % 16) 0
       (A.e = 255 ∨ M = -2 ^ (w - 1) → y = 0x7FC00000) ∧
       (A.e ≠ 255 → M ≠ -2 ^ (w - 1) → ∃ n x e, FFmt.f32.decode y = .fin n x e ∧ (n = true ↔ M < 0) ∧
         (x * 2 ^ (e + 149).toNat : Nat) = M.natAbs * 2 ^ ((A.e : Int) - 128 - (w - 1 : Nat) - A.mu / 4 ^ (k % 16 / 4) % 4 + 149).toNat))) ∧
  (∀ p, Owns s [b] [] → trap = true → firstPoison B = some p →
     exec (.bdec hi b) s = .next (({ s with core := s.core.seen true }).trap Code.poison (BitVec.ofNat 64 p) 4) ∧
     exec (.mxout v ty g b) s = .next (({ s with core := s.core.seen true }).trap Code.poison (BitVec.ofNat 64 p) 4)) ∧
  (let rs : List (Nat × Flags) := T.toList.map fun a => if a.poi then (0x7FC00000, .nv) else if a.nan then (0x7FC00000, 0) else
     FFmt.f32.round (Mode.ofCode (s.core.csr.dpw.extractLsb' 4 3)) false (decide (a.sig.toInt < 0)) a.sig.toInt.natAbs
       ((a.ea.toNat : Int) - 512 - ((20 + 4 * a.win.toNat : Nat) - 6 : Int))
   let fl := rs.foldl (fun x r => x ||| r.2) 0
   Owns s [] [m] → (T.firstPoison.isSome = true → trap = false) → Raises (.bmrd v m) s fl (fun t =>
     Own (s.core.seen T.firstPoison.isSome) s t ∧ SameBytes s t ∧
     t.st = { s.st with pc := s.pc + 4, v := t.st.v, fflags := s.st.fflags ||| zext fl } ∧
     (∀ r, r.extractLsb' 1 3 ≠ v → t.v r = s.v r) ∧
     ∀ e < 16, velem 32 (t.v (v ++ BitVec.ofNat 1 (e / 8))) (e % 8) = (rs.getD e (0, 0)).1)) ∧
  (∀ e, Owns s [] [m] → trap = true → T.firstPoison = some e →
     exec (.bmrd v m) s = .next (({ s with core := s.core.seen true }).trap Code.poison (BitVec.ofNat 64 (256 + e)) 4)) ∧
  (let r := if T.firstPoison.isSome then (Blk.poison, 0)
     else formBlock f.w (Mode.ofCode (s.core.csr.dpw.extractLsb' 4 3)) (T.toList.map accVal)
   let same := decide ((s.b d).tag = f)
   Owns s [d] [m] → Raises (.bmrb d m j f) s r.2 (fun t => ∃ x, PutB s t d x T.firstPoison.isSome r.2 ∧ x.tag = f ∧
     x = BLine.ofBlks f ((if same then (s.b d).blks f else List.replicate 4 Blk.zero).set j.toNat r.1) x.mask ∧
     ∀ n < 64, x.mask.getLsbD n = if n / 16 = j.toNat then ((T.toList.getD (n % 16) Acc.zero).lsf) else same && (s.b d).mask.getLsbD n)) ∧
  (∀ i, i = .bmsv m g ∨ i = .bmrs m g → Owns s [] [m] → ((s.g g).toNat % 16 ≠ 0 → exec i s = .next (s.trap 0x02 (s.g g) 4)) ∧
     ((s.g g).toNat % 16 = 0 → 393216 < (s.g g).toNat + 256 → exec i s = .next (s.trap 0x03 (s.g g) 4))) ∧
  (Owns s [] [m] → (s.g g).toNat % 16 = 0 → (s.g g).toNat + 256 ≤ 393216 → s.core.well.badIn (s.g g).toNat 256 = true →
     ∃ val, exec (.bmrs m g) s = .next ({ s with free := s.free + 1 }.trap 0x0C val 4)) ∧
  (let part (data : Nat → List Byte) (fin : PartEnd) : Part :=
     { elems := (List.range 32).map fun i => ⟨(s.g g).toNat + 8 * i, 8, data i⟩, got := List.replicate 32 none, fin := fin }
   Owns s [] [m] → s.split = mask :: rest → (s.g g).toNat % 16 = 0 → (s.g g).toNat + 256 ≤ 393216 →
     exec (.bmsv m g) s = .next ({ s with split := rest }.partStep
       (part (fun i => leBytes 8 ((T.toList.flatMap accWords).getD i 0).toNat) (.tileStore T.firstPoison.isSome)) mask) ∧
     (s.core.well.badIn (s.g g).toNat 256 = false →
       exec (.bmrs m g) s = .next ({ s with split := rest }.partStep (part (fun _ => []) (.tile m)) mask))) ∧
  (q.fin = .tile m → ∃ x, PutM s (s.partEnd q) m x x.firstPoison.isSome 0 ∧ ∀ n : Fin 16,
     x[n] = accOfWords (BitVec.ofNat 64 ((q.got.getD (2 * n.val) none).getD 0)) (BitVec.ofNat 64 ((q.got.getD (2 * n.val + 1) none).getD 0))) ∧
  (q.fin = .tileStore pois → Stepped (s.core.seen pois) s (s.partEnd q) 0 4 ∧ SameBytes s (s.partEnd q)) ∧
  (Owns s [] [m] → s.core.memWf = true → (s.g g).toNat % 16 = 0 → (s.g g).toNat + 256 ≤ 393216 → s.split = [] →
     Runs (.bmsv m g) s (fun t =>
       let xs := T.toList.flatMap fun x => (accWords x).flatMap fun y => leBytes 8 y.toNat
       Stepped ({ s.core with well := s.core.well.store (s.g g).toNat xs }.seen T.firstPoison.isSome) s t 0 4 ∧
       StoredBytes s t (s.g g).toNat xs)) ∧
  (Owns s [] [m] → Accessible s (s.g g) 256 16 → s.split = [] → Runs (.bmrs m g) s (fun t => ∃ x w,
     Stepped ({ s.core with m := s.core.m.set m.toNat x, well := w }.seen x.firstPoison.isSome) s t 0 4 ∧
     w = s.core.well.touch (s.g g).toNat 256 ∧ SameBytes s t ∧
     ∀ n : Fin 16, x[n] = accOfWords (BitVec.ofNat 64 (s.number ((s.g g).toNat + 16 * n.val) 8))
       (BitVec.ofNat 64 (s.number ((s.g g).toNat + 16 * n.val + 8) 8)))) ∧
  (let packed := (s.v (v ++ 0#1)).toNat + (s.v (v ++ 1#1)).toNat * 2 ^ 256
   let r := formLine f.w s.rm (mxLine ty packed ((s.g g).toNat % 256) ((s.g g).toNat / 256 % 256))
   Owns s [d] [] → Raises (.mxin d ty v g f) s r.2 (fun t => PutB s t d (BLine.ofBlks f r.1 0) false r.2)) ∧
  (let r := mxOf ty (s.b b).tag.w s.rm 0 B
   Owns s [b] [] → (anyPoison B = true → trap = false) → Raises (.mxout v ty g b) s r.2.2.2 (fun t =>
     Own (s.core.seen (anyPoison B)) s t ∧ SameBytes s t ∧
     t.st = { s.st with pc := s.pc + 4, v := t.st.v, g := t.st.g, fflags := s.st.fflags ||| zext r.2.2.2 } ∧
     (∀ x, x.extractLsb' 1 3 ≠ v → t.v x = s.v x) ∧
     (t.v (v ++ 0#1)).toNat + (t.v (v ++ 1#1)).toNat * 2 ^ 256 = r.2.2.1 ∧
     ∀ x, t.g x = if x = g ∧ g ≠ 0 then BitVec.ofNat 64 (r.1 + 256 * r.2.1) else s.g x))

/-- R165 and R166: BMLOOP where no other strand has a loop under way: it reads its operands, WIN and LSFTRAP at its issue (R107,
R117), and a loop that runs goes on with what it read then, whatever its strand's registers, the owners, DPW or the words in the
well hold by now. With gN = 0, or with every K step done, the walk ends: MPROG.ACT clears, the pc passes the two words, and the
results of all its steps enter the signature at this one retirement (R361). With a step to do whose lines lie in the well and are
readable, one step is done: the A line and the B lines are staged, each tile takes its step, and MPROG.DONE counts it (the model
runs one step of the walk at each issue, as the spec lets a BMLOOP be pre-empted between steps: log entry 30). The first line of the step that
leaves the well or holds an uncorrectable word raises WELLRANGE or UE_WELL with its address, and nothing of the step is written; an
operand that is not a multiple of 8 raises MISALIGN at the issue. A step that raises a flag enabled to trap takes ARITH after its
work (R106), else LSF where a bit is discarded and LSFTRAP was set, with the step, the first tile and its elements in TRAPVAL
(R121); the loop resumes with its next step, or past itself where this was the last. -/
def Obligations.BlockLoop : Prop := ∀ (s : State) (f0 : MReg) (s0 : BReg) (a b n : GReg) (t : Tiles) (f : Bfmt) (sa sb : BitVec 16),
  let i : Instr := .bmloop f0 s0 a b n t f sa sb
  let c := s.core
  let pcw := s.pc.extractLsb' 2 17
  let here := c.csr.loopAct = true ∧ c.csr.loopStr = s.cur ∧ (c.csr.loopPcw.setWidth 64 : Word) <<< 2 = s.pc
  let goes (r : LoopRun) (done : Nat) : Prop :=
    let bs := (List.range (r.tiles.count + 1)).map fun k => r.s0 + BitVec.ofNat 4 k
    let ms := (List.range r.tiles.count).map fun k => r.f0 + BitVec.ofNat 3 k
    let line := 8 * (r.fmt.n + 1)
    let Al := r.pa + 8 * r.sa.toNat * done
    let Bl (k : Nat) := r.pb + 8 * r.sb.toNat * done + line * k
    let readable (x : Nat) : Prop := x + line ≤ 393216 ∧ c.well.badIn x line = false
    (r.n ≤ done → Runs i s (fun u =>
      Own { c with loop := none, csr := { c.csr with mprog := mprogWord false s.cur pcw (BitVec.ofNat 32 done) } } s u ∧
      u.st = { s.st with pc := s.pc + 8, late := [] } ∧ u.core.check = (c.sign s.st.late).retire.check ∧ SameBytes s u)) ∧
    (done < r.n → readable Al → (∀ k < r.tiles.count, readable (Bl k)) →
      let last := done + 1 ≥ r.n
      let A := BLine.ofWords r.fmt (c.well.words Al (r.fmt.n + 1))
      let B (k : Nat) := BLine.ofWords r.fmt (c.well.words (Bl k) (r.fmt.n + 1))
      let q (k : Nat) := stepTile r.fmt.w r.win (s.m (r.f0 + BitVec.ofNat 3 k)) (A.blks r.fmt) ((B k).blks r.fmt)
      let fl := ((List.range r.tiles.count).map fun k => (q k).flags).foldl (fun x y => x ||| y) 0
      let late := s.st.late ++ A.bytes ++ ((List.range r.tiles.count).flatMap fun k => (B k).bytes) ++
        (List.range r.tiles.count).flatMap fun k => Tile.bytes (q k).tile
      let after (u : State) : Prop :=
        SameBytes s u ∧ u.core.csr.mprog = mprogWord (!decide last) s.cur pcw (BitVec.ofNat 32 (done + 1)) ∧
        (u.core.loop = if last then none else some r) ∧
        u.b r.s0 = A ∧ (∀ k < r.tiles.count, u.b (r.s0 + BitVec.ofNat 4 (k + 1)) = B k) ∧ (∀ x, x ∉ bs → u.b x = s.b x) ∧
        (∀ k < r.tiles.count, u.m (r.f0 + BitVec.ofNat 3 k) = (q k).tile) ∧ (∀ x, x ∉ ms → u.m x = s.m x) ∧
        u.core.csr = { c.csr with
          mprog := u.core.csr.mprog, poisonCtl := u.core.csr.poisonCtl
          retired := if last then c.csr.retired + 1 else c.csr.retired } ∧
        (u.core.check = if last then (c.sign late).retire.check else c.check) ∧
        (∀ x, x ≠ s.cur → u.core.strand x = c.strand x) ∧ u.core.chans = c.chans ∧ u.core.router = c.router ∧
        u.core.far = c.far ∧ u.others = s.others ∧ u.agenda = s.agenda ∧ u.pumps = s.pumps ∧ u.cis = s.cis ∧ u.sup = s.sup ∧
        u.st = { s.st with
          pc := if last then s.pc + 8 else s.pc, fflags := s.st.fflags ||| zext fl, late := if last then [] else late }
      let traps (code : BitVec 8) (val : Word) : Prop := ∃ u, after u ∧
        exec i s = .next (if last then (u.jump s.pc).trapAfter code val 8 else u.trap code val 8)
      let lost := r.lsf = true ∧ ∃ k < r.tiles.count, (q k).lost ≠ 0
      (Quiet s fl → ¬ lost → Runs i s after) ∧ (¬ Quiet s fl → traps 0x0F (zext fl)) ∧
      (∀ k < r.tiles.count, Quiet s fl → r.lsf = true → (q k).lost ≠ 0 → (∀ j < k, (q j).lost = 0) →
        traps 0x10 (BitVec.ofNat 32 done ++ (0#13) ++ (r.f0 + BitVec.ofNat 3 k) ++ (q k).lost))) ∧
    (∀ x pre post, done < r.n → Al :: (List.range r.tiles.count).map Bl = pre ++ x :: post → (∀ y ∈ pre, readable y) → ¬ readable x →
      exec i s = .next (({ s with core := { c with loop := some r, csr := { c.csr with
        mprog := mprogWord true s.cur pcw (BitVec.ofNat 32 done) } } }).trap (if 393216 < x + line then 0x03 else 0x0C) (BitVec.ofNat 64 x) 8))
  (∀ r, here → c.loop = some r → goes r c.csr.loopDone) ∧
  (i.wellFormed = true → ¬ (here ∧ c.loop.isSome = true) → (c.csr.loopAct = true → c.csr.loopStr = s.cur) →
    Owns s ((List.range (t.count + 1)).map fun k => s0 + BitVec.ofNat 4 k) ((List.range t.count).map fun k => f0 + BitVec.ofNat 3 k) →
    ((s.g a).toNat % 8 ≠ 0 → exec i s = .next (s.trap 0x02 (s.g a) 8)) ∧
    ((s.g a).toNat % 8 = 0 → (s.g b).toNat % 8 ≠ 0 → exec i s = .next (s.trap 0x02 (s.g b) 8)) ∧
    ((s.g a).toNat % 8 = 0 → (s.g b).toNat % 8 = 0 →
    let r : LoopRun := ⟨f0, s0, t, f, sa, sb, c.csr.dpw.extractLsb' 0 4, c.csr.dpw.getLsbD 8, (s.g n).toNat % 2 ^ 32, (s.g a).toNat, (s.g b).toNat⟩
    (here → goes r c.csr.loopDone) ∧ (¬ here → goes r 0))) ∧
  (c.csr.loopAct = true → c.csr.loopStr ≠ s.cur → exec i s = .next (s.setSt fun st => st.setLive (.wait .loop)))

/-! ## Control and coordinates -/

/-- R282: the conditional branches. Nothing but the pc changes.
R283: DBNZ decrements g[a] modulo 2^64 and branches when the new value is not zero; with an a field of 0, or a nonzero b
field, it is no instruction.
R284: JAL and JALR; the target of JALR is formed before the link is written, and keeps its low bits. A write to g0 is
discarded. -/
def Obligations.Branches : Prop :=
  (∀ (s : State) (a b : GReg) (disp : BitVec 16),
   let goes (i : Instr) (taken : Bool) : Prop :=
     Runs i s (fun t => Goes s t (if taken then s.pc + disp.signExtend 64 * 4 else s.pc + 4))
   goes (.beq a b disp) (decide (s.g a = s.g b)) ∧ goes (.bne a b disp) (decide (s.g a ≠ s.g b)) ∧
   goes (.blt a b disp) (decide ((s.g a).toInt < (s.g b).toInt)) ∧
   goes (.bge a b disp) (decide ((s.g a).toInt ≥ (s.g b).toInt)) ∧
   goes (.bltn a b disp) (decide ((s.g a).toNat < (s.g b).toNat)) ∧
   goes (.bgen a b disp) (decide ((s.g a).toNat ≥ (s.g b).toNat))) ∧
  (∀ (s : State) (a : GReg) (disp : BitVec 16) (w : IWord),
   Runs (.dbnz a disp) s (fun t => SameBytes s t ∧
     WroteG s.core s t a (s.g a - 1) 0 (if s.g a - 1 ≠ 0 then s.pc + disp.signExtend 64 * 4 else s.pc + 4)) ∧
   (w.extractLsb' 26 6 = 0x12 → (w.extractLsb' 21 5 = 0 ∨ w.extractLsb' 16 5 ≠ 0) → ∀ w1 i, decode w w1 ≠ .ok i)) ∧
  (∀ (s : State) (d a : GReg) (disp : BitVec 26) (imm : BitVec 16),
   Runs (.jal disp) s (fun t => WroteG s.core s t 1 (s.pc + 4) 0 (s.pc + disp.signExtend 64 * 4) ∧ SameBytes s t) ∧
   Runs (.jalr d a imm) s (fun t => WroteG s.core s t d (s.pc + 4) 0 (s.g a + imm.signExtend 64) ∧ SameBytes s t))

/-- R286 and R287: the coordinate instructions, on a core whose rectangle's dimensions fit the name's fields (as R10 and R16
make them): their results, and COORD with its TRAPVAL where an operand fails its check or a position leaves the rectangle. -/
def Obligations.Coordinates : Prop := ∀ (s : State) (d a b : GReg),
  let id := s.core.ident
  let own : BitVec 26 := id.name
  let org : BitVec 26 := s.core.csr.fieldOrg.extractLsb' 0 26
  let x : BitVec 26 := (s.g a).extractLsb' 0 26
  let y : BitVec 26 := (s.g b).extractLsb' 0 26
  let rect (n : BitVec 26) : Nat := natBits n.toNat 20 6
  let row (n : BitVec 26) : Int := natBits n.toNat 10 10
  let col (n : BitVec 26) : Int := natBits n.toNat 0 10
  let inside (r c : Int) : Prop := 0 ≤ r ∧ r < id.rrows ∧ 0 ≤ c ∧ c < id.rcols
  let ok (n : BitVec 26) : Prop := rect n = rect own ∧ inside (row n) (col n)
  let name (r c : Int) : Word := BitVec.ofNat 64 (rect own * 2 ^ 20 + r.toNat * 2 ^ 10 + c.toNat)
  let left (i : Instr) (r c : Int) : Prop := exec i s = .next (s.trap 0x05 ((0#2) ++ BitVec.ofInt 30 r ++ (0#2) ++ BitVec.ofInt 30 c) 4)
  let failed (i : Instr) (which : BitVec 1) (n : BitVec 26) : Prop := exec i s = .next (s.trap 0x05 (1#1 ++ which ++ (0#36) ++ n) 4)
  let place (i : Instr) (r c : Int) : Prop :=
    (inside r c → Runs i s (fun t => PutG s t d (name r c))) ∧ (¬ inside r c → left i r c)
  id.rrows ≤ 1024 → id.rcols ≤ 1024 →
    place (.cmk d a b) (row org + (s.g a).toInt) (col org + (s.g b).toInt) ∧
    (ok x → Runs (.cgx d a) s (fun t => PutG s t d (BitVec.ofInt 64 (col x - col org)))) ∧
    (¬ ok x → failed (.cgx d a) 0 x) ∧
    (ok x → Runs (.cgy d a) s (fun t => PutG s t d (BitVec.ofInt 64 (row x - row org)))) ∧
    (¬ ok x → failed (.cgy d a) 0 x) ∧
    Runs (.cgr d a) s (fun t => PutG s t d (BitVec.ofNat 64 (rect x))) ∧
    (ok x → place (.cadd d a b) (row x + ((s.g b).extractLsb' 32 32).toInt) (col x + ((s.g b).extractLsb' 0 32).toInt)) ∧
    (¬ ok x → failed (.cadd d a b) 0 x) ∧
    (ok x → ok y → Runs (.cdist d a b) s (fun t =>
      PutG s t d (BitVec.ofNat 64 ((row x - row y).natAbs + (col x - col y).natAbs)))) ∧
    (¬ ok x → failed (.cdist d a b) 0 x) ∧ (ok x → ¬ ok y → failed (.cdist d a b) 1 y)

/-! ## Strands -/

/-- R289, R258, R299, R292, R262 and R297: SPAWN with its faults, its choice and the strand it creates; STID; YIELD; WAKE. The
acting strand exists, as it does whenever it issues. In a copy made for `.triple strand n` SPAWN answers as in copy 0 and creates no
other strand (R345; that it answers so is the model's choice, log entry 51).
R298, R267 and R266 item 2: SLOTW writes its entry of the next round's table inside a barrier window; elsewhere, and where the
table would leave the handler share too little, it raises SLOTW with its TRAPVAL. -/
def Obligations.StrandsMade : Prop :=
  (∀ (s : State) (d a : GReg),
   let c := s.core
   let e := s.g a
   let fit (n : StrandNo) : Prop := (c.strand n).state = .absent ∧ c.isHandler n = false
   let n3 : StrandNo := e.extractLsb' 0 3
   let woken (x : Strand) : Prop :=
     ((c.strand n3).state = .absent → x = c.strand n3) ∧
     (∀ w, (c.strand n3).liveState = some (.wait w) → ((∃ k, w = .sleep k) ∨ w = .idle) →
       x = { (c.strand n3).setLive (.wait (.finished 4)) with sleepLeft := if w = .idle then (c.strand n3).sleepLeft else none }) ∧
     (∀ l, (c.strand n3).liveState = some l → (∀ k, l ≠ .wait (.sleep k)) → l ≠ .wait .idle →
       x = { c.strand n3 with wakePending := true })
   (e.toNat % 4 ≠ 0 → exec (.spawn d a) s = .next (s.trap 0x02 e 4)) ∧
   (e.toNat % 4 = 0 → 393212 < e.toNat → exec (.spawn d a) s = .next (s.trap 0x03 e 4)) ∧
   (e.toNat % 4 = 0 → e.toNat ≤ 393212 → (∀ n, ¬ fit n) →
     Runs (.spawn d a) s (fun t => PutG s t d 0xFFFFFFFFFFFFFFFF)) ∧
   (∀ n, e.toNat % 4 = 0 → e.toNat ≤ 393212 → s.st.state ≠ .absent → fit n → (∀ m, m.toNat < n.toNat → ¬ fit m) →
     Runs (.spawn d a) s (fun t =>
       let u := s.mapCore fun c => c.setStrand n fun x =>
         if c.issue.allowed.getLsbD n.toNat then
           { Strand.blank with pc := e, entry := e, cause := 1, state := if c.stopped then .stop .run else .live .run }
         else { x with entry := e }
       PutG u t d (BitVec.ofNat 64 n.toNat))) ∧
   Runs (.stid d) s (fun t => PutG s t d (BitVec.ofNat 64
     (s.cur.toNat + (if c.isHandler s.cur then 8 else 0) + s.st.cause.toNat * 256 + s.st.wch.toNat * 2048))) ∧
   Runs .yield s (fun t => Own s.core s t ∧ t.st = { s.st with pc := s.pc + 4, yielded := true } ∧ SameBytes s t) ∧
   Runs (.wake a) s (fun t => ∃ x, woken x ∧
     Passed ((s.mapCore fun c => c.setStrand n3 fun _ => x)).core (s.mapCore fun c => c.setStrand n3 fun _ => x) t)) ∧
  (∀ (s : State) (a b : GReg),
   let i : BitVec 5 := (s.g a).extractLsb' 0 5
   let e : BitVec 4 := (s.g b).extractLsb' 0 4
   let t' := s.core.issue.next.set i.toNat e
   let window := ∃ n : StrandNo, (s.core.strand n).state ≠ .absent ∧ (s.core.strand n).inBarr = true
   let fits := (t'.toList.filter fun x => x.getLsbD 3 && !s.core.isHandler (x.extractLsb' 0 3)).length +
     (s.core.issue.hmin.extractLsb' 0 6).toNat ≤ 32
   let refused (share : BitVec 1) : Prop :=
     exec (.slotw a b) s = .next (s.trap 0x16 (share ++ (0#51) ++ e ++ (0#3) ++ i) 4)
   (window → fits → Runs (.slotw a b) s (fun t => Passed { s.core with issue := { s.core.issue with next := t' } } s t)) ∧
   (¬ window → refused 0) ∧ (window → ¬ fits → refused 1))

/-- R259 and R291: EXIT makes the strand ABSENT, unlocks its FTB regions, clears MPROG.ACT where it names the strand, and its
pending wake; a handler whose queue holds an entry is created again at its entry pc by R258 (in a copy made for `.triple strand n`
only strand n, R345). An entry of a region that goes unlocks unless a region that stays has a page of it (R253). Queue items,
engine commands, ownership, staged messages, memory, every other strand, the loop of another strand and what the core
counts and acknowledges of its far path stay. Its FLD, FAMO and FST that are outstanding have no
strand any more that their end could fault, and its walks are discarded. That the BARR-staged bit and the mark of waiting in BARR
are cleared here is the model's choice (log entry 74), and that results written but not retired enter no signature is its reading of
R361 (log entry 8). -/
def Obligations.StrandEnds : Prop := ∀ (s : State),
  let c := s.core
  let holds (ch : Chan) : Prop := (c.chan ch).hv = true ∧ (c.chan ch).hstr = s.cur ∧
    ∃ e, .entry e ∈ (c.chan ch).items
  let able := c.issue.allowed.getLsbD s.cur.toNat = true
  let stops := c.csr.mprog.getLsbD 63 = true ∧ c.csr.mprog.extractLsb' 53 3 = s.cur
  Runs .exit s (fun t => ∃ strands far mprog loop,
    t = { s with core := { c with strands := strands, far := far, loop := loop, check := c.retire.check
                                  csr := { c.csr with mprog := mprog, retired := c.csr.retired + 1 } } } ∧
    (∀ n : StrandNo, n ≠ s.cur → t.core.strand n = c.strand n) ∧
    (((∀ ch, ¬ holds ch) ∨ ¬ able) → t.st = { s.st with
      state := .absent, wakePending := false, barrStaged := false, sleepLeft := none, ftblOpen := none, redo := false
      inBarr := false, late := [], part := none }) ∧
    ((∃ ch, holds ch) → able → t.st = { Strand.blank with
      pc := s.st.entry, entry := s.st.entry, cause := 3, state := if c.stopped then .stop .run else .live .run }) ∧
    loop = (if stops then none else c.loop) ∧
    mprog = (if stops then c.csr.mprog &&& 0x7FFFFFFFFFFFFFFF
      else c.csr.mprog) ∧
    (∀ i : Nat, far.regions.getD i none =
      match c.far.regions.getD i none with
      | some r => if r.strand = s.cur then none else some r
      | none => none) ∧
    far.ftb.map (fun e => { e with lock := false, region := 0 }) = c.far.ftb.map (fun e => { e with lock := false, region := 0 }) ∧
    (∀ x ∈ far.ftb.zip c.far.ftb,
      let gone := ∃ r, c.far.regions.getD x.2.region.toNat none = some r ∧ r.strand = s.cur
      let covers (i : Nat) : Prop := ∃ r, c.far.regions.getD i none = some r ∧ r.strand ≠ s.cur ∧
        r.page < x.2.page + (if x.2.big then 4096 else 1) ∧ x.2.page < r.page + r.count
      ((x.2.lock = false ∨ ¬ gone) → x.1 = x.2) ∧
      (x.2.lock = true → gone → (x.1.lock = true ↔ ∃ i, covers i) ∧
        (x.1.lock = true → c.far.regions.length ≤ 4 → covers x.1.region.toNat))) ∧
    far.outs = c.far.outs.map (fun o => if o.strand = s.cur ∧ (o.kind = .fld ∨ o.kind = .fst ∨ ∃ op, o.kind = .famo op) then
      { o with pc := 0xFFFFFFFFFFFFFFFF } else o) ∧
    far.walks = c.far.walks.map (fun w => { w with discard := w.discard || match w.who with
      | .strand m _ => decide (m = s.cur)
      | .ftbl m _ => decide (m = s.cur)
      | _ => false }) ∧
    far.resps = c.far.resps ∧ far.pset = c.far.pset ∧ far.seq = c.far.seq ∧ far.misses = c.far.misses ∧ far.shoots = c.far.shoots)

/-- R293 and R295 to R297, R358, R261: the waits. Each completes at once where its condition holds, and otherwise waits with its
pc on itself; WAITQ, WAITM and BARR raise CHAN for a channel they do not accept, and BARR stages its marker once and counts as
waiting in BARR from its issue until it completes (R267). A BARR whose entry of the channel at its own router is CLOSED raises DESCHED
(the model's reading of R306, log entry 11). Where the upper bits of TRAPVAL are not stated they are a free value (log entry 5). A
SLEEP that a save interrupted goes on with the count that was left. -/
def Obligations.Waits : Prop := ∀ (s : State) (d a : GReg) (ch : Chan) (m : Marker) (n : BitVec 4),
  let c := s.core
  let mask : BitVec 32 := (s.g a).extractLsb' 0 32
  let bound (k : Chan) : Prop := (c.chan k).rlen ≠ 0
  let full (k : Chan) : Bool := (c.chan k).headEntry.isSome
  let fine := 4 ≤ ch.toNat ∧ bound ch
  let bad (i : Instr) : Prop := ∃ v : Word, v.extractLsb' 0 5 = ch ∧ exec i s = .next ({ s with free := s.free + 1 }.trap 0x06 v 4)
  let taken (c : Core) (k : Chan) : Core := { c with marked := c.marked.erase k }.setChan k fun h => h.removeAt h.headIdx
  let staged : Core := { c with router := { c.router with
    staged := c.router.staged ++ [{ strand := some s.cur, msg := c.marker ch (0#1 ++ n) }] } }
  let barring (u : State) : State := u.setSt fun st => { st.setLive (.wait (.barr ch n)) with inBarr := true }
  (∀ k : Chan, k.toNat < 4 → mask.getLsbD k.toNat = true → (∀ j : Nat, j < k.toNat → mask.getLsbD j = false) →
    exec (.waitq d a) s = .next (s.trap 0x06 (BitVec.ofNat 64 k.toNat) 4)) ∧
  (∀ k : Chan, (∀ j : Nat, j < 4 → mask.getLsbD j = false) → mask.getLsbD k.toNat = true → ¬ bound k →
    (∀ j : Chan, j.toNat < k.toNat → mask.getLsbD j.toNat = true → bound j) →
    ∃ v : Word, v.extractLsb' 0 5 = k ∧ exec (.waitq d a) s = .next ({ s with free := s.free + 1 }.trap 0x06 v 4)) ∧
  ((∀ k : Chan, k.toNat < 4 → mask.getLsbD k.toNat = false) → (∀ k : Chan, mask.getLsbD k.toNat = true → bound k) →
    (mask = 0 ∨ ∃ k : Chan, mask.getLsbD k.toNat = true ∧ full k = true) →
      Runs (.waitq d a) s (fun t => ∃ x : Word, PutG s t d x ∧ x.toNat < 2 ^ 32 ∧
        ∀ k : Chan, x.getLsbD k.toNat = (mask.getLsbD k.toNat && full k))) ∧
  ((∀ k : Chan, k.toNat < 4 → mask.getLsbD k.toNat = false) → (∀ k : Chan, mask.getLsbD k.toNat = true → bound k ∧ full k = false) →
    mask ≠ 0 → exec (.waitq d a) s = .next (s.wait (.waitq mask))) ∧
  (¬ fine → bad (.waitm ch m) ∧ bad (.barr ch n)) ∧
  (fine → (c.chan ch).headMarker = some m.code → Runs (.waitm ch m) s (fun t => Passed (taken c ch) s t)) ∧
  (fine → (c.chan ch).headMarker ≠ some m.code → exec (.waitm ch m) s = .next (s.wait (.waitm ch m.code))) ∧
  (fine → s.st.barrStaged = true → (c.chan ch).headMarker = some ((0#1 ++ n)) →
    Runs (.barr ch n) s (fun t => Own (taken c ch) s t ∧ SameBytes s t ∧
      t.st = { s.st with pc := s.pc + 4, barrStaged := false, inBarr := false })) ∧
  (fine → s.st.barrStaged = false → closedBit (c.route ch) = false → c.canStage (c.chan ch).cls 1 = true →
    (c.chan ch).headMarker = some (0#1 ++ n) →
    Runs (.barr ch n) s (fun t => Own (taken staged ch) s t ∧ SameBytes s t ∧
      t.st = { s.st with pc := s.pc + 4, barrStaged := false, inBarr := false })) ∧
  (fine → s.st.barrStaged = true → (c.chan ch).headMarker ≠ some ((0#1 ++ n)) →
    exec (.barr ch n) s = .next (barring s)) ∧
  (fine → s.st.barrStaged = false → closedBit (c.route ch) = false → c.canStage (c.chan ch).cls 1 = false →
    exec (.barr ch n) s = .next (barring s)) ∧
  (fine → s.st.barrStaged = false → closedBit (c.route ch) = true →
    ∃ v : Word, v.extractLsb' 0 5 = ch ∧ exec (.barr ch n) s = .next ({ s with free := s.free + 1 }.trap 0x17 v 4)) ∧
  (fine → s.st.barrStaged = false → closedBit (c.route ch) = false → c.canStage (c.chan ch).cls 1 = true →
    (c.chan ch).headMarker ≠ some (0#1 ++ n) → exec (.barr ch n) s =
      .next (barring ({ s with core := staged }.setSt fun st => { st with barrStaged := true }))) ∧
  (s.st.wakePending = true → Runs (.sleep a) s (fun t => Own c s t ∧ SameBytes s t ∧
    t.st = { s.st with pc := s.pc + 4, wakePending := false, sleepLeft := none })) ∧
  (s.st.wakePending = false → s.st.sleepLeft = none → exec (.sleep a) s = .next (s.wait (.sleep
    (if mask = 0 then none else some (c.csr.cycle.toNat + mask.toNat))))) ∧
  (∀ k, s.st.wakePending = false → s.st.sleepLeft = some k → exec (.sleep a) s = .next ((s.setSt fun st =>
    { st with sleepLeft := none }).wait (.sleep (if k = 0 then none else some (c.csr.cycle.toNat + k))))) ∧
  (s.st.wakePending = true → Runs .idle s (fun t => Own c s t ∧ SameBytes s t ∧
    t.st = { s.st with pc := s.pc + 4, wakePending := false })) ∧
  (s.st.wakePending = false → exec .idle s = .next (s.wait .idle))

/-! ## System instructions -/

/-- R353 with R351, R352, R16, R260, R264 and R299: CSRR writes the CSR's value to gd and changes nothing else, for every assigned
CSR; and what the values are. CHQ.WAIT is set also while a marker waits for one of 64 records (the model's reading of R181 and R183,
log entry 17), and a header waits for room that is contiguous behind the last item of the ring (its reading of R243, log entry 10).
R353 with the maps of R44, R103, R104, R105, R108 and R325: what CSRW, CSRS, CSRC and CSRRW write to each writable CSR:
reserved bits stay, a refused rounding mode keeps the old one, SEEN is cleared by a written 1 of CSRW and CSRRW and kept by the
others. CSRRW writes the old value to gd in the same step. -/
def Obligations.CsrAccess : Prop :=
  (∀ (s : State) (d : GReg) (num : BitVec 12) (n : BitVec 3) (ch : Chan),
   let c := s.core
   let old (x : Nat) : Word := c.readCsr s.cur (BitVec.ofNat 12 x)
   let set (p : Strand → Bool) (k : Nat) : Prop := ∀ j : StrandNo, (old 0x011).getLsbD (k + j.toNat) = p (c.strand j)
   Runs (.csrr d num) s (fun t => PutG s t d (c.readCsr s.cur num)) ∧
   ((old 0x000).getLsbD 0 = c.ident.ready ∧ (old 0x000).getLsbD 1 = decide (c.csr.fieldId ≠ 0) ∧
     (old 0x000).getLsbD 2 = c.ident.chkd ∧ (old 0x000).getLsbD 3 = c.ident.triple ∧ (old 0x000).toNat < 16) ∧
   (old 0x001 = (0#14) ++ BitVec.ofNat 9 c.ident.site.row ++ BitVec.ofNat 9 c.ident.site.col ++ (0#6) ++ c.ident.name) ∧
   (old 0x002 = c.csr.fieldId ∧ old 0x003 = c.csr.fieldOrg ∧ old 0x004 = c.csr.fieldDim ∧ old 0x008 = c.csr.cycle ∧
     old 0x009 = c.csr.retired ∧ old 0x012 = c.csr.faultSt ∧ old 0x013 = c.csr.faultMask ∧ old 0x040 = s.st.fmode ∧
     old 0x041 = s.st.fflags ∧ old 0x042 = c.csr.dpw ∧ old 0x043 = c.csr.poisonCtl ∧ old 0x045 = c.csr.mprog ∧
     old 0x068 = c.issue.hmin ∧ old 0x0C0 = c.csr.ownB ∧ old 0x0C1 = c.csr.ownM ∧ old 0x180 = c.csr.voteLog) ∧
   ((old 0x005).toNat = c.ident.grade.toNat ∧ (old 0x006).toNat = c.ident.mhz.toNat) ∧
   (old (0x020 + n.toNat) = (c.strand n).trapCause ∧ old (0x028 + n.toNat) = (c.strand n).trapPc ∧
     old (0x030 + n.toNat) = (c.strand n).trapVal ∧ old (0x048 + n.toNat) = c.csr.q[n.toNat]) ∧
   (set (fun st => st.state ≠ .absent) 0 ∧ set (fun st => match st.state with | .live (.wait _) => true | _ => false) 8 ∧
     set (fun st => st.state = .live .park) 16 ∧ set (fun st => match st.state with | .stop _ => true | _ => false) 24 ∧
     set (fun st => st.wakePending) 32 ∧ (old 0x011).toNat < 2 ^ 40) ∧
   (∀ e < 4, natBits (old (0x060 + n.toNat)).toNat (8 * e) 8 = (c.issue.table.toList.getD (4 * n.toNat + e) 0).toNat) ∧
   (old (0x080 + ch.toNat) = (c.chan ch).bind ∧ old (0x200 + ch.toNat) = c.router.route[ch.toNat] ∧
     natBits (old (0x0A0 + ch.toNat)).toNat 32 16 = (c.chan ch).free % 2 ^ 16 ∧
     natBits (old (0x0A0 + ch.toNat)).toNat 16 16 = (c.chan ch).count % 2 ^ 16) ∧
   (old 0x010 = BitVec.ofNat 64 (s.cur.toNat + (if c.isHandler s.cur then 8 else 0) + s.st.cause.toNat * 256 + s.st.wch.toNat * 2048) ∧
     (c.isHandler s.cur = true ↔ ∃ k : Chan, (c.chan k).hv = true ∧ (c.chan k).hstr = s.cur)) ∧
   (let f := (old 0x100).toNat
    natBits f 0 3 = (c.far.regions.countP Option.isSome) % 8 ∧ natBits f 8 6 = (c.far.ftb.countP (·.lock)) % 64 ∧
    natBits f 32 16 = natBits c.csr.fieldId.toNat 32 16 ∧ natBits f 48 16 = c.far.misses.toNat ∧ natBits f 3 5 = 0 ∧ natBits f 14 18 = 0) ∧
   (let q := old (0x0A0 + ch.toNat)
    let head (cls : BitVec 2) (m : Msg) : Prop := c.router.portq.find? (fun m => m.hdr.extractLsb' 58 2 = cls) = some m ∧ m.ch = ch
    let waits := ∃ cls m, cls ≠ 3 ∧ head cls m ∧
      ((natBits m.hdr.toNat 60 4 < 3 ∧ m.ringWords ≤ (c.chan ch).rlen ∧ (c.chan ch).room < m.ringWords) ∨
       (natBits m.hdr.toNat 60 4 = 3 ∧ natBits m.hdr.toNat 26 5 ≤ 0x10 ∧ 64 ≤ c.marks))
    natBits q.toNat 48 16 = (c.chan ch).headOff % 2 ^ 16 ∧
    natBits q.toNat 2 7 = ((c.chan ch).marks + (c.spill.filter fun s => s.ch = ch ∧ ∃ k, s.item = .marker k).length) % 128 ∧
    (q.getLsbD 1 = true ↔ (∃ h, .held h ∈ (c.chan ch).items) ∨ ∃ y ∈ c.spill, y.ch = ch ∧ ∃ h, y.item = .held h) ∧ (q.getLsbD 0 = true ↔ waits) ∧ natBits q.toNat 9 7 = 0) ∧
   (old 0x181 = c.check.skip ++ BitVec.ofNat 16 c.check.idx ++ c.check.sig)) ∧
  (∀ (s : State) (d a : GReg) (n : BitVec 3),
   let c := s.core
   let x := s.g a
   let old (num : BitVec 12) : Word := c.readCsr s.cur num
   let news (num : BitVec 12) (P : Instr → Word → Word → Prop) : Prop :=
     P (.csrw num a) x x ∧ P (.csrs num a) (old num ||| x) 0 ∧ P (.csrc num a) (old num &&& ~~~x) 0
   let core (num : BitVec 12) (r : Word → Word → Csrs) : Prop :=
     news num (fun i new clear => Runs i s (fun t => Passed { c with csr := r new clear } s t)) ∧
     Runs (.csrrw d num a) s (fun t => WroteG { c with csr := r x x } s t d (old num) 0 (s.pc + 4) ∧ SameBytes s t)
   let keep (md o : Word) (k : Nat) (mask : Word) : Word := if natBits md.toNat k 3 ≤ 4 then md &&& mask else o &&& mask
   core 0x012 (fun new _ => { c.csr with faultSt := new &&& 0xF }) ∧
   core 0x013 (fun new _ => { c.csr with faultMask := new &&& 0x1C3FF7C }) ∧
   core 0x042 (fun new _ => { c.csr with dpw := (new &&& 0x10F) ||| keep new c.csr.dpw 4 0x70 }) ∧
   core 0x043 (fun new clear => { c.csr with poisonCtl := (new &&& 1) ||| (c.csr.poisonCtl &&& 0x100 &&& ~~~clear) }) ∧
   core (0x009#9 ++ n) (fun new _ => { c.csr with q := c.csr.q.set n.toNat (new &&& 0xFF) }) ∧
   (let fm (new : Word) : Word := (new &&& 0x1F0) ||| keep new s.st.fmode 0 7
    news 0x040 (fun i new _ => Runs i s (fun t => Own c s t ∧ SameBytes s t ∧ t.st = { s.st with pc := s.pc + 4, fmode := fm new })) ∧
    news 0x041 (fun i new _ => Runs i s (fun t => Own c s t ∧ SameBytes s t ∧ t.st = { s.st with pc := s.pc + 4, fflags := new &&& 0x7F })) ∧
    Runs (.csrrw d 0x040 a) s (fun t => Own c s t ∧ SameBytes s t ∧
      t.st = { s.st with pc := s.pc + 4, fmode := fm x, g := t.st.g } ∧ ∀ r, t.g r = if r = d ∧ d ≠ 0 then s.st.fmode else s.g r) ∧
    Runs (.csrrw d 0x041 a) s (fun t => Own c s t ∧ SameBytes s t ∧
      t.st = { s.st with pc := s.pc + 4, fflags := x &&& 0x7F, g := t.st.g } ∧
      ∀ r, t.g r = if r = d ∧ d ≠ 0 then s.st.fflags else s.g r)))

/-- R355 and R357: a SUPV is a supervisor call, and the call is its own effect: from every state of a strand in RUN each SUPV
answers the state in which its strand is parked on it with SUPV in TRAPCAUSE, its code and g[a][57:0] in TRAPVAL, and the message
of R326 is in the supervisor's mailbox (SUPV is never delivered locally, since FAULTMASK bit 18 cannot be set: the writable bits of
R325 leave it 0). What the supervisor then does for each code, and that it answers or ends the field, is FAULT_MESSAGE's, which
runs at that message. BRK raises BREAK with its code, resuming at the next instruction.
R360: the disposals of a parked strand by another one; a target that is the issuing strand, absent, or whose fault went to the
supervisor is left unchanged. FLTKIL has every effect of R259: its regions go and their entries unlock unless a region that stays
has a page of them; that it clears the BARR-staged bit and the mark of waiting in BARR is the model's choice (log entry 74).
Requests already outstanding perform, and the response or walk which the target waited for is thrown away: R360 says so of a killed
strand, and that FLTSKP does so too is the model's choice (log entry 77). TRAPCAUSE, TRAPPC and TRAPVAL keep their values but for a
strand created again. A strand that FLTRES takes back to an access whose work had met FARFAULT or STALL goes back to that wait. -/
def Obligations.SupervisorCallsAndDisposals : Prop :=
  (∀ (s : State) (a : GReg) (code : BitVec 6) (k : BitVec 12),
   let calls (i : Instr) (n : BitVec 6) : Prop :=
     let val : Word := n ++ (s.g a).extractLsb' 0 58
     exec i s = .next (s.trap 0x12 val 4) ∧
     (s.st.state = .live .run → s.core.csr.faultMask.getLsbD 0x12 = false → Runs i s (fun t =>
       t.st = { s.st with state := .live .park, trapCause := 0x12, trapPc := s.pc, trapVal := val, resume := s.pc
                          twoWord := false, toSupervisor := true } ∧
       (∀ n, n ≠ s.cur → t.core.strand n = s.core.strand n) ∧ SameBytes s t ∧
       ∃ p m, t.sup = { s.sup with mail := s.sup.mail ++ [p] } ∧ p.mail = .fault s.core.ident.site s.core.csr.fieldId m ∧
         m.pay = [s.pc, val] ∧ m.hdr.extractLsb' 26 8 = 0x12 ∧ m.hdr.extractLsb' 34 3 = s.cur ∧
         m.hdr.extractLsb' 0 26 = s.core.ident.name))
   calls (.supvDone a) 0 ∧ calls (.supvCheckpoint a) 1 ∧ calls (.supvSlotmove a) 2 ∧ calls (.supvPumpswap a) 3 ∧
   calls (.supvHostnote a) 4 ∧ calls (.supvSlottime a) 5 ∧ calls (.supvUnassigned code a) code ∧
   exec (.brk k) s = .next (s.trapAfter 0x11 (BitVec.ofNat 64 k.toNat) 4)) ∧
  (∀ (s : State) (a : GReg),
   let c := s.core
   let n : StrandNo := (s.g a).extractLsb' 0 3
   let x := c.strand n
   let able := n ≠ s.cur ∧ x.state ≠ .absent ∧ ¬ (x.parked = true ∧ x.toSupervisor = true)
   let holds (ch : Chan) : Prop := (c.chan ch).hv = true ∧ (c.chan ch).hstr = n ∧ ∃ e, .entry e ∈ (c.chan ch).items
   let again := (∃ ch, holds ch) ∧ c.issue.allowed.getLsbD n.toNat = true
   let named := c.csr.mprog.getLsbD 63 = true ∧ c.csr.mprog.extractLsb' 53 3 = n
   let outs (f : FarPath) (killed : Prop) : Prop := f.outs.length = c.far.outs.length ∧ ∀ p ∈ f.outs.zip c.far.outs,
     (p.2.strand = n → (p.2.kind = .fld ∨ (∃ op, p.2.kind = .famo op) ∨ (p.2.kind = .fst ∧ killed)) →
       p.1 = { p.2 with pc := 0xFFFFFFFFFFFFFFFF }) ∧
     (¬ (p.2.strand = n ∧ (p.2.kind = .fld ∨ (∃ op, p.2.kind = .famo op) ∨ (p.2.kind = .fst ∧ killed))) → p.1 = p.2)
   let walks (f : FarPath) : Prop := f.walks.length = c.far.walks.length ∧ ∀ p ∈ f.walks.zip c.far.walks, p.1 = { p.2 with
     discard := p.2.discard || match p.2.who with | .strand m _ => decide (m = n) | .ftbl m _ => decide (m = n) | _ => false }
   let unlocked (f : FarPath) : Prop :=
     (∀ i : Nat, f.regions.getD i none = match c.far.regions.getD i none with
       | some r => if r.strand = n then none else some r
       | none => none) ∧
     f.ftb.map (fun e => { e with lock := false, region := 0 }) = c.far.ftb.map (fun e => { e with lock := false, region := 0 }) ∧
     ∀ p ∈ f.ftb.zip c.far.ftb,
       let gone := ∃ r, c.far.regions.getD p.2.region.toNat none = some r ∧ r.strand = n
       ((p.2.lock = false ∨ ¬ gone) → p.1 = p.2) ∧
       (p.2.lock = true → gone → (p.1.lock = true ↔ ∃ i r, c.far.regions.getD i none = some r ∧ r.strand ≠ n ∧
         r.page < p.2.page + (if p.2.big then 4096 else 1) ∧ p.2.page < r.page + r.count))
   let same (i : Instr) : Prop := Runs i s (fun t => Passed c s t)
   let changed (i : Instr) (killed : Prop) (P : Core → Prop) : Prop := Runs i s (fun t => ∃ strands mprog loop far,
     let c' := { c with strands := strands, loop := loop, far := far, csr := { c.csr with mprog := mprog } }
     Passed c' { s with core := c' } t ∧ P c' ∧ (∀ m, m ≠ n → c'.strand m = c.strand m) ∧
     (named → mprog = c.csr.mprog &&& 0x7FFFFFFFFFFFFFFF ∧ loop = none) ∧ (¬ named → mprog = c.csr.mprog ∧ loop = c.loop) ∧
     outs far killed ∧ walks far ∧ far.seq = c.far.seq ∧ far.resps = c.far.resps ∧ far.misses = c.far.misses ∧
     far.pset = c.far.pset ∧ far.shoots = c.far.shoots)
   (¬ able → same (.fltres a) ∧ same (.fltskp a) ∧ same (.fltkil a)) ∧
   (able → x.parked = false → same (.fltres a) ∧ same (.fltskp a)) ∧
   (able → x.parked = true → Runs (.fltres a) s (fun t =>
     let u := s.mapCore fun c => c.setStrand n fun _ => { x.setLive .run with
       pc := x.resume, redo := decide (x.resume = x.trapPc) && (decide (x.trapCause = 0x09) || decide (x.trapCause = 0x0B)) }
     Passed u.core u t)) ∧
   (able → x.parked = true → changed (.fltskp a) False (fun c' => c'.strand n = { x.setLive .run with
     pc := x.trapPc + (if x.twoWord then 8 else 4), ftblOpen := none, redo := false, inBarr := false, late := [], sleepLeft := none } ∧
     c'.far.regions = c.far.regions ∧ c'.far.ftb = c.far.ftb)) ∧
   (able → ¬ again → changed (.fltkil a) True (fun c' => unlocked c'.far ∧ c'.strand n = { x with
     state := .absent, wakePending := false, barrStaged := false, sleepLeft := none, ftblOpen := none, redo := false
     inBarr := false, late := [], part := none })) ∧
   (able → again → changed (.fltkil a) True (fun c' => unlocked c'.far ∧ c'.strand n = { Strand.blank with
     pc := x.entry, entry := x.entry, cause := 3, state := if c.stopped then .stop .run else .live .run })))

/-! ## Messages -/

/-- R241, R179 and R101: how a word of a message is formed: raw and i32 bit for bit and without flags; each element of a
floating-point format multiplied by 2^-SHIFT and rounded once in its own type, with its flags joined.
R240 to R242, R246, R59: SEND, SENDV, SENDB and MARK stage one message with the binding's class and format and the core's
name where the staging buffer has room, and wait where it has none; CHAN for ch0 to ch3, another class or a format they do not
accept; DESCHED at a CLOSED entry (the model's reading of R306, log entry 11); POISON, with the channel in TRAPVAL (R242; that R105's INDEX gives way, and that the bits above
are 0, is the model's choice, log entry 58). The upper bits of the other TRAPVALs are a free value (log entry 5). Nothing else changes
but SEEN and flags; ARITH follows the staging where a raised flag is enabled (R106). -/
def Obligations.Sends : Prop :=
  (∀ (fmt : BitVec 4) (md : Mode) (sat : Bool) (shift : Int) (x : Word) (f : FFmt),
   (fmt.toNat ≤ 1 → encodeWord fmt md sat shift x = (x, 0)) ∧
   (elemFmt fmt = some f →
     let one (i : Nat) : Nat × Flags :=
       match f.decode (natBits x.toNat (f.bits * i) f.bits) with
       | .fin n m e => f.round md (sat && decide (f.bits ≤ 16)) n m (e - shift)
       | _ => convertFF f f md (sat && decide (f.bits ≤ 16)) (natBits x.toNat (f.bits * i) f.bits)
     (∀ i < 64 / f.bits, natBits (encodeWord fmt md sat shift x).1.toNat (f.bits * i) f.bits = (one i).1) ∧
     (encodeWord fmt md sat shift x).2 = ((List.range (64 / f.bits)).map one).foldl (fun a r => a ||| r.2) 0)) ∧
  (∀ (s : State) (a tag : GReg) (v : VReg) (b : BReg) (ch : Chan) (cls : BitVec 2) (mk : Marker),
   let c := s.core
   let h := c.chan ch
   let shift : Int := ((c.csr.q[(h.bind.extractLsb' 10 3).toNat]).extractLsb' 0 8).toInt
   let sat := h.bind.getLsbD 18
   let fmt : BitVec 4 := h.bind.extractLsb' 0 4
   let hdr (kind len : Nat) (fmt : BitVec 4) (trl : BitVec 1) (tag : BitVec 17) : Word :=
     BitVec.ofNat 4 kind ++ cls ++ BitVec.ofNat 10 len ++ fmt ++ trl ++ tag ++ c.ident.name
   let fine := 4 ≤ ch.toNat ∧ h.bind.extractLsb' 8 2 = cls
   let bad (i : Instr) : Prop := ∃ x : Word, x.extractLsb' 0 5 = ch ∧ exec i s = .next ({ s with free := s.free + 1 }.trap 0x06 x 4)
   let sends (i : Instr) (m : Msg) (fl : Flags) (seen : Bool) : Prop :=
     (closedBit (c.route ch) = true → ∃ x : Word, x.extractLsb' 0 5 = ch ∧
       exec i s = .next ({ s with free := s.free + 1 }.trap 0x17 x 4)) ∧
     (closedBit (c.route ch) = false → c.canStage cls (m.pay.length + 1) = true → Raises i s fl (fun t => SameBytes s t ∧
       Stepped ({ c with router := { c.router with staged := c.router.staged ++ [({ strand := some s.cur, msg := m } : Staged)] } }.seen seen) s t fl 4)) ∧
     (closedBit (c.route ch) = false → c.canStage cls (m.pay.length + 1) = false →
       exec i s = .next (s.wait (.staging cls (m.pay.length + 1))))
   let t17 : BitVec 17 := (s.g tag).extractLsb' 0 17
   let t16 : BitVec 17 := 0#1 ++ (s.g tag).extractLsb' 0 16
   let enc (i : Nat) : Word × Flags := encodeWord fmt s.rm sat shift (BitVec.ofNat 64 (velem 64 (s.v v) i))
   let A (w : Bfmt) := (s.b b).blks w
   (¬ fine → bad (.send a tag ch cls) ∧ bad (.sendv v tag ch cls) ∧ bad (.sendb b tag ch cls) ∧ bad (.mark ch mk cls)) ∧
   (fine → 8 ≤ fmt.toNat → bad (.send a tag ch cls) ∧ bad (.sendv v tag ch cls)) ∧
   (fine → Owns s [b] [] → (fmt.toNat < 8 ∨ 12 < fmt.toNat) → bad (.sendb b tag ch cls)) ∧
   (fine → fmt.toNat < 8 →
     let r := encodeWord fmt s.rm sat shift (s.g a)
     sends (.send a tag ch cls) { ch := ch, hdr := hdr 0 1 fmt 0 t17, pay := [r.1], bad := false } r.2 false) ∧
   (fine → fmt.toNat < 8 →
     sends (.sendv v tag ch cls)
       { ch := ch, hdr := hdr 1 4 fmt 0 t17, pay := [(enc 0).1, (enc 1).1, (enc 2).1, (enc 3).1], bad := false }
       ((enc 0).2 ||| (enc 1).2 ||| (enc 2).2 ||| (enc 3).2) false) ∧
   (fine → sends (.mark ch mk cls) { ch := ch, hdr := hdr 3 0 0 0 ((0#12) ++ mk.code), pay := [], bad := false } 0 false) ∧
   (∀ w, fine → Owns s [b] [] → blockFmt fmt = some w →
     let trl := h.bind.getLsbD 17
     let r := lineOut w s.rm shift (A w)
     let pay := r.1 ++ if trl then [(s.b b).mask] else []
     pay.length = w.n + (if trl then 2 else 1) ∧
     (shift = 0 → pay = (s.b b).hdr :: (s.b b).pay.toList.take w.n ++ (if trl then [(s.b b).mask] else []) ∧ r.2 = 0) ∧
     sends (.sendb b tag ch cls)
       { ch := ch, hdr := hdr 2 (w.n + if trl then 2 else 1) fmt (if trl then 1 else 0) t16, pay := pay, bad := false }
       r.2 (anyPoison (A w))) ∧
   (∀ ty w, fine → Owns s [b] [] → mxFmt fmt = some (ty, w) →
     let B := A (s.b b).tag
     let r := mxOf ty (s.b b).tag.w s.rm (-shift) B
     (s.core.csr.poisonCtl.getLsbD 0 = true → anyPoison B = true → closedBit (c.route ch) = false →
       exec (.sendb b tag ch cls) s = .next (({ s with core := c.seen true }).trap 0x0E (BitVec.ofNat 64 ch.toNat) 4)) ∧
     ((s.core.csr.poisonCtl.getLsbD 0 = false ∨ anyPoison B = false) →
       sends (.sendb b tag ch cls)
         { ch := ch, hdr := hdr 2 (ty.bits + 1) fmt 0 t16
           pay := ((List.range ty.bits).map fun t => BitVec.ofNat 64 (r.2.2.1 / 2 ^ (64 * t))) ++ [BitVec.ofNat 64 (r.1 + 256 * r.2.1)]
           bad := false } r.2.2.2 (anyPoison B))))

/-- R243, R245, R180 and R181: RECV, RECVV and RECVB on an entry at the head of their queue take its next content words in one
step; the words leave, and the entry with its ring words once the last is read; a read corrects the ring words that it reads, and no
other. They wait while no entry is at the head, raise CHAN
as R243 and R245 say, and UE_WELL for an uncorrectable ring word, whose TRAPVAL is a free value (log entry 5), as are the upper bits
of CHAN's.
R244 and R243: POLL writes its status word and consumes nothing; QFLUSH removes every entry ahead of the first marker record, or
that record alone where it is the head item, and frees their ring words. The head item is the oldest that is no held line, and QFLUSH
leaves held lines in the queue (the model's reading of R243, log entry 10). Both raise CHAN for ch0 to ch3 and never wait; the upper
bits of its TRAPVAL are a free value (log entry 5). -/
def Obligations.ReceivesAndPolls : Prop :=
  (∀ (s : State) (d : GReg) (v : VReg) (b : BReg) (ch : Chan) (e : Entry) (f : Bfmt),
   let c := s.core
   let h := c.chan ch
   let fine := 4 ≤ ch.toNat ∧ h.rlen ≠ 0
   let at' (i : Nat) : Nat := 8 * (h.rbase + (e.off + 1 + e.read + i) % h.rlen)
   let word (i : Nat) : Word := BitVec.ofNat 64 (s.number (at' i) 8)
   let left := e.words - e.read
   let readable (k : Nat) : Prop := ∀ i < k, c.well.badIn (at' i) 8 = false
   let after (k : Nat) : ChanState :=
     if left ≤ k then h.removeAt h.headIdx
     else { h with items := h.items.set h.headIdx (.entry { e with read := e.read + k }) }
   let read (k : Nat) : Well := { c.well with marks := c.well.marks.map fun p =>
     if p.2 = .correctable ∧ ((List.range k).any fun i => p.1 = at' i / 8) = true then (p.1, .corrected) else p }
   let core (m k : Nat) : Core := { c with well := read m }.setChan ch fun _ => after k
   let bad (i : Instr) : Prop := ∃ x : Word, x.extractLsb' 0 5 = ch ∧ exec i s = .next ({ s with free := s.free + 1 }.trap 0x06 x 4)
   let ue (i : Instr) : Prop := ∃ x, exec i s = .next ({ s with free := s.free + 1 }.trap 0x0C x 4)
   let line := e.read = 0 ∧ natBits e.hdr.toNat 60 4 = 2 ∧ storedFmt (e.hdr.extractLsb' 44 4) = some f
   let lines : Prop := 8 ≤ (h.bind.extractLsb' 0 4).toNat ∧ (h.bind.extractLsb' 0 4).toNat ≤ 12
   (¬ fine → bad (.recv d ch) ∧ bad (.recvv v ch) ∧ (Owns s [b] [] → bad (.recvb b ch))) ∧
   (fine → Owns s [b] [] → ¬ lines → bad (.recvb b ch)) ∧
   (fine → h.headEntry = none → exec (.recv d ch) s = .next (s.wait (.recv ch)) ∧ exec (.recvv v ch) s = .next (s.wait (.recv ch)) ∧
     (Owns s [b] [] → lines → exec (.recvb b ch) s = .next (s.wait (.recv ch)))) ∧
   (fine → h.headEntry = some e → Owns s [b] [] → lines → (e.read ≠ 0 ∨ natBits e.hdr.toNat 60 4 ≠ 2) → bad (.recvb b ch)) ∧
   (fine → h.headEntry = some e → 0 < left → readable 1 → Runs (.recv d ch) s (fun t =>
     WroteG (core 1 1) s t d (word 0) 0 (s.pc + 4) ∧ SameBytes s t)) ∧
   (fine → h.headEntry = some e → 0 < left → ¬ readable 1 → ue (.recv d ch)) ∧
   (fine → h.headEntry = some e → 0 < left → readable (Min.min 4 left) → Runs (.recvv v ch) s (fun t => ∃ x,
     PutV (core (Min.min 4 left) 4) s t v x 0 ∧
     ∀ i < 4, velem 64 x i = if i < left then (word i).toNat else 0)) ∧
   (fine → h.headEntry = some e → ¬ readable (Min.min 4 left) → ue (.recvv v ch)) ∧
   (fine → h.headEntry = some e → Owns s [b] [] → lines → line → e.words = f.n + 2 → readable e.words →
     Runs (.recvb b ch) s (fun t => ∃ (x : BLine), SameBytes s t ∧
       Stepped (({ core e.words e.words with b := c.b.set b.toNat x }).seen (anyPoison (x.blks f))) s t 0 4 ∧
       x.tag = f ∧ x.hdr = word 0 ∧ (∀ i : Fin 16, x.pay[i] = if i.val < f.n then word (i.val + 1) else 0) ∧
       x.mask = word (f.n + 1)))) ∧
  (∀ (s : State) (d : GReg) (ch : Chan),
   let c := s.core
   let h := c.chan ch
   let bad (i : Instr) : Prop := ∃ x : Word, x.extractLsb' 0 5 = ch ∧ exec i s = .next ({ s with free := s.free + 1 }.trap 0x06 x 4)
   let mark (i : Item) : Bool := match i with | .marker _ => true | _ => false
   let held (i : Item) : Bool := match i with | .held _ => true | _ => false
   let pre := h.items.takeWhile fun i => !mark i
   let post := h.items.dropWhile fun i => !mark i
   let size (i : Item) : Nat := match i with | .entry e => e.words + 1 | _ => 0
   (ch.toNat < 4 → bad (.poll d ch) ∧ bad (.qflush ch)) ∧
   (4 ≤ ch.toNat → Runs (.poll d ch) s (fun t => ∃ x : Word, PutG s t d x ∧
     x.getLsbD 0 = h.headEntry.isSome ∧ x.getLsbD 1 = h.headMarker.isSome ∧ x.getLsbD 2 = h.items.any held ∧ x.getLsbD 3 = false ∧
     (h.headEntry = none → natBits x.toNat 4 60 = 0) ∧
     ∀ e, h.headEntry = some e → natBits x.toNat 4 4 = natBits e.hdr.toNat 60 4 ∧ natBits x.toNat 8 13 = (e.words - e.read) % 2 ^ 13 ∧
       natBits x.toNat 21 17 = natBits e.hdr.toNat 26 17 ∧ natBits x.toNat 38 26 = natBits e.hdr.toNat 0 26)) ∧
   (4 ≤ ch.toNat → Runs (.qflush ch) s (fun t => ∃ h',
     let c1 : Core := { c with marked := if pre.all held = true ∧ post ≠ [] then c.marked.erase ch else c.marked }
     Passed (c1.setChan ch fun _ => h') s t ∧
     h'.bind = h.bind ∧ h'.lines = h.lines ∧ h'.head = (if pre.all held = true ∧ post = [] then h.head else h.tailOff) ∧
     (pre.all held = true → h'.items = pre ++ post.drop 1 ∧ h'.free = h.free) ∧
     (pre.all held = false → h'.items = pre.filter held ++ post ∧ h'.free = h.free + ((pre.filter fun i => !held i).map size).sum))))

/-! ## Far memory and the engine -/

/-- R251, R252, R207, R208, R228, R313 and R231: what an FLD, an FST or each of the ten FAMO does at its issue. Faults come in their
order with the address in TRAPVAL; a page that the FTB holds sends the request to the pump of R207 under the next issue number: that
is the whole effect of the issue, and it completes so for every operand of such a page. FST is done with it; FLD and FAMO hold their
strand until FAR_RESPONSE writes gd (FarCompletions) and STRAND_RELEASE moves it on. A page it does not hold asks that pump for a
walk, and the instruction waits. An access behind granules of the strand's own earlier commands at its bytes, which are still to be
requested, waits for them, or takes the FARFAULT that holds them up (R228, R389). In a copy of a triplicated core (R346) the access
is recorded and no request leaves. Issued again after its strand's return from a fault (R223), an FLD or FAMO whose own access is
still outstanding waits for that access and sends nothing; otherwise the instruction is issued as it is the first time, and behind
granules of its strand it waits, their walks asked for again.
R252 and R313: asking for a walk takes the next issue number, records the walk, counts MISSES up to 0xFFFF, and queues the
request at the pump of R207 (a core without a pump set names pump 0: the model's choice, log entry 12); the rest of the core and of
the machine stays. -/
def Obligations.FarAccesses : Prop :=
  (∀ (s : State) (d a b : GReg) (sz : Sz) (sx w64 : Bool) (off : BitVec 32) (pte : FtbEntry),
   let c := s.core
   let u := s.setSt fun st => { st with redo := false }
   let va := s.g a + off.signExtend 64
   let page := va.toNat / 65536
   let hit := c.far.ftb.find? fun e => e.covers c.csr.asid page
   let q := c.far.seq
   let locked := ∃ r, some r ∈ c.far.regions ∧ r.page ≤ page ∧ page < r.page + r.count
   let issue (i : Instr) (kind : FarKind) (nb : Nat) (sx : Bool) (dst : GReg) (data cmp : List Byte) (write : Bool) : Prop :=
     let pump := c.far.pset.getD (psetIndex va.toNat c.far.pset.length) 0
     let out : Out := { seq := q, strand := s.cur, kind := kind, va := va.toNat, nb := nb, sx := sx, dst := dst, pc := s.pc
                        cmd := 0, well := 0, stall := none }
     let sent (pa : Nat) : State :=
       { u with
         core := { u.core with far := { c.far with seq := q + 1, outs := c.far.outs ++ [out] } }
         pumps := if c.ident.readsAs.isSome then s.pumps else { s.pump pump with queue := (s.pump pump).queue ++ [
           { site := c.ident.site, name := c.ident.name, seq := q, strand := s.cur, asid := c.csr.asid, fnum := c.csr.fnum
             kind := kind, va := va.toNat, pa := pa, nb := nb, data := data, cmp := cmp, ident := none }] } ::
           s.pumps.filter fun p => p.no ≠ pump }
     let touching (k : Cmd) : Prop := k.strand = s.cur ∧ (k.kind = .fget ∨ k.kind = .fput) ∧ k.left ≠ 0 ∧
       va.toNat < k.dst + k.left ∧ k.dst < va.toNat + nb
     let mine (o : Out) : Bool := decide (o.strand = s.cur ∧ o.pc = s.pc ∧ o.kind = kind ∧ o.va = va.toNat)
     let first := kind = .fst ∨ s.st.redo = false ∨ ∀ o ∈ c.far.outs, mine o = false
     let may := first ∧ va.toNat % nb = 0 ∧ va.toNat < 2 ^ 52 ∧ hit = some pte ∧ (write = true → pte.w = true)
     (∀ o, kind ≠ .fst → s.st.redo = true → c.far.outs.find? mine = some o → exec i s = .next (u.wait (.far o.seq))) ∧
     (first → va.toNat % nb ≠ 0 → exec i s = .next (u.trap 0x02 va 8)) ∧
     (first → va.toNat % nb = 0 → 2 ^ 52 ≤ va.toNat → exec i s = .next (u.trap 0x0A va 8)) ∧
     (first → va.toNat % nb = 0 → va.toNat < 2 ^ 52 → hit = none → locked → exec i s = .next (u.trap 0x08 va 8)) ∧
     (first → va.toNat % nb = 0 → va.toNat < 2 ^ 52 → hit = none → ¬ locked → exec i s =
       .next ((u.startWalk va.toNat (.strand s.cur kind.access)).wait .walk)) ∧
     (first → va.toNat % nb = 0 → va.toNat < 2 ^ 52 → hit = some pte → write = true → pte.w = false →
       exec i s = .next (u.trap 0x0A va 8)) ∧
     (may → s.st.redo = false → (∃ k ∈ c.cmds, touching k) → (∀ k ∈ c.cmds, touching k → ∀ x, k.pause ≠ .farFault x) →
       exec i s = .next (u.wait (.behind va.toNat nb))) ∧
     (∀ k x pre post, may → s.st.redo = false → c.cmds = pre ++ k :: post → touching k → k.pause = .farFault x →
       (∀ j ∈ pre, touching j → ∀ y, j.pause ≠ .farFault y) → exec i s = .next (u.trap 0x09 x 8)) ∧
     (may → s.st.redo = true → (∃ k ∈ c.cmds, touching k) →
       exec i s = .next ((u.rewalk fun k => decide (touching k)).wait (.behind va.toNat nb))) ∧
     (may → (∀ k ∈ c.cmds, ¬ touching k) →
       let t := sent (pte.pa + va.toNat % ((if pte.big then 4096 else 1) * 65536))
       exec i s = .next (match kind with
         | .fst => t.done 8
         | _ => t.wait (.far q)))
   let nb := if w64 then 8 else 4
   let famo (i : Instr) (op : BitVec 4) (signed : Bool) : Prop :=
     issue i (.famo op) nb signed d (leBytes nb (s.g b).toNat) (leBytes nb (s.g d).toNat) true
   issue (.fld d a sz sx off) .fld sz.bytes sx d [] [] false ∧
   issue (.fst d a sz off) .fst sz.bytes false 0 (leBytes sz.bytes (s.g d).toNat) [] true ∧
   famo (.famoadd d a b w64 off) 0 true ∧ famo (.famoand d a b w64 off) 1 true ∧
   famo (.famoor d a b w64 off) 2 true ∧ famo (.famoxor d a b w64 off) 3 true ∧
   famo (.famomin d a b w64 off) 4 true ∧ famo (.famomax d a b w64 off) 5 true ∧
   famo (.famominn d a b w64 off) 6 false ∧ famo (.famomaxn d a b w64 off) 7 false ∧
   famo (.famoswap d a b w64 off) 8 true ∧ famo (.famocas d a b w64 off) 9 true) ∧
  (∀ (s : State) (va : Nat) (who : Walker),
   let c := s.core
   let pump := c.far.pset.getD (psetIndex va c.far.pset.length) 0
   s.startWalk va who = { s with
     core := { c with far := { c.far with
       seq := c.far.seq + 1, walks := c.far.walks ++ [{ seq := c.far.seq, va := va, who := who, discard := false }]
       misses := if c.far.misses.toNat < 0xFFFF then c.far.misses + 1 else 0xFFFF } }
     pumps := { s.pump pump with walkq := (s.pump pump).walkq ++ [
         { site := c.ident.site, seq := c.far.seq, asid := c.csr.asid, fnum := c.csr.fnum, name := c.ident.name, va := va, who := who }] } ::
       s.pumps.filter fun p => p.no ≠ pump } ∧
   psetIndex va c.far.pset.length = (natBits va 12 16 ^^^ natBits va 28 16 ^^^ natBits va 44 8) % c.far.pset.length)

/-- R251, R208, R361, R386 and R320: FAR_RESPONSE takes the first response, of any access but an FGET granule, that nothing holds
back. A response belongs to the access of its issue number, in a copy of a triplicated core (R346) to that of its strand, kind and
address. One whose strand is parked on its access waits for the strand's return (R223), which the supervisor brings about where it
took the fault; that of a store not performed waits for an FLD or FAMO that its strand has outstanding (log entry 78). The response
to an FLD or FAMO leaves the core and writes gd, extended as LD extends it, or raises its fault at the instruction with the far
address in TRAPVAL; STRAND_RELEASE then moves the strand past the instruction. Its bytes enter the signature at that retirement
(R361). One whose instruction has been left leaves nothing; that FLTSKP leaves it so is the model's choice (log entry 77). An
acknowledged store or granule only leaves; a failed granule is recorded against its command (R248), and a store whose request failed
its CRC raises UE_FAR at its instruction, or an asynchronous fault where its strand has ended or is parked already (the model's
reading, log entry 78).
R229, R294, R248, R223 and R389: FFENCE and WAITE complete at once where nothing they wait for is outstanding; WAITE then
raises the first recorded error of the tag in issue order and clears the tag's records (every one of them: the model's choice, log
entry 23); otherwise they wait, unless the work has met a FARFAULT or an enabled STALL, which they take; where both are there,
FARFAULT (the model's choice, log entry 59), which lasts until a walk for its granule succeeds. Issued again after that fault they wait
on, and the walk of each paused command that they wait for is asked for again (R250). -/
def Obligations.FarCompletions : Prop :=
  (∀ (s : State) (r : Resp) (o : Out) (pre post : List Resp),
   let c := s.core
   let load (o : Out) : Prop := o.kind = .fld ∨ ∃ op, o.kind = .famo op
   let held (r : Resp) (o : Out) : Prop :=
     let st := c.strand o.strand
     (load o ∧ st.parked = true ∧ st.pc = o.pc ∧ ¬ (st.toSupervisor = true ∧ st.state = .live .park)) ∨
     (o.kind = .fst ∧ r.status ≠ .ok ∧ st.parked = false ∧ ∃ x ∈ c.far.outs, x.strand = o.strand ∧ x.pc ≠ 0xFFFFFFFFFFFFFFFF ∧ load x)
   let takes (r : Resp) (o : Out) : Prop := r.kind ≠ .fget ∧
     (c.far.outs.find? fun o => if c.ident.readsAs.isSome then decide (o.strand = r.strand ∧ o.kind = r.kind ∧ o.va = r.va)
       else decide (o.seq = r.seq)) = some o ∧ ¬ held r o
   let st := c.strand o.strand
   let left : State := { s with core := { c with far := { c.far with
     resps := c.far.resps.erase r, outs := c.far.outs.filter fun x => x.seq ≠ o.seq } } }
   let va : Word := BitVec.ofNat 64 o.va
   let gone := o.pc = 0xFFFFFFFFFFFFFFFF
   let parkedOn := st.state = .live .park ∧ st.pc = o.pc
   ((∀ x ∈ c.far.resps, ∀ y, ¬ takes x y) → exec .farResponse s = .next s) ∧
   (c.far.resps = pre ++ r :: post → (∀ x ∈ pre, ∀ y, ¬ takes x y) → takes r o →
     (load o → parkedOn → exec .farResponse s = .next { s with core := c.setStrand o.strand Strand.resumed }) ∧
     (load o → ¬ parkedOn → gone → exec .farResponse s = .next left) ∧
     (load o → ¬ parkedOn → ¬ gone → r.status = .ok → Runs .farResponse s (fun t =>
       let x : Word := extend (8 * o.nb) o.sx (ofLeBytes (r.data.take o.nb))
       t = { left with core := { left.core with strands := t.core.strands } } ∧
       (∀ n, n ≠ o.strand → t.core.strand n = c.strand n) ∧
       t.core.strand o.strand = { st.setLive (.wait (.finished 8)) with
         redo := false, g := if o.dst = 0 then st.g else st.g.set o.dst.toNat x
         late := if o.dst = 0 then st.late else st.late ++ leBytes 8 x.toNat })) ∧
     (load o → ¬ parkedOn → ¬ gone → r.status = .ueFar → exec .farResponse s = .next (left.faultOn o.strand 0x0D va o.pc 8)) ∧
     (load o → ¬ parkedOn → ¬ gone → r.status = .farUnsup → exec .farResponse s = .next (left.faultOn o.strand 0x18 va o.pc 8)) ∧
     (o.kind = .fst → r.status = .ok → exec .farResponse s = .next left) ∧
     (o.kind = .fst → r.status ≠ .ok → gone ∨ st.state = .absent ∨ st.parked = true →
       exec .farResponse s = .next (left.asyncFault left.core 0x0D va)) ∧
     (o.kind = .fst → r.status ≠ .ok → ¬ gone → st.state ≠ .absent → st.parked = false →
       let past := match st.liveState with
         | some (.wait (.finished len)) => left.core.completeWait o.strand len
         | _ => left.core
       exec .farResponse s = .next (({ left with core := (past.orphan o.strand).setStrand o.strand fun st => { st with pc := o.pc } }).faultOn
         o.strand 0x0D va o.pc 8)) ∧
     (o.kind = .fput → r.status = .ok → exec .farResponse s = .next left) ∧
     (o.kind = .fput → r.status ≠ .ok → exec .farResponse s = .next { left with core := left.core.cmdError o.cmd 0x0D va }) ∧
     (o.kind = .fget → exec .farResponse s = .next left))) ∧
  (∀ (s : State) (sc : Scope) (a : GReg) (e : TagErr) (code : BitVec 8) (val : Word),
   let c := s.core
   let tag : BitVec 6 := (s.g a).extractLsb' 0 6
   let wide := decide (sc ≠ .strand)
   let come (o : Out) : Prop := (o.kind = .fld ∨ ∃ op, o.kind = .famo op) ∧ (c.strand o.strand).parked = true ∧ (c.strand o.strand).pc = o.pc ∧
     ¬ ((c.strand o.strand).toSupervisor = true ∧ (c.strand o.strand).inPark = true) ∧ ∃ y ∈ c.far.resps, c.outFor y = some o
   let covers := (∃ o ∈ c.far.outs, o.seq < c.far.seq ∧ (sc ≠ .strand ∨ o.strand = s.cur) ∧ ¬ come o) ∨
     (∃ k ∈ c.cmds, (k.kind = .fget ∨ k.kind = .fput) ∧ k.seq < c.far.seq ∧ (sc ≠ .strand ∨ k.strand = s.cur))
   let busy := ∃ k ∈ c.cmds, k.tag = tag
   let u := s.setSt fun st => { st with redo := false }
   let first := e ∈ c.errs ∧ e.tag = tag ∧ (∀ x ∈ c.errs, x.tag = tag → x ≠ e → e.seq < x.seq)
   let fault1 := c.workFault (Cmd.fenced wide s.cur c.far.seq) (Out.fenced wide s.cur c.far.seq)
   let fault2 := c.workFault (fun k => decide (k.tag = tag)) (c.outOfTag tag)
   let finishes (i : Instr) : Prop := Runs i s (fun t => Own c s t ∧ SameBytes s t ∧ t.st = { s.st with pc := s.pc + 4, redo := false })
   (¬ covers → finishes (.ffence sc)) ∧
   (covers → s.st.redo = false → fault1 = none → exec (.ffence sc) s = .next (u.wait (.ffence wide c.far.seq))) ∧
   (covers → s.st.redo = false → fault1 = some (code, val) → exec (.ffence sc) s = .next (u.trap code val 4)) ∧
   (covers → s.st.redo = true → exec (.ffence sc) s =
     .next ((u.rewalk (Cmd.fenced wide s.cur c.far.seq)).wait (.ffence wide c.far.seq))) ∧
   (¬ busy → (∀ x ∈ c.errs, x.tag ≠ tag) → finishes (.waite a)) ∧
   (¬ busy → first → exec (.waite a) s =
     .next ({ u with core := { u.core with errs := c.errs.filter fun x => x.tag ≠ tag } }.trap e.code e.val 4)) ∧
   (busy → s.st.redo = false → fault2 = none → exec (.waite a) s = .next (u.wait (.waite tag))) ∧
   (busy → s.st.redo = false → fault2 = some (code, val) → exec (.waite a) s = .next (u.trap code val 4)) ∧
   (busy → s.st.redo = true → exec (.waite a) s = .next ((u.rewalk fun k => decide (k.tag = tag)).wait (.waite tag))) ∧
   -- the walks of paused commands, each of which its command then waits for
   (∀ sel : Cmd → Bool, (∀ k ∈ c.cmds, sel k = true → ∀ x, k.pause ≠ .farFault x) → s.rewalk sel = s) ∧
   (∀ (sel : Cmd → Bool) pre post (k : Cmd) x, c.cmds = pre ++ k :: post → sel k = true → k.pause = .farFault x →
     (∀ j ∈ pre, sel j = true → ∀ y, j.pause ≠ .farFault y) → (∀ j ∈ pre ++ post, j.seq ≠ k.seq) →
     s.rewalk sel = ((s.startWalk x.toNat (.engine k.seq s.cur (if k.kind = .fget then 0 else 1))).mapCore fun c =>
       { c with cmds := pre ++ { k with pause := .rewalk x } :: post }).rewalk sel) ∧
   -- the fault of paused commands
   (∀ (sel : Cmd → Bool) (outs : Out → Bool) pre post (k : Cmd) x, c.cmds = pre ++ k :: post → sel k = true →
     (k.pause = .farFault x ∨ k.pause = .rewalk x) → (∀ j ∈ pre, sel j = true → ∀ y, j.pause ≠ .farFault y ∧ j.pause ≠ .rewalk y) →
     c.workFault sel outs = some (0x09, x)) ∧
   (∀ sel outs, (∀ k ∈ c.cmds, sel k = true → ∀ y, k.pause ≠ .farFault y ∧ k.pause ≠ .rewalk y) →
     (c.csr.faultMask.getLsbD 11 = false ∨ ∀ o ∈ c.far.outs, outs o = true → o.stall = none) → c.workFault sel outs = none))

/-- R253 and R252: FTBL records a region of the strand and asks for the walk of its first page that no locked entry translates, or
is done where none is left or only 8 unlocked entries would remain; a fifth region, and a page beyond the far space, raise
FARPROT, the second with its region kept (the model's choice, log entry 22). An FTBL whose region is open already goes on with it.
The walk that comes back locks the page's entry, unless a locked one translates the page already or only 8 unlocked entries would
remain; a leaf that is not LOCKABLE, or is quarantined, takes the region away with the locks of its entries and raises FARPROT with
bit 63 of TRAPVAL set. FTBU drops the strand's regions that lie wholly inside the range and
unlocks their entries, those apart that have a page in a region that stays. FTBP asks for the walk of every
untranslated page of the range in the far space, each as WalkAsked says, and waits for none; they load as many entries as there are
unlocked ones (PageWalkEvents).
R254, R178 and R182: CHBIND writes the binding from g[a], base and len and empties the ring, and raises CHAN and WELLRANGE in
their order, changing nothing; the upper bits of TRAPVAL are a free value (log entry 5). -/
def Obligations.RegionsAndBindings : Prop :=
  (∀ (s : State) (a : GReg) (n : BitVec 16) (i : Nat) (site : Site) (q va : Nat) (m : StrandNo)
     (g : BitVec 2) (pte : Word) (big : Bool),
   let c := s.core
   let p := natBits (s.g a).toNat 16 36
   let full := c.far.regions.length = 4 ∧ ∀ r ∈ c.far.regions, r ≠ none
   let free := i < c.far.regions.length ∧ c.far.regions.getD i none = none ∧ ∀ j < i, c.far.regions.getD j none ≠ none
   let locked := (c.far.ftb.filter (·.lock)).length
   let done (x : Nat) : Prop := ∃ e ∈ c.far.ftb, e.lock = true ∧ e.covers c.csr.asid x = true
   let u : State := (s.mapCore fun c => { c with far := { c.far with
     regions := c.far.regions.set i (some { page := p, count := n.toNat, strand := s.cur }) } }).setSt
       fun st => { st with redo := false, ftblOpen := some (BitVec.ofNat 2 i) }
   let mine (r : FtbRegion) : Bool := decide (r.strand = s.cur ∧ p ≤ r.page ∧ r.page + r.count ≤ p + n.toNat)
   (s.st.ftblOpen = none → full → exec (.ftbl a n) s =
     .next ((s.setSt fun st => { st with redo := false }).trap 0x0A (BitVec.ofNat 64 (p * 65536) ||| 0x8000000000000000) 8)) ∧
   (∀ x, s.st.ftblOpen = none → free → locked < 24 → p ≤ x → x < p + n.toNat → ¬ done x → (∀ y, p ≤ y → y < x → done y) →
     2 ^ 52 ≤ x * 65536 → exec (.ftbl a n) s = .next (u.trap 0x0A (BitVec.ofNat 64 (x * 65536)) 8)) ∧
   (∀ x r, s.st.ftblOpen = some r → locked < 24 → p ≤ x → x < p + n.toNat → ¬ done x → (∀ y, p ≤ y → y < x → done y) →
     x * 65536 < 2 ^ 52 → exec (.ftbl a n) s =
       .next (((s.setSt fun st => { st with redo := false }).startWalk (x * 65536) (.ftbl s.cur r)).wait .walk)) ∧
   (∀ x, s.st.ftblOpen = none → free → locked < 24 → p ≤ x → x < p + n.toNat → ¬ done x → (∀ y, p ≤ y → y < x → done y) →
     x * 65536 < 2 ^ 52 → exec (.ftbl a n) s = .next ((u.startWalk (x * 65536) (.ftbl s.cur (BitVec.ofNat 2 i))).wait .walk)) ∧
   (∀ x r, s.st.ftblOpen = some r → locked < 24 → p ≤ x → x < p + n.toNat → ¬ done x → (∀ y, p ≤ y → y < x → done y) →
     2 ^ 52 ≤ x * 65536 → exec (.ftbl a n) s =
       .next ((s.setSt fun st => { st with redo := false }).trap 0x0A (BitVec.ofNat 64 (x * 65536)) 8)) ∧
   (s.st.ftblOpen ≠ none → (24 ≤ locked ∨ ∀ y, p ≤ y → y < p + n.toNat → done y) → Runs (.ftbl a n) s (fun t =>
     Own c s t ∧ SameBytes s t ∧ t.st = { s.st with pc := s.pc + 8, redo := false, ftblOpen := none })) ∧
   (s.st.ftblOpen = none → free → (24 ≤ locked ∨ ∀ y, p ≤ y → y < p + n.toNat → done y) → Runs (.ftbl a n) s (fun t =>
     Own u.core s t ∧ SameBytes s t ∧ t.st = { s.st with pc := s.pc + 8, redo := false, ftblOpen := none })) ∧
   ((s.coreAt site).far.walks.find? (fun w => w.seq = q) = some { seq := q, va := va, who := .ftbl m g, discard := false } →
     let d := s.coreAt site
     let left : State := s.setCoreAt site fun c => { c with far := { c.far with walks := c.far.walks.filter fun x => x.seq ≠ q } }
     let refused := pte.getLsbD 2 = false ∨ pte.getLsbD 3 = true
     let locks := (d.far.ftb.filter (·.lock)).length < 24 ∧ ∀ e ∈ d.far.ftb, e.lock = true → e.covers d.csr.asid (va / 65536) = false
     let page := if big then va / 65536 / 4096 * 4096 else va / 65536
     let entry : FtbEntry := { asid := d.csr.asid, page := page, big := big, pa := natBits pte.toNat 16 36 * 65536, w := pte.getLsbD 1, lock := true, region := g }
     (refused → s.walkEnded site q (.leaf pte big) = (left.setCoreAt site fun c =>
       ({ c with far := { c.far with
         ftb := c.far.ftb.map fun (e : FtbEntry) => if e.lock = true ∧ e.region = g then { e with lock := false } else e
         regions := c.far.regions.set g.toNat none } }).setStrand m fun st => { st with ftblOpen := none }).faultAt
           site m 0x0A (BitVec.ofNat 64 (va / 65536 * 65536) ||| 0x8000000000000000) (d.strand m).pc 8) ∧
     (¬ refused → ¬ locks → s.walkEnded site q (.leaf pte big) = left) ∧
     (¬ refused → locks → ∃ ftb, s.walkEnded site q (.leaf pte big) =
         ({ left with free := s.free + 1 }.setCoreAt site fun c => { c with far := { c.far with ftb := ftb } }) ∧
       entry ∈ ftb ∧ (∀ e ∈ d.far.ftb, e.lock = true → e ∈ ftb) ∧ ∀ e ∈ ftb, e = entry ∨ e ∈ d.far.ftb)) ∧
   (c.far.regions.length = 4 → Runs (.ftbu a n) s (fun t => ∃ ftb regions,
     Stepped { c with far := { c.far with ftb := ftb, regions := regions } } s t 0 8 ∧ SameBytes s t ∧
     (∀ j < 4, ∀ r, c.far.regions.getD j none = some r → regions.getD j none = if mine r then none else some r) ∧
     (∀ j < 4, c.far.regions.getD j none = none → regions.getD j none = none) ∧
     ftb.map (fun e => { e with lock := false, region := 0 }) = c.far.ftb.map (fun e => { e with lock := false, region := 0 }) ∧
     (∀ x ∈ ftb.zip c.far.ftb,
       let gone := ∃ r, c.far.regions.getD x.2.region.toNat none = some r ∧ mine r = true
       let covers (j : Nat) : Prop := ∃ r, c.far.regions.getD j none = some r ∧ mine r = false ∧
         r.page < x.2.page + (if x.2.big then 4096 else 1) ∧ x.2.page < r.page + r.count
       ((x.2.lock = false ∨ ¬ gone) → x.1 = x.2) ∧
       (x.2.lock = true → gone → (x.1.lock = true ↔ ∃ j, covers j) ∧ (x.1.lock = true → covers x.1.region.toNat))))) ∧
   (let wanted := ((List.range n.toNat).map (p + ·)).filter fun x => x * 65536 < 2 ^ 52 ∧ ∀ e ∈ c.far.ftb, e.covers c.csr.asid x = false
    let who : Walker := .prefetched c.far.seq (32 - locked)
    exec (.ftbp a n) s = .next ((wanted.foldl (fun t x => t.startWalk (x * 65536) who) s).done 8) ∧
    Runs (.ftbp a n) s (fun t => ∃ walks misses pumps seq,
      Stepped { c with far := { c.far with walks := c.far.walks ++ walks, misses := misses, seq := seq } }
        { s with pumps := pumps } t 0 8 ∧ SameBytes s t ∧ seq = c.far.seq + walks.length ∧
      (∀ w ∈ walks, w.who = who ∧ w.discard = false) ∧ walks.map (·.va) = wanted.map (· * 65536)))) ∧
  (∀ (s : State) (ch : Chan) (a : GReg) (base len : BitVec 16),
   let c := s.core
   let x := s.g a
   let fmtOk := natBits x.toNat 19 45 = 0 ∧ natBits x.toNat 4 4 = 0 ∧ natBits x.toNat 8 2 ≠ 3 ∧ natBits x.toNat 0 4 ≤ 12
   let bad (code : BitVec 8) : Prop := ∃ v : Word, v.extractLsb' 0 5 = ch ∧
     exec (.chbind ch a base len) s = .next ({ s with free := s.free + 1 }.trap code v 8)
   let empty := (c.chan ch).items = [] ∧ (∀ y ∈ c.spill, y.ch ≠ ch) ∧ c.headerWaits ch = false ∧ ∀ k ∈ c.cmds, ¬ (k.kind = .strmIn ∧ k.ch = ch)
   (ch.toNat < 4 → bad 0x06) ∧ (4 ≤ ch.toNat → ¬ fmtOk → bad 0x06) ∧
   (4 ≤ ch.toNat → fmtOk → 49152 < base.toNat + len.toNat → bad 0x03) ∧
   (4 ≤ ch.toNat → fmtOk → base.toNat + len.toNat ≤ 49152 → ¬ empty → bad 0x06) ∧
   (4 ≤ ch.toNat → fmtOk → base.toNat + len.toNat ≤ 49152 → empty → Runs (.chbind ch a base len) s (fun t =>
     Stepped (c.setChan ch fun h => { h with bind := base ++ len ++ (0#13) ++ x.extractLsb' 0 19, head := 0, free := len.toNat })
       s t 0 8 ∧ SameBytes s t)))

/-- R247, R249 and R250: STRM, FGET and FPUT: the faults at issue in their order (those whose TRAPVAL the spec does not state give a
free value, log entry 5), the wait at 16 outstanding commands, and the command that the engine accepts; FGET and FPUT start their
granules at once.
R250 and R252: the granules of an accepted command: a command whose granules all lie in pages that the FTB holds sends one
request per granule in ascending order, each under its own issue number; one that meets an absent page asks for its walk and pauses
there; one whose next granule stands behind a granule that an earlier command of its strand has still to request pauses too (R228);
a page that may not be written, a locked region without an entry, or an uncorrectable word of an FPUT granule is recorded against
the tag (R248). The words of an FPUT granule are read, and corrected (R171), as its request is formed (the model's choice, log entry
65), and of several bad words the lowest is named (log entry 53). -/
def Obligations.EngineCommands : Prop :=
  (∀ (s : State) (d a b : GReg) (ch : Chan) (len : BitVec 24),
   let c := s.core
   let x := (s.g a).toNat
   let y := (s.g b).toNat
   let free (i : Instr) (code : BitVec 8) : Prop := ∃ v, exec i s = .next ({ s with free := s.free + 1 }.trap code v 8)
   let chan (i : Instr) : Prop := ∃ v : Word, v.extractLsb' 0 5 = ch ∧ exec i s = .next ({ s with free := s.free + 1 }.trap 0x06 v 8)
   let room := c.cmds.length < 16
   let cmd (kind : CmdKind) (ch : Chan) (well dst : Nat) : Cmd :=
     { kind := kind, tag := (s.g d).extractLsb' 0 6, seq := c.far.seq, strand := s.cur, ch := ch, bind := (c.chan ch).bind, well := well
       dst := dst, left := len.toNat, pause := .none, stopped := false }
   let accepted (k : Cmd) : Core := { c with cmds := c.cmds ++ [k], far := { c.far with seq := c.far.seq + 1 } }
   let takes (i : Instr) (k : Cmd) : Prop :=
     (room → Runs i s (fun t => Stepped (accepted k) s t 0 8 ∧ SameBytes s t)) ∧ (¬ room → exec i s = .next (s.wait .engine))
   let bound := (c.chan ch).rlen ≠ 0
   let units := match unitWords (c.chan ch).bind with
     | some n => len.toNat % (8 * n) = 0
     | none => natBits (c.chan ch).bind.toNat 0 4 ≤ 7
   let stream (i : Instr) : Prop :=
     (ch.toNat < 4 → chan i) ∧ (4 ≤ ch.toNat → x % 8 ≠ 0 → free i 0x02) ∧
     (4 ≤ ch.toNat → x % 8 = 0 → 393216 < x + len.toNat → free i 0x03) ∧
     (4 ≤ ch.toNat → x % 8 = 0 → x + len.toNat ≤ 393216 → ¬ bound → chan i)
   let granules (i : Instr) (kind : CmdKind) : Prop :=
     (x % 8 ≠ 0 → free i 0x02) ∧ (x % 8 = 0 → y % 64 ≠ 0 → exec i s = .next (s.trap 0x02 (s.g b) 8)) ∧
     (x % 8 = 0 → y % 64 = 0 → 393216 < x + len.toNat → free i 0x03) ∧
     (x % 8 = 0 → y % 64 = 0 → x + len.toNat ≤ 393216 → 2 ^ 52 < y + len.toNat → free i 0x0A) ∧
     (x % 8 = 0 → y % 64 = 0 → x + len.toNat ≤ 393216 → y + len.toNat ≤ 2 ^ 52 →
       (room → exec i s = .next (({ s with core := accepted (cmd kind 0 x y) }.engineRun c.far.seq).done 8)) ∧
       (¬ room → exec i s = .next (s.wait .engine)))
   stream (.strmOut d a ch len) ∧ stream (.strmIn d a ch len) ∧
   (4 ≤ ch.toNat → x % 8 = 0 → x + len.toNat ≤ 393216 → bound → units → takes (.strmOut d a ch len) (cmd .strmOut ch x 0)) ∧
   (4 ≤ ch.toNat → x % 8 = 0 → x + len.toNat ≤ 393216 → bound → ¬ units → chan (.strmOut d a ch len)) ∧
   (4 ≤ ch.toNat → x % 8 = 0 → x + len.toNat ≤ 393216 → bound → takes (.strmIn d a ch len) (cmd .strmIn ch x 0)) ∧
   ((x % 8 ≠ 0 ∨ y % 8 ≠ 0) → free (.strmCopy d a b len) 0x02) ∧
   (x % 8 = 0 → y % 8 = 0 → 393216 < Max.max x y + len.toNat → free (.strmCopy d a b len) 0x03) ∧
   (x % 8 = 0 → y % 8 = 0 → Max.max x y + len.toNat ≤ 393216 → takes (.strmCopy d a b len) (cmd .copy 0 x y)) ∧
   granules (.fget d a b len) .fget ∧ granules (.fput d a b len) .fput) ∧
  (∀ (s : State) (k : Cmd) (n : Nat) (e : FtbEntry),
   let c := s.core
   let step := s.runGranules (n + 1) k.seq
   let set (t : State) (f : Cmd → Cmd) : State := t.mapCore fun c => { c with cmds := c.cmds.map fun j => if j.seq = k.seq then f j else j }
   let hit := c.far.ftb.find? fun e => e.covers c.csr.asid (k.dst / 65536)
   let clean := k.kind = .fput → c.well.badIn k.well 64 = false
   let kind : FarKind := if k.kind = .fget then .fget else .fput
   let behind := ∃ j ∈ c.cmds, j.strand = k.strand ∧ j.seq < k.seq ∧ (j.kind = .fget ∨ j.kind = .fput) ∧ j.left ≠ 0 ∧
     k.dst < j.dst + j.left ∧ j.dst < k.dst + 64
   (c.cmds.find? fun j => j.seq = k.seq) = some k → 0 < k.left → k.kind = .fget ∨ k.kind = .fput →
     (behind → step = set s fun j => { j with pause := .behind }) ∧
     (¬ behind → hit = some e → (k.kind = .fput → e.w = true) → clean → k.well % 8 = 0 →
       step = (set ((if k.kind = .fput then s.touch k.well 64 else s).request { seq := 0, strand := k.strand, kind := kind, va := k.dst, nb := 64, sx := false, dst := 0, pc := 0, cmd := k.seq, well := k.well, stall := none }
           (e.pa + k.dst % ((if e.big then 4096 else 1) * 65536)) (if k.kind = .fput then Mem.read c.well.bytes k.well 64 else []) [])
         fun j => { j with well := j.well + 64, dst := j.dst + 64, left := j.left - 64 }).runGranules n k.seq) ∧
     (¬ behind → hit = none → c.inRegion (k.dst / 65536) = false →
       step = set (s.startWalk k.dst (.engine k.seq k.strand (if k.kind = .fget then 0 else 1))) fun j => { j with pause := .walk }) ∧
     (¬ behind → hit = none → c.inRegion (k.dst / 65536) = true → step = { s with core := c.cmdError k.seq 0x08 (BitVec.ofNat 64 k.dst) }) ∧
     (¬ behind → hit = some e → k.kind = .fput → e.w = false → step = { s with core := c.cmdError k.seq 0x0A (BitVec.ofNat 64 k.dst) }) ∧
     (∀ x < 8, ¬ behind → hit = some e → k.kind = .fput → e.w = true → k.well % 8 = 0 → c.well.badIn (k.well + 8 * x) 8 = true →
       (∀ y < x, c.well.badIn (k.well + 8 * y) 8 = false) →
       step = { s with core := c.cmdError k.seq 0x0C (BitVec.ofNat 64 (k.well + 8 * x)) }))

/-! ## What a core does of its own accord -/

/-- R247 to R250, R171 and R240: the wellhead's and the local port's own steps: a granule's data land in the well, or the
uncorrectable pattern does and the error is recorded; a command whose walk has ended, or that stands behind no earlier granule any
more (R228), runs on; a copy moves its bytes word by word, an in stream the words that its queue holds; a command with nothing left
ends; a message leaves the staging buffer or an out stream of any format for the router, unless the router's local input has two or fewer of its eight beats of the class free (R184), and not
before an earlier staged message of its channel (R240), nor a marker before what its strand staged earlier (R246); an uncorrectable word
ends a stream with UE_WELL (R248), or makes a line poison (R171) and an MX message known bad (R321). That a copy moves all
its words in one step is the model's choice (log entry 87). -/
def Obligations.EngineEvents : Prop := ∀ (s : State) (idx : Nat) (cls : BitVec 2) (r : Resp) (o : Out) (k : Cmd) (x : Staged)
    (pre post : List Staged) (e : Entry) (v : Word),
  let c := s.core
  let drop : Core := { c with far := { c.far with resps := c.far.resps.erase r, outs := c.far.outs.filter fun x => x.seq ≠ o.seq } }
  let a := o.well / 8
  let waits := ∃ w ∈ c.far.walks, w.discard = false ∧ ∃ n x, w.who = .engine k.seq n x
  let only := ∀ j ∈ c.cmds, j.seq = k.seq → j = k
  let quiet := ∀ x ∈ c.far.outs, x.kind = .fget ∨ x.kind = .fput → x.cmd ≠ k.seq
  let behind := ∃ j ∈ c.cmds, j.strand = k.strand ∧ j.seq < k.seq ∧ (j.kind = .fget ∨ j.kind = .fput) ∧ j.left ≠ 0 ∧
    k.dst < j.dst + j.left ∧ j.dst < k.dst + 64
  let ready := (k.pause = .walk ∧ ¬ waits) ∨ (k.pause = .behind ∧ ¬ behind)
  let resume : State := State.engineRun { s with core := { c with cmds := c.cmds.map fun j => if j = k then { k with pause := .none } else j } } k.seq
  let q := c.chan k.ch
  let left := e.words - e.read
  let n := Min.min (k.left / 8) left
  let src (i : Nat) : Nat := 8 * (q.rbase + (e.off + 1 + e.read + i) % q.rlen)
  let streamsIn := c.cmds[idx]? = some k ∧ only ∧ k.kind = .strmIn ∧ 0 < k.left ∧ k.pause = .none ∧ quiet
  let clsOf (m : Msg) : BitVec 2 := m.hdr.extractLsb' 58 2
  let stop := 6 ≤ ((c.router.inq.filter fun y => decide (y.1 = .loc) && decide (clsOf y.2 = cls)).map fun y => y.2.pay.length + 1).sum
  let enters (r : Router) (m : Msg) : Router := { r with
    inq := r.inq ++ [(.loc, m)]
    since := if r.inq.any fun y => decide (y.1 = .loc) && decide (y.2.ch = m.ch) then r.since else (.loc, m.ch, c.csr.cycle.toNat) :: r.since }
  let ahead (y : Staged) : Prop := y.msg.ch = x.msg.ch ∨
    (natBits x.msg.hdr.toNat 60 4 = 3 ∧ y.strand ≠ none ∧ y.strand = x.strand)
  let oldest := c.router.staged = pre ++ x :: post ∧ clsOf x.msg = cls ∧ ∀ y ∈ pre, clsOf y.msg ≠ cls
  let stream := c.cmds.find? (fun k => decide (k.kind = .strmOut) && decide (k.left ≠ 0) && decide (k.bind.extractLsb' 8 2 = cls) &&
    c.firstOn k)
  (c.nextResp true = some (r, o) → r.status = .ok → r.data.length = 64 → exec .fgetGranuleData s =
    .next { s with core := { drop with well := c.well.store o.well r.data } }) ∧
  (c.nextResp true = some (r, o) → r.status ≠ .ok → o.well % 8 = 0 → Runs .fgetGranuleData s (fun t => ∃ w,
    t = { s with core := ({ drop with well := w }.cmdError o.cmd 0x0D (BitVec.ofNat 64 o.va)) } ∧
    (∀ x, (x < o.well ∨ o.well + 64 ≤ x) → t.byte x = s.byte x) ∧ (∀ i < 8, w.bad (a + i) = true) ∧ ∀ x, (x < a ∨ a + 8 ≤ x) → w.mark x = c.well.mark x)) ∧
  (c.nextResp true = none → exec .fgetGranuleData s = .next s) ∧
  (c.cmds[idx]? = some k → only → ready → c.stopped = false → exec (.engineResume idx) s = .next resume) ∧
  (c.cmds[idx]? = some k → only → k.pause = .rewalk v → ¬ waits → c.stopped = false → exec (.engineResume idx) s =
    .next { resume with core := { resume.core with cmds := resume.core.cmds.map fun j =>
      if j.seq = k.seq ∧ j.pause = .walk then { j with pause := .rewalk v } else j } }) ∧
  (c.cmds[idx]? = some k → ((¬ ready ∧ ∀ v, k.pause = .rewalk v → waits) ∨ c.stopped = true) → exec (.engineResume idx) s = .next s) ∧
  (c.cmds[idx]? = some k → only → k.left = 0 → k.pause = .none → quiet →
    exec (.engineCommandComplete idx) s = .next { s with core := { c with cmds := c.cmds.filter fun j => j.seq ≠ k.seq } }) ∧
  (c.cmds[idx]? = some k → only → k.left = 0 → ¬ quiet → exec (.engineCommandComplete idx) s = .next s) ∧
  (c.cmds[idx]? = some k → only → k.kind = .copy → k.left % 8 = 0 → 0 < k.left → k.pause = .none → quiet → c.memWf = true →
    k.well % 8 = 0 → k.dst % 8 = 0 →
    (k.dst + k.left ≤ k.well ∨ k.well + k.left ≤ k.dst) → c.well.badIn k.well k.left = false →
    Runs (.engineCommandComplete idx) s (fun t => ∃ w,
      t = { s with core := { c with well := w, cmds := c.cmds.filter fun j => j.seq ≠ k.seq } } ∧
      ∀ x, t.byte x = if k.dst ≤ x ∧ x < k.dst + k.left then s.byte (k.well + (x - k.dst)) else s.byte x)) ∧
  (streamsIn → c.stopped = false → c.firstOn k = true → k.left % 8 = 0 → k.well % 8 = 0 → c.memWf = true → q.headEntry = some e → e.read < e.words →
    (k.left / 8 ≤ left ∨ q.items = [.entry e]) → (∀ i < n, c.well.badIn (src i) 8 = false ∧ (src i + 8 ≤ k.well ∨ k.well + 8 * n ≤ src i)) →
    Runs (.engineCommandComplete idx) s (fun t => ∃ w, t = { s with core := (Core.setChan { c with
        well := w
        cmds := (if 8 * n = k.left then c.cmds.filter fun j => j.seq ≠ k.seq else
          c.cmds.map fun j => if j.seq = k.seq then { k with well := k.well + 8 * n, left := k.left - 8 * n } else j) } k.ch fun q =>
        if left ≤ n then q.removeAt q.headIdx else { q with items := q.items.set q.headIdx (.entry { e with read := e.read + n }) }) } ∧
      ∀ x, t.byte x = if k.well ≤ x ∧ x < k.well + 8 * n then s.byte (src ((x - k.well) / 8) + (x - k.well) % 8) else s.byte x)) ∧
  (streamsIn → c.stopped = false → c.firstOn k = true → 8 ≤ k.left → q.headEntry = some e → c.well.badIn (src 0) 8 = true →
    exec (.engineCommandComplete idx) s = .next { s with core := { c with
      cmds := c.cmds.filter fun j => j.seq ≠ k.seq
      errs := c.errs ++ [{ tag := k.tag, seq := k.seq, code := 0x0C, val := BitVec.ofNat 64 (src 0) }] } }) ∧
  (streamsIn → (c.stopped = true ∨ c.firstOn k = false ∨ q.headEntry = none) → exec (.engineCommandComplete idx) s = .next s) ∧
  (oldest → (∀ y ∈ pre, ¬ ahead y) → ¬ stop → exec (.localPortSend cls false) s = .next { s with core := { c with
    router := { enters c.router x.msg with staged := pre ++ post } } }) ∧
  (oldest → ((∃ y ∈ pre, ahead y) ∨ stop) → exec (.localPortSend cls false) s = .next s) ∧
  ((∀ m ∈ c.router.staged, clsOf m.msg ≠ cls) → exec (.localPortSend cls false) s = .next s) ∧
  (c.firstOn k = true ↔ ∀ j ∈ c.cmds, j.kind = k.kind → j.ch = k.ch → j.seq < k.seq → j.left = 0) ∧
  (stream = none → exec (.localPortSend cls true) s = .next s) ∧
  (stream = some k → closedBit (c.route k.ch) = true → exec (.localPortSend cls true) s =
    .next { s with core := c.cmdError k.seq 0x17 (BitVec.ofNat 64 (k.ch.toNat + k.left * 2 ^ 32)) }) ∧
  (let fmt := (k.bind.extractLsb' 0 4).toNat
    let trl := k.bind.getLsbD 17
    let block := 8 ≤ fmt ∧ fmt ≤ 10
    let mx := fmt = 11 ∨ fmt = 12
    let t1 := if trl then 1 else 0
    let n := if fmt = 8 then 5 + t1 else if fmt = 9 then 9 + t1 else if fmt = 10 then 17 + t1 else if fmt = 11 then 5 else if fmt = 12 then 9 else
      Min.min 1023 (k.left / 8)
    let words := (List.range n).map fun i => BitVec.ofNat 64 (s.number (k.well + 8 * i) 8)
    let bad (i : Nat) : Prop := c.well.badIn (k.well + 8 * i) 8 = true
    let some' := ∃ i < n, bad i
    let poison : List Word := 0xFF00FF00FF00FF00 :: List.replicate (n - 1) 0
    (stream = some k → closedBit (c.route k.ch) = false → stop → (block ∨ mx ∨ ¬ some') → exec (.localPortSend cls true) s = .next s) ∧
    (stream = some k → closedBit (c.route k.ch) = false → ¬ block → ¬ mx → ∀ i < n, bad i → (∀ j < i, ¬ bad j) →
      exec (.localPortSend cls true) s = .next { s with core := c.cmdError k.seq 0x0C (BitVec.ofNat 64 (k.well + 8 * i)) }) ∧
    (stream = some k → ¬ stop → closedBit (c.route k.ch) = false → (block ∨ mx ∨ ¬ some') → c.memWf = true →
      Runs (.localPortSend cls true) s (fun t => ∃ m : Msg,
        t = { s with core := { c with
          well := c.well.touch k.well (8 * n)
          cmds := c.cmds.map fun j => if j.seq = k.seq then { j with well := j.well + 8 * n, left := j.left - 8 * n } else j
          router := enters c.router m } } ∧
        m.ch = k.ch ∧ (m.bad = true ↔ mx ∧ some') ∧ (block ∧ some' → m.pay = poison) ∧ (¬ (block ∧ some') → m.pay = words) ∧
        natBits m.hdr.toNat 60 4 = (if block ∨ mx then 2 else 0) ∧ natBits m.hdr.toNat 58 2 = cls.toNat ∧ natBits m.hdr.toNat 48 10 = n ∧
        natBits m.hdr.toNat 44 4 = fmt ∧ (m.hdr.getLsbD 43 = true ↔ trl = true ∧ ¬ mx) ∧ natBits m.hdr.toNat 26 17 = k.tag.toNat ∧
        natBits m.hdr.toNat 0 26 = c.ident.name.toNat)))

/-- R180 to R183, R194, R192, R333 and R182: router delivery: a word message enters its ring as an entry with its header and its
content words, creating or waking its handler, one that is known bad with uncorrectable content words (R321); a line is held for its
window, which the header of line n + 2 or a marker closes: the line is then stored by R194, as poison where it was bad; a renorm corrects
the line of its parity (R191); a marker of BARRIER or DRAIN is recorded and wakes a
handler too, and any other one only closes windows (R273); a renorm without a held line is reported (R192); a message that its ring
can never take, and one of any kind on an unbound channel, is discarded and reported, with the channel and SRC in TRAPVAL (its other
bits are free values, log entry 5); one without room waits, or is spilled while its core is stopped (R333). A waiting header or marker is accepted by the same delivery, and a
spilled message enters its ring once the core runs. The model's choices are the room that counts (log entry 10), that a recorded marker
wakes a handler (log entry 15), that a line that nothing combined is held too (log entry 19) and that a bad renorm makes its line bad
(log entry 79). -/
def Obligations.DeliveryEvents : Prop := ∀ (s : State) (cls : BitVec 2) (m : Msg) (x : Spill) (code : BitVec 5) (f : Bfmt) (l0 : Held) (e0 : Entry),
  let c := s.core
  let h := c.chan m.ch
  let kind := natBits m.hdr.toNat 60 4
  let fmt : BitVec 4 := m.hdr.extractLsb' 44 4
  let heads := c.atPort cls = some m
  let drop : Core := { c with router := { c.router with portq := c.router.portq.erase m } }
  let ws := m.pay.flatMap (decodeBeat fmt (c.shiftOf h))
  let addr (i : Nat) : Nat := 8 * (h.rbase + (h.tailOff + i) % h.rlen)
  let entry : Entry := { hdr := m.hdr, off := h.tailOff, words := ws.length, read := 0 }
  let fewer : Core := { c with spill := c.spill.erase x }
  let free := c.spill.all fun s => decide (s.ch ≠ m.ch)
  let unbound := Runs (.routerDelivery cls) s (fun t => ∃ (f : Msg) (pc val : Word),
    t = { s with core := drop, free := s.free + 3 }.post (.fault c.ident.site c.csr.fieldId f) ∧ f.ch = 1 ∧ f.pay = [pc, val] ∧
    f.hdr.extractLsb' 26 8 = 0x06 ∧ f.hdr.getLsbD 37 = true ∧ f.hdr.extractLsb' 0 26 = c.ident.name ∧
    val.extractLsb' 0 5 = m.ch ∧ val.extractLsb' 32 26 = m.hdr.extractLsb' 0 26)
  let arrives (ch : Chan) (t : State) : Prop :=
    let h := c.chan ch
    (∀ n, (h.hv = false ∨ n ≠ h.hstr) → t.core.strand n = c.strand n) ∧
    (h.hv = true → (c.strand h.hstr).state = .absent → c.issue.allowed.getLsbD h.hstr.toNat = true →
      t.core.strand h.hstr = { Strand.blank with
        pc := (c.strand h.hstr).entry, entry := (c.strand h.hstr).entry, cause := 2, wch := ch
        state := if c.stopped then .stop .run else .live .run }) ∧
    (h.hv = true → (c.strand h.hstr).liveState = some (.wait .idle) →
      t.core.strand h.hstr = (c.strand h.hstr).setLive (.wait (.finished 4))) ∧
    (h.hv = true → (c.strand h.hstr).state ≠ .absent → (c.strand h.hstr).liveState ≠ some (.wait .idle) →
      t.core.strand h.hstr = c.strand h.hstr)
  let size (x : Spill) : Nat := match x.item with | .held l => 8 * (l.fmt.n + 3) | .entry _ => 8 * (x.words.length + 1) | .marker _ => 0
  let spillRoom (n : Nat) : Prop := (c.spill.map size).sum + 8 * n ≤ 65536
  let full (n : Nat) : Prop := h.room < n ∨ free = false
  -- a held line as its window leaves it
  let w := l0.fmt.w
  let one (k : Nat) : FVal := if l0.nans.getD k false = true then .nan false 0 false else
    .fin (decide (l0.vals.getD k 0 < 0)) (l0.vals.getD k 0).natAbs ((l0.exps.getD (k / 16) 0 : Int) - 128 - (w - 1 : Nat) + l0.shift)
  let blocks : List Blk := (List.range 4).map fun j => if l0.exps.getD j 0 = 255 then Blk.poison else
    (formBlock w .rdn ((List.range 16).map fun i => one (16 * j + i))).1
  let changed (k : Nat) : Bool := l0.exps.getD (k / 16) 0 ≠ 255 && (blocks.getD (k / 16) Blk.zero).e ≠ 255 &&
    !sameVal (elemVal w (blocks.getD (k / 16) Blk.zero) (k % 16)) (one k)
  let whole := l0.raw.length = l0.fmt.n + 1
  let stored : List Word := if l0.bad then 0xFF00FF00FF00FF00 :: List.replicate l0.fmt.n 0 ++ [l0.mask]
    else if l0.combined then hdrOf blocks :: payOf l0.fmt blocks ++ [l0.mask ||| maskOf ((List.range 64).map changed)]
    else if l0.shift = 0 then l0.raw ++ [l0.mask]
    else
      let bs := (blksOf l0.fmt (l0.raw.getD 0 0) (l0.raw.drop 1)).map fun b => (shiftBlk w .rne l0.shift b).1
      hdrOf bs :: payOf l0.fmt bs ++ [l0.mask]
  let place (i : Nat) : Nat := 8 * (h.rbase + (l0.off + i) % h.rlen)
  let closed : Item := .entry { hdr := l0.hdr, off := l0.off, words := l0.fmt.n + 2, read := 0 }
  let closes (t : State) : Prop := t.number (place 0) 8 = l0.hdr.toNat ∧
    (∀ i < l0.fmt.n + 2, t.number (place (i + 1)) 8 = (stored.getD i 0).toNat) ∧
    ∀ b, (∀ i < l0.fmt.n + 3, b < place i ∨ place i + 8 ≤ b) → t.byte b = s.byte b
  let single := h.items = [.held l0] ∧ c.spill = [] ∧ whole ∧ l0.fmt.n + 3 ≤ h.rlen ∧ h.rbase + h.rlen ≤ 49152 ∧ c.memWf = true
  let isLine (l : Held) : Prop := l.hdr = m.hdr ∧ l.off = h.tailOff ∧ l.line = h.lines ∧ l.fmt = f ∧ l.bad = m.bad ∧
    l.combined = m.hdr.getLsbD 42 ∧ (∀ k, l.nans.getD k false = false) ∧ l.mask = (if m.hdr.getLsbD 43 then m.pay.getD (f.n + 1) 0 else 0) ∧
    (mxFmt fmt = none → l.shift = c.shiftOf h ∧ l.raw = m.pay.take (f.n + 1)) ∧ (mxFmt fmt ≠ none → l.shift = 0)
  (c.atPort cls = none → exec (.routerDelivery cls) s = .next s) ∧
  (heads → kind ≤ 1 → m.ringWords ≤ h.rlen → ws.length + 1 ≤ h.room → free = true → c.memWf = true →
    h.rbase + h.rlen ≤ 49152 → Runs (.routerDelivery cls) s (fun t => ∃ w strands,
      t = { s with core := { drop with well := w, strands := strands, chans := t.core.chans } } ∧
      t.core.chan m.ch = { h with items := h.items ++ [.entry entry], free := h.free - (ws.length + 1) } ∧
      (∀ j, j ≠ m.ch → t.core.chan j = c.chan j) ∧
      arrives m.ch t ∧
      t.number (addr 0) 8 = m.hdr.toNat ∧ w.bad (addr 0 / 8) = false ∧
      (m.bad = false → ∀ i < ws.length, t.number (addr (i + 1)) 8 = (ws.getD i 0).toNat ∧ w.bad (addr (i + 1) / 8) = false) ∧
      (m.bad = true → ∀ i < ws.length, w.bad (addr (i + 1) / 8) = true) ∧
      ∀ b, (∀ i ≤ ws.length, b < addr i ∨ addr i + 8 ≤ b) → t.byte b = s.byte b)) ∧
  (heads → h.rlen = 0 → unbound) ∧ (heads → kind ≤ 1 → h.rlen < m.ringWords → unbound) ∧
  (heads → kind ≤ 1 → m.ringWords ≤ h.rlen → h.room < ws.length + 1 → c.stopped = false → exec (.routerDelivery cls) s = .next s) ∧
  (heads → kind = 2 → storedFmt fmt = some f → h.rlen < f.n + 3 → unbound) ∧
  (heads → kind = 2 → storedFmt fmt = some f → f.n + 3 ≤ h.rlen → (∀ l, Item.held l ∈ h.items → h.lines < l.line + 2) → f.n + 3 ≤ h.room →
    c.spill = [] → Runs (.routerDelivery cls) s (fun t => ∃ (l : Held) (strands : Vector Strand 8),
      t = { s with core := Core.setChan { drop with strands := strands } m.ch fun h =>
        { h with items := h.items ++ [.held l], free := h.free - (f.n + 3), lines := h.lines + 1 } } ∧ arrives m.ch t ∧ isLine l)) ∧
  (heads → kind = 2 → storedFmt fmt = some f → f.n + 3 ≤ h.rlen → (∀ l, Item.held l ∈ h.items → h.lines < l.line + 2) → full (f.n + 3) →
    (∀ y ∈ c.spill, ∀ l, y.item ≠ .held l) →
    (c.stopped = false ∨ ¬ spillRoom (f.n + 3) → exec (.routerDelivery cls) s = .next s) ∧
    (c.stopped = true → spillRoom (f.n + 3) → Runs (.routerDelivery cls) s (fun t => ∃ (l : Held) (strands : Vector Strand 8),
      t = { s with core := (Core.setChan { drop with strands := strands, spill := c.spill ++ [{ ch := m.ch, item := .held l, words := [] }] } m.ch
        fun h => { h with lines := h.lines + 1 }) } ∧ arrives m.ch t ∧ isLine { l with off := h.tailOff }))) ∧
  (heads → kind ≤ 1 → m.ringWords ≤ h.rlen → full (ws.length + 1) → c.stopped = true →
    (¬ spillRoom (ws.length + 1) → exec (.routerDelivery cls) s = .next s) ∧
    (spillRoom (ws.length + 1) → Runs (.routerDelivery cls) s (fun t => ∃ strands,
      let e : Entry := { hdr := m.hdr, off := 0, words := ws.length, read := if m.bad then 1 else 0 }
      t = { s with core := { drop with strands := strands, spill := c.spill ++ [{ ch := m.ch, item := .entry e, words := ws }] } } ∧ arrives m.ch t))) ∧
  -- with a held line
  (single → heads → kind = 2 → storedFmt fmt = some f → f.n + 3 ≤ h.rlen → l0.line + 2 ≤ h.lines → f.n + 3 ≤ h.room →
    Runs (.routerDelivery cls) s (fun t => ∃ (l : Held) (wl : Well) (strands : Vector Strand 8),
      t = { s with core := Core.setChan { drop with strands := strands, well := wl } m.ch fun h =>
        { h with items := [closed, .held l], free := h.free - (f.n + 3), lines := h.lines + 1 } } ∧ arrives m.ch t ∧ isLine l ∧ closes t)) ∧
  (single → heads → kind = 3 → code = m.hdr.extractLsb' 26 5 → (0x10 < code.toNat ∨ c.marks < 64) →
    Runs (.routerDelivery cls) s (fun t => ∃ (wl : Well) (strands : Vector Strand 8),
      t = { s with core := Core.setChan { drop with strands := strands, well := wl
                                                    marked := if code.toNat ≤ 0x10 then c.marked ++ [m.ch] else c.marked } m.ch fun h =>
        { h with items := if code.toNat ≤ 0x10 then [closed, .marker code] else [closed], lines := 0 } } ∧ closes t ∧
      if code.toNat ≤ 0x10 then arrives m.ch t else strands = c.strands)) ∧
  (single → heads → kind = 4 → l0.combined = true → l0.line % 2 = natBits m.hdr.toNat 26 1 → exec (.routerDelivery cls) s =
    .next { s with core := drop.setChan m.ch fun h => { h with items := [.held { l0 with
      vals := l0.vals.zipIdx.map fun (x, k) => match (renormCodes (m.pay.take 3)).getD k (.count 0) with
        | .count n => x + n * (2 ^ (w - natBits m.hdr.toNat 27 5) : Nat)
        | .nan => x
      nans := l0.nans.zipIdx.map fun (b, k) => b || decide ((renormCodes (m.pay.take 3)).getD k (.count 0) = .nan)
      mask := l0.mask ||| if m.hdr.getLsbD 43 then m.pay.getD 3 0 else 0
      bad := l0.bad || m.bad }] } }) ∧
  (heads → kind = 3 → code = m.hdr.extractLsb' 26 5 → code.toNat ≤ 0x10 → h.rlen ≠ 0 → (∀ i ∈ h.items, i.isHeld = false) → c.spill = [] →
    c.marks < 64 → Runs (.routerDelivery cls) s (fun t => ∃ strands,
      t = { s with core := ({ drop with strands := strands, marked := c.marked ++ [m.ch] } : Core).setChan m.ch fun h =>
        { h with items := h.items ++ [.marker code], lines := 0 } } ∧ arrives m.ch t)) ∧
  (heads → kind = 3 → (m.hdr.extractLsb' 26 5).toNat ≤ 0x10 → h.rlen ≠ 0 → (∀ i ∈ h.items, i.isHeld = false) → c.spill = [] →
    64 ≤ c.marks → Runs (.routerDelivery cls) s (fun t => t = { s with core := c.setChan m.ch fun h => { h with lines := 0 } })) ∧
  (heads → kind = 3 → 0x10 < (m.hdr.extractLsb' 26 5).toNat → h.rlen ≠ 0 → (∀ i ∈ h.items, i.isHeld = false) → c.spill = [] →
    exec (.routerDelivery cls) s = .next { s with core := drop.setChan m.ch fun h => { h with lines := 0 } }) ∧
  (heads → kind = 4 → h.rlen ≠ 0 → (∀ l, Item.held l ∈ h.items → l.combined = true → l.line % 2 ≠ natBits m.hdr.toNat 26 1) → c.spill = [] → exec (.routerDelivery cls) s =
    .next ({ s with core := drop, free := s.free + 3 }.post (.renorm c.ident.site m.ch))) ∧
  (heads → kind < 3 → exec (.headerAccept cls) s = exec (.routerDelivery cls) s) ∧
  (heads → kind = 3 → exec (.markerRecordAccept cls) s = exec (.routerDelivery cls) s) ∧
  (heads → 3 ≤ kind → exec (.headerAccept cls) s = .next s) ∧ (heads → kind ≠ 3 → exec (.markerRecordAccept cls) s = .next s) ∧
  (c.nextSpill = some x → (∃ pre post, c.spill = pre ++ x :: post ∧ (∀ y ∈ pre, y.ch ≠ x.ch) ∧ fewer.spill = pre ++ post) ∧
    ((∃ n, x.item = .marker n) ∨ size x / 8 ≤ (c.chan x.ch).room)) ∧
  (c.nextSpill = some x → x.item = .marker code → c.stopped = false → Runs .spillDelivery s (fun t => ∃ strands,
    t = { s with core := Core.setChan { fewer with strands := strands } x.ch fun h => { h with items := h.items ++ [.marker code] } } ∧
    arrives x.ch t)) ∧
  (c.nextSpill = some x → x.item = .held l0 → c.stopped = false → Runs .spillDelivery s (fun t => ∃ strands,
    t = { s with core := Core.setChan { fewer with strands := strands } x.ch fun h =>
      { h with items := h.items ++ [.held { l0 with off := h.tailOff }], free := h.free - (l0.fmt.n + 3) } } ∧ arrives x.ch t)) ∧
  (c.nextSpill = some x → x.item = .entry e0 → c.stopped = false → x.words.length < (c.chan x.ch).rlen → c.memWf = true →
    (c.chan x.ch).rbase + (c.chan x.ch).rlen ≤ 49152 → Runs .spillDelivery s (fun t => ∃ wl strands,
      let h := c.chan x.ch
      let at' (i : Nat) : Nat := 8 * (h.rbase + (h.tailOff + i) % h.rlen)
      t = { s with core := Core.setChan { fewer with strands := strands, well := wl } x.ch fun h =>
        { h with items := h.items ++ [.entry { e0 with off := h.tailOff, read := 0 }], free := h.free - (x.words.length + 1) } } ∧ arrives x.ch t ∧
      t.number (at' 0) 8 = e0.hdr.toNat ∧
      (∀ i < x.words.length, if e0.read = 1 then wl.bad (at' (i + 1) / 8) = true else t.number (at' (i + 1)) 8 = (x.words.getD i 0).toNat) ∧
      ∀ b, (∀ i ≤ x.words.length, b < at' i ∨ at' i + 8 ≤ b) → t.byte b = s.byte b)) ∧
  (c.stopped = true ∨ c.nextSpill = none → exec .spillDelivery s = .next s)

/-- R169, R171, R173, R184, R185, R187, R196, R197, R307, R321, R322 and R13: a router and the message that heads an input: it is
discarded and reported where its header is reserved or the entry gives it no output, discarded as a marker on an input outside
JOIN, held for its group or for its marker, as a late member's is for the group that it is late in whatever the entry is now (R198), else forwarded on every output of its mask when it is its turn and no receiver stops
its class; a failed CRC is reported and marks the message known bad, and a known-bad one stays so. Whatever waits for an output,
forwarded, combined or voted, takes its turn in one order of ranks and round-robin turns; the line counts, the bank queue and the
check bits are said as they stand. The model's choices are that whole messages move (log entry 18), that a message off the mesh
vanishes and its receiver never stops (log entry 32), that noise changes a message's CRC alone (log entry 62), and which of a ring of
ties goes first (log entry 63), and that a malformed message gives R173's report alone wherever its input leads (log entry 94). -/
def Obligations.RouterEvents : Prop := ∀ (s : State) (inp out q : Port) (ch : Chan) (m : Msg) (site : Site) (req : Requester) (bank word : Nat)
    (noise : BitVec 32) (mask : BitVec 5) (x y z : Mover) (ps : List Port) (k : BitVec 2) (n : Nat),
  let c := s.core
  let r := c.router
  let me := c.ident.site
  let e := c.route ch
  let p := portNo inp
  let mode := natBits e.toNat (8 * p + 5) 2
  let named : BitVec 5 := BitVec.ofNat 5 (natBits e.toNat (8 * p) 5)
  let join := e.getLsbD (40 + p)
  let kind := natBits m.hdr.toNat 60 4
  let cls : BitVec 2 := m.hdr.extractLsb' 58 2
  let heads := r.headAt inp ch = some m
  let bad := 8 ≤ kind ∨ natBits m.hdr.toNat 48 10 ≠ m.pay.length ∨ (kind = 3 ∧ 0x12 < natBits m.hdr.toNat 26 17)
  let late := ∃ v ∈ r.votes, v.ch = ch ∧ ∃ bs, (inp, bs) ∈ v.owed
  let shut := ¬ late ∧ (named = 0 ∨ e.getLsbD 50 = true)
  let goes : Host.Outcome State Fault Refusal := exec (.routeMessage inp ch noise) s
  let start : State := if noise = 0 ∨ noise = BitVec.allOnes 32 then s else s.post (.link me ch)
  let popped : Router := r.pop inp m c.csr.cycle.toNat
  let gone : State := { start with core := { c with router := popped } }
  let sent : Msg := { m with bad := if noise = 0 then m.bad else if noise = BitVec.allOnes 32 then !m.bad else true }
  let put (w : Well) : State := { s with core := { c with well := w } }
  let now := c.csr.cycle.toNat
  let mine : Mover := { inp := inp, ch := ch, mask := named, cls := cls, rank := cls.toNat + if (inp, ch) ∈ r.promoted then 1 else 0 }
  let free := heads ∧ ¬ bad ∧ ¬ late ∧ ¬ shut ∧ kind ≠ 3 ∧ (mode = 0 ∨ join = false)
  let moved : State := State.emitAll { gone with core := { gone.core with router := (popped.pass inp sent).served named inp } } named sent
  -- what becomes of the head of an input
  (r.headAt inp ch = none → goes = .next s ∧ exec (.classPromote inp ch) s = .next s) ∧
  (heads → bad → goes = .next (gone.post (.malformed me ch))) ∧
  (heads → ¬ bad → shut → goes = .next (gone.post (.border me ch inp cls (m.hdr.extractLsb' 0 26)))) ∧
  (heads → ¬ bad → ¬ late → ¬ shut → kind = 3 → join = false →
    goes = .next { gone with core := { gone.core with router := { popped with lines := dropCount r.lines ch inp } } }) ∧
  (heads → ¬ bad → ¬ shut → late ∨ (join = true ∧ (kind = 3 ∨ mode ≠ 0)) → goes = .next { start with core := { c with router :=
    { r with inq := r.inq.map fun x => if x = (inp, m) then (inp, { m with bad := m.bad || decide (noise ≠ 0) }) else x } } }) ∧
  (free → s.mayLeave mine = true → goes = .next moved) ∧
  (free → s.mayLeave mine = false → goes = .next s) ∧
  (free → s.clearAll named cls = true → r.votes = [] → (∀ x ∈ r.inq, x = (inp, m)) → goes = .next moved) ∧
  (free → s.clearAll named cls = true → mine ∈ s.movers) ∧
  -- stop lines, ranks and turns
  (s.clearAll mask cls = true ↔ ∀ o : Port, mask.getLsbD (portNo o) = true → s.clear me o cls = true) ∧
  (s.clear me .loc cls = decide (classBeats r.portq cls < 6)) ∧
  (out ≠ .loc → s.wafer.neighbour me out = some site → s.clear me out cls =
    decide (classBeats (((s.coreAt site).router.inq.filter fun x => x.1 = opposite out).map (·.2)) cls < 6)) ∧
  (out ≠ .loc → s.wafer.neighbour me out = none → s.clear me out cls = true) ∧
  (s.mayLeave x = true ↔ s.clearAll x.mask x.cls = true ∧
    ((∀ z ∈ s.movers, r.before z x = false) ∨ ∀ y ∈ s.movers, ∃ z ∈ s.movers, r.before z y = true)) ∧
  (x ∈ s.movers → s.clearAll x.mask x.cls = true) ∧
  (r.mover ps ch mask k =
    { inp := ps.headD .n, ch := ch, mask := mask, cls := k, rank := k.toNat + if ∃ p ∈ ps, (p, ch) ∈ r.promoted then 1 else 0 }) ∧
  (shared y.mask z.mask = none → r.before y z = false) ∧
  (shared y.mask z.mask = some out → (r.before y z = true ↔ z.rank < y.rank ∨
    (z.rank = y.rank ∧ r.turn out y.inp < r.turn out z.inp))) ∧
  (∀ l, (r.last.find? fun x => x.1 = out) = some (out, l) → r.turn out inp = (p + 4 - portNo l) % 5) ∧
  -- what leaving does
  (s.emitAll mask m = [Port.n, .e, .s, .w, .loc].foldl (fun t o => if mask.getLsbD (portNo o) then t.emit me o m else t)
    { s with core := { c with router := r.note mask m } }) ∧
  (portCount (r.note mask m).sent m.ch q = if mask.getLsbD (portNo q) = false then portCount r.sent m.ch q
    else if kind = 2 then portCount r.sent m.ch q + 1 else if kind = 3 then 0 else portCount r.sent m.ch q) ∧
  (portCount (r.pass inp m).lines m.ch inp = portCount r.lines m.ch inp + if kind = 2 then 1 else 0) ∧
  (s.emit me .loc m = { s with core := { c with router := { r with portq := r.portq ++ [m] } } }) ∧
  (out ≠ .loc → s.wafer.neighbour me out = some site → s.emit me out m = s.setCoreAt site fun c =>
    { c with router := c.router.enter (opposite out) m c.csr.cycle.toNat }) ∧
  (out ≠ .loc → s.wafer.neighbour me out = none → s.emit me out m = s) ∧
  -- waiting
  (heads → r.heads inp ch = some n → cls ≤ 1 → (inp, ch) ∉ r.promoted → n + 256 ≤ now →
    exec (.classPromote inp ch) s = .next { s with core := { c with router := { r with promoted := r.promoted ++ [(inp, ch)] } } }) ∧
  (heads → r.heads inp ch = some n → (2 ≤ cls ∨ (inp, ch) ∈ r.promoted ∨ now < n + 256) → exec (.classPromote inp ch) s = .next s) ∧
  (bank < 192 → (∀ b ∈ c.well.banks, b.req = req → b.bank ≠ bank) → exec (.bankPromote req bank) s =
    .next (put { c.well with banks := c.well.banks ++ [{ req := req, bank := bank, since := now, promoted := false }] })) ∧
  (bank < 192 → (∃ b ∈ c.well.banks, b.req = req ∧ b.bank = bank) → Runs (.bankPromote req bank) s (fun t => ∃ l,
    t = put { c.well with banks := l } ∧ l.length = c.well.banks.length ∧
    ∀ b, b ∈ l ↔ ∃ a ∈ c.well.banks, b = if a.req = req ∧ a.bank = bank ∧ a.since + 8 ≤ now then { a with promoted := true } else a)) ∧
  (192 ≤ bank → exec (.bankPromote req bank) s = .next s) ∧
  (∀ bs b, b ∈ grantBanks bs ↔ b ∈ bs ∧ ∃ x ∈ bs, x.bank = b.bank ∧
    requesterOrder x.req + (if x.promoted then 0 else 5) < requesterOrder b.req + if b.promoted then 0 else 5) ∧
  ([Requester.delivery, .wellhead, .stream, .port0, .port1].map requesterOrder = [0, 1, 2, 3, 4]) ∧
  (Runs (.eccWriteback word) s (fun t => ∃ l, t = put { c.well with marks := l } ∧
    (t.core.well.mark word = if c.well.mark word = some .corrected then none else c.well.mark word) ∧
    ∀ x, x ≠ word → t.core.well.mark x = c.well.mark x)) ∧
  (Runs .scrub s (fun t => ∃ l ms, t = (put { c.well with marks := l, scrubRow := (c.well.scrubRow + 1) % 256 }).postAll ms ∧
    (∀ x, x / 192 = c.well.scrubRow → ((∃ m', (x, m') ∈ l) ↔ (x, Mark.uncorrectable) ∈ c.well.marks)) ∧
    (∀ x k, x / 192 ≠ c.well.scrubRow → ((x, k) ∈ l ↔ (x, k) ∈ c.well.marks)) ∧
    (∀ x, Mail.scrub me (8 * x) ∈ ms ↔ x / 192 = c.well.scrubRow ∧ (x, Mark.uncorrectable) ∈ c.well.marks))) ∧
  (∀ b, 8 * word < 393216 → Runs (.softError word b) s (fun t => ∃ l, t = put { c.well with marks := l } ∧
    t.core.well.mark word = some (if b || c.well.bad word then .uncorrectable else .correctable) ∧
    ∀ x, x ≠ word → t.core.well.mark x = c.well.mark x)) ∧
  (∀ b, 393216 ≤ 8 * word → exec (.softError word b) s = .next s)

/-- R187, R189 to R193 and R196 to R200: the groups of a router. A REDUCE group forms each element of its line from the aligned
sum of its members' elements, wrapped into the format's width, and a MAX group from the largest, with the carry and NaN codes in a
renorm; a group takes one line from every member and emits the combined line, known bad if a member's was, and its renorm; heads
that disagree are discarded and reported, and a poison line leaves; a renorm that a member brings is applied to the line of its
parity from that input and forwarded, or reported; a VOTE group forwards, beat by beat, what two of its members agree on, logs the
member that differs, and keeps the beats that a late member owes; a marker leaves once every joined input carries it, or two of those
that vote, and MEMBER makes the next entry current. Each waits for its turn and its receivers like a forward. The model's choices are
which heads of a REDUCE or MAX group disagree (log entry 20), how a late member's beats are counted and a third marker logged (log
entry 21), and that a joined marker leaves with the lowest carrying input's header (log entry 64). -/
def Obligations.GroupEvents : Prop := ∀ (s : State) (inp out p1 p2 p3 : Port) (ch : Chan) (m m2 m3 : Msg) (hd : Port → Msg) (md : Nat)
    (f : Bfmt) (xs : List LineIn) (a : Word) (y : Combined) (rest : List Combined) (ss : List Nat) (l : Nat) (b1 b2 b3 : Beat)
    (w1 w2 : List Beat) (k1 k2 k3 : List Beat × Option Beat) (rs : List (Beat × Option (BitVec 2))) (ks : List (Port × BitVec 2)),
  let c := s.core
  let r := c.router
  let me := c.ident.site
  let e := c.route ch
  let now := c.csr.cycle.toNat
  let open' := e.getLsbD 50 = false
  let kind (m : Msg) : Nat := natBits m.hdr.toNat 60 4
  let len (m : Msg) : Nat := natBits m.hdr.toNat 48 10
  let at' (ps : List Port) (mask : BitVec 5) (cls : BitVec 2) : Mover :=
    { inp := ps.headD .n, ch := ch, mask := mask, cls := cls, rank := cls.toNat + if ∃ p ∈ ps, (p, ch) ∈ r.promoted then 1 else 0 }
  let takes (r : Router) (ps : List Port) : Router := ps.foldl (fun r p => (r.pop p (hd p) now).pass p (hd p)) r
  let ps := groupOf e out md
  let lane : BitVec 5 := 1#5 <<< portNo out
  let heads := ps.map hd
  let h0 := (hd (ps.getD 0 .n)).hdr
  let cls : BitVec 2 := h0.extractLsb' 58 2
  let group := (md = 1 ∨ (md = 2 ∧ c.groupHeads ch (groupOf e out 1) = none)) ∧ ps ≠ [] ∧ open'
  let ready := ∀ p ∈ ps, r.headAt p ch = some (hd p) ∧ kind (hd p) < 8 ∧ kind (hd p) ≠ 3 ∧ kind (hd p) ≠ 4 ∧ len (hd p) = (hd p).pay.length
  let turn := group ∧ s.mayLeave (at' ps lane cls) = true
  let agree (f : Bfmt) := ∀ p ∈ ps, kind (hd p) = 2 ∧ blockFmt ((hd p).hdr.extractLsb' 44 4) = some f ∧
    len (hd p) = f.n + 1 + if (hd p).hdr.getLsbD 43 then 1 else 0
  let o := combineLines f (decide (md = 2)) (heads.map (lineIn f))
  let n := portCount r.sent ch out
  let known := heads.any (·.bad)
  let line (f : Bfmt) (pay : List Word) : Msg :=
    { ch := ch, hdr := combinedHeader cls f (fmtOf f) (h0.extractLsb' 26 16) c.ident.name, pay := pay, bad := known }
  let keep (f : Bfmt) (shifts : List (List Nat)) (poison : List Bool) : Combined :=
    { ch := ch, out := out, mode := BitVec.ofNat 2 md, line := n, fmt := f
      members := ps.zipIdx.map fun (p, i) => (p, portCount r.lines ch p, shifts.getD i []), poison := poison, bad := known }
  let after : State := State.emitAll { s with core := { c with router := (takes (r.served lane (ps.headD .n)) ps).record (keep f o.shifts o.poison) } } lane
    (line f (o.hdr :: o.pay ++ [o.mask]))
  -- the sum of R190 and the maximum of R193
  let w := f.w
  let blk (x : LineIn) (j : Nat) : Blk := (blksOf f x.hdr x.pay).getD j Blk.zero
  let E (j : Nat) : Nat := xs.foldl (fun t x => Max.max t (blk x j).e) 0
  let shift (x : LineIn) (k : Nat) : Nat := E (k / 16) - (blk x (k / 16)).e + (blk x (k / 16)).nu (k % 16 / 4)
  let mant (x : LineIn) (k : Nat) : Int := (blk x (k / 16)).ms.getD (k % 16) 0
  let aligned (x : LineIn) (k : Nat) : Int := mant x k / (2 ^ shift x k : Nat)
  let T (k : Nat) : Int := xs.foldl (fun t x => t + aligned x k) 0
  let v (k : Nat) : Int := (T k + (2 ^ (w - 1) : Nat)) % (2 ^ w : Nat) - (2 ^ (w - 1) : Nat)
  let nan (k : Nat) : Prop := ∃ x ∈ xs, x.combined = false ∧ mant x k = -(2 ^ (w - 1) : Nat)
  let lost (k : Nat) : Prop := ∃ x ∈ xs, x.mask.getLsbD k = true ∨ aligned x k * (2 ^ shift x k : Nat) ≠ mant x k
  let sum := combineLines f false xs
  let big := combineLines f true xs
  let code (m : Msg) : BitVec 5 := m.hdr.extractLsb' 26 5
  let js := allPorts.filter (inJoin e)
  let mask := js.foldl (fun a p => a ||| omask e (portNo p)) 0#5
  let vs := voteMembers e
  let marker (p : Port) : Prop := r.headAt p ch = some (hd p) ∧ kind (hd p) = 3 ∧ len (hd p) = (hd p).pay.length ∧
    natBits (hd p).hdr.toNat 26 17 ≤ 0x12 ∧ (r.vote ch).owedBy p = []
  let left (ps : List Port) : Router :=
    let r1 := ps.foldl (fun r p => r.pop p (hd p) now) r
    { r1 with combined := r.combined.filter fun x => x.ch ≠ ch, lines := ps.foldl (fun xs p => dropCount xs ch p) r.lines }
  let leaves (t : State) (m : Msg) : Host.Outcome State Fault Refusal :=
    let u := State.emitAll { t with core := { t.core with router := t.core.router.served mask (js.headD .n) } } mask m
    .next (if code m = 0x11 ∧ nextv e = true then { u with core := { u.core with router :=
      { (u.core.router.setVote ch fun v => { v with was := v.owed.map fun x => (x.1, u.core.voteNo ch x.1) }) with
        route := u.core.router.route.set ch.toNat (u.core.router.next[ch.toNat] &&& ~~~(1#64 <<< 49)) } } } else u)
  let told : State := { s with core := { c with router := left js } }
  let fresh := ∀ v ∈ r.votes, v.ch ≠ ch
  let voters := vs.headD .n
  let vote (p : Port) (m : Msg) : Prop := r.headAt p ch = some m ∧ kind m ≠ 3 ∧ kind m < 8 ∧ len m = m.pay.length
  let popped (xs : List (Port × Msg)) : Router := xs.foldl (fun r x => (r.pop x.1 x.2 now).pass x.1 x.2) r
  let lane3 := omask e (portNo voters)
  let go (t : State) (r : Router) (m : Msg) : Host.Outcome State Fault Refusal :=
    .next (State.emitAll { t with core := { t.core with router := r.served lane3 voters } } lane3 m)
  let mine (m : Msg) : Bool := s.mayLeave (at' vs lane3 (m.hdr.extractLsb' 58 2))
  let no (p : Port) : BitVec 2 := memberNo (voteInputs e) p
  -- the members of a group and what they hold
  (∀ p, p ∈ groupOf e out md ↔ e.getLsbD (40 + portNo p) = true ∧ modeOf e (portNo p) = md ∧ omask e (portNo p) = lane) ∧
  (∀ p, p ∈ vs ↔ e.getLsbD (40 + portNo p) = true ∧ modeOf e (portNo p) = 3) ∧
  (∀ k < 64, (∀ x ∈ xs, (blk x (k / 16)).isPoison = false) →
    let at' (o : CombineOut) : Int := ((blksOf f o.hdr o.pay).getD (k / 16) Blk.zero).ms.getD (k % 16) 0
    let j := (blksOf f sum.hdr sum.pay).getD (k / 16) Blk.zero
    (j.e = E (k / 16) ∧ (∀ q < 4, j.nu q = 0)) ∧
    (nan k → at' sum = 0 ∧ at' big = 0) ∧ (¬ nan k → at' sum = v k) ∧
    (¬ nan k → xs ≠ [] → (∃ x ∈ xs, at' big = aligned x k) ∧ ∀ x ∈ xs, aligned x k ≤ at' big) ∧
    (sum.mask.getLsbD k = true ↔ lost k) ∧ (big.mask.getLsbD k = true ↔ lost k) ∧
    (∀ cs, sum.renorm = some cs → (nan k → cs.getD k (.count 0) = .nan) ∧ (¬ nan k → cs.getD k (.count 0) = .count ((T k - v k) / (2 ^ w : Nat)))) ∧
    (sum.renorm = none → ¬ nan k ∧ T k = v k) ∧
    (∀ cs, big.renorm = some cs → (nan k → cs.getD k (.count 0) = .nan) ∧ (¬ nan k → cs.getD k (.count 0) = .count 0)) ∧
    (big.renorm = none → ¬ nan k)) ∧
  (∀ j < 4, (∃ x ∈ xs, (blk x j).isPoison = true) → ((blksOf f sum.hdr sum.pay).getD j Blk.zero).isPoison = true ∧
    ((blksOf f big.hdr big.pay).getD j Blk.zero).isPoison = true) ∧
  -- a group's step
  (group → ready → s.clearAll lane cls = true → at' ps lane cls ∈ s.movers) ∧
  (group → ready → s.mayLeave (at' ps lane cls) = false → exec (.combineLine ch out) s = .next s) ∧
  (turn → ready → agree f → exec (.combineLine ch out) s = .next (match o.renorm with
    | some cs => after.emitAll lane (renormMsg ch cls (fmtOf f) (n % 2) { u := 0, codes := cs, mask := 0 } c.ident.name known)
    | none => after)) ∧
  (turn → ready → (∀ f, ¬ agree f) →
    exec (.combineLine ch out) s =
      let f := (heads.findSome? fun m => if kind m = 2 then blockFmt (m.hdr.extractLsb' 44 4) else none).getD .bk16
      let t := s.post (.group me ch)
      .next (State.emitAll { t with core := { c with router := (takes (r.served lane (ps.headD .n)) ps).record (keep f [] [true, true, true, true]) } } lane
        (line f (poisonLine f true)))) ∧
  ((∀ k, k = 1 ∨ k = 2 → groupOf e out k = [] ∨ ∃ p ∈ groupOf e out k, r.headAt p ch = none) → exec (.combineLine ch out) s = .next s) ∧
  (¬ open' → exec (.combineLine ch out) s = .next s ∧ exec (.renormApply inp ch) s = .next s ∧ exec (.voteForward ch) s = .next s ∧
    exec (.markerForward ch) s = .next s) ∧
  -- renorms
  (r.headAt inp ch = some m → kind m = 4 → len m = m.pay.length → open' → inJoin e inp = true →
    (modeOf e (portNo inp) = 1 ∨ modeOf e (portNo inp) = 2) →
    let gone : State := { s with core := { c with router := r.pop inp m now } }
    let hit := r.lineFrom ch inp (natBits m.hdr.toNat 26 1)
    (hit = none → exec (.renormApply inp ch) s = .next (gone.post (.renorm me ch))) ∧
    let lane' : BitVec 5 := 1#5 <<< portNo y.out
    (hit = some (y, ss) → s.mayLeave (at' [inp] lane' (m.hdr.extractLsb' 58 2)) = false → exec (.renormApply inp ch) s = .next s) ∧
    (hit = some (y, ss) → s.mayLeave (at' [inp] lane' (m.hdr.extractLsb' 58 2)) = true → exec (.renormApply inp ch) s =
      .next ((applyRenorm y.fmt.w ss y.poison
          { u := natBits m.hdr.toNat 27 5, codes := renormCodes (m.pay.take 3), mask := if m.hdr.getLsbD 43 then m.pay.getD 3 0 else 0 }).foldl
        (fun t z => t.emitAll lane'
          (renormMsg ch (m.hdr.extractLsb' 58 2) (m.hdr.extractLsb' 44 4) (y.line % 2) z c.ident.name (m.bad || y.bad)))
        { gone with core := { gone.core with router := (r.pop inp m now).served lane' inp } }))) ∧
  (r.combined = y :: rest → y.ch = ch → (y.members.find? fun z => z.1 = inp) = some (inp, l, ss) →
    (∀ z ∈ y.members, z.1 = inp → z = (inp, l, ss)) → r.lineFrom ch inp (l % 2) = some (y, ss)) ∧
  ((∀ y ∈ r.combined, y.ch = ch → ∀ z ∈ y.members, z.1 ≠ inp) → r.lineFrom ch inp l = none) ∧
  -- votes
  (voteBeat (some b1) (some b1) (some b2) = (some b1, if b1 = b2 then none else some 2) ∧
    (b1 ≠ b2 → voteBeat (some b1) (some b2) (some b1) = (some b1, some 1) ∧ voteBeat (some b2) (some b1) (some b1) = (some b1, some 0) ∧
      voteBeat (some b1) (some b2) none = (none, none)) ∧
    voteBeat (some b1) (some b1) none = (some b1, none) ∧ voteBeat (some b1) none (some b1) = (some b1, none) ∧
    voteBeat none (some b1) (some b1) = (some b1, none) ∧ voteBeat none none (some b1) = (none, none) ∧
    (b1 ≠ b2 → b1 ≠ b3 → b2 ≠ b3 → voteBeat (some b1) (some b2) (some b3) = (some ((b1 &&& b2) ||| (b1 &&& b3) ||| (b2 &&& b3)), some 3))) ∧
  (∀ i, let b (k : List Beat × Option Beat) : Option Beat := k.1[i]?
    let o (k : List Beat × Option Beat) : Option Beat := (k.1[i]?).or k.2
    ((voteBeat (b k1) (b k2) (b k3)).1 ≠ none → voteBeatAt k1 k2 k3 i = voteBeat (b k1) (b k2) (b k3)) ∧
    ((voteBeat (b k1) (b k2) (b k3)).1 = none → ([b k1, b k2, b k3].filter (·.isNone)).length ≤ 1 →
      (voteBeat (o k1) (o k2) (o k3)).2 = some 3 → voteBeatAt k1 k2 k3 i = voteBeat (o k1) (o k2) (o k3)) ∧
    ((voteBeat (b k1) (b k2) (b k3)).1 = none →
      (1 < ([b k1, b k2, b k3].filter (·.isNone)).length ∨ (voteBeat (o k1) (o k2) (o k3)).2 ≠ some 3) → voteBeatAt k1 k2 k3 i = (none, none))) ∧
  (voteRun k1 k2 k3 = some rs ↔ rs ≠ [] ∧ ∀ i < rs.length, rs[i]?.map (fun x => (some x.1, x.2)) = some (voteBeatAt k1 k2 k3 i) ∧
    (rs[i]?.any (fun x => x.1.ends) = true ↔ i + 1 = rs.length)) ∧
  (voteInputs e = [p1, p2, p3] → vs = [p1, p2, p3] → open' → fresh → vote p1 m → vote p2 m2 → vote p3 m3 → m.beats = m2.beats →
    m.beats = m3.beats → voteRun (m.wire, none) (m2.wire, none) (m3.wire, none) = some rs →
    exec (.voteForward ch) s = if mine (msgOf ch (rs.map (·.1))) then
      go (s.voteDiffer ch (rs.filterMap (·.2))) (popped [(p1, m), (p2, m2), (p3, m3)]) (msgOf ch (rs.map (·.1)))
      else .next s) ∧
  (voteInputs e = [p1, p2, p3] → vs = [p1, p2, p3] → open' → fresh → vote p1 m → vote p2 m → r.headAt p3 ch = none → mine m = true →
    exec (.voteForward ch) s = go (s.voteDiffers ch (if m.beats ≤ 64 then 0 else m.beats) (no p3))
      ((popped [(p1, m), (p2, m)]).setVote ch fun v => v.setOwed p3 (if m.beats ≤ 64 then m.wire.map some else [none])) m) ∧
  ((voteInputs e).length = 3 → vs = [p1, p2] → open' → fresh → vote p1 m → vote p2 m → mine m = true →
    exec (.voteForward ch) s = go s (popped [(p1, m), (p2, m)]) m) ∧
  (voteInputs e = [p1, p2, p3] → vs = [p1, p2, p3] → fresh → vote p1 m → vote p2 m2 → m.wire ≠ m2.wire → r.headAt p3 ch = none →
    exec (.voteForward ch) s = .next s) ∧
  (vs.length < 2 → fresh → exec (.voteForward ch) s = .next s) ∧
  -- a late member's message, in step again or malformed, and its marker
  (vs = voteInputs e → inp ∈ vs → open' → r.inq = [(inp, m)] → m.ch = ch → r.votes = [{ ch := ch, was := ks, owed := [(inp, w1.map some)], ahead := [] }] →
    w1 ≠ [] → (∀ b ∈ w1, b.isMark = false) →
    let left : Router := r.pop inp m now
    let no (p : Port) : BitVec 2 := ((ks.find? fun x => x.1 = p).map (·.2)).getD (no p)
    (kind m < 8 → kind m ≠ 3 → len m = m.pay.length → m.beats = w1.length → exec (.voteForward ch) s = .next (State.voteDiffers
      { s with core := { c with router := { left.pass inp m with votes := [] } } } ch (differing m.wire w1) (no inp))) ∧
    (8 ≤ kind m → exec (.voteForward ch) s = .next (State.post { s with core := { c with router := left } } (.malformed me ch)))) ∧
  (vs = voteInputs e → inp ∈ vs → open' → r.inq = [(inp, m)] → m.ch = ch → kind m = 3 → len m = m.pay.length → natBits m.hdr.toNat 26 17 ≤ 0x12 →
    r.votes = [{ ch := ch, was := ks, owed := [(inp, [m.wire.head?])], ahead := [] }] →
    exec (.voteForward ch) s = .next { s with core := { c with router :=
      { r.pop inp m now with votes := [], lines := dropCount r.lines ch inp } } }) ∧
  (w1 ≠ [] → (∀ b ∈ w1, b.isMark = false) → w2 ≠ [] →
    catchUp (w1.map some) w2 = (differing w2 w1, (w1.drop w2.length).map some, w2.drop w1.length)) ∧
  (b1.isMark = true → (∀ b ∈ w1, b.isMark = false) →
    (w1.length < w2.length → catchUp (w1.map some ++ [some b1]) w2 = (differing w2 w1 + (w2.length - w1.length), [some b1], [])) ∧
    (w1.length < w2.length → catchUp (w1.map some ++ [none, some b1]) w2 = (differing w2 w1, [none, some b1], [])) ∧
    catchMark (w1.map some ++ [some b1]) b1 = (w1.length, [], true) ∧ catchMark (w1.map some ++ [none, some b1]) b1 = (w1.length, [], true) ∧
    (b2 ≠ b1 → catchMark [some b1] b2 = (1, [], true)) ∧ catchMark (w1.map some) b1 = (w1.length, [], false)) ∧
  (oweBeats (w1.map some) w2 = if w1.length + w2.length ≤ 64 then ((w1 ++ w2).map some, 0)
    else (lostBeats ((w1 ++ w2).map some), ((w1 ++ w2).filter fun b => !b.isMark).length)) ∧
  (w1 ≠ [] → (∀ b ∈ w1, b.isMark = false) → lostBeats (w1.map some) = [none]) ∧
  (∀ k : BitVec 2, natBits a.toNat 48 16 < 0xFFFF → (voteLogOnce a ch k).2 = false ∧
    natBits (voteLogOnce a ch k).1.toNat 48 16 = natBits a.toNat 48 16 + 1 ∧ natBits (voteLogOnce a ch k).1.toNat 35 5 = ch.toNat ∧
    natBits (voteLogOnce a ch k).1.toNat 30 2 = k.toNat ∧ (voteLogOnce a ch k).1.getLsbD 0 = a.getLsbD 0) ∧
  (∀ k : BitVec 2, natBits a.toNat 48 16 = 0xFFFF → (voteLogOnce a ch k).1.getLsbD 0 = true ∧
    natBits (voteLogOnce a ch k).1.toNat 48 16 = 0xFFFF ∧ (voteLogOnce a ch k).2 = !a.getLsbD 0) ∧
  -- markers
  (js ≠ [] → vs = [] → open' → (∀ p ∈ js, marker p ∧ code (hd p) = code m) → hd (js.getD 0 .n) = m →
    exec (.markerForward ch) s = if s.mayLeave (at' js mask (m.hdr.extractLsb' 58 2)) then leaves told m else .next s) ∧
  (js ≠ [] → vs = [] → open' → (∀ p ∈ js, marker p ∧ code (hd p) = code m) → hd (js.getD 0 .n) = m →
    s.clearAll mask (m.hdr.extractLsb' 58 2) = true → at' js mask (m.hdr.extractLsb' 58 2) ∈ s.movers) ∧
  (voteInputs e = js → js.length = 3 → open' → fresh → p3 ∈ js → (∀ p ∈ js, marker p ∧ (hd p).pay = [] ∧ (p ≠ p3 → hd p = m)) →
    hd p3 ≠ m → (hd p3).ch = m.ch → s.mayLeave (at' js mask (m.hdr.extractLsb' 58 2)) = true →
    exec (.markerForward ch) s = leaves (told.voteDiffer ch [no p3]) m) ∧
  (voteInputs e = js → js.length = 3 → open' → fresh → p3 ∈ js → (∀ p ∈ js, p ≠ p3 → marker p ∧ hd p = m) → m.pay = [] →
    r.headAt p3 ch = none → s.mayLeave (at' js mask (m.hdr.extractLsb' 58 2)) = true →
    exec (.markerForward ch) s =
      let owed : Router := (left (js.filter fun p => p ≠ p3)).setVote ch fun v => v.setOwed p3 (m.wire.map some)
      leaves { told with core := { told.core with router := owed } } m) ∧
  ((∃ p ∈ js, modeOf e (portNo p) ≠ 3 ∧ r.markAt p ch = none) → exec (.markerForward ch) s = .next s)

/-- R209 to R218, R221 to R223, R226, R227, R231, R320, R341 and R386: what a pump and the controllers do: the slot clock goes on
only where nothing is left that has to happen before; a next slot table is checked, refused or takes effect at its frame, and
requests that lose their slots are placed anew; inbound entries are derived; a request takes the earliest slot of its kind and owner
on a live lane, or is answered from its field's replay records, or unsent with UE_FAR or FARUNSUP; a slot's requests leave once; the
controllers perform the first in slot order, a request or a walk read, whose slot is over, once, and keep the outcome of a write; its
response leaves in its inbound slot; a lane that retrains carries nothing, its requests move or stall, and its return ends that. The
model's choices are the fields of a replay record (log entry 27), which requests are placed anew and where in the queue they go (log
entry 28), what holds the slot clock (log entry 55), the lane on a tie (log entry 66), the frame named for a next table and what becomes
of the requests that an ended field left (log entry 68), the queue of next tables (log entry 76), that requests meet by physical granules
(log entry 80), and that a walk read leaves a retraining lane for a MAINT slot of any lane (log entry 88). -/
def Obligations.PumpEvents : Prop := ∀ (s : State) (no : BitVec 8) (lane : BitVec 3) (n f k : Nat) (t : Vector (Vector Slot 64) 8) (r : FarReq)
    (rest : List FarReq) (x y : Placed) (pl : Place) (res : Resp) (o : Outcome) (op : BitVec 4) (id : ReqId) (b : Bool) (z : Replay)
    (zs : List Replay) (nx : List (Nat × Vector (Vector Slot 64) 8)) (r2 : FarReq),
  let p := s.pump no
  let put (p' : Pump) : State := { s with pumps := p' :: s.pumps.filter fun q => q.no ≠ no }
  let live := p.lanes[lane.toNat] = .live
  let fresh := ∀ b ∈ p.replay, b.unused = []
  let own := s.thirdParty r.pa = false ∨ ∀ op, r.kind ≠ .famo op
  let early := ∀ y ∈ p.next, s.slot < 64 * y.1
  let f' := p.nextFrame s.slot
  let waits := ∃ o ∈ (s.coreAt r.site).far.outs, o.seq = r.seq
  let pos := s.posOf r
  let answer (r : FarReq) (st : FarStatus) (data : List Byte) : Resp :=
    { seq := r.seq, strand := r.strand, kind := r.kind, va := r.va, status := st, data := data }
  let cis := if b then s.cis.spoil (x.req.pa / 64) else s.cis
  let bad := b = true ∨ x.req.pa / 64 ∈ s.cis.bad
  let mem (a k : Nat) : List Byte := Mem.read s.cis.bytes a k
  let due (x : Placed) : Nat := x.place.slot + 48 + if x.req.kind = .fld ∨ x.req.kind = .fget then x.place.pos / 3 else 0
  let set (y : Placed) (r : Resp) (u : State) : State := u.setPump no fun p => { p with placed :=
    (if y.req.fnum = 0 ∧ (p.lanes[y.place.lane.toNat] ≠ .live ∨ due y < s.slot) then p.placed.erase y
    else p.placed.map fun z => if z = y then { z with progress := .performed r } else z) }
  let done (kind : FarKind) (b' : List Host.Cell) (bad' : List Nat) (st : FarStatus) (data : List Byte) (kept : Bool) : Prop :=
    p.nextPerform s.slot = some (.request x) → x.req.kind = kind → x.req.ident = some id → s.cis.outcome (some id) = none →
      let a := answer x.req st data
      exec (.controllerPerform ⟨no, b⟩) s = .next (set x a { s with cis := { s.cis with
        bytes := b', bad := bad', outcomes := if kept then { ident := id, slot := s.slot, resp := a } :: s.cis.outcomes else s.cis.outcomes } })
  let freed : List WalkRun := p.walks.map fun w => if w.sent.map (·.lane) = some lane then { w with sent := none, got := none } else w
  let off : Pump := { p with lanes := p.lanes.set lane.toNat .retraining, placed := [], walks := freed }
  let on : Pump := { p with lanes := p.lanes.set lane.toNat .live, stalled := [] }
  let outlives := x.req.fnum = 0 ∧ (x.req.kind = .fst ∨ x.req.kind = .fput ∨ x.req.kind = .famo op) ∧ x.progress = .sent
  let others := laneNos.filter fun l => l ≠ lane
  -- the slot clock and slot tables
  (s.canReach n = true ↔ n = s.slot ∨ (s.slot < n ∧ ∀ p ∈ s.pumps, p.pendingBefore n = false)) ∧
  (p.pendingBefore n = true ↔ (∃ y ∈ p.next, 64 * y.1 < n) ∨ ∃ l : BitVec 3, p.lanes[l.toNat] = .live ∧
    (((∃ w ∈ p.walks, w.sent = none) ∧ ∃ k, p.begun[l.toNat] ≤ k ∧ k < n ∧ n ≤ k + 64 ∧ (p.slotAt l k).kind = .maint) ∨
      (∃ w ∈ p.walks, ∃ q, w.sent = some q ∧ q.lane = l ∧ q.slot + 48 < n) ∨
      ∃ x ∈ p.placed, x.place.lane = l ∧ if x.progress = .waiting then x.place.slot < n else due x < n)) ∧
  (p.next = [] → exec (.slotTableSwitch no) s = .next s) ∧
  (p.next = (f, t) :: nx → s.canReach (Max.max s.slot (64 * f)) = true → exec (.slotTableSwitch no) s =
    .next { put { p with prev := some (f, p.table), table := t, next := nx } with slot := Max.max s.slot (64 * f) }) ∧
  (p.next = (f, t) :: nx → s.canReach (Max.max s.slot (64 * f)) = false → exec (.slotTableSwitch no) s = .next s) ∧
  (s.tableAccepted p t = true → (∃ l : BitVec 3, p.lanes[l.toNat] = .live ∧ ∃ x ∈ t[l.toNat].toList, x.kind = .maint) ∧
    ∀ l : BitVec 3, (laneClaims t[l.toNat]).Nodup ∧ (∀ k ∈ laneClaims p.coming[l.toNat], 64 ≤ k → k - 64 ∉ laneClaims t[l.toNat]) ∧
      ∀ x ∈ t[l.toNat].toList, ((x.kind = .maint ∨ x.kind = .idle) → x.asid = 0 ∧ x.fnum = 0) ∧
        (x.kind ≠ .maint → x.kind ≠ .idle → x.asid ≠ 0 ∧ ∃ f ∈ s.sup.fields, f.fnum = x.fnum ∧ f.asid = x.asid ∧ p.no ∈ f.pumps)) ∧
  ((p.next = [] → p.coming = p.table) ∧ (p.next = nx ++ [(f, t)] → p.coming = t)) ∧
  (p.next = nx ++ [(f, t)] → (∀ y ∈ nx, y.1 ≤ f) → 64 * f ≤ n → p.tableFor n = t) ∧ (p.next = (f, t) :: nx → n < 64 * f → p.tableFor n = p.table) ∧
  (s.slot < 64 * f' ∧ (∀ y ∈ p.next, y.1 < f') ∧ (∀ x ∈ p.placed, x.req.fnum = 0 → x.progress = .waiting → x.place.slot < 64 * f') ∧
    (f' = s.slot / 64 + 1 ∨ (∃ y ∈ p.next, f' = y.1 + 1) ∨ ∃ x ∈ p.placed, f' = x.place.slot / 64 + 1)) ∧
  (early → s.tableAccepted p t = false → s.installTable no t = (put p).post (.slotTable no)) ∧
  (early → s.tableAccepted p t = true → (∀ x ∈ p.placed, x.progress ≠ .waiting) →
    s.installTable no t = put { p with next := p.next ++ [(f', t)] }) ∧
  (early → s.tableAccepted p t = true → p.placed = [x] → x.progress = .waiting → 64 * f' ≤ x.place.slot →
    let fits := (t[x.place.lane.toNat].toList.getD (x.place.slot % 64) Slot.idle).takes x.req
    (fits = false → s.installTable no t = put { p with next := p.next ++ [(f', t)], placed := [], queue := x.req :: p.queue }) ∧
    (fits = true → s.installTable no t = put { p with next := p.next ++ [(f', t)] })) ∧
  -- inbound entries
  (p.claimOf lane n = some k → k ≤ n ∧ (n = k + 48 ∨ ((p.claimant lane k).kind = .readreq ∧ n ≤ k + 51)) ∧ (p.claimant lane k).kind ≠ .idle ∧
    (p.inbound lane n).extractLsb' 48 16 = (p.claimant lane k).asid ∧ (p.inbound lane n).extractLsb' 32 16 = (p.claimant lane k).fnum ∧
    natBits (p.inbound lane n).toNat 4 6 = k % 64 ∧ ((p.inbound lane n).getLsbD 3 = true ↔ k / 64 < n / 64) ∧
    natBits (p.inbound lane n).toNat 0 3 = if (p.claimant lane k).kind = .readreq then 1 else 2) ∧
  (p.claimOf lane n = none → p.inbound lane n = 0) ∧
  (p.prev = none → p.claimant lane n = p.slotAt lane n) ∧
  -- placing
  (p.queue = [] → exec (.farRequestPlace ⟨no, b⟩) s = .next s) ∧
  (p.queue = r :: rest → p.stalled = [] → fresh → own → p.slotFor s.slot laneNos r = some pl → exec (.farRequestPlace ⟨no, false⟩) s = .next (put { p with
    queue := rest, placed := p.placed ++ [{ req := r, place := pl, progress := .waiting }] })) ∧
  (p.slotFor s.slot laneNos r = some pl → s.slot < pl.slot ∧ p.lanes[pl.lane.toNat] = .live ∧ (p.slotAt pl.lane pl.slot).kind = r.kind.slot ∧
    (p.slotAt pl.lane pl.slot).asid = r.asid ∧ (p.slotAt pl.lane pl.slot).fnum = r.fnum ∧ pl.pos < r.kind.slot.room ∧
    (∀ y ∈ p.placed, y.place ≠ pl) ∧ (∀ i < pl.pos, ∃ y ∈ p.placed, y.place = { pl with pos := i }) ∧
    (∀ y ∈ p.placed, y.req.pa / 64 = r.pa / 64 → y.place.lane = pl.lane ∧ y.place.slot < pl.slot) ∧
    (∀ k l, s.slot < k → k < pl.slot → p.fits r l k = false) ∧ ∀ l : BitVec 3, l < pl.lane → p.fits r l pl.slot = false) ∧
  (p.queue = [r] → p.stalled = [] → fresh → own → p.slotFor s.slot laneNos r = none → exec (.farRequestPlace ⟨no, false⟩) s = .next s) ∧
  (p.queue = [r] → p.stalled = [] → fresh → exec (.farRequestPlace ⟨no, true⟩) s =
    .next (State.answerAt (put { p with queue := [] }) no r (answer r .ueFar []))) ∧
  (p.queue = [r] → p.stalled = [] → fresh → r.kind = .famo op → ¬ own → exec (.farRequestPlace ⟨no, false⟩) s =
    .next (State.answerAt (put { p with queue := [] }) no r (answer r .farUnsup []))) ∧
  ((waits → pos = (s.coreAt r.site).position) ∧ (¬ waits → pos = 336 * 464)) ∧
  (p.queue = [r] → p.stalled = [] → p.replayMatch pos r = some z → exec (.farRequestPlace ⟨no, true⟩) s =
    .next (State.answerAt (put { p with queue := [] }) no r (answer r .ueFar []))) ∧
  (p.queue = [r] → p.stalled = [] → p.replayMatch pos r = some z → exec (.farRequestPlace ⟨no, false⟩) s =
    .next ((State.setPump (put { p with queue := [] }) no fun p => p.setReplaying r.fnum pos ((p.replaying r.fnum pos).map (·.drop 1))).respond
      r.site (answer r z.status z.data))) ∧
  (p.queue = [r] → p.stalled = [] → r.kind.replayed = true → p.replaying r.fnum pos = some zs → p.replayMatch pos r = none → own →
    p.slotFor s.slot laneNos r = none → exec (.farRequestPlace ⟨no, false⟩) s = .next (s.setPump no fun p => p.setReplaying r.fnum pos none)) ∧
  (p.replayMatch pos r = some z ↔ r.kind.replayed = true ∧ (∃ zs, p.replaying r.fnum pos = some (z :: zs)) ∧ z.pos = pos ∧ z.strand = r.strand ∧
    z.va = r.va ∧ z.kind = r.kind ∧ z.nb = r.nb ∧ z.operand = r.data ++ r.cmp) ∧
  (p.queue = [r, r2] → p.stalledOn (r.pa / 64) = true → r2.site = r.site → s.posOf r2 = pos → r2.fnum = r.fnum → r2.kind.replayed = true →
    p.replayMatch pos r = some z → exec (.farRequestPlace ⟨no, b⟩) s = .next s) ∧
  (r.fnum = 0 → s.answerAt no r res = s) ∧
  ((r.kind = .fst ∨ r.kind = .fput) → r.fnum ≠ 0 → s.answerAt no r res = s.respond r.site res) ∧
  ((r.kind = .fld ∨ r.kind = .fget ∨ r.kind = .famo op) → r.fnum ≠ 0 → ¬ waits → s.answerAt no r res = s.respond r.site res) ∧
  ((s.coreAt r.site).outFor res = none → s.respond r.site res = s) ∧
  ((s.coreAt r.site).outFor res ≠ none → (∀ c ∈ s.core :: s.others, c.ident.readsAs ≠ some (s.coreAt r.site).ident.name) →
    s.respond r.site res = s.setCoreAt r.site fun c => { c with far := { c.far with resps := c.far.resps ++ [res] } }) ∧
  ((r.kind = .fld ∨ r.kind = .fget ∨ r.kind = .famo op) → r.fnum ≠ 0 → waits → s.answerAt no r res = (s.setPump no fun p => p.setReplay r.fnum fun b => b.keep
    { pos := pos, strand := r.strand, va := r.va, kind := r.kind, nb := r.nb, operand := r.data ++ r.cmp, status := res.status
      data := res.data }).respond r.site res) ∧
  -- lanes
  ((s.canReach n = false ∨ ¬ live) → exec (.outboundSlot no lane n) s = .next s ∧ exec (.inboundSlot no lane n) s = .next s) ∧
  (n < p.begun[lane.toNat] → exec (.outboundSlot no lane n) s = .next s) ∧
  (s.canReach n = true → live → p.begun[lane.toNat] ≤ n → Runs (.outboundSlot no lane n) s (fun u => ∃ walks last,
    u = { put { p with walks := walks, lastAsid := last, begun := p.begun.set lane.toNat (n + 1), placed := p.placed.map fun x =>
      if x.place.lane = lane ∧ x.place.slot = n ∧ x.progress = .waiting then
        { x with progress := .sent, req := { x.req with ident := some (x.req.ident.getD { wafer := s.waferNo, pump := no, place := x.place }) } } else x } with slot := n } ∧
    ((p.slotAt lane n).kind ≠ .maint → walks = p.walks ∧ last = p.lastAsid) ∧
    ((p.slotAt lane n).kind = .maint → p.walks.length ≤ 12 → ∀ w ∈ walks, w.sent ≠ none) ∧
    (∀ w ∈ walks, ∀ q, w.sent = some q → w ∈ p.walks ∨ (q.lane = lane ∧ q.slot = n ∧ q.pos < 12 ∧ w.got = none ∧ ∃ g, { w with sent := none, got := g } ∈ p.walks)) ∧
    walks.map (fun w => { w with sent := none, got := none }) = p.walks.map (fun w => { w with sent := none, got := none }))) ∧
  (s.canReach n = true → live → p.claimOf lane n = none → exec (.inboundSlot no lane n) s = .next { s with slot := n }) ∧
  (s.canReach n = true → live → p.claimOf lane n = some k → p.placed = [x] → x.progress = .performed res → x.place.lane = lane →
    (n ≠ due x → exec (.inboundSlot no lane n) s = .next { s with slot := n }) ∧
    (n = due x → exec (.inboundSlot no lane n) s = .next (State.answerAt { put { p with placed := [] } with slot := n } no x.req res))) ∧
  -- performing
  (p.nextPerform s.slot = none → exec (.controllerPerform ⟨no, b⟩) s = .next s) ∧
  (p.nextPerform s.slot = some (.request x) → s.cis.outcome x.req.ident = some res →
    exec (.controllerPerform ⟨no, b⟩) s = .next (set x { res with seq := x.req.seq } s)) ∧
  (p.nextPerform s.slot = some (.request x) → x ∈ p.placed ∧ x.progress = .sent ∧ x.place.slot < s.slot ∧
    (∀ y ∈ p.placed, y.progress = .sent → y.place.slot < s.slot → y.place.before x.place = false) ∧
    ∀ w ∈ p.walks, ∀ q, w.sent = some q → w.got = none → q.slot < s.slot → q.before x.place = false) ∧
  (x.place.before y.place = true ↔ x.place.slot < y.place.slot ∨ (x.place.slot = y.place.slot ∧ (x.place.lane < y.place.lane ∨
    (x.place.lane = y.place.lane ∧ x.place.pos < y.place.pos)))) ∧
  (¬ bad → done .fld s.cis.bytes s.cis.bad .ok (mem x.req.pa x.req.nb) false) ∧
  (bad → done .fld s.cis.bytes cis.bad .ueFar [] false ∧ done .fget s.cis.bytes cis.bad .ueFar [] false ∧
    done (.famo op) s.cis.bytes cis.bad .ueFar [] true) ∧
  (x.req.pa / 64 ∈ (s.cis.spoil (x.req.pa / 64)).bad ∧ ∀ g, g ≠ x.req.pa / 64 → (g ∈ (s.cis.spoil (x.req.pa / 64)).bad ↔ g ∈ s.cis.bad)) ∧
  (¬ bad → done .fget s.cis.bytes s.cis.bad .ok (mem x.req.pa x.req.nb) false) ∧
  done .fst (Mem.write s.cis.bytes x.req.pa x.req.data) cis.bad .ok [] true ∧
  done .fput (Mem.write s.cis.bytes x.req.pa x.req.data) (cis.bad.filter fun g => g ≠ x.req.pa / 64) .ok [] true ∧
  (¬ bad → done (.famo op) (Mem.write s.cis.bytes x.req.pa (leBytes x.req.nb (amoNew (amoOfCode op) (8 * x.req.nb)
      (ofLeBytes (mem x.req.pa x.req.nb)) (ofLeBytes x.req.data) (ofLeBytes x.req.cmp)))) s.cis.bad .ok
    (leBytes x.req.nb (ofLeBytes (mem x.req.pa x.req.nb))) true) ∧
  Runs .outcomeExpire s (fun u => ∃ l, u = { s with cis := { s.cis with outcomes := l } } ∧
    (o ∈ l ↔ o ∈ s.cis.outcomes ∧ s.slot < o.slot + 256 * 64)) ∧
  -- retraining
  (¬ live → exec (.laneRetrain no lane) s = .next s) ∧
  (live → (∀ x ∈ p.placed, x.place.lane ≠ lane) → exec (.laneRetrain no lane) s =
    .next (put { p with lanes := p.lanes.set lane.toNat .retraining, walks := freed })) ∧
  (live → p.placed = [x] → x.place.lane = lane → x.req.fnum = 0 → ((x.req.kind = .fld ∨ x.req.kind = .fget) ∨ x.progress ≠ .sent) →
    (x.req.ident ≠ none ∨ off.slotFor s.slot others x.req = none) →
    exec (.laneRetrain no lane) s = .next (put off)) ∧
  (live → p.placed = [x] → x.place.lane = lane → outlives → x.req.ident ≠ none →
    exec (.laneRetrain no lane) s = .next (put { off with placed := [x] })) ∧
  (live → p.placed = [x] → x.place.lane = lane → x.req.fnum ≠ 0 → (x.req.ident ≠ none ∨ p.stalledOn (x.req.pa / 64) = true ∨ off.slotFor s.slot others x.req = none) →
    exec (.laneRetrain no lane) s =
      .next (State.stallAt (put { off with stalled := p.stalled ++ [{ req := x.req, lane := lane }] }) no { req := x.req, lane := lane })) ∧
  (live → p.placed = [x] → x.place.lane = lane → x.req.ident = none → x.progress = .waiting → p.stalledOn (x.req.pa / 64) = false → off.slotFor s.slot others x.req = some pl →
    exec (.laneRetrain no lane) s =
      .next (State.unstallAt (put { off with placed := [{ req := x.req, place := pl, progress := .waiting }] }) x.req)) ∧
  ((s.coreAt r.site).csr.faultMask.getLsbD 11 = false → s.stallAt no { req := r, lane := lane } = s.setCoreAt r.site fun c => { c with far := { c.far with
    outs := c.far.outs.map fun o => if o.seq = r.seq then { o with stall := some (no, lane, r.ident.isSome) } else o } }) ∧
  (p.lanes[lane.toNat] ≠ .retraining → exec (.laneReturn no lane) s = .next s) ∧
  (p.lanes[lane.toNat] = .retraining → (∀ x ∈ p.stalled, x.lane ≠ lane) →
    exec (.laneReturn no lane) s = .next (put { p with lanes := p.lanes.set lane.toNat .live })) ∧
  (p.lanes[lane.toNat] = .retraining → p.stalled = [{ req := r, lane := lane }] → on.slotFor s.slot [lane] r = some pl →
    exec (.laneReturn no lane) s = .next (State.unstallAt (put { on with
      placed := p.placed ++ [{ req := r, place := pl, progress := .waiting }] }) r)) ∧
  (p.lanes[lane.toNat] = .retraining → p.stalled = [{ req := r, lane := lane }] → on.slotFor s.slot [lane] r = none →
    exec (.laneReturn no lane) s = .next (State.unstallAt (put { on with queue := r :: p.queue }) r)) ∧
  (p.lanes[lane.toNat] = .retraining → p.stalled = [{ req := r, lane := lane }, { req := r2, lane := lane }] → r ≠ r2 →
    (∀ y ∈ p.placed, y.req ≠ r ∧ y.req ≠ r2) → Runs (.laneReturn no lane) s (fun u => ∀ y ∈ (u.pump no).placed, ∀ y2 ∈ (u.pump no).placed,
      y.req = r → y2.req = r2 → y.place.before y2.place = true))

/-- R310 to R312, R355, R386, R387, R252 and R253: page walks: the pump takes its oldest request from its translation cache, refuses an address
beyond the context's tables, or reads the tables level by level; an absent or malformed entry is a FARFAULT with its record, an
uncorrectable read is UE_FAR, a leaf is kept and loaded into the core's FTB, written out here, in place of the unlocked entries for its
pages or, with none free, of an unlocked one that a free value chooses; a prefetch loads no page that is quarantined or covered, nor
more than its budget. A held FAULTQ record is written once the ring has
room, and a HOSTNOTE whose record waited is then served. A walk read performs in its place in slot order and returns in its ACK slot,
which holds the slot clock (log entry 55); that FAULTQ_ROOM drops the oldest record of a full ring stands for the host's reading it and
is the model's choice (log entry 26); a HOSTNOTE's record waits while its field stops (R356). -/
def Obligations.PageWalkEvents : Prop := ∀ (s : State) (no : BitVec 8) (r : WalkReq) (rest : List WalkReq) (e : TransEntry) (c : Context)
    (w : WalkRun) (at' : Place) (res : WalkRead) (read : Word) (b : Bool) (q : FaultRing) (x : List Word) (xs ys : List (List Word)),
  let p := s.pump no
  let put (p' : Pump) : State := { s with pumps := p' :: s.pumps.filter fun q => q.no ≠ no }
  let popped := put { p with walkq := rest }
  let index (va level : Nat) : Nat := natBits va (40 - 12 * level) 12
  let ctx := s.sup.contexts.find? fun c => c.asid = r.asid
  let pte (b n : Nat) : Nat := natBits read.toNat b n
  let cis := if b then s.cis.spoil (w.addr / 64) else s.cis
  let now := Max.max s.slot (at'.slot + 48)
  let dropped : State := { put { p with walks := p.walks.erase w } with slot := now }
  let entry : TransEntry := { asid := r.asid, page := if w.level = 1 then r.va / 65536 / 4096 * 4096 else r.va / 65536, big := decide (w.level = 1), pte := read }
  let due := p.nextReturn = some (w, at', res)
  let clean := res = .entry read ∧ s.canReach now = true
  let odd := pte 52 12 ≠ 0 ∨ pte 5 11 ≠ 0 ∨ (w.level ≠ 1 ∧ pte 4 1 = 1) ∨
    (w.level < 2 ∧ pte 4 1 = 0 ∧ (pte 1 1 = 1 ∨ pte 2 1 = 1 ∨ pte 3 1 = 1)) ∨ (w.level = 1 ∧ pte 4 1 = 1 ∧ pte 16 12 ≠ 0)
  let leaf := w.level = 2 ∨ pte 4 1 = 1
  let ring := s.sup.faultqs.find? (fun q => q.asid = r.asid)
  (p.walkq = [] → exec (.pageWalk no) s = .next s) ∧
  (p.walkq = r :: rest → p.cached r.asid r.va = some e → exec (.pageWalk no) s = .next (popped.walkEnded r.site r.seq (.leaf e.pte e.big))) ∧
  (p.walkq = r :: rest → p.cached r.asid r.va = none → ctx = some c → c.l0len ≤ index r.va 0 →
    exec (.pageWalk no) s = .next (popped.walkEnded r.site r.seq .farProt)) ∧
  (p.walkq = r :: rest → p.cached r.asid r.va = none → ctx = some c → index r.va 0 < c.l0len → exec (.pageWalk no) s =
    .next (put { p with walkq := rest, walks := p.walks ++ [{ req := r, level := 0, addr := c.root + 8 * index r.va 0, sent := none, got := none }] })) ∧
  (p.nextPerform s.slot = some (.walk w) → w ∈ p.walks ∧ w.got = none ∧ ∃ q, w.sent = some q ∧ q.slot < s.slot ∧
    (∀ y ∈ p.placed, y.progress = .sent → y.place.slot < s.slot → y.place.before q = false) ∧
    ∀ v ∈ p.walks, ∀ q', v.sent = some q' → v.got = none → q'.slot < s.slot → q'.before q = false) ∧
  (p.nextPerform s.slot = some (.walk w) → exec (.controllerPerform ⟨no, b⟩) s = .next { put { p with walks := p.walks.map fun y => if y = w then
      { y with got := some (if b = true ∨ w.addr / 64 ∈ s.cis.bad then .bad else .entry (BitVec.ofNat 64 (ofLeBytes (Mem.read s.cis.bytes w.addr 8)))) } else y }
    with cis := cis }) ∧
  ((∀ w ∈ p.walks, w.sent = none ∨ w.got = none) → exec (.walkReadReturn ⟨no, b⟩) s = .next s) ∧
  (due → w ∈ p.walks ∧ w.sent = some at' ∧ w.got = some res ∧
    ∀ v ∈ p.walks, ∀ q g, v.sent = some q → v.got = some g → q.before at' = false) ∧
  (due → s.canReach now = false → exec (.walkReadReturn ⟨no, b⟩) s = .next s) ∧
  (due → w.req = r → res = .bad → s.canReach now = true → exec (.walkReadReturn ⟨no, b⟩) s = .next (dropped.walkEnded r.site r.seq .ueFar)) ∧
  (due → w.req = r → clean → pte 0 1 = 0 → exec (.walkReadReturn ⟨no, b⟩) s = .next (dropped.walkFault r 1 w.level w.addr)) ∧
  (due → w.req = r → clean → pte 0 1 = 1 → odd → exec (.walkReadReturn ⟨no, b⟩) s = .next (dropped.walkFault r 2 w.level w.addr)) ∧
  (due → w.req = r → clean → pte 0 1 = 1 → ¬ odd → leaf → exec (.walkReadReturn ⟨no, b⟩) s =
    .next (State.walkEnded { put { p with walks := p.walks.erase w, cache := (entry :: p.cache).take 4096 } with slot := now } r.site r.seq
      (.leaf read (decide (w.level = 1))))) ∧
  (due → w.req = r → clean → pte 0 1 = 1 → ¬ odd → ¬ leaf → exec (.walkReadReturn ⟨no, b⟩) s = .next { put { p with walks := p.walks.erase w ++
    [{ w with level := w.level + 1, addr := pte 16 36 * 65536 + 8 * index r.va (w.level + 1), sent := none, got := none }] } with slot := now }) ∧
  -- what the end of a walk does for the strand that asked
  (∀ n a pg, (s.coreAt r.site).far.walks.find? (fun w => w.seq = r.seq) = some { seq := r.seq, va := r.va, who := .strand n a, discard := false } →
    let left : State := s.setCoreAt r.site fun c => { c with far := { c.far with walks := c.far.walks.filter fun x => x.seq ≠ r.seq } }
    let st := ((left.coreAt r.site).strand n)
    let faults (code : BitVec 8) : State := left.faultAt r.site n code (BitVec.ofNat 64 r.va) st.pc 8
    s.walkEnded r.site r.seq .farFault = faults 0x09 ∧ s.walkEnded r.site r.seq .farProt = faults 0x0A ∧
    s.walkEnded r.site r.seq .ueFar = faults 0x0D ∧
    (pg = read → pte 3 1 = 1 → s.walkEnded r.site r.seq (.leaf pg false) = faults 0x0D)) ∧
  (∀ (va : Nat) (who : Walker) (n : StrandNo) (a : BitVec 8) (k k' : Nat) (pg : Word) (big covered : Bool),
    (s.coreAt r.site).far.walks.find? (fun w => w.seq = r.seq) = some { seq := r.seq, va := va, who := who, discard := false } →
    let asid := (s.coreAt r.site).csr.asid
    let ftb := (s.coreAt r.site).far.ftb
    let left : State := s.setCoreAt r.site fun c => { c with far := { c.far with walks := c.far.walks.filter (fun x => x.seq ≠ r.seq) } }
    let e : FtbEntry := {
      asid := asid, page := if big = true then va / 65536 / 4096 * 4096 else va / 65536, big := big
      pa := natBits pg.toNat 16 36 * 65536, w := pg.getLsbD 1, lock := false, region := 0 }
    let pages (x : FtbEntry) : Nat := if x.big = true then 4096 else 1
    let rest := ftb.filter fun o => decide (o.lock = true ∨ o.asid ≠ asid ∨ e.page + pages e ≤ o.page ∨ o.page + pages o ≤ e.page)
    let loads (who' : Core → Core) : Prop := ∃ l, s.walkEnded r.site r.seq (.leaf pg big) =
        State.setCoreAt { left with free := s.free + 1 } r.site (fun c => who' { c with far := { c.far with ftb := l } }) ∧
      (rest.length < 32 → l = rest ++ [e]) ∧
      (32 ≤ rest.length → (∃ o ∈ rest, o.lock = false) → ∃ o ∈ rest, o.lock = false ∧ l = rest.erase o ++ [e])
    (covered = true ↔ ∃ o ∈ ftb, o.asid = asid ∧ o.page ≤ va / 65536 ∧ va / 65536 < o.page + pages o) →
    (pg.getLsbD 3 = false → who = .strand n a → loads id) ∧
    (pg.getLsbD 3 = false → who = .engine k n a → loads fun c => { c with cmds := c.cmds.map fun j =>
      if j.seq = k ∧ (∃ v, j.pause = .rewalk v) then { j with pause := .walk } else j }) ∧
    (pg.getLsbD 3 = false → covered = false → who = .prefetched k (k' + 1) → loads fun c => { c with far := { c.far with
      walks := c.far.walks.map fun w => match w.who with
        | .prefetched q m => if q = k then { w with who := .prefetched q (m - 1) } else w
        | _ => w } }) ∧
    (who = .prefetched k k' → (pg.getLsbD 3 = true ∨ covered = true ∨ k' = 0) → s.walkEnded r.site r.seq (.leaf pg big) = left) ∧
    (who = .prefetched k k' → ∀ x ∈ [WalkEnd.farFault, .farProt, .ueFar], s.walkEnded r.site r.seq x = left)) ∧
  -- FAULTQ
  (∀ b, s.sup.faultqs.find? (fun q => q.asid = b) = none → exec (.faultqRoom b) s = .next s) ∧
  (ctx = some c → ring = some q → q.held = [] → exec (.faultqRoom r.asid) s = .next s) ∧
  (ctx = some c → ring = some q → (∀ y ∈ q.held, s.mayWrite y = false) → exec (.faultqRoom r.asid) s = .next s) ∧
  (s.mayWrite x = false ↔ natBits (x.getD 0 0).toNat 0 8 = 4 ∧ ∃ f, s.field ((x.getD 0 0).extractLsb' 32 16) = some f ∧
    f.fnum = (x.getD 0 0).extractLsb' 32 16 ∧ f.phase ≠ .loaded) ∧
  (ctx = some c → ring = some q → q.held = xs ++ x :: ys → (∀ y ∈ xs, s.mayWrite y = false) → s.mayWrite x = true → Runs (.faultqRoom r.asid) s (fun u => ∃ l,
    u = State.serveNote { s with sup := { s.sup with faultqs := { q with ring := l ++ [x], held := xs ++ ys } :: s.sup.faultqs.filter fun q => q.asid ≠ r.asid } } x ∧
    l = if q.ring.length < c.fqlen then q.ring else q.ring.drop 1)) ∧
  (natBits (x.getD 0 0).toNat 0 8 ≠ 4 → s.serveNote x = s) ∧
  (∀ f t, natBits (x.getD 0 0).toNat 0 8 = 4 → s.field ((x.getD 0 0).extractLsb' 32 16) = some f → f.fnum = (x.getD 0 0).extractLsb' 32 16 →
    let n : StrandNo := (x.getD 0 0).extractLsb' 24 3
    ((s.sitesOf f).find? fun t => decide (((s.coreAt t).ident.name.setWidth 64 : Word) = x.getD 2 0) && ((s.coreAt t).strand n).onSupv &&
      decide (((s.coreAt t).strand n).supvCode = 4)) = some t → s.serveNote x = s.serve f t n 0) ∧
  (ctx = some c → ring = some q → s.faultRecord r.asid x = { s with sup := { s.sup with faultqs :=
    (if q.held = [] ∧ q.ring.length < c.fqlen then { q with ring := q.ring ++ [x] } else { q with held := q.held ++ [x] }) :: (s.sup.faultqs.filter fun q => q.asid ≠ r.asid) } })

/-- R27, R304, R187, R188, R197, R198, R207, R209, R258, R259, R269, R271, R273, R276, R279, R305, R331, R332, R335 and R336: the commands of the
control port, each with its acknowledgement to the home supervisor of the core's field (log entry 60), or a NAK that changes nothing
else; the supervisor gives a pump set only while the field has nothing outstanding and of pumps that may stand in one (R379), an entry
only within one context and where no buffer is shared, whichever waiting entries have become current, where no cycle arises and the other
conditions of R276 hold, and opens none that is closed because of a field that is away (R271), a slot or HMIN only where the table keeps
to R266 item 2; shoot-downs and their acknowledgement;
the state area, read and written; the arrival of QUIESCE, the writes of the spill area and the signal of quiet. The model's choices are
the words of an acknowledgement of SHOOT (log entry 14), that a command with operands that it cannot take is answered with a NAK (log
entry 60), and that a spilled core writes its area as granules (log entry 41). -/
def Obligations.ControlPortCommands : Prop := ∀ (s : State) (num : BitVec 12) (x : Word) (ch : Chan) (addr n off page count : Nat)
    (ws : List Word) (dim pc : Word) (chans : BitVec 32) (st : StrandNo) (ps : List (BitVec 8)) (code : BitVec 8) (asid : BitVec 16)
    (shot : Shoot) (k d : Nat) (b : Fin 16) (l : Fin 8) (e : Fin 16) (old : Acc) (f : Field) (kind base : Nat),
  let c := s.core
  let me := c.ident.site
  let replied (u : State) (code : BitVec 8) (nak : Bool) (ws : List Word) : State :=
    u.post (.ack me code nak ws)
  let now (c' : Core) : State := { s with core := c' }
  let acks (i : Instr) (c' : Core) (code : BitVec 8) : Prop := exec i s = .next (replied (now c') code false [])
  let naks (i : Instr) (code : BitVec 8) : Prop := exec i s = .next (replied s code true [])
  let r := c.router
  let rbits : Word := 0x00041F6F777B7D7E
  let nextv : Word := 0x0002000000000000
  let run := addr % 8 = 0 ∧ n ≤ 1023 ∧ addr + 8 * n ≤ 393216
  let csr (f : Csrs) : Core := { c with csr := f }
  let hit (e : FtbEntry) : Prop := e.asid = asid ∧ page < e.page + (if e.big then 4096 else 1) ∧ e.page < page + count
  let area := c.stateWords
  -- CSRSET
  (acks (.csrset 0x002 x) (csr { c.csr with fieldId := x &&& 0x0000FFFF01FFFFFF }) 1 ∧
    acks (.csrset 0x003 x) (csr { c.csr with fieldOrg := x &&& 0x3FFFFFF }) 1 ∧
    acks (.csrset 0x004 x) (csr { c.csr with fieldDim := x &&& 0x1FFFFFFFFFF }) 1 ∧
    acks (.csrset 0x012 x) (csr { c.csr with faultSt := x &&& 0xF }) 1 ∧
    acks (.csrset 0x013 x) (csr { c.csr with faultMask := x &&& 0x1C3FF7C }) 1 ∧
    acks (.csrset 0x0C0 x) (csr { c.csr with ownB := x }) 1 ∧ acks (.csrset 0x0C1 x) (csr { c.csr with ownM := x &&& 0xFFFFFFFF }) 1 ∧
    (s.maySet 0x068 x = true → acks (.csrset 0x068 x) { c with issue := { c.issue with hmin := x &&& 0x3F } } 1) ∧
    acks (.csrset 0x045 x) { csr { c.csr with mprog := x &&& 0x80FFFFF0FFFFFFFF } with loop := none } 1) ∧
  (acks (.csrset 0x042 x) (csr { c.csr with dpw := (x &&& 0x10F) ||| if natBits x.toNat 4 3 ≤ 4 then x &&& 0x70 else c.csr.dpw &&& 0x70 }) 1 ∧
    acks (.csrset 0x043 x) (csr { c.csr with poisonCtl := x &&& 0x101 }) 1 ∧
    acks (.csrset 0x180 x) (csr { c.csr with voteLog := x &&& 0xFFFF00F8C0000001 }) 1 ∧
    (0x048 ≤ num.toNat → num.toNat ≤ 0x04F → acks (.csrset num x) (csr { c.csr with q := c.csr.q.set (num.extractLsb' 0 3).toNat (x &&& 0xFF) }) 1) ∧
    (0x080 ≤ num.toNat → num.toNat ≤ 0x09F → acks (.csrset num x) (c.setChan (num.extractLsb' 0 5) fun h =>
      if h.items.isEmpty then { h with bind := x &&& 0xFFFFFFFF0007FF0F, head := 0, free := natBits x.toNat 32 16 }
      else { h with bind := x &&& 0xFFFFFFFF0007FF0F }) 1)) ∧
  ((s.maySet num x = false → exec (.csrset num x) s = .next s) ∧ ((num.toNat < 0x060 ∨ 0x068 < num.toNat) → s.maySet num x = true) ∧
    (s.maySet 0x068 x = true ↔ (c.issue.next.toList.filter fun y => y.getLsbD 3 && !c.isHandler (y.extractLsb' 0 3)).length +
      natBits x.toNat 0 6 ≤ 32 ∧ s.behavesWith c = true) ∧
    (0x060 ≤ num.toNat → num.toNat ≤ 0x067 → ∃ table next : Vector (BitVec 4) 32,
      (∀ i : Fin 32, table[i] = (if i.val / 4 + 0x060 = num.toNat then x.extractLsb' (8 * (i.val % 4)) 4 else c.issue.table[i]) ∧
        next[i] = if i.val / 4 + 0x060 = num.toNat then x.extractLsb' (8 * (i.val % 4)) 4 else c.issue.next[i]) ∧
      (s.maySet num x = true ↔ (next.toList.filter fun y => y.getLsbD 3 && !c.isHandler (y.extractLsb' 0 3)).length + c.share ≤ 32 ∧
        s.behavesWith { c with issue := { c.issue with table := table, next := next } } = true) ∧
      (s.maySet num x = true → acks (.csrset num x) { c with issue := { c.issue with table := table, next := next } } 1))) ∧
  (num.toNat ≤ 1 ∨ (0x005 ≤ num.toNat ∧ num.toNat ≤ 0x011) ∨ (0x020 ≤ num.toNat ∧ num.toNat ≤ 0x041) → naks (.csrset num x) 1) ∧
  -- routes
  (s.mayRoute me ch x = true → acks (.routenext ch x) { c with router := { r with
    next := r.next.set ch.toNat (x &&& rbits), route := r.route.set ch.toNat (r.route[ch.toNat] ||| nextv) } } 2 ∧
    acks (.routeset ch x) { c with router := { r with
      route := r.route.set ch.toNat ((x &&& rbits) ||| (r.route[ch.toNat] &&& nextv)) } } 3) ∧
  (s.mayRoute me ch x = false → exec (.routenext ch x) s = .next s ∧ exec (.routeset ch x) s = .next s) ∧
  (s.mayRoute me ch x = true ↔ ch.toNat < 4 ∨
    let put (t : State) : State := t.setCoreAt me fun c => c.routeSet ch x
    let t := put (s.mapCores Core.united)
    (t.oneContext (t.seamFields me ch) = true ∧ t.unshared = true ∧ (put s).noCycle ch = true ∧ (put (s.mapCores Core.ahead)).noCycle ch = true ∧
      (x.getLsbD 50 = true ∨ ∀ y ∈ s.sup.seams, y.site = me → y.ch ≠ ch) ∧ s.behavesWith (c.routeSet ch x) = true)) ∧
  (c.united.route ch = c.route ch ||| (if (c.route ch).getLsbD 49 then r.next[ch.toNat] else c.route ch) &&& 0x1F1F1F1F1F) ∧
  (c.ahead.route ch = if (c.route ch).getLsbD 49 then r.next[ch.toNat] &&& ~~~nextv else c.route ch) ∧
  (s.behavesWith c = true ↔ ∀ f ∈ s.sup.fields, f.fnum = c.csr.fieldId.extractLsb' 0 16 → Config.changeBehaved f.imgm f.rows f.cols f.slots me
    (r.route.toList ++ r.next.toList) c.issue.next.toList = true) ∧
  (∀ ns, s.oneContext ns = true ↔ ∀ n ∈ ns, ∀ n' ∈ ns, (s.field n).map (·.asid) = (s.field n').map (·.asid)) ∧
  (s.unshared = true ↔ ∀ y ∈ c :: s.others, s.holder y.ident.site = none → ∀ p, s.oneContext (userChans.flatMap fun k =>
    s.inputFields k y.ident.site p) = true) ∧
  -- the well
  (run → ws.length = n → acks (.wellw addr ws) { c with well := c.well.store addr (ws.flatMap fun w => leBytes 8 w.toNat) } 4) ∧
  (¬ run → ws.length = n → naks (.wellw addr ws) 4) ∧
  (run → exec (.wellr addr n) s =
    .next (replied (s.touch addr (8 * n)) 5 false ((List.range n).map fun i => BitVec.ofNat 64 (s.number (addr + 8 * i) 8)))) ∧
  (¬ run → naks (.wellr addr n) 5) ∧
  -- CLEAR, START, MEMBER
  (∃ c', acks .clear c' 6 ∧ (∀ k : StrandNo, c'.strand k = Strand.blank) ∧ (∀ k : Fin 16, c'.b[k] = BLine.zero) ∧
    (∀ k : Fin 8, c'.m[k] = Tile.zero) ∧ c'.well = Well.reset ∧ (∀ k : Chan, c'.chan k = ChanState.reset) ∧ c'.cmds = [] ∧
    c'.far.ftb = [] ∧ c'.far.outs = [] ∧ c'.csr.dpw = 7 ∧ c'.csr.retired = 0 ∧ c'.csr.faultMask = 0 ∧ c'.csr.mprog = 0 ∧
    c'.csr.fieldId = c.csr.fieldId ∧ c'.csr.cycle = c.csr.cycle ∧ c'.router.route = r.route ∧ c'.ident.site = me) ∧
  Runs .start s (fun u => ∃ strands fields, u = replied { now { c with strands := strands, issue := { c.issue with plain := 0 } } with
      sup := { s.sup with fields := fields } } 7 false [] ∧
    (∀ k : StrandNo, c.issue.plain.getLsbD k.toNat = true → c.issue.allowed.getLsbD k.toNat = true → (c.strand k).state = .absent → strands[k.toNat] = { Strand.blank with
      pc := (c.strand k).entry, entry := (c.strand k).entry, state := if c.stopped then .stop .run else .live .run }) ∧
    (∀ k : StrandNo, (c.issue.plain.getLsbD k.toNat = false ∨ c.issue.allowed.getLsbD k.toNat = false ∨ (c.strand k).state ≠ .absent) → strands[k.toNat] = c.strand k) ∧
    fields = s.sup.fields.map fun f =>
      if f.fnum = c.csr.fnum ∧ f.started = none then { f with started := some (me, c.csr.cycle) } else f) ∧
  (∃ ms, acks (.member dim chans) { c with csr := { c.csr with fieldDim := dim &&& 0x1FFFFFFFFFF }
                                           router := { r with staged := r.staged ++ ms } } 8 ∧
    ms.map (·.msg.ch) = (List.range 32).filterMap (fun k => if chans.getLsbD k then some (BitVec.ofNat 5 k) else none) ∧
    ∀ x ∈ ms, x.strand = none ∧ natBits x.msg.hdr.toNat 60 4 = 3 ∧ natBits x.msg.hdr.toNat 26 17 = 0x11 ∧ x.msg.pay = [] ∧
      x.msg.hdr.extractLsb' 58 2 = (c.chan x.msg.ch).cls) ∧
  -- STRAND, PUMPSET, other codes
  acks (.strandKill st) (if (c.strand st).state = .absent then c else c.endStrand st) 10 ∧
  acks (.strandRetry st) (c.setStrand st fun y => if y.state = .live .park then { y.setLive .run with
    pc := y.resume, redo := decide (y.resume = y.trapPc) && (decide (y.trapCause = 0x09) || decide (y.trapCause = 0x0B)) } else y) 10 ∧
  acks (.strandSetpc st pc) (c.setStrand st fun y => { y with entry := pc }) 10 ∧
  (s.farPending = false → (∀ p ∈ ps, s.usable p = true) → 1 ≤ ps.length → ps.length ≤ 256 → ps.Nodup → acks (.pumpset ps) { c with far := { c.far with pset := ps } } 13) ∧
  (s.farPending = false → (∀ p ∈ ps, s.usable p = true) → ¬ (1 ≤ ps.length ∧ ps.length ≤ 256 ∧ ps.Nodup) → naks (.pumpset ps) 13) ∧
  ((s.farPending = true ∨ ∃ p ∈ ps, s.usable p = false) → exec (.pumpset ps) s = .next s) ∧
  (∀ no, s.usable no = true ↔ (∃ l : BitVec 3, (s.pump no).lanes[l.toNat] = .live) ∧ s.wafer.reach (pumpAt no).1 ≠ []) ∧
  (s.farPending = true ↔ ∃ x ∈ c :: s.others, x.csr.fieldId = c.csr.fieldId ∧ x.far.outs ≠ []) ∧
  ((code = 0 ∨ 13 < code.toNat) → naks (.controlNak code) code) ∧
  (1 ≤ code.toNat → code.toNat ≤ 13 → exec (.controlNak code) s = .next s) ∧
  -- SHOOT
  Runs (.shoot asid page count) s (fun u => ∃ ftb walks new, u = now { c with far := { c.far with
      ftb := ftb, walks := walks, shoots := c.far.shoots ++ [new] } } ∧
    (∀ e, e ∈ ftb ↔ e ∈ c.far.ftb ∧ (¬ hit e ∨ e.lock = true)) ∧
    walks = c.far.walks.map (fun w => { w with discard := true }) ∧
    new.asid = asid ∧ new.page = page ∧ new.count = count ∧ new.invalidated + ftb.length = c.far.ftb.length ∧
    (new.locked = true ↔ ∃ e ∈ c.far.ftb, hit e ∧ e.lock = true) ∧
    ∀ o ∈ c.far.outs, (∃ e ∈ c.far.ftb, hit e ∧ e.lock = false ∧ e.covers c.csr.asid (o.va / 65536) = true) → o.seq ∈ new.waits) ∧
  ((∀ x ∈ c.far.shoots, ∃ o ∈ c.far.outs, o.seq ∈ x.waits ∧ ∀ y ∈ c.far.resps, c.outFor y ≠ some o) → exec .shootAck s = .next s) ∧
  (c.far.shoots.find? c.shootReady = some shot → (∀ o ∈ c.far.outs, o.seq ∈ shot.waits → ∃ y ∈ c.far.resps, c.outFor y = some o) ∧
    exec .shootAck s = .next (replied (now { c with far := { c.far with shoots := c.far.shoots.erase shot } }) 9 false
      [BitVec.ofNat 64 shot.invalidated ||| (if shot.locked then 0x8000000000000000 else 0), shot.asid.setWidth 64, BitVec.ofNat 64 shot.page,
        BitVec.ofNat 64 shot.count])) ∧
  -- STATER and STATEW
  area.length = 8192 ∧ (n ≤ 1023 → off + n ≤ 8192 → exec (.stater off n) s = .next (replied s 11 false ((area.drop off).take n))) ∧
  ((1023 < n ∨ 8192 < off + n) → naks (.stater off n) 11) ∧
  (area.getD (128 * st.toNat) 0 = (c.strand st).pc ∧ (∀ k < 32, area.getD (128 * st.toNat + 16 + k) 0 = (c.strand st).g.toList.getD k 0)) ∧
  acks (.statew (128 * st.toNat) [pc]) (c.setStrand st fun y => { y with pc := pc }) 12 ∧
  (k < 32 → acks (.statew (128 * st.toNat + 16 + k) [x]) (c.setStrand st fun y => { y with g := Vector.ofFn fun i => if i.val = k then x else y.g[i] }) 12) ∧
  acks (.statew 1608 [x]) (csr { c.csr with dpw := (x &&& 0x10F) ||| if natBits x.toNat 4 3 ≤ 4 then x &&& 0x70 else c.csr.dpw &&& 0x70 }) 12 ∧
  acks (.statew 1626 [x]) (csr { c.csr with retired := x }) 12 ∧
  acks (.statew (1660 + ch.toNat) [x]) (c.putQueue ch x) 12 ∧
  (x.getLsbD 15 = true → x.extractLsb' 8 5 = ch → acks (.statew 1834 [x]) (({ c with marked := c.marked ++ [ch] } : Core).setChan ch fun h =>
    { h with items := insertMark (x.extractLsb' 0 5) (natBits x.toNat 16 16) h.items }) 12) ∧
  -- a b register keeps no payload beyond its format, and an element comes back exactly whatever stood there
  (k < 16 → (c.b[b].tag.n ≤ k → (c.b[b].putWord (2 + k) x).pay.toList.getD k 0 = 0) ∧
    (k < c.b[b].tag.n → (c.b[b].putWord (2 + k) x).pay.toList.getD k 0 = x)) ∧
  (∀ a, a = c.m[l][e] → (old.putWord true ((accWords a).getD 0 0)).putWord false ((accWords a).getD 1 0) =
    accOfWords ((accWords a).getD 0 0) ((accWords a).getD 1 0)) ∧
  ((1023 < ws.length ∨ 8192 < off + ws.length) → naks (.statew off ws) 12) ∧
  -- QUIESCE
  (c.stopped = true → exec .quiesce s = .next s) ∧
  (c.stopped = false → exec .quiesce s = .next (((List.range 8).foldl (fun t k => match (t.core.strand (BitVec.ofNat 3 k)).part with
    | none => t
    | some p => { ({ t with cur := BitVec.ofNat 3 k } : State).partStep p 0xFFFFFFFF with cur := t.cur }) s).mapCore Core.quiesce)) ∧
  (c.stopped = false → (∀ k : StrandNo, (c.strand k).part = none) → Runs .quiesce s (fun u => ∃ strands, u = now { c with
      strands := strands, stopped := true, quiet := false, spillSent := false, loop := none
      far := { c.far with walks := c.far.walks.map fun w => { w with discard := true } } } ∧
    (∀ k : StrandNo, ∀ l, (∀ d, l ≠ .wait (.sleep (some d))) → (c.strand k).state = .live l →
      strands[k.toNat] = { c.strand k with state := .stop l }) ∧
    (∀ k : StrandNo, (c.strand k).state = .live (.wait (.sleep (some d))) → strands[k.toNat] =
      if d ≤ c.csr.cycle.toNat then { c.strand k with state := .stop (.wait (.finished 4)) }
      else { c.strand k with state := .stop (.wait (.sleep none)), sleepLeft := some (d - c.csr.cycle.toNat) }))) ∧
  ((c.isQuiet = false ∨ c.quiet = true) → exec .quiet s = .next s) ∧
  (c.isQuiet = true → c.quiet = false → (c.spilled = [] ∨ c.spillSent = true ∨ s.spillPlace = none) → exec .quiet s = .next ((now { c with quiet := true }).post (.quiet me))) ∧
  (c.isQuiet = true → c.quiet = false → c.spilled ≠ [] → c.spillSent = false → s.spillPlace = some (f, kind, base) → Runs .quiet s (fun u =>
    u.core.spillSent = true ∧ u.core.quiet = false ∧ u.sup.mail = s.sup.mail ∧ u.core.strands = c.strands ∧
    (∀ g, u.field f.fnum = some g → ∀ y ∈ g.saves, y.kind ≠ kind) ∧
    ∃ new, u.core.far.outs = c.far.outs ++ new ∧ new.length ≤ 1024 ∧
      ∀ o ∈ new, o.kind = .fput ∧ o.nb = 64 ∧ base ≤ o.va ∧ o.va + 64 ≤ base + 65536 ∧ (o.va - base) % 64 = 0)) ∧
  (c.isQuiet = true → c.stopped = true ∧ c.router.staged = [] ∧ c.router.inq = [] ∧ c.router.portq = [] ∧
    (∀ o ∈ c.far.outs, c.answered o = true) ∧ (∀ x ∈ c.spill, 4 ≤ x.ch.toNat → x.item.isHeld = false))

/-- R3, R232, R268 to R270, R274 and R384: a region returns to its grade's clock only when no field holds a core in it; a record waits
in the ring for READY and the domain, is then a resize record where KIND is 2, and a launch record is queued, or rejected by its
first excluded field before anything else changes; an idle field has its DRAIN markers injected, and completes with status 0 once
every sink holds a record more than before. The model's choices are that one DRAIN record more than before is what each sink waits for
(log entry 16), DETAIL 20 of the rejection with status 0x0011 (log entry 35), and that a record with PLACE bit 2 has no placement behind
one that goes before it (log entry 70). -/
def Obligations.FieldEvents : Prop := ∀ (s : State) (g : Region) (ws : List Word) (k : BitVec 16) (f : Field) (status detail i n : Nat) (ch : Chan) (before : List (Nat × Chan × Nat)),
  let bs := recordBytes ws
  let sites := s.coreSites f
  let idle := ∀ t ∈ sites, (s.coreAt t).idle = true ∧ (s.coreAt t).issue.plain = 0
  let used := ∃ f ∈ s.sup.fields, ∃ t ∈ s.coreSites f, regionOf t = g
  let open' := s.boot.ready = true ∧ s.sup.domain ≠ none ∧ fieldAt bs 0 2 ≠ 2
  let kept : Host.Outcome State Fault Refusal := .next { s with sup := { s.sup with queued := s.sup.queued ++ [.record ws] } }
  let refused (status detail : Nat) : Host.Outcome State Fault Refusal := .next { s with sup := { s.sup with
    completions := s.sup.completions ++ [[BitVec.ofNat 64 (1 + status * 2 ^ 16 + fieldAt bs 4 4 * 2 ^ 32), 0, 0, BitVec.ofNat 64 detail]] } }
  let blocked := ∃ q ∈ s.sup.queued, fieldAt bs 23 1 ≤ s.prioOf q
  let low : State := { s with wafer := { s.wafer with lowered := s.wafer.lowered.filter fun r => r ≠ g } }
  (used → exec (.clockChange g) s = .next s) ∧
  (¬ used → exec (.clockChange g) s = .next { low with
    core := { s.core with ident := { s.core.ident with mhz := low.wafer.mhzOf s.core.ident.site } }
    others := s.others.map fun c => { c with ident := { c.ident with mhz := low.wafer.mhzOf c.ident.site } } }) ∧
  ((s.boot.ready = false ∨ s.sup.domain = none) → exec (.launch ws) s = .next { s with sup := { s.sup with ring := s.sup.ring ++ [ws] } }) ∧
  (exec (.resize ws) s = exec (.launch ws) s) ∧
  (s.boot.ready = true → s.sup.domain ≠ none → fieldAt bs 0 2 = 2 → exec (.launch ws) s = .next (s.resize ws)) ∧
  (open' → s.launchRefused bs = some (status, detail) → exec (.launch ws) s = refused status detail) ∧
  (open' → s.launchRefused bs = none → fieldAt bs 20 1 / 4 % 2 = 0 → exec (.launch ws) s = kept) ∧
  (open' → s.launchRefused bs = none → fieldAt bs 20 1 / 4 % 2 = 1 → (s.imageFor bs).bind (s.placeFor bs) = none → exec (.launch ws) s = refused 0x11 20) ∧
  (open' → s.launchRefused bs = none → fieldAt bs 20 1 / 4 % 2 = 1 → blocked → exec (.launch ws) s = refused 0x11 20) ∧
  (open' → s.launchRefused bs = none → fieldAt bs 20 1 / 4 % 2 = 1 → (s.imageFor bs).bind (s.placeFor bs) ≠ none → ¬ blocked → exec (.launch ws) s = kept) ∧
  (fieldAt bs 0 2 ≠ 1 → s.launchRefused bs = some (0x10, 0)) ∧
  (fieldAt bs 0 2 = 1 → fieldAt bs 2 2 = 0 → s.launchRefused bs = some (0x10, 2)) ∧
  (launchFault bs = none → s.context (BitVec.ofNat 16 (fieldAt bs 2 2)) = none → s.launchRefused bs = some (0x14, 2)) ∧
  (s.field k = none → exec (.drain k) s = .next s) ∧
  (s.field k = some f → (f.phase ≠ .loaded ∨ (f.drains = none ∧ ¬ idle)) → exec (.drain k) s = .next s) ∧
  (s.field k = some f → f.phase = .loaded → idle → f.drains = none → exec (.drain k) s = .next (sites.foldl
    (fun u t => u.setCoreAt t Core.injectDrain) { s with sup := { s.sup with
      fields := s.sup.fields.map fun f => if f.fnum = k then { f with drains := some (s.sinks f) } else f } })) ∧
  ((i, ch, n) ∈ s.sinks f ↔ ∃ t, sites[i]? = some t ∧ 4 ≤ ch.toNat ∧ (∃ p, (omask ((s.coreAt t).route ch) (portNo p)).getLsbD 4 = true) ∧
    n = ((s.coreAt t).chan ch).items.count (.marker 0x10)) ∧
  (s.field k = some f → f.phase = .loaded → f.drains = some before →
    let arrived := ∀ x ∈ before, ∀ t, sites[x.1]? = some t → x.2.2 < ((s.coreAt t).chan x.2.1).items.count (.marker 0x10)
    (arrived → Runs (.drain k) s (fun u =>
      (∀ x ∈ u.sup.fields, x.fnum ≠ f.fnum) ∧ u.sup.completions = s.sup.completions ++
        [[BitVec.ofNat 64 (1 + f.launchId.toNat * 2 ^ 32), s.fieldIdOf f, f.doneAt.getD (s.cyclesOf f), 0]])) ∧
    (¬ arrived → exec (.drain k) s = .next s))

/-- R271, R306, R330 to R332, R334, R337, R339, R340 and R355: stopping a field. A pre-emptible field that is outranked, or must move,
is stopped: the seams into it close at their sending sides and are noted, each of its cores is sent QUIESCE, from outside on its
outer inputs, and its restore takes its place in the queue; the message passes an output inside the field, and from a site of no
field into a field that stops, once it has arrived on every input that feeds that output; a field not quiet in time returns to what
it was doing, and a checkpoint that failed so leaves no image; once all are quiet the field ends, is saved, or goes back to its
checkpoint; a consumed error rolls back, or kills with status 0x0020. The model's choices are why a field stops (0 pre-emption,
1 checkpoint, 2 DONE, 3 rollback), its own field, that QUIESCE is sent as turns at the head of the agenda (log entry 34), that on a seam
the outer inputs count as arrived (log entry 73), and which seams are noted for a field (log entry 75). RTM is kept for a field that
holds no cores (R318), no acknowledgement of a shoot-down outlives its site's field (R280), and an image with a nonzero reserved field
is not valid (R8). -/
def Obligations.StopEvents : Prop := ∀ (s : State) (k : BitVec 16) (f : Field) (out : Port) (t : Site) (note : Posted) (f1 f2 : Field),
  let c := s.core
  let me := c.ident.site
  let sites := s.coreSites f
  let found := s.field k = some f
  let phase (p : FieldPhase) (x : Field) : Field := if x.fnum = k then { x with phase := p } else x
  let stops (b u : State) (why : BitVec 2) : Prop :=
    u.sup.fields = b.sup.fields.map (fun x => if x.fnum = k then { x with phase := .stopping why, doneAt := f.doneAt } else x) ∧
    u.sup.seams = b.sup.seams ++ b.seamsInto sites k ∧ (∀ x ∈ b.seamsInto sites k, closedBit ((u.coreAt x.site).route x.ch) = true) ∧
    u.sup.queued = b.sup.queued ++ [.restore k (if why = 0 then 1 else 2)] ∧ u.sup.mail = b.sup.mail ∧ u.sup.completions = b.sup.completions ∧
    u.agenda = sites.map (fun x => { site := x, act := some .quiesce }) ++ b.agenda ∧ u.pumps = b.pumps ∧ u.cis = b.cis ∧ u.wafer = b.wafer ∧
    ∃ later : List (Site × Port),
      (∀ x p, (x, p) ∈ later → ∃ y out, s.holder y = none ∧ s.wafer.neighbour y out = some x ∧ opposite out = p) ∧
      ∀ x ∈ sites, ∀ p, p ∈ (u.coreAt x).router.qIn ↔
        (p ≠ .loc ∧ ∀ y, s.wafer.neighbour x p = some y → y ∉ sites) ∧ (x, p) ∉ later
  let ends (b u : State) (status : Nat) : Prop :=
    u.sup.fields.map (·.fnum) = (b.sup.fields.filter fun x => x.fnum ≠ k).map (·.fnum) ∧ u.sup.completions = b.sup.completions ++
      [[BitVec.ofNat 64 (1 + status * 2 ^ 16 + f.launchId.toNat * 2 ^ 32), s.fieldIdOf f, f.doneAt.getD (s.cyclesOf f), 0]] ∧
    u.agenda = b.agenda ∧ u.cis = b.cis ∧ (∀ m ∈ u.sup.mail, m.fnum ≠ k) ∧ (∀ h ∈ u.sup.held, h.2.fnum ≠ k) ∧
    (∀ x ∈ u.sup.seams, x.fnum ≠ k) ∧ (∀ n, .restore k n ∉ u.sup.queued) ∧ (∀ p ∈ u.pumps, ∀ b ∈ p.replay, b.fnum ≠ k) ∧
    ∀ x ∈ sites, (∀ n : StrandNo, (u.coreAt x).strand n = Strand.blank) ∧ (u.coreAt x).csr.fieldId = 0 ∧ (u.coreAt x).well = Well.reset
  let leaves (u : State) : Prop :=
    (u.field k).map (·.phase) = some .descheduled ∧ (u.field k).map (·.replays) = some (s.replaysOf f) ∧
    (u.field k).map (·.rtm) = some (s.rtmOf f) ∧ (∀ m ∈ u.sup.mail, ∀ x ∈ sites, ∀ a b, m.mail ≠ .ack x 0x09 a b) ∧ u.sup.queued = s.sup.queued ∧
    u.sup.completions = s.sup.completions ∧ u.agenda = s.agenda ∧
    ∀ x ∈ sites, (∀ n : StrandNo, (u.coreAt x).strand n = Strand.blank) ∧ (u.coreAt x).csr.fieldId = 0
  let returns (u : State) : Prop :=
    u.sup.fields = s.sup.fields.map (phase .loaded) ∧ u.agenda = s.agenda ∧ u.pumps = s.pumps ∧ u.cis = s.cis ∧
    u.sup.completions = s.sup.completions ∧ (∀ q, q ∈ u.sup.queued ↔ q ∈ s.sup.queued ∧ ∀ n, q ≠ .restore k n) ∧
    (∀ m, m ∈ u.sup.mail ↔ m ∈ s.sup.mail ∧ (m.fnum = k → ∀ t, m.mail ≠ .quiet t)) ∧ (∀ x, x ∈ u.sup.seams ↔ x ∈ s.sup.seams ∧ x.fnum ≠ k) ∧
    ∀ x ∈ sites, (u.coreAt x).stopped = false ∧ (u.coreAt x).quiet = false ∧ (u.coreAt x).router.qIn = [] ∧
      (∀ n : StrandNo, (u.coreAt x).strand n = (s.coreAt x).unstopStrand ((s.coreAt x).strand n))
  let zero (bs : List Byte) (off n : Nat) : Prop := ∀ i < n, bs.getD (off + i) 0 = 0
  let bits (bs : List Byte) (off lo n : Nat) : Nat := natBits (fieldAt bs off 8) lo n
  let size := 4096 + f.rows * f.cols * 524288 + f.pumps.length * 65536
  let strandZero (bs : List Byte) (o : Nat) : Prop := zero bs (o + 72) 8 ∧ bits bs (o + 88) 3 61 = 0 ∧ zero bs (o + 96) 32 ∧ zero bs (o + 904) 120
  let stateZero (bs : List Byte) (o : Nat) : Prop := (∀ i < 8, strandZero bs (o + 1024 * i)) ∧ (∀ i < 16, zero bs (o + 0x2000 + 160 * i + 152) 8) ∧
    zero bs (o + 0x34E0) 0x140 ∧ zero bs (o + 0x3B50) 0xC4B0 ∧
    ∀ i < 64, bits bs (o + 0x3950 + 8 * i) 5 3 = 0 ∧ bits bs (o + 0x3950 + 8 * i) 13 2 = 0 ∧ bits bs (o + 0x3950 + 8 * i) 32 32 = 0
  let quiet := ∀ x ∈ sites, (s.coreAt x).quiet = true
  let plain := f.resizes = [] ∧ sites.Nodup ∧ ∀ h ∈ s.sup.held, h.2.fnum ≠ k
  let settled := (s.coreSites f).foldl (fun t x => t.setCoreAt x Core.settle) s
  let wanted := f.options.getLsbD 0 = true ∧ ((∃ q ∈ s.sup.queued, f.prio < s.prioOf q) ∨
    (∃ x ∈ s.coreSites f, x ∈ s.wafer.withheld) ∨ ∃ x ∈ s.sup.changes, x.asid = f.asid ∧ ∃ y ∈ s.coreSites f, y ∈ x.waits)
  let arrived := ∀ p, c.feeds p out = true → c.arrivedOn p = true
  let sent : State := { s with core := { c with router := { c.router with qOut := c.router.qOut ++ [out] } } }
  let told := s.sup.mail.find? (fun m => match m.mail with
    | .note x n => decide (n = k) && (x == 0x0C#8 || x == 0x0D#8 || x == 0x0E#8 || x == 0x14#8)
    | _ => false)
  let good := f.options.getLsbD 1 = true ∧ (∃ x ∈ f.saves, x.kind = 2) ∧ s.imageValid f 2 = true ∧ ∀ b ∈ s.replaysOf f, b.uncovered = false
  ((f.phase = .descheduled → s.rtmOf f = f.rtm) ∧ ∀ n, s.imageValid f n = true ↔ ∃ bs, s.farRead f.asid (f.imageAt n) size = some bs ∧
    fieldAt bs 0 4 = 0x45564153 ∧ (bs.drop 160).take 64 = padBytes 64 (Config.shake256 (bs.drop 4096)) ∧
    fieldAt bs 12 4 ≤ 1 ∧ zero bs 30 2 ∧ zero bs 1248 2848 ∧
    (∀ i < 256, if i < f.pumps.length then natBits (fieldAt bs (224 + 4 * i) 4) 17 14 = 0 else fieldAt bs (224 + 4 * i) 4 = 0) ∧
    ∀ i < f.rows * f.cols, stateZero bs (4096 + 458752 * i + 393216)) ∧
  (s.field k = none → exec (.preempt k) s = .next s ∧ exec (.quiesceTimeout k) s = .next s ∧ exec (.saveWrite k) s = .next s ∧
    exec (.rollback k) s = .next s) ∧
  -- PREEMPT
  (found → f.phase = .loaded → wanted → Runs (.preempt k) s (fun u => stops s u 0)) ∧
  (found → (f.phase ≠ .loaded ∨ ¬ wanted) → exec (.preempt k) s = .next s) ∧
  -- QUIESCE_FORWARD
  ((¬ arrived ∨ out ∈ c.router.qOut ∨ ∀ p, c.feeds p out = false) → exec (.quiesceForward out) s = .next s) ∧
  (arrived → out ∉ c.router.qOut → (∃ p, c.feeds p out = true) → out ≠ .loc → s.wafer.neighbour me out = some t → s.quiesces me t = true →
    exec (.quiesceForward out) s =
      .next (sent.setCoreAt t fun x => { x with router := { x.router with qIn := x.router.qIn ++ [opposite out] } })) ∧
  (arrived → out ∉ c.router.qOut → (∃ p, c.feeds p out = true) → out ≠ .loc →
    (∀ y, s.wafer.neighbour me out = some y → s.quiesces me y = false) → exec (.quiesceForward out) s = .next sent) ∧
  (arrived → Port.loc ∉ c.router.qOut → (∃ p, c.feeds p .loc = true) → out = .loc → Runs (.quiesceForward out) s (fun u =>
    u.core.router.qOut = c.router.qOut ++ [.loc] ∧ u.others = s.others ∧ u.sup = s.sup ∧ u.core.strands = c.strands ∧ u.core.csr = c.csr ∧
    ∀ ch : Chan, 4 ≤ ch.toNat → ∀ h, Item.held h ∉ (u.core.chan ch).items ∧ ∀ x ∈ u.core.spill, x.ch = ch → x.item ≠ .held h)) ∧
  ((s.holder me = some f1 → s.holder t = some f2 → (s.quiesces me t = true ↔ f1.fnum = f2.fnum)) ∧
    (s.holder me = some f1 → s.holder t = none → s.quiesces me t = false) ∧ (s.holder me = none → s.holder t = none → s.quiesces me t = true) ∧
    (s.holder me = none → s.holder t = some f2 → (s.quiesces me t = true ↔ ∃ why, f2.phase = .stopping why))) ∧
  -- QUIESCE_TIMEOUT
  (found → (quiet ∨ f.phase = .loaded ∨ f.phase = .descheduled) → exec (.quiesceTimeout k) s = .next s) ∧
  (found → f.phase = .stopping 0 → ¬ quiet → plain → Runs (.quiesceTimeout k) s (fun u =>
    returns u ∧ u.sup.log = s.sup.log ++ [.note 0x13 k])) ∧
  (found → f.phase = .stopping 1 → ¬ quiet → plain → Runs (.quiesceTimeout k) s (fun u =>
    u.sup.log = s.sup.log ++ [.note 0x13 k] ∧ (∀ x, u.field k = some x → x.phase = .loaded ∧ ∀ y ∈ x.saves, y.kind ≠ 2) ∧
    ∀ x ∈ sites, ∀ n : StrandNo, ((s.coreAt x).strand n).onSupv = true → ((s.coreAt x).strand n).supvCode = 1 →
      ((u.coreAt x).strand n).state = .live .run ∧ ((u.coreAt x).strand n).pc = ((s.coreAt x).strand n).trapPc + 4)) ∧
  (found → f.phase = .stopping 2 → ¬ quiet → plain → Runs (.quiesceTimeout k) s (fun u =>
    u.sup.log = s.sup.log ++ [.note 0x13 k] ∧ (∀ x, u.field k = some x → x.phase = .loaded ∧ x.doneAt = none) ∧
    ∀ x ∈ sites, ∀ n : StrandNo, (u.coreAt x).strand n = (s.coreAt x).unstopStrand ((s.coreAt x).strand n))) ∧
  (found → f.phase = .stopping 3 → ¬ quiet → plain → Runs (.quiesceTimeout k) s (fun u =>
    u.sup.log = s.sup.log ++ [.note 0x13 k] ∧ (u.field k).map (·.phase) = some .loaded ∧ ∃ m ∈ u.sup.mail, m.mail = .note 0x0C k ∧ m.fnum = k)) ∧
  -- SAVE_WRITE
  (found → (¬ quiet ∨ f.phase = .loaded ∨ f.phase = .descheduled) → exec (.saveWrite k) s = .next s) ∧
  (found → quiet → f.phase = .stopping 2 → Runs (.saveWrite k) s (fun u => ends s u 1)) ∧
  (found → quiet → f.phase = .stopping 3 → Runs (.saveWrite k) s (fun u => leaves u ∧ u.cis = s.cis)) ∧
  (found → quiet → f.phase = .stopping 0 → Runs (.saveWrite k) s (fun u => ∀ w, settled.writeImage f 1 = some w →
    leaves u ∧ u.cis = w.cis ∧ ∀ x, u.field k = some x → ∃ y ∈ x.saves, y.kind = 1 ∧ y.cores.map (·.core) = (s.coreSites f).map settled.coreAt)) ∧
  (found → quiet → f.phase = .stopping 1 → plain → (∀ n, .restore k n ∉ s.sup.queued) → Runs (.saveWrite k) s (fun u =>
    (u.field k).map (·.phase) = some .loaded ∧ u.sup.completions = s.sup.completions ∧ u.sup.queued = s.sup.queued ∧
    ∀ x ∈ s.coreSites f, ∀ n : StrandNo, ((settled.coreAt x).strand n).onSupv = true → ((settled.coreAt x).strand n).supvCode = 1 →
      ((u.coreAt x).strand n).state = .live .run ∧ ((u.coreAt x).strand n).pc = ((settled.coreAt x).strand n).trapPc + 4)) ∧
  -- ROLLBACK
  (told = none → exec (.rollback k) s = .next s) ∧
  (found → f.phase ≠ .loaded → exec (.rollback k) s = .next s) ∧
  (found → f.phase = .loaded → told = some note →
    let rest : State := { s with sup := { s.sup with mail := s.sup.mail.erase note } }
    Runs (.rollback k) s (fun u => (good → stops rest u 3) ∧ (¬ good → ends rest u 0x20)))

/-- R3, R269, R272 to R275, R337 and R384: resizing and placing. A resize record before READY waits in the ring; a wrong one is
rejected by its first excluded field; a good one waits for the field's resizes before it; a growth grants the strip, whose start
barrier comes next, changes FIELDDIM and ends with status 0x0030, or with 0x0031 where the strip may not be granted, or is rejected with
status 0x0012 where the image is not valid in that shape; a shrink is shown in FIELDDIM, begun once the cores of the strip are idle, done
once the routers that stay have switched and the strip passes nothing on, and given up with status 0x0031 where they are not idle in time;
a resize begins once the membership change before it is over. What heads the
queue, by priority and then by order, leaves it when it can be placed: a record takes the first free placement, its regions take its
clock, its cores are in the field, and the start barrier comes next; a restore puts the saved cores at their new sites and lets
them run, and one without a valid image ends its field with status 0x0020. The model's choices are that a restore takes the saved record
(log entry 31), START as turns at the head of the agenda (log entry 34), the DETAILs (log entry 35), status 0x0031 of a growth that
cannot be granted (log entry 40), that one record may change rows and columns the same way (log entry 71), the two phases of a
shrink (log entry 84), that a yield is over at a restore (log entry 93), and the DETAIL of a rejected resize (log entry 96). -/
def Obligations.ResizeAndPlacement : Prop := ∀ (s : State) (ws : List Word) (k : BitVec 16) (f : Field) (r : ResizeRun) (off : Nat) (q : Queued)
    (im : Image) (rect kind : Nat) (x : Shape) (t : Option Triple) (hs : List Hop) (ps : List (BitVec 8)) (chs : List Chan) (save : SaveRec)
    (mhz : Nat) (but : BitVec 16) (ts : List Site) (b : Bool),
  let bs := recordBytes ws
  let record (status launch : Nat) (id cycles : Word) (detail : Nat) : List Word :=
    [BitVec.ofNat 64 (1 + status * 2 ^ 16 + launch * 2 ^ 32), id, cycles, BitVec.ofNat 64 detail]
  let kind2 := s.boot.ready = true ∧ s.sup.domain ≠ none ∧ fieldAt bs 0 2 = 2
  let rejects (status detail : Nat) : Prop := exec (.resize ws) s =
    .next { s with sup := { s.sup with completions := s.sup.completions ++ [record status (fieldAt bs 4 4) 0 0 detail] } }
  let named := s.sup.fields.find? fun f => (s.fieldIdOf f).toNat = fieldAt bs 8 8
  let rows := fieldAt bs 16 2
  let cols := fieldAt bs 18 2
  let mixed := (f.rows < rows ∧ cols < f.cols) ∨ (rows < f.rows ∧ f.cols < cols)
  let new : ResizeRun := { rows := rows, cols := cols, launchId := BitVec.ofNat 32 (fieldAt bs 4 4), micros := fieldAt bs 28 4, cut := false }
  let queue := s.sup.fields.map fun y => if y.fnum = f.fnum then { y with resizes := y.resizes ++ [new] } else y
  let ready := kind2 ∧ resizeFault bs true = none ∧ named = some f ∧ ¬ mixed
  let found := s.field k = some f
  let smaller := r.rows < f.rows ∨ r.cols < f.cols
  let gone := (f.stripOf r).filterMap (s.wafer.siteOf f.rect)
  let more := ((positions rows cols).filter fun p => ¬ (p.1 < f.rows ∧ p.2 < f.cols)).map fun p => (f.row + p.1, f.col + p.2)
  let added := more.filterMap (s.wafer.siteOf f.rect)
  let stable := ∀ y ∈ s.coreSites f, ∀ ch : Chan, 4 ≤ ch.toNat → ((s.coreAt y).route ch).getLsbD 49 = false
  let grows := stable ∧ s.field f.fnum = some f ∧ f.resizes = [] ∧ f.phase = .loaded ∧ f.rows ≤ rows ∧ f.cols ≤ cols
  let f1 := f.reshaped r.rows r.cols
  let fits := added.length = more.length ∧ (∀ y ∈ added, s.free? y = true) ∧
    f.mhz ≤ s.wafer.clockFor added ∧ s.clockOk f.mhz f.fnum added = true
  let idle := ∀ y ∈ gone, (s.coreAt y).idle = true
  let kept := (f1.shape.nodes ++ f1.copyNodes).filterMap (s.wafer.siteOf f.rect)
  let settled := (∀ y ∈ kept, (s.coreAt y).switched = true) ∧ ∀ y ∈ gone, (s.coreAt y).passing = false
  let dim (rows cols : Nat) : Word := BitVec.ofNat 64 (cols % 1024 + rows % 1024 * 2 ^ 10)
  let pend (rows cols : Nat) : Word := dim f.rows f.cols ||| (dim rows cols <<< 20) ||| (1#64 <<< 40)
  let asked := ∃ y ∈ s.coreSites f, (s.coreAt y).csr.fieldDim = pend r.rows r.cols
  let cutAll := s.withdrawStrip kept gone
  let drained := s.voteDrained cutAll (kept ++ gone) = true
  let joined := s.sup.domain ≠ none
  let ended (u : State) (status : Nat) : Prop :=
    u.sup.completions = s.sup.completions ++ [record status r.launchId.toNat (s.fieldIdOf f) (s.cyclesOf f) 0]
  let s1 : State := { s with sup := { s.sup with queued := s.sup.queued.erase q } }
  let want (f : Field) : List Slot := slotsWanted f.asid f.fnum f.slots.1 f.slots.2.1 f.slots.2.2
  -- RESIZE
  ((s.boot.ready = false ∨ s.sup.domain = none) → exec (.resize ws) s = .next { s with sup := { s.sup with ring := s.sup.ring ++ [ws] } }) ∧
  (kind2 → resizeFault bs named.isSome = some off → rejects 0x10 off) ∧
  ((fieldAt bs 2 2 ≠ 0 → resizeFault bs b = some 2) ∧ (fieldAt bs 2 2 = 0 → fieldAt bs 4 4 ≠ 0 → resizeFault bs b = some 4)) ∧
  (fieldAt bs 2 2 = 0 → fieldAt bs 4 4 = 0 → resizeFault bs false = some 8 ∧ (rows = 0 → resizeFault bs true = some 16) ∧
    (rows ≠ 0 → cols = 0 → resizeFault bs true = some 18) ∧
    (rows ≠ 0 → cols ≠ 0 → fieldAt bs 20 1 ≠ 0 → resizeFault bs true = some 20) ∧
    (rows ≠ 0 → cols ≠ 0 → fieldAt bs 20 1 = 0 → fieldAt bs 21 1 ≠ 0 → resizeFault bs true = some 21) ∧
    (rows ≠ 0 → cols ≠ 0 → fieldAt bs 20 8 = 0 → fieldAt bs 28 4 = 0 → resizeFault bs true = some 28) ∧
    (rows ≠ 0 → cols ≠ 0 → fieldAt bs 20 8 = 0 → fieldAt bs 28 4 ≠ 0 → fieldAt bs 32 4 = 0 → fieldAt bs 36 4 ≠ 0 → resizeFault bs true = some 36) ∧
    (rows ≠ 0 → cols ≠ 0 → fieldAt bs 20 8 = 0 → fieldAt bs 28 4 ≠ 0 → fieldAt bs 32 32 = 0 → resizeFault bs true = none)) ∧
  (kind2 → resizeFault bs true = none → named = some f → mixed → rejects 0x10 16) ∧
  (ready → (f.resizes ≠ [] ∨ f.phase ≠ .loaded) → exec (.resize ws) s = .next { s with sup := { s.sup with fields := queue } }) ∧
  (ready → s.field f.fnum = some f → f.resizes = [] → f.phase = .loaded → ¬ stable →
    exec (.resize ws) s = .next { s with sup := { s.sup with fields := queue } }) ∧
  (ready → s.field f.fnum = some f → f.resizes = [] → f.phase = .loaded → stable → (rows < f.rows ∨ cols < f.cols) → Runs (.resize ws) s (fun u =>
    u.sup = { s.sup with fields := queue } ∧ u.agenda = s.agenda ∧ u.pumps = s.pumps ∧ ∀ y ∈ s.coreSites f,
      (u.coreAt y).csr = { (s.coreAt y).csr with fieldDim := pend rows cols })) ∧
  (ready → grows → fits → s.routesFor (f.reshaped rows cols) = some (im, chs, hs) → Runs (.resize ws) s (fun u =>
    u.sup.completions = s.sup.completions ++ [record 0x30 (fieldAt bs 4 4) (s.fieldIdOf f) (s.cyclesOf f) 0] ∧
    u.agenda = added.map (fun y => { site := y, act := some .start }) ++ s.agenda ∧
    (∀ y, u.field f.fnum = some y → y.rows = rows ∧ y.cols = cols ∧ y.resizes = []) ∧
    (∀ y ∈ added, (u.coreAt y).csr.fieldId = s.fieldIdOf f ∧ (u.coreAt y).csr.fieldDim = dim rows cols ∧
      ∀ n : StrandNo, ((u.coreAt y).strand n).state = .absent) ∧
    ∀ y ∈ s.coreSites f, (u.coreAt y).csr = { (s.coreAt y).csr with fieldDim := dim rows cols })) ∧
  (ready → grows → ¬ fits → Runs (.resize ws) s (fun u =>
    u.sup.completions = s.sup.completions ++ [record 0x31 (fieldAt bs 4 4) (s.fieldIdOf f) (s.cyclesOf f) 0] ∧ u.core = s.core ∧
    u.others = s.others ∧ ∀ y, u.field f.fnum = some y → y = { f with drains := none })) ∧
  (ready → grows → fits → s.routesFor (f.reshaped rows cols) = none → Runs (.resize ws) s (fun u =>
    u.sup.completions = s.sup.completions ++ [record 0x12 (fieldAt bs 4 4) 0 0 16] ∧ u.core = s.core ∧ u.others = s.others ∧
    u.agenda = s.agenda ∧ u.pumps = s.pumps ∧ u.wafer = s.wafer ∧ ∀ y, u.field f.fnum = some y → y = { f with drains := none })) ∧
  -- RESIZE_SHRINK and RESIZE_TIMEOUT
  (∀ n, n ∈ f.stripOf r ↔ n ∈ f.shape.nodes ++ f.copyNodes ∧ f1.shape.has n = false ∧ n ∉ f1.copyNodes) ∧
  (s.field k = none → exec (.resizeShrink k) s = .next s ∧ exec (.resizeTimeout k) s = .next s) ∧
  (found → f.resizes = [] → exec (.resizeShrink k) s = .next s ∧ exec (.resizeTimeout k) s = .next s) ∧
  (found → f.resizes = [r] → smaller → (f.phase ≠ .loaded ∨ (r.cut = false ∧ asked ∧ ¬ idle) ∨ (r.cut = true ∧ ¬ settled) ∨
    (r.cut = false ∧ ¬ asked ∧ ¬ stable) ∨ (r.cut = false ∧ asked ∧ s.routesFor f1 = some (im, chs, hs) ∧ ¬ drained)) →
    exec (.resizeShrink k) s = .next s) ∧
  (found → f.resizes = [r] → smaller → r.rows ≤ f.rows → r.cols ≤ f.cols → f.phase = .loaded → r.cut = false → ¬ asked → stable →
    Runs (.resizeShrink k) s (fun u => u.sup = s.sup ∧ u.agenda = s.agenda ∧ u.pumps = s.pumps ∧ ∀ y ∈ s.coreSites f,
      (u.coreAt y).csr = { (s.coreAt y).csr with fieldDim := pend r.rows r.cols })) ∧
  ((∀ y ∈ kept, ∀ ch p, 4 ≤ ch.toNat → p ∈ linkPorts → (∃ z ∈ gone, s.wafer.neighbour y p = some z) →
      (joinOf ((cutAll.coreAt y).route ch)).getLsbD (portNo p) = false) ∧
    ∀ y ch p, 4 ≤ ch.toNat → (joinOf ((cutAll.coreAt y).route ch)).getLsbD (portNo p) = true → (joinOf ((s.coreAt y).route ch)).getLsbD (portNo p) = true) ∧
  (drained ↔ ∀ ch : Chan, 4 ≤ ch.toNat →
    let left (y : Site) (p : Port) : Prop := inJoin ((s.coreAt y).route ch) p = true ∧ inJoin ((cutAll.coreAt y).route ch) p = false
    (∃ y ∈ kept ++ gone, ∃ p ∈ voteMembers ((s.coreAt y).route ch), left y p) →
      ∀ y ∈ kept ++ gone, ∀ m ∈ (s.coreAt y).router.inq, m.2.ch = ch → ¬ left y m.1) ∧
  (found → f.resizes = [r] → smaller → (f.phase ≠ .loaded ∨ r.cut = true ∨ ¬ asked ∨ idle) → exec (.resizeTimeout k) s = .next s) ∧
  (found → f.resizes = [r] → smaller → f.phase = .loaded → r.cut = false → asked → ¬ idle → Runs (.resizeTimeout k) s (fun u => ended u 0x31 ∧
    u.sup.fields = s.sup.fields.map (fun y => if y.fnum = k then { y with resizes := y.resizes.drop 1, drains := none } else y) ∧
    ∀ y ∈ s.coreSites f, (u.coreAt y).csr = { (s.coreAt y).csr with fieldDim := dim f.rows f.cols })) ∧
  (found → f.resizes = [r] → smaller → f.phase = .loaded → r.cut = false → asked → idle → s.routesFor f1 = some (im, chs, hs) → drained →
    Runs (.resizeShrink k) s (fun u => u.sup.completions = s.sup.completions ∧ u.pumps = s.pumps ∧
      u.sup.fields = s.sup.fields.map (fun y => if y.fnum = k then { y with resizes := { r with cut := true } :: y.resizes.drop 1 } else y) ∧
      (∀ y ∈ kept, (u.coreAt y).csr = { (s.coreAt y).csr with fieldDim := dim r.rows r.cols }) ∧
      ∀ y ∈ gone, y ∉ kept → (u.coreAt y).strands = (s.coreAt y).strands ∧ ∀ ch : Chan, 4 ≤ ch.toNat →
        (joinOf ((u.coreAt y).route ch)).getLsbD 4 = false)) ∧
  (found → f.resizes = [r] → smaller → f.phase = .loaded → r.cut = true → settled → Runs (.resizeShrink k) s (fun u =>
      ended u 0x30 ∧ (∀ y, u.field k = some y → y.rows = r.rows ∧ y.cols = r.cols ∧ y.resizes = []) ∧ u.pumps = s.pumps ∧
      ∀ y ∈ gone, (∀ n : StrandNo, (u.coreAt y).strand n = Strand.blank) ∧ (u.coreAt y).csr.fieldId = 0)) ∧
  (found → f.resizes = [r] → smaller → f.phase = .loaded → r.cut = false → asked → idle → s.routesFor f1 = none → Runs (.resizeShrink k) s (fun u =>
    u.sup.completions = s.sup.completions ++ [record 0x12 r.launchId.toNat 0 0 16] ∧
    u.sup.fields = s.sup.fields.map (fun y => if y.fnum = k then { y with resizes := y.resizes.drop 1, drains := none } else y) ∧
    ∀ y ∈ s.coreSites f, (u.coreAt y).csr = { (s.coreAt y).csr with fieldDim := dim f.rows f.cols })) ∧
  -- PLACEMENT and RESTORE
  (s.wafer.clockFor ts = if ∃ y ∈ ts, regionOf y ∈ s.wafer.gradeB then 1550 else 1750) ∧
  (s.clockOk mhz but ts = true ↔ ∀ f ∈ s.sup.fields, f.fnum = but ∨ f.mhz = mhz ∨
    ∀ y ∈ s.coreSites f, ∀ z ∈ ts, regionOf y ≠ regionOf z) ∧
  (s.sup.domain = none → exec .placement s = .next s ∧ exec (.restore k) s = .next s) ∧
  (s.sup.queued = [] → exec .placement s = .next s ∧ exec (.restore k) s = .next s) ∧
  (s.queueHead = some q → q ∈ s.sup.queued ∧ ∀ y ∈ s.sup.queued, s.prioOf y ≤ s.prioOf q) ∧
  (s.queueHead = some (.restore k kind) → exec (.restore k) s = exec .placement s) ∧
  ((∀ n, s.queueHead ≠ some (.restore k n)) → exec (.restore k) s = .next s) ∧
  (s.queueHead = some q → q = .record ws → s1.launchRefused bs = none → fieldAt bs 20 1 / 4 % 2 = 0 → s1.imageFor bs = some im →
    s1.placeFor bs im = none → exec .placement s = .next s) ∧
  (joined → s.queueHead = some q → q = .record ws → s1.launchRefused bs = none → s1.imageFor bs = some im → s1.placeFor bs im = some (rect, x, t, hs) →
    let f0 := s1.newField ws im rect x
    (s1.choosePumps ((pumpsOf bs im).getD (0, 0, 0, 0)).1 (want f0) = none → Runs .placement s (fun u => u.sup.fields = s.sup.fields ∧
      u.sup.completions = s.sup.completions ++ [record 0x13 (fieldAt bs 4 4) 0 0 30])) ∧
    (s1.choosePumps ((pumpsOf bs im).getD (0, 0, 0, 0)).1 (want f0) = some ps →
    Runs .placement s (fun u => ∃ f, u.sup.fields = s.sup.fields ++ [f] ∧ u.sup.queued = s1.sup.queued ∧ u.sup.completions = s.sup.completions ∧
      f.asid.toNat = fieldAt bs 2 2 ∧ f.launchId.toNat = fieldAt bs 4 4 ∧ f.rect = rect ∧ f.shape = x ∧ f.pumps = ps ∧ f.phase = .loaded ∧
      u.agenda = (s.coreSites f).map (fun y => { site := y, act := some .start }) ++ s.agenda ∧
      f.mhz = s.wafer.clockFor (s.coreSites f) ∧ s.clockOk f.mhz 0 (s.coreSites f) = true ∧
      (∀ g, g ∈ u.wafer.lowered ↔ if ∃ y ∈ s.coreSites f, regionOf y = g then f.mhz = 1550 ∧ g ∉ s.wafer.gradeB
        else g ∈ s.wafer.lowered) ∧
      ∀ y ∈ s.coreSites f, s.free? y = true ∧ (u.coreAt y).csr.fieldId = s.fieldIdOf f))) ∧
  (s.queueHead = some q → q = .restore k kind → found → f.phase ≠ .descheduled → exec .placement s = .next s) ∧
  (joined → s.queueHead = some q → q = .restore k kind → found → f.phase = .descheduled → (s1.imageValid f kind = false ∨ ∀ y ∈ f.saves, y.kind ≠ kind) →
    Runs .placement s (fun u => u.sup.fields.map (·.fnum) = (s.sup.fields.filter fun y => y.fnum ≠ k).map (·.fnum) ∧
      u.sup.completions = s.sup.completions ++ [record 0x20 f.launchId.toNat (s.fieldIdOf f) (f.doneAt.getD (s.cyclesOf f)) 0])) ∧
  (joined → s.queueHead = some q → q = .restore k kind → found → f.phase = .descheduled → s1.imageValid f kind = true →
    (f.saves.find? fun y => y.kind = kind) = some save →
    let fast := save.cores.all fun y => y.core.ident.mhz = 1750
    (s1.freePlace f.rows f.cols f.copyAt fast = none → exec .placement s = .next s) ∧
    (s1.freePlace f.rows f.cols f.copyAt fast = some (rect, x) → s1.choosePumps f.pumps.length (want f) = some ps → f.resizes = [] →
      (∀ y ∈ save.cores, ∀ g ∈ y.core.far.regions, g = none) → (save.cores.map (·.pos)).Nodup → Runs .placement s (fun u => ∃ g,
        u.field k = some g ∧ g.phase = .loaded ∧ g.rect = rect ∧ g.shape = x ∧ g.pumps = ps ∧ u.sup.queued = s1.sup.queued ∧
        u.sup.completions = s.sup.completions ∧ u.agenda = s.agenda ∧
        ((s.coreSites g).Nodup → ∀ c ∈ save.cores, ∀ node y, g.imageNodes[c.pos]? = some (node, none) → s.wafer.siteOf rect node = some y →
          (u.coreAt y).b = c.core.b ∧ (u.coreAt y).m = c.core.m ∧ (u.coreAt y).well = c.core.well ∧ (u.coreAt y).stopped = false ∧
          (u.coreAt y).csr.fieldId = s.fieldIdOf f ∧ (u.coreAt y).csr.fieldOrg = (nameOfNode rect (x.row, x.col)).setWidth 64 ∧
          ∀ n : StrandNo, ((u.coreAt y).strand n).g = (c.core.strand n).g ∧ ((u.coreAt y).strand n).yielded = false ∧ ((u.coreAt y).strand n).pc = (c.core.strand n).pc))))

/-- R223, R307, R312, R324, R326, R328, R330, R355, R356 and R384: fault messages and host commands. The oldest message that can be taken is
taken: a FARFAULT is the host's, a STALL resumes its strand, a consumed error is decided upon, CHECK, VOTE and QUIESCE are logged,
a SUPV is served, a HOSTNOTE once its record stands in the ring, every other fault is recorded for the host; a border report is
logged and counted at its field. RETRY, SKIP and KILL act on the strand that they name, and are held
while its field stops; before READY they count as not ready. The bytes of a HOSTNOTE record other than KIND and the value are the
model's choice (log entry 83), as is the result of PUMPSWAP at a position that the pump set does not have (log entry 95). -/
def Obligations.FaultMessageEvents : Prop := ∀ (s : State) (m : Posted) (site : Site) (fid : Word) (msg : Msg)
    (n : StrandNo) (f : Field) (tg : HostTarget) (ch : Chan) (port : Port) (cls : BitVec 2) (src : BitVec 26),
  let code : BitVec 8 := msg.hdr.extractLsb' 26 8
  let st : Option StrandNo := if msg.hdr.getLsbD 37 then none else some (msg.hdr.extractLsb' 34 3)
  let name : BitVec 26 := msg.hdr.extractLsb' 0 26
  let pc : Word := msg.pay.getD 0 0
  let val : Word := msg.pay.getD 1 0
  let take (i : Instr) (t : State) : Prop := exec i s = .next t
  let sup (u : Sup) : State := { s with sup := u }
  let oldest := s.sup.mail.find? fun x => s.canTake x.mail
  let took (g : Sup → Sup) : State := sup (g { s.sup with mail := s.sup.mail.erase m })
  let strand (s : State) (t : Site) (n : StrandNo) : Strand := (s.coreAt t).strand n
  let still := (strand s site n).parked = true ∧ (strand s site n).trapCause = code.zeroExtend 64 ∧
    (strand s site n).trapPc = pc ∧ (strand s site n).trapVal = val
  let fault := oldest = some m ∧ m.mail = .fault site fid msg
  let head : Word := BitVec.ofNat 64 (3 + code.toNat * 2 ^ 8 + (st.elim 0xFF (·.toNat)) * 2 ^ 24 + fid.toNat % 2 ^ 25 * 2 ^ 32)
  let on (t : State) (g : Core → Core) : State := t.setCoreAt site g
  let named := s.field tg.fnum = some f ∧ tg.wafer = s.waferNo ∧ f.phase = .loaded ∧ (s.coreSites f).filter (fun y => (s.coreAt y).ident.name = tg.core) = [site]
  let k := tg.strand
  let back := (strand s site k).state = .live .park ∧ ((strand s site k).trapCause = 9 ∨ (strand s site k).toSupervisor = true)
  let skips := (strand s site k).state = .live .park ∧ (strand s site k).toSupervisor = true
  -- FAULT_MESSAGE
  (oldest = none → take .faultMessage s) ∧
  (∀ t c z ws, s.canTake (.ack t c z ws) = false ∧ s.canTake (.quiet t) = false ∧ s.canTake (.note c tg.fnum) = false) ∧
  (fault → code = 0x09 → take .faultMessage (took fun u => u)) ∧
  (fault → code = 0x0B → st = some n → still → take .faultMessage (on (took fun u => u) fun c => c.setStrand n fun y => { y.setLive .run with
    pc := y.resume, redo := decide (y.resume = y.trapPc) })) ∧
  (fault → (code = 0x0C ∨ code = 0x0D ∨ code = 0x0E) → take .faultMessage ((took fun u => u).post (.note code (fid.extractLsb' 0 16)))) ∧
  (fault → (code = 0x13 ∨ code = 0x14 ∨ code = 0x15) → take .faultMessage (took fun u => { u with log := u.log ++ [m.mail] })) ∧
  (fault → code ∉ [0x09, 0x0B, 0x0C, 0x0D, 0x0E, 0x12, 0x13, 0x14, 0x15] →
    take .faultMessage ((took fun u => u).faultRecord (fid.extractLsb' 32 16)
      [head, val, BitVec.ofNat 64 (name.toNat + (if st.isSome then pc.toNat % 2 ^ 32 * 2 ^ 32 else 0)), 0])) ∧
  (oldest = some m → m.mail = .border site ch port cls src → take .faultMessage (took fun u => { u with
    log := u.log ++ [m.mail], fields := u.fields.map fun f => if f.fnum = m.fnum then { f with borders := f.borders + 1 } else f })) ∧
  (∀ x ∈ [Mail.group site ch, .renorm site ch, .malformed site ch, .link site ch, .scrub site n.toNat, .slotTable code], oldest = some m → m.mail = x →
    take .faultMessage (took fun u => { u with log := u.log ++ [x] })) ∧
  (s.boot.ready = false → ∀ i ∈ [Instr.hostRetry tg, .hostSkip tg, .hostKill tg], take i (sup { s.sup with notReady := s.sup.notReady + 1 })) ∧
  -- HOST_RETRY, HOST_SKIP, HOST_KILL
  (s.boot.ready = true → named → (back → take (.hostRetry tg) (on s fun c => c.setStrand k Strand.resumed)) ∧
    (skips → Runs (.hostSkip tg) s (fun u => (strand u site k).state = ((strand s site k).setLive .run).state ∧
      (strand u site k).pc = (strand s site k).trapPc + (if (strand s site k).twoWord then 8 else 4) ∧
      (strand u site k).g = (strand s site k).g ∧ (u.coreAt site).well = (s.coreAt site).well)) ∧
    ((strand s site k).exists = true → take (.hostKill tg) (on s fun c => c.endStrand k))) ∧
  (s.boot.ready = true → s.field tg.fnum = none → take (.hostRetry tg) s ∧ take (.hostSkip tg) s ∧ take (.hostKill tg) s) ∧
  (s.boot.ready = true → s.field tg.fnum = some f → tg.wafer = s.waferNo → f.phase = .stopping 0 →
    take (.hostKill tg) (sup { s.sup with held := s.sup.held ++ [(2, tg)] })) ∧
  (s.boot.ready = true → s.field tg.fnum = some f → (tg.wafer ≠ s.waferNo ∨ f.phase = .descheduled) →
    take (.hostRetry tg) s ∧ take (.hostSkip tg) s ∧ take (.hostKill tg) s) ∧
  -- SUPV
  (fault → code = 0x12 → st = some n → still → s.field (fid.extractLsb' 0 16) = some f → f.copyAt = [] → f.fnum = fid.extractLsb' 0 16 →
    (s.coreAt site).ident.readsAs = none →
    let service := val.toNat / 2 ^ 58
    let done (r : Word) : State := on (took fun u => u) fun c => c.served n r
    (service = 0 → Runs .faultMessage s (fun u => (u.field f.fnum).map (·.phase) = some (.stopping 2) ∧ u.sup.mail = s.sup.mail.erase m)) ∧
    (service = 1 → f.options.getLsbD 1 = true → Runs .faultMessage s (fun u =>
      (u.field f.fnum).map (·.phase) = some (.stopping 1) ∧ u.sup.mail = s.sup.mail.erase m)) ∧
    (service = 1 → f.options.getLsbD 1 = false → take .faultMessage (done 1)) ∧
    (service = 2 ∨ service = 3 → Runs .faultMessage s (fun u => ∃ r, (r = 0 ∨ r = 1) ∧ (∀ x ∈ s.sup.mail.erase m, x ∈ u.sup.mail) ∧
      (strand u site n).pc = pc + 4 ∧ ((s.coreAt site).supvReg n ≠ 0 → (strand u site n).g[((s.coreAt site).supvReg n).toNat] = r))) ∧
    (service = 3 → f.pumps[val.toNat % 256]? = none →
      take .faultMessage (State.setCoreAt { (took fun u => u) with free := s.free + 1 } site fun c => c.served n 1)) ∧
    (service = 3 → f.pumps[val.toNat % 256]? ≠ none → Runs .faultMessage s (fun u => (u.field f.fnum).map (·.pumps) = some f.pumps ∨
      ∃ q ∉ f.pumps, s.usable q = true ∧ (u.field f.fnum).map (·.pumps) = some (f.pumps.set (val.toNat % 256) q))) ∧
    (service = 4 →
      let note : List Word := [BitVec.ofNat 64 (4 + n.toNat * 2 ^ 24 + f.fnum.toNat * 2 ^ 32 + s.waferNo.toNat * 2 ^ 48),
        (0#6) ++ val.extractLsb' 0 58, (s.coreAt site).ident.name.setWidth 64, 0]
      let t := (took fun u => u).faultRecord f.asid note
      ((∃ q ∈ t.sup.faultqs, q.asid = f.asid ∧ note ∈ q.held) → take .faultMessage t) ∧
      ((∀ q ∈ t.sup.faultqs, q.asid = f.asid → note ∉ q.held) → take .faultMessage (on t fun c => c.served n 0))) ∧
    (service = 5 → take .faultMessage (done (BitVec.ofNat 64 s.slot))) ∧
    (6 ≤ service → take .faultMessage (done 0xFFFFFFFFFFFFFFFF)) ∧
    (∀ c : Core, ∀ r, (c.served n r).strand n = { (c.strand n).setLive .run with
      pc := (c.strand n).trapPc + 4, g := if c.supvReg n = 0 then (c.strand n).g else (c.strand n).g.set (c.supvReg n).toNat r }))

/-- R280, R301, R302, R310, R344 and R384: contexts and page tables. A mailbox command before READY counts as not ready. A context is
created from a descriptor whose every field is in range, and deleted only without fields; its ASID waits for 256 frames. A page-table
change drops the pumps' translations, shoots down every core of the context, and is reported once every core has acknowledged; an
error of the cistern quarantines its page, and kills the context where a field asks for it. -/
def Obligations.ContextEvents : Prop := ∀ (s : State) (m : Posted) (site : Site) (f : Field) (desc : List Word)
    (val : Word) (asid : BitVec 16) (page count : Nat) (x : PageChange) (rest : List PageChange) (pte : Word) (level addr : Nat),
  let take (i : Instr) (t : State) : Prop := exec i s = .next t
  let sup (u : Sup) : State := { s with sup := u }
  let commands : List Instr := [.contextCreate desc, .contextDelete asid, .pageTableChange asid page count,
    .cisternError asid page count, .quarClear asid page count, .attest desc (some val)]
  let bs := recordBytes desc
  let at4 := fieldAt bs 4 4
  let id : BitVec 16 := BitVec.ofNat 16 (fieldAt bs 0 2)
  let good := fieldAt bs 0 2 ≠ 0 ∧ fieldAt bs 2 2 = 0 ∧ 1 ≤ at4 ∧ at4 ≤ 4096 ∧ fieldAt bs 8 8 % 65536 = 0 ∧ fieldAt bs 16 8 % 64 = 0 ∧
    16 ≤ fieldAt bs 24 4 ∧ fieldAt bs 24 4 ≤ 65536 ∧ fieldAt bs 28 4 = 0 ∧ s.context id = none ∧ ∀ d ∈ s.sup.deleted, d.1 ≠ id
  let dropped (p : TransEntry → Prop) (u : State) : Prop := u.pumps.length = s.pumps.length ∧
    ∀ (i : Nat) (y z : Pump), s.pumps[i]? = some y → u.pumps[i]? = some z → ∃ l, z = { y with cache := l, walks := z.walks, walkq := z.walkq } ∧ ∀ e, e ∈ l ↔ e ∈ y.cache ∧ ¬ p e
  let meets (e : TransEntry) : Prop := e.asid = asid ∧ page < e.page + (if e.big then 4096 else 1) ∧ e.page < page + count
  let sites := (s.sup.fields.filter fun f => f.asid = asid).flatMap s.coreSites
  let acked (t : Site) : Option Posted := s.shootAck x t
  let pending (t : Site) : Prop := ∃ y ∈ (s.coreAt t).far.shoots, y.asid = x.asid ∧ y.page = x.page ∧ y.count = x.count
  -- mailbox commands before READY
  (s.boot.ready = false → ∀ i ∈ commands, take i (sup { s.sup with notReady := s.sup.notReady + 1 })) ∧
  -- CONTEXT_CREATE, CONTEXT_DELETE, CONTEXT_REUSE_EXPIRE
  (s.boot.ready = true → good → Runs (.contextCreate desc) s (fun u => ∃ qs, u = sup { s.sup with
      contexts := s.sup.contexts ++ [{ asid := id, l0len := at4, root := fieldAt bs 8 8, faultq := fieldAt bs 16 8, fqlen := fieldAt bs 24 4 }]
      faultqs := { asid := id, ring := [], held := [] } :: qs } ∧ ∀ q, q ∈ qs ↔ q ∈ s.sup.faultqs ∧ q.asid ≠ id)) ∧
  (s.boot.ready = true → ¬ good → take (.contextCreate desc) s) ∧
  (s.boot.ready = true → (s.context asid).isSome = true → (∀ f ∈ s.sup.fields, f.asid ≠ asid) → Runs (.contextDelete asid) s (fun u =>
    dropped (fun e => e.asid = asid) u ∧ u.sup = { s.sup with
      contexts := s.sup.contexts.filter fun c => c.asid ≠ asid, deleted := s.sup.deleted ++ [(asid, s.slot)] } ∧ u.core = s.core ∧
    u.pumps.map (·.walks) = s.pumps.map (fun p => p.walks.filter fun w => w.req.asid ≠ asid) ∧
    u.pumps.map (·.walkq) = s.pumps.map fun p => p.walkq.filter fun r => r.asid ≠ asid)) ∧
  (s.boot.ready = true → (s.context asid = none ∨ ∃ f ∈ s.sup.fields, f.asid = asid) → take (.contextDelete asid) s) ∧
  take (.contextReuseExpire asid) (sup { s.sup with
    deleted := s.sup.deleted.filter fun d => ¬ (d.1 = asid ∧ d.2 + 256 * 64 ≤ s.slot) }) ∧
  -- PAGE_TABLE_CHANGE and its completion
  (s.boot.ready = true → Runs (.pageTableChange asid page count) s (fun u => dropped meets u ∧ u.pumps.map (·.walkq) = s.pumps.map (·.walkq) ∧
    (∀ c, s.context asid = some c → u.pumps.map (·.walks) = s.pumps.map fun p => p.walks.map fun w =>
      if w.req.asid = asid ∧ page ≤ w.req.va / 65536 ∧ w.req.va / 65536 < page + count then
        { w with level := 0, addr := c.root + 8 * natBits w.req.va 40 12, sent := none, got := none } else w) ∧
    u.sup = { s.sup with changes := s.sup.changes ++ [{ asid := asid, page := page, count := count, waits := sites }] } ∧
    (∀ t ∈ sites, ∃ w, w ∈ (u.coreAt t).far.shoots ∧ w.asid = asid ∧ w.page = page ∧ w.count = count) ∧
    (∀ t ∈ sites, ∀ e ∈ (u.coreAt t).far.ftb, e.lock = true ∨ ¬ (e.asid = asid ∧ page < e.page + (if e.big then 4096 else 1) ∧ e.page < page + count)) ∧
    ∀ t, t ∉ sites → u.coreAt t = s.coreAt t)) ∧
  (s.sup.changes = [] → take .pageTableDone s) ∧
  (s.sup.changes = x :: rest → x.waits ≠ [] → (∀ t ∈ x.waits, pending t ∧ acked t = none) →
    take .pageTableDone s) ∧
  (s.sup.changes = x :: rest → (∀ t ∈ x.waits, (acked t = none ∧ ¬ pending t) ∨ ∃ a, acked t = some a ∧ a.mail.locked = false) →
    Runs .pageTableDone s (fun u => u.sup.changes = rest ∧ u.sup.pageDone = s.sup.pageDone ++ [x.asid] ∧ u.core = s.core ∧ u.pumps = s.pumps)) ∧
  (s.sup.changes = x :: rest → x.waits = [site] → acked site = some m → m.mail.locked = true →
    (s.sup.fields.find? fun f => decide (site ∈ s.coreSites f)) = some f → s.field f.fnum = some f → f.phase = .loaded →
    Runs .pageTableDone s (fun u => u.sup.changes = s.sup.changes ∧ (f.options.getLsbD 0 = true → u.sup.mail = s.sup.mail) ∧
      (f.options.getLsbD 0 = true → (u.field f.fnum).map (·.phase) = some (.stopping 0)) ∧
      (f.options.getLsbD 0 = false → u.field f.fnum = none))) ∧
  -- CISTERN_ERROR and QUAR_CLEAR
  (s.boot.ready = true → s.leafOf asid (page * 65536) = some (pte, level, addr) → (∀ f ∈ s.sup.fields, f.asid = asid → f.options.getLsbD 2 = false) →
    Runs (.cisternError asid page 1) s (fun u => u.cis = { s.cis with bytes := Mem.write s.cis.bytes addr (leBytes 8 (pte ||| 8).toNat) } ∧
      u.sup.fields = s.sup.fields ∧ u.sup.changes = s.sup.changes ++ [{ asid := asid, page := page, count := 1, waits := sites }])) ∧
  (s.boot.ready = true → s.leafOf asid (page * 65536) = some (pte, level, addr) → f ∈ s.sup.fields → f.asid = asid → f.options.getLsbD 2 = true →
    Runs (.cisternError asid page 1) s (fun u => u.cis.bytes = Mem.write s.cis.bytes addr (leBytes 8 (pte ||| 8).toNat) ∧
      (∀ y ∈ u.sup.fields, y.asid ≠ asid) ∧ (∀ y ∈ u.pumps, ∀ e ∈ y.cache, e.asid ≠ asid) ∧
      (∀ y ∈ u.pumps, (∀ w ∈ y.walks, w.req.asid ≠ asid) ∧ ∀ r ∈ y.walkq, r.asid ≠ asid) ∧
      ∃ r ∈ u.sup.completions, r.head? = some (BitVec.ofNat 64 (1 + 0x21 * 2 ^ 16 + f.launchId.toNat * 2 ^ 32)))) ∧
  (s.boot.ready = true → s.leafOf asid (page * 65536) = some (pte, level, addr) → Runs (.quarClear asid page 1) s (fun u =>
    u.cis = { s.cis with bytes := Mem.write s.cis.bytes addr (leBytes 8 (pte &&& ~~~8#64).toNat) } ∧ u.sup.fields = s.sup.fields ∧
    u.sup.changes = s.sup.changes ++ [{ asid := asid, page := page, count := 1, waits := sites }]))

/-- R12, R226, R232, R233, R318, R319, R349 and R384: attestation, domains, and a core retired in service. Before READY the wafer report is
given only after FAIL; a report begins with its magic, format, kind and serial number, carries the nonce, and is 384 bytes; a wafer
joins a domain once, without the devices whose declared latency is above 400 ns, with its live lanes trained, its report given against
the domain's nonce and the ring's records read, and leaves it when nothing of it is in flight; a retired core goes into the log,
is withheld from grants, and its field, if pre-emptible, is moved. -/
def Obligations.ServiceEvents : Prop := ∀ (s : State) (nonce : List Word) (id : Word) (cfg : DomainCfg) (site : Site) (f : Field),
  let sup (u : Sup) : State := { s with sup := u }
  let refused := sup { s.sup with notReady := s.sup.notReady + 1 }
  let reports (f : Option Field) : State := sup { s.sup with replies := s.sup.replies ++ [s.report nonce f] }
  let bs (f : Option Field) : List Byte := s.report nonce f
  let left := (∀ f ∈ s.sup.fields, f.phase = .descheduled) ∧ (∀ p ∈ s.pumps, p.queue = [] ∧ p.placed = [] ∧ p.stalled = [] ∧ p.walkq = [] ∧ p.walks = []) ∧ s.cis.outcomes = []
  let w := { s.wafer with logX := s.wafer.logX ++ [site], withheld := s.wafer.withheld ++ [site] }
  let holder := s.sup.fields.find? fun f => decide (site ∈ s.coreSites f)
  (s.boot.fail = true ∨ s.boot.ready = true → exec (.attest nonce none) s = .next (reports none)) ∧
  (s.boot.fail = false → s.boot.ready = false → exec (.attest nonce none) s = .next refused) ∧
  (s.boot.ready = false → exec (.attest nonce (some id)) s = .next refused ∧ exec (.domainConfig cfg) s = .next refused ∧
    exec .domainLeave s = .next refused) ∧
  (s.boot.ready = true → (∀ f ∈ s.sup.fields, s.fieldIdOf f ≠ id) → exec (.attest nonce (some id)) s = .next s) ∧
  (s.boot.ready = true → (s.sup.fields.find? fun f => decide (s.fieldIdOf f = id)) = some f →
    exec (.attest nonce (some id)) s = .next (reports (some f))) ∧
  (∀ o : Option Field, (bs o).length = 384 ∧ fieldAt (bs o) 0 4 = 0x41545354 ∧ fieldAt (bs o) 4 2 = 1 ∧
    fieldAt (bs o) 6 2 = (if o.isSome then 2 else 1) ∧ fieldAt (bs o) 8 8 = Config.serial.toNat ∧ fieldAt (bs o) 370 14 = 0 ∧
    (nonce.length = 4 → ((bs o).drop 16).take 32 = nonce.flatMap fun x => leBytes 8 x.toNat)) ∧
  (s.boot.ready = true → s.sup.domain.isSome = true → exec (.domainConfig cfg) s = .next s) ∧
  (s.boot.ready = true → s.sup.domain = none → s.sup.ring = [] → Runs (.domainConfig cfg) s (fun u =>
    u.sup.domain = some { cfg with ranges := cfg.ranges.filter fun r => r.thirdParty.all fun ns => decide (ns ≤ 400) } ∧
    u.sup.replies = s.sup.replies ++ [s.report cfg.nonce none] ∧ u.sup.ring = [] ∧ u.sup.fields = s.sup.fields ∧
    u.core = s.core ∧ u.waferNo = cfg.wafer ∧
    ∀ no : BitVec 8, ∀ l : BitVec 3, (u.pump no).lanes[l.toNat] = if (s.pump no).lanes[l.toNat] = .dead then .dead else .live)) ∧
  (s.boot.ready = true → s.sup.domain = none → ∀ ws, s.sup.ring = [ws] → ∃ t, exec (.domainConfig cfg) (sup { s.sup with ring := [] }) = .next t ∧
    exec (.domainConfig cfg) s = .next (t.readRecord ws)) ∧
  (s.boot.ready = true → (¬ left ∨ s.sup.domain = none) → exec .domainLeave s = .next s) ∧
  (s.boot.ready = true → left → s.sup.domain.isSome = true → exec .domainLeave s = .next { sup { s.sup with domain := none } with
    pumps := s.pumps.map fun p => { p with table := Vector.replicate 8 (Vector.replicate 64 Slot.idle), next := [], prev := none, cache := [] } }) ∧
  (holder = none → exec (.coreRetire site) s = .next { s with wafer := w }) ∧
  (holder = some f → (f.options.getLsbD 0 = false ∨ f.phase ≠ .loaded) → exec (.coreRetire site) s = .next { s with wafer := w }) ∧
  (holder = some f → s.field f.fnum = some f → f.options.getLsbD 0 = true → f.phase = .loaded → Runs (.coreRetire site) s (fun u =>
    u.wafer = w ∧ (u.field f.fnum).map (·.phase) = some (.stopping 0) ∧ u.free? site = false))

/-- R2, R12 to R16, R24, R27, R28, R210, R316, R317, R378 to R385: bring-up. Each step is taken in its phase, and leads to the next:
secure boot needs one digest that all 32 supervisors accept (FCODE 0x01, 0x02), each region takes the lowest supply level that
passes, one where none does goes into the log (log entry 72), and the supervisor and photonics regions must hold (0x03), slow and
dead regions go into the log, the well
is zero, the grade is the more restrictive of fuse map and log, the rectangles hold at least one core (0x04), and PHOTONICS sets
READY. The attachments of pumps, supervisors and host ports are those of the wafer. A reset of host port 0 and a loss of power-good start again at phase 1 without fields; a
reset of another port changes nothing that is modelled. The model's choices are what stays over a restart, the host's rings, flash,
fuses, the log and the cistern (log entry 46), FCODE 0x02 where some supervisors accept a bundle and others none (log entry 47),
and which bundle is accepted after that code (log entry 85). -/
def Obligations.BringupEvents : Prop := ∀ (s : State) (reject : List (BitVec 5)) (passes : List (Region × List Nat)) (ok : Bool) (slow dead : List Region) (bad : List Site)
    (lanes : List (BitVec 8 × BitVec 3)) (port : BitVec 2) (bundle : Bundle) (site : Site) (no : BitVec 8) (k : Nat) (r : Region),
  let at' (n : Nat) : Prop := s.boot.phase = n ∧ s.boot.fail = false
  let phase (t : State) (n : Nat) : State := { t with boot := { t.boot with phase := n } }
  let fails (t : State) (code : BitVec 8) : State := { t with boot := { t.boot with fail := true, fcode := code } }
  let w := s.wafer
  let log (w : Wafer) : State := { s with wafer := w }
  let fl := s.flash
  let accepts (x : Bundle) : Prop := x.key.length = 57 ∧ Config.ed448Verify x.key (Config.shake256 x.body) x.sig = true ∧
    Config.shake256 x.key = Config.rootDigest ∧ fl.version ≤ x.version
  let bank (i : Nat) : Bundle := fl.banks.getD i { body := [], key := [], sig := [], version := 0 }
  let first := bank fl.active
  let second := bank (1 - fl.active)
  let again (u : State) : Prop := u.boot = { Boot.reset with phase := 1 } ∧ u.sup.fields = [] ∧ u.sup.contexts = [] ∧ u.sup.queued = [] ∧
    u.sup.mail = [] ∧ u.sup.domain = none ∧ u.sup.completions = s.sup.completions ∧ u.sup.ring = s.sup.ring ∧ u.pumps = [] ∧ u.others = [] ∧
    u.core = Core.blank s.core.ident.site ∧ u.cis = { s.cis with outcomes := [] } ∧ u.flash = { fl with accepted := none } ∧
    u.wafer.fuseX = w.fuseX ∧ u.wafer.logX = w.logX ∧ u.wafer.rects = [] ∧ u.wafer.withheld = []
  let graded (u : State) : Prop := (∀ x, x ∈ u.wafer.gradeX ↔ x ∈ w.fuseX ∨ x ∈ w.logX) ∧
    (∀ x, x ∈ u.wafer.gradeM ↔ (x ∈ w.fuseM ∨ x ∈ w.logM) ∧ x ∉ u.wafer.gradeX) ∧
    (∀ x, x ∈ u.wafer.gradeB ↔ x ∈ w.fuseB ∨ x ∈ w.logB) ∧ u.wafer.withheld = [] ∧ u.wafer.rects = w.rects
  let rects := w.enumerate
  let inside (r : Rect) (t : Site) : Prop := r.a ≤ t.row ∧ t.row ≤ r.b ∧ t.col ∈ r.cols
  -- the phases and their steps
  (s.boot.phase = 0 → exec .powerGood s = .next (phase s 1)) ∧ (s.boot.phase ≠ 0 → exec .powerGood s = .next s) ∧
  ((¬ at' 1 → exec (.secureBoot reject) s = .next s) ∧ (¬ at' 2 → exec (.supply ⟨passes, ok⟩) s = .next s) ∧
    (¬ at' 3 → exec (.clocks slow dead) s = .next s) ∧ (¬ at' 4 → exec (.wellInit bad) s = .next s) ∧ (¬ at' 5 → exec .grading s = .next s) ∧
    (¬ at' 6 → exec .enumeration s = .next s) ∧ (¬ at' 7 → exec (.photonics lanes) s = .next s)) ∧
  (at' 1 → reject = [] → Runs (.secureBoot reject) s (fun u =>
    (accepts first → u = phase { s with flash := { fl with accepted := some first.body } } 2) ∧
    (¬ accepts first → accepts second → u = phase { s with flash := { fl with accepted := some second.body } } 2) ∧
    (¬ accepts first → ¬ accepts second → u = fails { s with flash := { fl with accepted := none } } 1))) ∧
  (at' 1 → (∀ i, i ∈ reject) → Runs (.secureBoot reject) s (fun u =>
    (accepts second → u = phase { s with flash := { fl with accepted := some second.body } } 2) ∧
    (¬ accepts second → u = fails { s with flash := { fl with accepted := none } } 1))) ∧
  (at' 1 → (∃ i, i ∉ reject) → (∃ i, i ∈ reject) → Runs (.secureBoot reject) s (fun u =>
    (¬ accepts first → ¬ accepts second → u = fails { s with flash := { fl with accepted := none } } 1) ∧
    (¬ accepts first → accepts second → u = phase { s with flash := { fl with accepted := some second.body } } 2) ∧
    (accepts first → accepts second → Config.shake256 second.body = Config.shake256 first.body →
      u = phase { s with flash := { fl with accepted := some (if (0 : BitVec 5) ∈ reject then second.body else first.body) } } 2) ∧
    (accepts first → (accepts second → Config.shake256 second.body ≠ Config.shake256 first.body) → ∃ body, u =
      fails { s with flash := { fl with accepted := some body } } 2 ∧ (¬ accepts second → body = first.body) ∧
      (accepts second → body = if (0 : BitVec 5) ∈ reject then second.body else first.body)))) ∧
  (at' 2 → Runs (.supply ⟨passes, ok⟩) s (fun u => u.boot = (if ok then phase s 3 else fails s 3).boot ∧ u.core = s.core ∧ u.sup = s.sup ∧
    ((r, k) ∈ u.wafer.supply ↔ ∃ ks, (r, ks) ∈ passes ∧ k ∈ ks ∧ k < 33 ∧ ∀ j < k, j ∉ ks) ∧
    (∀ t : Site, t ∈ u.wafer.logX ↔ t ∈ w.logX ∨ ∃ x ∈ passes, (∀ k ∈ x.2, 33 ≤ k) ∧ 16 * x.1.row ≤ t.row ∧ t.row < 16 * x.1.row + 16 ∧
      16 * x.1.col ≤ t.col ∧ t.col < 16 * x.1.col + 16) ∧ u.wafer.logB = w.logB ∧ u.wafer.rects = w.rects)) ∧
  (at' 3 → Runs (.clocks slow dead) s (fun u => u.boot = (phase s 4).boot ∧ u.wafer.logB = w.logB ++ slow ∧ u.sup = s.sup ∧
    (∀ t : Site, t ∈ u.wafer.logX ↔ t ∈ w.logX ∨ ∃ r ∈ dead, 16 * r.row ≤ t.row ∧ t.row < 16 * r.row + 16 ∧ 16 * r.col ≤ t.col ∧ t.col < 16 * r.col + 16) ∧
    u.core.csr.cycle = 0 ∧ u.core.well = s.core.well)) ∧
  (at' 4 → Runs (.wellInit bad) s (fun u => u.boot = (phase s 5).boot ∧ u.wafer = { w with logX := w.logX ++ bad } ∧ u.sup = s.sup ∧
    u.core = { s.core with well := Well.reset } ∧ u.others = s.others.map (fun c => { c with well := Well.reset }) ∧ ∀ a, u.byte a = 0)) ∧
  (at' 5 → Runs .grading s (fun u => u.boot = (phase s 6).boot ∧ graded u ∧ u.core = s.core ∧ u.sup = s.sup)) ∧
  (at' 6 → Runs .enumeration s (fun u => u.wafer.rects = rects ∧ u.wafer.lowered = [] ∧
    u.others.map (fun c => (c.ident.site, c.csr.cycle)) = s.others.map (fun c => (c.ident.site, c.csr.cycle)) ∧ u.boot.below = u.wafer.below ∧
    (∀ c ∈ u.others, ∀ n : StrandNo, c.strand n = Strand.blank) ∧ u.sup = s.sup ∧ u.core.ident.site = s.core.ident.site ∧ u.core.csr.cycle = s.core.csr.cycle ∧
    (∀ n : StrandNo, u.core.strand n = Strand.blank) ∧
    (∀ p q, (p, q) ∈ u.wafer.pairs → p ∈ w.gradeM ∧ ((p.row = q.row ∧ (p.col = q.col + 1 ∨ q.col = p.col + 1)) ∨
      (p.col = q.col ∧ (p.row = q.row + 1 ∨ q.row = p.row + 1))) ∧ ∃ r ∈ rects, inside r q) ∧
    (rects ≠ [] → u.boot.phase = 7 ∧ u.boot.fail = false) ∧
    (rects = [] → u.boot.phase = 6 ∧ u.boot.fail = true ∧ u.boot.fcode = 4))) ∧
  (rects.length ≤ 64 ∧ ∀ r ∈ rects, r.cols ≠ [] ∧ r.a ≤ r.b ∧ r.b < 336 ∧ (inside r site → site ∉ w.gradeX ∧ site ∉ w.gradeM)) ∧
  (w.below = true ↔ w.coreCount < 143360 ∨ 10 * w.gradeACount < 9 * w.coreCount) ∧
  (at' 7 → Runs (.photonics lanes) s (fun u => u.boot = { s.boot with phase := 8, ready := true } ∧ u.sup = s.sup ∧
    u.core = s.core ∧ (∀ x, x ∈ u.wafer.deadLanes ↔ x ∈ lanes) ∧
    ∀ no : BitVec 8, ∀ l : BitVec 3, (u.pump no).lanes[l.toNat] = if (no, l) ∈ lanes then .dead else (s.pump no).lanes[l.toNat])) ∧
  -- attachments (R24, R27, R28) and the device's identity (R317)
  ((no.toNat < 112 → pumpAt no = (⟨3 * no.toNat + 1, 0⟩, .w)) ∧
    (112 ≤ no.toNat → no.toNat < 224 → pumpAt no = (⟨3 * (no.toNat - 112) + 1, 463⟩, .e)) ∧
    (224 ≤ no.toNat → no.toNat < 240 → pumpAt no = (⟨335, 29 * (no.toNat - 224) + 14⟩, .s)) ∧
    (240 ≤ no.toNat → pumpAt no = (⟨0, 29 * (no.toNat - 240) + 14⟩, .n))) ∧
  (supAt k = ⟨0, if k % 2 = 0 then 29 * (k / 2) + 7 else 29 * (k / 2) + 21⟩) ∧
  (k < 32 → (hostPort k).toNat = k / 8) ∧
  (w.through site = false → w.reach site = [site]) ∧
  (w.through site = true → w.reach site = (w.neighbour site .w).toList ++ (w.neighbour site .e).toList) ∧
  (s.identity = (fl.devKey, fl.devCert)) ∧
  -- resets
  Runs .port0Reset s (fun u => again u ∧ u.slot = s.slot) ∧ Runs .lossOfPowerGood s (fun u => again u ∧ u.slot = 0) ∧
  exec (.portReset port) s = .next s ∧
  -- firmware
  (s.boot.ready = false → exec (.bundleUpdate bundle) s = .next { s with sup := { s.sup with notReady := s.sup.notReady + 1 } }) ∧
  (s.boot.ready = true → (fl.active = 0 ∨ fl.active = 1) → Runs (.bundleUpdate bundle) s (fun u => ∃ banks i, u = { s with flash := { fl with
      banks := banks, active := i } } ∧ banks.getD (1 - fl.active) { body := [], key := [], sig := [], version := 0 } = bundle ∧
    banks.getD fl.active { body := [], key := [], sig := [], version := 0 } = first ∧ (accepts bundle → i = 1 - fl.active) ∧ (¬ accepts bundle → i = fl.active))) ∧
  ((fl.accepted.isSome = true ∧ fl.version < 64) → exec .versionAdvance s = .next { s with flash := { fl with version := fl.version + 1 } }) ∧
  ((fl.accepted = none ∨ 64 ≤ fl.version) → exec .versionAdvance s = .next s)
end

