-- ==== Sys2Proof/Laws/State.lean ====
section
/-! SUPPORT. Sys2Proof/Laws/State.lean: what each named update of a core and of the machine leaves of each field, and what
the strands and registers read after it. -/

namespace Sys2Proof.Machine

/-! ## Updates of a core -/

@[simp] theorem Core.setStrand_ident (c : Core) (n : StrandNo) (f : Strand → Strand) : (c.setStrand n f).ident = c.ident := rfl
@[simp] theorem Core.setStrand_b (c : Core) (n : StrandNo) (f : Strand → Strand) : (c.setStrand n f).b = c.b := rfl
@[simp] theorem Core.setStrand_m (c : Core) (n : StrandNo) (f : Strand → Strand) : (c.setStrand n f).m = c.m := rfl
@[simp] theorem Core.setStrand_csr (c : Core) (n : StrandNo) (f : Strand → Strand) : (c.setStrand n f).csr = c.csr := rfl
@[simp] theorem Core.setStrand_issue (c : Core) (n : StrandNo) (f : Strand → Strand) : (c.setStrand n f).issue = c.issue := rfl
@[simp] theorem Core.setStrand_loop (c : Core) (n : StrandNo) (f : Strand → Strand) : (c.setStrand n f).loop = c.loop := rfl
@[simp] theorem Core.setStrand_chans (c : Core) (n : StrandNo) (f : Strand → Strand) : (c.setStrand n f).chans = c.chans := rfl
@[simp] theorem Core.setStrand_marked (c : Core) (n : StrandNo) (f : Strand → Strand) : (c.setStrand n f).marked = c.marked := rfl
@[simp] theorem Core.setStrand_cmds (c : Core) (n : StrandNo) (f : Strand → Strand) : (c.setStrand n f).cmds = c.cmds := rfl
@[simp] theorem Core.setStrand_errs (c : Core) (n : StrandNo) (f : Strand → Strand) : (c.setStrand n f).errs = c.errs := rfl
@[simp] theorem Core.setStrand_far (c : Core) (n : StrandNo) (f : Strand → Strand) : (c.setStrand n f).far = c.far := rfl
@[simp] theorem Core.setStrand_well (c : Core) (n : StrandNo) (f : Strand → Strand) : (c.setStrand n f).well = c.well := rfl
@[simp] theorem Core.setStrand_router (c : Core) (n : StrandNo) (f : Strand → Strand) : (c.setStrand n f).router = c.router := rfl
@[simp] theorem Core.setStrand_check (c : Core) (n : StrandNo) (f : Strand → Strand) : (c.setStrand n f).check = c.check := rfl
@[simp] theorem Core.setStrand_stopped (c : Core) (n : StrandNo) (f : Strand → Strand) : (c.setStrand n f).stopped = c.stopped := rfl
@[simp] theorem Core.setStrand_quiet (c : Core) (n : StrandNo) (f : Strand → Strand) : (c.setStrand n f).quiet = c.quiet := rfl
@[simp] theorem Core.setStrand_spill (c : Core) (n : StrandNo) (f : Strand → Strand) : (c.setStrand n f).spill = c.spill := rfl
@[simp] theorem Core.setStrand_spillSent (c : Core) (n : StrandNo) (f : Strand → Strand) : (c.setStrand n f).spillSent = c.spillSent := rfl

@[simp] theorem Core.setChan_ident (c : Core) (n : Chan) (f : ChanState → ChanState) : (c.setChan n f).ident = c.ident := rfl
@[simp] theorem Core.setChan_strands (c : Core) (n : Chan) (f : ChanState → ChanState) : (c.setChan n f).strands = c.strands := rfl
@[simp] theorem Core.setChan_b (c : Core) (n : Chan) (f : ChanState → ChanState) : (c.setChan n f).b = c.b := rfl
@[simp] theorem Core.setChan_m (c : Core) (n : Chan) (f : ChanState → ChanState) : (c.setChan n f).m = c.m := rfl
@[simp] theorem Core.setChan_csr (c : Core) (n : Chan) (f : ChanState → ChanState) : (c.setChan n f).csr = c.csr := rfl
@[simp] theorem Core.setChan_issue (c : Core) (n : Chan) (f : ChanState → ChanState) : (c.setChan n f).issue = c.issue := rfl
@[simp] theorem Core.setChan_loop (c : Core) (n : Chan) (f : ChanState → ChanState) : (c.setChan n f).loop = c.loop := rfl
@[simp] theorem Core.setChan_marked (c : Core) (n : Chan) (f : ChanState → ChanState) : (c.setChan n f).marked = c.marked := rfl
@[simp] theorem Core.setChan_cmds (c : Core) (n : Chan) (f : ChanState → ChanState) : (c.setChan n f).cmds = c.cmds := rfl
@[simp] theorem Core.setChan_errs (c : Core) (n : Chan) (f : ChanState → ChanState) : (c.setChan n f).errs = c.errs := rfl
@[simp] theorem Core.setChan_far (c : Core) (n : Chan) (f : ChanState → ChanState) : (c.setChan n f).far = c.far := rfl
@[simp] theorem Core.setChan_well (c : Core) (n : Chan) (f : ChanState → ChanState) : (c.setChan n f).well = c.well := rfl
@[simp] theorem Core.setChan_router (c : Core) (n : Chan) (f : ChanState → ChanState) : (c.setChan n f).router = c.router := rfl
@[simp] theorem Core.setChan_check (c : Core) (n : Chan) (f : ChanState → ChanState) : (c.setChan n f).check = c.check := rfl
@[simp] theorem Core.setChan_stopped (c : Core) (n : Chan) (f : ChanState → ChanState) : (c.setChan n f).stopped = c.stopped := rfl
@[simp] theorem Core.setChan_quiet (c : Core) (n : Chan) (f : ChanState → ChanState) : (c.setChan n f).quiet = c.quiet := rfl
@[simp] theorem Core.setChan_spill (c : Core) (n : Chan) (f : ChanState → ChanState) : (c.setChan n f).spill = c.spill := rfl
@[simp] theorem Core.setChan_spillSent (c : Core) (n : Chan) (f : ChanState → ChanState) : (c.setChan n f).spillSent = c.spillSent := rfl

@[simp] theorem Core.retire_ident (c : Core) : (c.retire).ident = c.ident := rfl
@[simp] theorem Core.retire_strands (c : Core) : (c.retire).strands = c.strands := rfl
@[simp] theorem Core.retire_b (c : Core) : (c.retire).b = c.b := rfl
@[simp] theorem Core.retire_m (c : Core) : (c.retire).m = c.m := rfl
@[simp] theorem Core.retire_issue (c : Core) : (c.retire).issue = c.issue := rfl
@[simp] theorem Core.retire_loop (c : Core) : (c.retire).loop = c.loop := rfl
@[simp] theorem Core.retire_chans (c : Core) : (c.retire).chans = c.chans := rfl
@[simp] theorem Core.retire_marked (c : Core) : (c.retire).marked = c.marked := rfl
@[simp] theorem Core.retire_cmds (c : Core) : (c.retire).cmds = c.cmds := rfl
@[simp] theorem Core.retire_errs (c : Core) : (c.retire).errs = c.errs := rfl
@[simp] theorem Core.retire_far (c : Core) : (c.retire).far = c.far := rfl
@[simp] theorem Core.retire_well (c : Core) : (c.retire).well = c.well := rfl
@[simp] theorem Core.retire_router (c : Core) : (c.retire).router = c.router := rfl
@[simp] theorem Core.retire_stopped (c : Core) : (c.retire).stopped = c.stopped := rfl
@[simp] theorem Core.retire_quiet (c : Core) : (c.retire).quiet = c.quiet := rfl
@[simp] theorem Core.retire_spill (c : Core) : (c.retire).spill = c.spill := rfl
@[simp] theorem Core.retire_spillSent (c : Core) : (c.retire).spillSent = c.spillSent := rfl

@[simp] theorem Core.sign_ident (c : Core) (xs : List Byte) : (c.sign xs).ident = c.ident := rfl
@[simp] theorem Core.sign_strands (c : Core) (xs : List Byte) : (c.sign xs).strands = c.strands := rfl
@[simp] theorem Core.sign_b (c : Core) (xs : List Byte) : (c.sign xs).b = c.b := rfl
@[simp] theorem Core.sign_m (c : Core) (xs : List Byte) : (c.sign xs).m = c.m := rfl
@[simp] theorem Core.sign_csr (c : Core) (xs : List Byte) : (c.sign xs).csr = c.csr := rfl
@[simp] theorem Core.sign_issue (c : Core) (xs : List Byte) : (c.sign xs).issue = c.issue := rfl
@[simp] theorem Core.sign_loop (c : Core) (xs : List Byte) : (c.sign xs).loop = c.loop := rfl
@[simp] theorem Core.sign_chans (c : Core) (xs : List Byte) : (c.sign xs).chans = c.chans := rfl
@[simp] theorem Core.sign_marked (c : Core) (xs : List Byte) : (c.sign xs).marked = c.marked := rfl
@[simp] theorem Core.sign_cmds (c : Core) (xs : List Byte) : (c.sign xs).cmds = c.cmds := rfl
@[simp] theorem Core.sign_errs (c : Core) (xs : List Byte) : (c.sign xs).errs = c.errs := rfl
@[simp] theorem Core.sign_far (c : Core) (xs : List Byte) : (c.sign xs).far = c.far := rfl
@[simp] theorem Core.sign_well (c : Core) (xs : List Byte) : (c.sign xs).well = c.well := rfl
@[simp] theorem Core.sign_router (c : Core) (xs : List Byte) : (c.sign xs).router = c.router := rfl
@[simp] theorem Core.sign_stopped (c : Core) (xs : List Byte) : (c.sign xs).stopped = c.stopped := rfl
@[simp] theorem Core.sign_quiet (c : Core) (xs : List Byte) : (c.sign xs).quiet = c.quiet := rfl
@[simp] theorem Core.sign_spill (c : Core) (xs : List Byte) : (c.sign xs).spill = c.spill := rfl
@[simp] theorem Core.sign_spillSent (c : Core) (xs : List Byte) : (c.sign xs).spillSent = c.spillSent := rfl

@[simp] theorem Core.stage_ident (c : Core) (n : Option StrandNo) (m : Msg) : (c.stage n m).ident = c.ident := rfl
@[simp] theorem Core.stage_strands (c : Core) (n : Option StrandNo) (m : Msg) : (c.stage n m).strands = c.strands := rfl
@[simp] theorem Core.stage_b (c : Core) (n : Option StrandNo) (m : Msg) : (c.stage n m).b = c.b := rfl
@[simp] theorem Core.stage_m (c : Core) (n : Option StrandNo) (m : Msg) : (c.stage n m).m = c.m := rfl
@[simp] theorem Core.stage_csr (c : Core) (n : Option StrandNo) (m : Msg) : (c.stage n m).csr = c.csr := rfl
@[simp] theorem Core.stage_issue (c : Core) (n : Option StrandNo) (m : Msg) : (c.stage n m).issue = c.issue := rfl
@[simp] theorem Core.stage_loop (c : Core) (n : Option StrandNo) (m : Msg) : (c.stage n m).loop = c.loop := rfl
@[simp] theorem Core.stage_chans (c : Core) (n : Option StrandNo) (m : Msg) : (c.stage n m).chans = c.chans := rfl
@[simp] theorem Core.stage_marked (c : Core) (n : Option StrandNo) (m : Msg) : (c.stage n m).marked = c.marked := rfl
@[simp] theorem Core.stage_cmds (c : Core) (n : Option StrandNo) (m : Msg) : (c.stage n m).cmds = c.cmds := rfl
@[simp] theorem Core.stage_errs (c : Core) (n : Option StrandNo) (m : Msg) : (c.stage n m).errs = c.errs := rfl
@[simp] theorem Core.stage_far (c : Core) (n : Option StrandNo) (m : Msg) : (c.stage n m).far = c.far := rfl
@[simp] theorem Core.stage_well (c : Core) (n : Option StrandNo) (m : Msg) : (c.stage n m).well = c.well := rfl
@[simp] theorem Core.stage_check (c : Core) (n : Option StrandNo) (m : Msg) : (c.stage n m).check = c.check := rfl
@[simp] theorem Core.stage_stopped (c : Core) (n : Option StrandNo) (m : Msg) : (c.stage n m).stopped = c.stopped := rfl
@[simp] theorem Core.stage_quiet (c : Core) (n : Option StrandNo) (m : Msg) : (c.stage n m).quiet = c.quiet := rfl
@[simp] theorem Core.stage_spill (c : Core) (n : Option StrandNo) (m : Msg) : (c.stage n m).spill = c.spill := rfl
@[simp] theorem Core.stage_spillSent (c : Core) (n : Option StrandNo) (m : Msg) : (c.stage n m).spillSent = c.spillSent := rfl

@[simp] theorem Core.retire_csr (c : Core) : c.retire.csr = { c.csr with retired := c.csr.retired + 1 } := rfl

/-! ## Updates of the machine -/

@[simp] theorem State.mapCore_cur (s : State) (f : Core → Core) : (s.mapCore f).cur = s.cur := rfl
@[simp] theorem State.mapCore_others (s : State) (f : Core → Core) : (s.mapCore f).others = s.others := rfl
@[simp] theorem State.mapCore_agenda (s : State) (f : Core → Core) : (s.mapCore f).agenda = s.agenda := rfl
@[simp] theorem State.mapCore_free (s : State) (f : Core → Core) : (s.mapCore f).free = s.free := rfl
@[simp] theorem State.mapCore_split (s : State) (f : Core → Core) : (s.mapCore f).split = s.split := rfl
@[simp] theorem State.mapCore_slot (s : State) (f : Core → Core) : (s.mapCore f).slot = s.slot := rfl
@[simp] theorem State.mapCore_pumps (s : State) (f : Core → Core) : (s.mapCore f).pumps = s.pumps := rfl
@[simp] theorem State.mapCore_cis (s : State) (f : Core → Core) : (s.mapCore f).cis = s.cis := rfl
@[simp] theorem State.mapCore_sup (s : State) (f : Core → Core) : (s.mapCore f).sup = s.sup := rfl
@[simp] theorem State.mapCore_wafer (s : State) (f : Core → Core) : (s.mapCore f).wafer = s.wafer := rfl
@[simp] theorem State.mapCore_boot (s : State) (f : Core → Core) : (s.mapCore f).boot = s.boot := rfl
@[simp] theorem State.mapCore_flash (s : State) (f : Core → Core) : (s.mapCore f).flash = s.flash := rfl

@[simp] theorem State.mapCore_core (s : State) (f : Core → Core) : (s.mapCore f).core = f s.core := rfl

@[simp] theorem State.setSt_cur (s : State) (f : Strand → Strand) : (s.setSt f).cur = s.cur := rfl
@[simp] theorem State.setSt_others (s : State) (f : Strand → Strand) : (s.setSt f).others = s.others := rfl
@[simp] theorem State.setSt_agenda (s : State) (f : Strand → Strand) : (s.setSt f).agenda = s.agenda := rfl
@[simp] theorem State.setSt_free (s : State) (f : Strand → Strand) : (s.setSt f).free = s.free := rfl
@[simp] theorem State.setSt_split (s : State) (f : Strand → Strand) : (s.setSt f).split = s.split := rfl
@[simp] theorem State.setSt_slot (s : State) (f : Strand → Strand) : (s.setSt f).slot = s.slot := rfl
@[simp] theorem State.setSt_pumps (s : State) (f : Strand → Strand) : (s.setSt f).pumps = s.pumps := rfl
@[simp] theorem State.setSt_cis (s : State) (f : Strand → Strand) : (s.setSt f).cis = s.cis := rfl
@[simp] theorem State.setSt_sup (s : State) (f : Strand → Strand) : (s.setSt f).sup = s.sup := rfl
@[simp] theorem State.setSt_wafer (s : State) (f : Strand → Strand) : (s.setSt f).wafer = s.wafer := rfl
@[simp] theorem State.setSt_boot (s : State) (f : Strand → Strand) : (s.setSt f).boot = s.boot := rfl
@[simp] theorem State.setSt_flash (s : State) (f : Strand → Strand) : (s.setSt f).flash = s.flash := rfl

@[simp] theorem State.setSt_core (s : State) (f : Strand → Strand) : (s.setSt f).core = s.core.setStrand s.cur f := rfl

@[simp] theorem State.jump_cur (s : State) (pc : Word) : (s.jump pc).cur = s.cur := rfl
@[simp] theorem State.jump_others (s : State) (pc : Word) : (s.jump pc).others = s.others := rfl
@[simp] theorem State.jump_agenda (s : State) (pc : Word) : (s.jump pc).agenda = s.agenda := rfl
@[simp] theorem State.jump_free (s : State) (pc : Word) : (s.jump pc).free = s.free := rfl
@[simp] theorem State.jump_split (s : State) (pc : Word) : (s.jump pc).split = s.split := rfl
@[simp] theorem State.jump_slot (s : State) (pc : Word) : (s.jump pc).slot = s.slot := rfl
@[simp] theorem State.jump_pumps (s : State) (pc : Word) : (s.jump pc).pumps = s.pumps := rfl
@[simp] theorem State.jump_cis (s : State) (pc : Word) : (s.jump pc).cis = s.cis := rfl
@[simp] theorem State.jump_sup (s : State) (pc : Word) : (s.jump pc).sup = s.sup := rfl
@[simp] theorem State.jump_wafer (s : State) (pc : Word) : (s.jump pc).wafer = s.wafer := rfl
@[simp] theorem State.jump_boot (s : State) (pc : Word) : (s.jump pc).boot = s.boot := rfl
@[simp] theorem State.jump_flash (s : State) (pc : Word) : (s.jump pc).flash = s.flash := rfl

@[simp] theorem State.done_cur (s : State) (n : Nat) : (s.done n).cur = s.cur := rfl
@[simp] theorem State.done_others (s : State) (n : Nat) : (s.done n).others = s.others := rfl
@[simp] theorem State.done_agenda (s : State) (n : Nat) : (s.done n).agenda = s.agenda := rfl
@[simp] theorem State.done_free (s : State) (n : Nat) : (s.done n).free = s.free := rfl
@[simp] theorem State.done_split (s : State) (n : Nat) : (s.done n).split = s.split := rfl
@[simp] theorem State.done_slot (s : State) (n : Nat) : (s.done n).slot = s.slot := rfl
@[simp] theorem State.done_pumps (s : State) (n : Nat) : (s.done n).pumps = s.pumps := rfl
@[simp] theorem State.done_cis (s : State) (n : Nat) : (s.done n).cis = s.cis := rfl
@[simp] theorem State.done_sup (s : State) (n : Nat) : (s.done n).sup = s.sup := rfl
@[simp] theorem State.done_wafer (s : State) (n : Nat) : (s.done n).wafer = s.wafer := rfl
@[simp] theorem State.done_boot (s : State) (n : Nat) : (s.done n).boot = s.boot := rfl
@[simp] theorem State.done_flash (s : State) (n : Nat) : (s.done n).flash = s.flash := rfl

@[simp] theorem State.wait_cur (s : State) (w : Wait) : (s.wait w).cur = s.cur := rfl
@[simp] theorem State.wait_others (s : State) (w : Wait) : (s.wait w).others = s.others := rfl
@[simp] theorem State.wait_agenda (s : State) (w : Wait) : (s.wait w).agenda = s.agenda := rfl
@[simp] theorem State.wait_free (s : State) (w : Wait) : (s.wait w).free = s.free := rfl
@[simp] theorem State.wait_split (s : State) (w : Wait) : (s.wait w).split = s.split := rfl
@[simp] theorem State.wait_slot (s : State) (w : Wait) : (s.wait w).slot = s.slot := rfl
@[simp] theorem State.wait_pumps (s : State) (w : Wait) : (s.wait w).pumps = s.pumps := rfl
@[simp] theorem State.wait_cis (s : State) (w : Wait) : (s.wait w).cis = s.cis := rfl
@[simp] theorem State.wait_sup (s : State) (w : Wait) : (s.wait w).sup = s.sup := rfl
@[simp] theorem State.wait_wafer (s : State) (w : Wait) : (s.wait w).wafer = s.wafer := rfl
@[simp] theorem State.wait_boot (s : State) (w : Wait) : (s.wait w).boot = s.boot := rfl
@[simp] theorem State.wait_flash (s : State) (w : Wait) : (s.wait w).flash = s.flash := rfl

@[simp] theorem State.setV_cur (s : State) (r : VReg) (x : VWord) : (s.setV r x).cur = s.cur := rfl
@[simp] theorem State.setV_others (s : State) (r : VReg) (x : VWord) : (s.setV r x).others = s.others := rfl
@[simp] theorem State.setV_agenda (s : State) (r : VReg) (x : VWord) : (s.setV r x).agenda = s.agenda := rfl
@[simp] theorem State.setV_free (s : State) (r : VReg) (x : VWord) : (s.setV r x).free = s.free := rfl
@[simp] theorem State.setV_split (s : State) (r : VReg) (x : VWord) : (s.setV r x).split = s.split := rfl
@[simp] theorem State.setV_slot (s : State) (r : VReg) (x : VWord) : (s.setV r x).slot = s.slot := rfl
@[simp] theorem State.setV_pumps (s : State) (r : VReg) (x : VWord) : (s.setV r x).pumps = s.pumps := rfl
@[simp] theorem State.setV_cis (s : State) (r : VReg) (x : VWord) : (s.setV r x).cis = s.cis := rfl
@[simp] theorem State.setV_sup (s : State) (r : VReg) (x : VWord) : (s.setV r x).sup = s.sup := rfl
@[simp] theorem State.setV_wafer (s : State) (r : VReg) (x : VWord) : (s.setV r x).wafer = s.wafer := rfl
@[simp] theorem State.setV_boot (s : State) (r : VReg) (x : VWord) : (s.setV r x).boot = s.boot := rfl
@[simp] theorem State.setV_flash (s : State) (r : VReg) (x : VWord) : (s.setV r x).flash = s.flash := rfl

@[simp] theorem State.setB_cur (s : State) (r : BReg) (x : BLine) : (s.setB r x).cur = s.cur := rfl
@[simp] theorem State.setB_others (s : State) (r : BReg) (x : BLine) : (s.setB r x).others = s.others := rfl
@[simp] theorem State.setB_agenda (s : State) (r : BReg) (x : BLine) : (s.setB r x).agenda = s.agenda := rfl
@[simp] theorem State.setB_free (s : State) (r : BReg) (x : BLine) : (s.setB r x).free = s.free := rfl
@[simp] theorem State.setB_split (s : State) (r : BReg) (x : BLine) : (s.setB r x).split = s.split := rfl
@[simp] theorem State.setB_slot (s : State) (r : BReg) (x : BLine) : (s.setB r x).slot = s.slot := rfl
@[simp] theorem State.setB_pumps (s : State) (r : BReg) (x : BLine) : (s.setB r x).pumps = s.pumps := rfl
@[simp] theorem State.setB_cis (s : State) (r : BReg) (x : BLine) : (s.setB r x).cis = s.cis := rfl
@[simp] theorem State.setB_sup (s : State) (r : BReg) (x : BLine) : (s.setB r x).sup = s.sup := rfl
@[simp] theorem State.setB_wafer (s : State) (r : BReg) (x : BLine) : (s.setB r x).wafer = s.wafer := rfl
@[simp] theorem State.setB_boot (s : State) (r : BReg) (x : BLine) : (s.setB r x).boot = s.boot := rfl
@[simp] theorem State.setB_flash (s : State) (r : BReg) (x : BLine) : (s.setB r x).flash = s.flash := rfl

@[simp] theorem State.setM_cur (s : State) (r : MReg) (x : Tile) : (s.setM r x).cur = s.cur := rfl
@[simp] theorem State.setM_others (s : State) (r : MReg) (x : Tile) : (s.setM r x).others = s.others := rfl
@[simp] theorem State.setM_agenda (s : State) (r : MReg) (x : Tile) : (s.setM r x).agenda = s.agenda := rfl
@[simp] theorem State.setM_free (s : State) (r : MReg) (x : Tile) : (s.setM r x).free = s.free := rfl
@[simp] theorem State.setM_split (s : State) (r : MReg) (x : Tile) : (s.setM r x).split = s.split := rfl
@[simp] theorem State.setM_slot (s : State) (r : MReg) (x : Tile) : (s.setM r x).slot = s.slot := rfl
@[simp] theorem State.setM_pumps (s : State) (r : MReg) (x : Tile) : (s.setM r x).pumps = s.pumps := rfl
@[simp] theorem State.setM_cis (s : State) (r : MReg) (x : Tile) : (s.setM r x).cis = s.cis := rfl
@[simp] theorem State.setM_sup (s : State) (r : MReg) (x : Tile) : (s.setM r x).sup = s.sup := rfl
@[simp] theorem State.setM_wafer (s : State) (r : MReg) (x : Tile) : (s.setM r x).wafer = s.wafer := rfl
@[simp] theorem State.setM_boot (s : State) (r : MReg) (x : Tile) : (s.setM r x).boot = s.boot := rfl
@[simp] theorem State.setM_flash (s : State) (r : MReg) (x : Tile) : (s.setM r x).flash = s.flash := rfl

@[simp] theorem State.store_cur (s : State) (a : Nat) (xs : List Byte) : (s.store a xs).cur = s.cur := rfl
@[simp] theorem State.store_others (s : State) (a : Nat) (xs : List Byte) : (s.store a xs).others = s.others := rfl
@[simp] theorem State.store_agenda (s : State) (a : Nat) (xs : List Byte) : (s.store a xs).agenda = s.agenda := rfl
@[simp] theorem State.store_free (s : State) (a : Nat) (xs : List Byte) : (s.store a xs).free = s.free := rfl
@[simp] theorem State.store_split (s : State) (a : Nat) (xs : List Byte) : (s.store a xs).split = s.split := rfl
@[simp] theorem State.store_slot (s : State) (a : Nat) (xs : List Byte) : (s.store a xs).slot = s.slot := rfl
@[simp] theorem State.store_pumps (s : State) (a : Nat) (xs : List Byte) : (s.store a xs).pumps = s.pumps := rfl
@[simp] theorem State.store_cis (s : State) (a : Nat) (xs : List Byte) : (s.store a xs).cis = s.cis := rfl
@[simp] theorem State.store_sup (s : State) (a : Nat) (xs : List Byte) : (s.store a xs).sup = s.sup := rfl
@[simp] theorem State.store_wafer (s : State) (a : Nat) (xs : List Byte) : (s.store a xs).wafer = s.wafer := rfl
@[simp] theorem State.store_boot (s : State) (a : Nat) (xs : List Byte) : (s.store a xs).boot = s.boot := rfl
@[simp] theorem State.store_flash (s : State) (a : Nat) (xs : List Byte) : (s.store a xs).flash = s.flash := rfl

@[simp] theorem State.touch_cur (s : State) (a n : Nat) : (s.touch a n).cur = s.cur := rfl
@[simp] theorem State.touch_others (s : State) (a n : Nat) : (s.touch a n).others = s.others := rfl
@[simp] theorem State.touch_agenda (s : State) (a n : Nat) : (s.touch a n).agenda = s.agenda := rfl
@[simp] theorem State.touch_free (s : State) (a n : Nat) : (s.touch a n).free = s.free := rfl
@[simp] theorem State.touch_split (s : State) (a n : Nat) : (s.touch a n).split = s.split := rfl
@[simp] theorem State.touch_slot (s : State) (a n : Nat) : (s.touch a n).slot = s.slot := rfl
@[simp] theorem State.touch_pumps (s : State) (a n : Nat) : (s.touch a n).pumps = s.pumps := rfl
@[simp] theorem State.touch_cis (s : State) (a n : Nat) : (s.touch a n).cis = s.cis := rfl
@[simp] theorem State.touch_sup (s : State) (a n : Nat) : (s.touch a n).sup = s.sup := rfl
@[simp] theorem State.touch_wafer (s : State) (a n : Nat) : (s.touch a n).wafer = s.wafer := rfl
@[simp] theorem State.touch_boot (s : State) (a n : Nat) : (s.touch a n).boot = s.boot := rfl
@[simp] theorem State.touch_flash (s : State) (a n : Nat) : (s.touch a n).flash = s.flash := rfl

@[simp] theorem State.setG_cur (s : State) (r : GReg) (x : Word) : (s.setG r x).cur = s.cur := by unfold State.setG; split <;> rfl
@[simp] theorem State.setG_others (s : State) (r : GReg) (x : Word) : (s.setG r x).others = s.others := by unfold State.setG; split <;> rfl
@[simp] theorem State.setG_agenda (s : State) (r : GReg) (x : Word) : (s.setG r x).agenda = s.agenda := by unfold State.setG; split <;> rfl
@[simp] theorem State.setG_free (s : State) (r : GReg) (x : Word) : (s.setG r x).free = s.free := by unfold State.setG; split <;> rfl
@[simp] theorem State.setG_split (s : State) (r : GReg) (x : Word) : (s.setG r x).split = s.split := by unfold State.setG; split <;> rfl
@[simp] theorem State.setG_slot (s : State) (r : GReg) (x : Word) : (s.setG r x).slot = s.slot := by unfold State.setG; split <;> rfl
@[simp] theorem State.setG_pumps (s : State) (r : GReg) (x : Word) : (s.setG r x).pumps = s.pumps := by unfold State.setG; split <;> rfl
@[simp] theorem State.setG_cis (s : State) (r : GReg) (x : Word) : (s.setG r x).cis = s.cis := by unfold State.setG; split <;> rfl
@[simp] theorem State.setG_sup (s : State) (r : GReg) (x : Word) : (s.setG r x).sup = s.sup := by unfold State.setG; split <;> rfl
@[simp] theorem State.setG_wafer (s : State) (r : GReg) (x : Word) : (s.setG r x).wafer = s.wafer := by unfold State.setG; split <;> rfl
@[simp] theorem State.setG_boot (s : State) (r : GReg) (x : Word) : (s.setG r x).boot = s.boot := by unfold State.setG; split <;> rfl
@[simp] theorem State.setG_flash (s : State) (r : GReg) (x : Word) : (s.setG r x).flash = s.flash := by unfold State.setG; split <;> rfl

@[simp] theorem State.setK_cur (s : State) (r : KReg) (x : BitVec 8) : (s.setK r x).cur = s.cur := by unfold State.setK; split <;> rfl
@[simp] theorem State.setK_others (s : State) (r : KReg) (x : BitVec 8) : (s.setK r x).others = s.others := by unfold State.setK; split <;> rfl
@[simp] theorem State.setK_agenda (s : State) (r : KReg) (x : BitVec 8) : (s.setK r x).agenda = s.agenda := by unfold State.setK; split <;> rfl
@[simp] theorem State.setK_free (s : State) (r : KReg) (x : BitVec 8) : (s.setK r x).free = s.free := by unfold State.setK; split <;> rfl
@[simp] theorem State.setK_split (s : State) (r : KReg) (x : BitVec 8) : (s.setK r x).split = s.split := by unfold State.setK; split <;> rfl
@[simp] theorem State.setK_slot (s : State) (r : KReg) (x : BitVec 8) : (s.setK r x).slot = s.slot := by unfold State.setK; split <;> rfl
@[simp] theorem State.setK_pumps (s : State) (r : KReg) (x : BitVec 8) : (s.setK r x).pumps = s.pumps := by unfold State.setK; split <;> rfl
@[simp] theorem State.setK_cis (s : State) (r : KReg) (x : BitVec 8) : (s.setK r x).cis = s.cis := by unfold State.setK; split <;> rfl
@[simp] theorem State.setK_sup (s : State) (r : KReg) (x : BitVec 8) : (s.setK r x).sup = s.sup := by unfold State.setK; split <;> rfl
@[simp] theorem State.setK_wafer (s : State) (r : KReg) (x : BitVec 8) : (s.setK r x).wafer = s.wafer := by unfold State.setK; split <;> rfl
@[simp] theorem State.setK_boot (s : State) (r : KReg) (x : BitVec 8) : (s.setK r x).boot = s.boot := by unfold State.setK; split <;> rfl
@[simp] theorem State.setK_flash (s : State) (r : KReg) (x : BitVec 8) : (s.setK r x).flash = s.flash := by unfold State.setK; split <;> rfl

@[simp] theorem State.raiseFlags_cur (s : State) (f : Flags) : (s.raiseFlags f).cur = s.cur := rfl
@[simp] theorem State.raiseFlags_others (s : State) (f : Flags) : (s.raiseFlags f).others = s.others := rfl
@[simp] theorem State.raiseFlags_agenda (s : State) (f : Flags) : (s.raiseFlags f).agenda = s.agenda := rfl
@[simp] theorem State.raiseFlags_free (s : State) (f : Flags) : (s.raiseFlags f).free = s.free := rfl
@[simp] theorem State.raiseFlags_split (s : State) (f : Flags) : (s.raiseFlags f).split = s.split := rfl
@[simp] theorem State.raiseFlags_slot (s : State) (f : Flags) : (s.raiseFlags f).slot = s.slot := rfl
@[simp] theorem State.raiseFlags_pumps (s : State) (f : Flags) : (s.raiseFlags f).pumps = s.pumps := rfl
@[simp] theorem State.raiseFlags_cis (s : State) (f : Flags) : (s.raiseFlags f).cis = s.cis := rfl
@[simp] theorem State.raiseFlags_sup (s : State) (f : Flags) : (s.raiseFlags f).sup = s.sup := rfl
@[simp] theorem State.raiseFlags_wafer (s : State) (f : Flags) : (s.raiseFlags f).wafer = s.wafer := rfl
@[simp] theorem State.raiseFlags_boot (s : State) (f : Flags) : (s.raiseFlags f).boot = s.boot := rfl
@[simp] theorem State.raiseFlags_flash (s : State) (f : Flags) : (s.raiseFlags f).flash = s.flash := rfl

@[simp] theorem State.seePoison_cur (s : State) (p : Bool) : (s.seePoison p).cur = s.cur := by unfold State.seePoison; split <;> rfl
@[simp] theorem State.seePoison_others (s : State) (p : Bool) : (s.seePoison p).others = s.others := by unfold State.seePoison; split <;> rfl
@[simp] theorem State.seePoison_agenda (s : State) (p : Bool) : (s.seePoison p).agenda = s.agenda := by unfold State.seePoison; split <;> rfl
@[simp] theorem State.seePoison_free (s : State) (p : Bool) : (s.seePoison p).free = s.free := by unfold State.seePoison; split <;> rfl
@[simp] theorem State.seePoison_split (s : State) (p : Bool) : (s.seePoison p).split = s.split := by unfold State.seePoison; split <;> rfl
@[simp] theorem State.seePoison_slot (s : State) (p : Bool) : (s.seePoison p).slot = s.slot := by unfold State.seePoison; split <;> rfl
@[simp] theorem State.seePoison_pumps (s : State) (p : Bool) : (s.seePoison p).pumps = s.pumps := by unfold State.seePoison; split <;> rfl
@[simp] theorem State.seePoison_cis (s : State) (p : Bool) : (s.seePoison p).cis = s.cis := by unfold State.seePoison; split <;> rfl
@[simp] theorem State.seePoison_sup (s : State) (p : Bool) : (s.seePoison p).sup = s.sup := by unfold State.seePoison; split <;> rfl
@[simp] theorem State.seePoison_wafer (s : State) (p : Bool) : (s.seePoison p).wafer = s.wafer := by unfold State.seePoison; split <;> rfl
@[simp] theorem State.seePoison_boot (s : State) (p : Bool) : (s.seePoison p).boot = s.boot := by unfold State.seePoison; split <;> rfl
@[simp] theorem State.seePoison_flash (s : State) (p : Bool) : (s.seePoison p).flash = s.flash := by unfold State.seePoison; split <;> rfl

@[simp] theorem State.post_cur (s : State) (m : Mail) : (s.post m).cur = s.cur := rfl
@[simp] theorem State.post_others (s : State) (m : Mail) : (s.post m).others = s.others := rfl
@[simp] theorem State.post_agenda (s : State) (m : Mail) : (s.post m).agenda = s.agenda := rfl
@[simp] theorem State.post_free (s : State) (m : Mail) : (s.post m).free = s.free := rfl
@[simp] theorem State.post_split (s : State) (m : Mail) : (s.post m).split = s.split := rfl
@[simp] theorem State.post_slot (s : State) (m : Mail) : (s.post m).slot = s.slot := rfl
@[simp] theorem State.post_pumps (s : State) (m : Mail) : (s.post m).pumps = s.pumps := rfl
@[simp] theorem State.post_cis (s : State) (m : Mail) : (s.post m).cis = s.cis := rfl
@[simp] theorem State.post_wafer (s : State) (m : Mail) : (s.post m).wafer = s.wafer := rfl
@[simp] theorem State.post_boot (s : State) (m : Mail) : (s.post m).boot = s.boot := rfl
@[simp] theorem State.post_flash (s : State) (m : Mail) : (s.post m).flash = s.flash := rfl

@[simp] theorem State.postAll_cur (s : State) (m : List Mail) : (s.postAll m).cur = s.cur := rfl
@[simp] theorem State.postAll_others (s : State) (m : List Mail) : (s.postAll m).others = s.others := rfl
@[simp] theorem State.postAll_agenda (s : State) (m : List Mail) : (s.postAll m).agenda = s.agenda := rfl
@[simp] theorem State.postAll_free (s : State) (m : List Mail) : (s.postAll m).free = s.free := rfl
@[simp] theorem State.postAll_split (s : State) (m : List Mail) : (s.postAll m).split = s.split := rfl
@[simp] theorem State.postAll_slot (s : State) (m : List Mail) : (s.postAll m).slot = s.slot := rfl
@[simp] theorem State.postAll_pumps (s : State) (m : List Mail) : (s.postAll m).pumps = s.pumps := rfl
@[simp] theorem State.postAll_cis (s : State) (m : List Mail) : (s.postAll m).cis = s.cis := rfl
@[simp] theorem State.postAll_wafer (s : State) (m : List Mail) : (s.postAll m).wafer = s.wafer := rfl
@[simp] theorem State.postAll_boot (s : State) (m : List Mail) : (s.postAll m).boot = s.boot := rfl
@[simp] theorem State.postAll_flash (s : State) (m : List Mail) : (s.postAll m).flash = s.flash := rfl

@[simp] theorem State.post_core (s : State) (m : Mail) : (s.post m).core = s.core := rfl
@[simp] theorem State.postAll_core (s : State) (m : List Mail) : (s.postAll m).core = s.core := rfl

/-! ## Strands -/

@[simp] theorem Core.strand_setStrand_same (c : Core) (n : StrandNo) (f : Strand → Strand) :
    (c.setStrand n f).strand n = f (c.strand n) := by
  simp [Core.strand, Core.setStrand]

theorem Core.strand_setStrand_ne (c : Core) (n k : StrandNo) (f : Strand → Strand) (h : k ≠ n) :
    (c.setStrand n f).strand k = c.strand k := by
  have h2 : n.toNat ≠ k.toNat := fun e => h (BitVec.eq_of_toNat_eq e.symm)
  simp [Core.strand, Core.setStrand, h2]

theorem Core.setStrand_setStrand (c : Core) (n : StrandNo) (f g : Strand → Strand) :
    (c.setStrand n f).setStrand n g = c.setStrand n fun st => g (f st) := by
  simp [Core.setStrand]

@[simp] theorem Core.strand_retire (c : Core) (n : StrandNo) : c.retire.strand n = c.strand n := rfl
@[simp] theorem Core.strand_sign (c : Core) (xs : List Byte) (n : StrandNo) : (c.sign xs).strand n = c.strand n := rfl

theorem State.st_eq (s : State) : s.st = s.core.strand s.cur := rfl

@[simp] theorem State.st_setSt (s : State) (f : Strand → Strand) : (s.setSt f).st = f s.st :=
  Core.strand_setStrand_same s.core s.cur f

/-- The acting strand is as before where an update leaves the strands. -/
theorem State.st_mapCore (s : State) (f : Core → Core) (h : (f s.core).strands = s.core.strands) : (s.mapCore f).st = s.st := by
  simp [State.st, h]

@[simp] theorem State.st_retire (s : State) : (s.mapCore Core.retire).st = s.st := rfl
@[simp] theorem State.st_sign (s : State) (xs : List Byte) : (s.mapCore fun c => c.sign xs).st = s.st := rfl
@[simp] theorem State.st_store (s : State) (a : Nat) (xs : List Byte) : (s.store a xs).st = s.st := rfl
@[simp] theorem State.st_touch (s : State) (a n : Nat) : (s.touch a n).st = s.st := rfl
@[simp] theorem State.st_setB (s : State) (r : BReg) (x : BLine) : (s.setB r x).st = s.st := rfl
@[simp] theorem State.st_setM (s : State) (r : MReg) (x : Tile) : (s.setM r x).st = s.st := rfl
@[simp] theorem State.st_jump (s : State) (pc : Word) : (s.jump pc).st = { s.st with pc := pc } := State.st_setSt s _
@[simp] theorem State.st_done (s : State) (n : Nat) : (s.done n).st = { s.st with pc := s.pc + BitVec.ofNat 64 n } :=
  State.st_jump s _
@[simp] theorem State.st_raiseFlags (s : State) (f : Flags) :
    (s.raiseFlags f).st = { s.st with fflags := s.st.fflags ||| f.zeroExtend 64 } := State.st_setSt s _
@[simp] theorem State.st_setV (s : State) (r : VReg) (x : VWord) : (s.setV r x).st = { s.st with v := s.st.v.set r.toNat x } :=
  State.st_setSt s fun st => { st with v := st.v.set r.toNat x }
theorem State.st_setG (s : State) (r : GReg) (x : Word) :
    (s.setG r x).st = if r = 0 then s.st else { s.st with g := s.st.g.set r.toNat x } := by
  unfold State.setG
  split
  · rfl
  · exact State.st_setSt s fun st => { st with g := st.g.set r.toNat x }
theorem State.st_setK (s : State) (r : KReg) (x : BitVec 8) :
    (s.setK r x).st = if r = 0 then s.st else { s.st with k := s.st.k.set r.toNat x } := by
  unfold State.setK
  split
  · rfl
  · exact State.st_setSt s fun st => { st with k := st.k.set r.toNat x }
@[simp] theorem State.st_seePoison (s : State) (p : Bool) : (s.seePoison p).st = s.st := by
  unfold State.seePoison
  split <;> rfl

/-! ## Registers -/

/-- A g register after a write: g0 reads zero, and a write to it is discarded (R39, R40). -/
theorem State.g_setG (s : State) (d r : GReg) (x : Word) : (s.setG d x).g r = if r = d ∧ d ≠ 0 then x else s.g r := by
  unfold State.g
  by_cases hd : d = 0
  · simp [State.setG, hd]
  · by_cases hr : r = d
    · subst hr
      rw [State.st_setG, if_neg hd]
      simp
      grind
    · have h2 : d.toNat ≠ r.toNat := fun e => hr (BitVec.eq_of_toNat_eq e.symm)
      rw [State.st_setG, if_neg hd]
      simp [hr, h2]

theorem State.v_setV (s : State) (d r : VReg) (x : VWord) : (s.setV d x).v r = if r = d then x else s.v r := by
  unfold State.v
  by_cases hr : r = d
  · subst hr
    simp
  · have h2 : d.toNat ≠ r.toNat := fun e => hr (BitVec.eq_of_toNat_eq e.symm)
    simp [hr, h2]

/-- A k register after a write: k0 reads all ones, and a write to it is discarded (R39, R40). -/
theorem State.k_setK (s : State) (d r : KReg) (x : BitVec 8) : (s.setK d x).k r = if r = d ∧ d ≠ 0 then x else s.k r := by
  unfold State.k
  by_cases hd : d = 0
  · simp [State.setK, hd]
  · by_cases hr : r = d
    · subst hr
      rw [State.st_setK, if_neg hd]
      simp
      grind
    · have h2 : d.toNat ≠ r.toNat := fun e => hr (BitVec.eq_of_toNat_eq e.symm)
      rw [State.st_setK, if_neg hd]
      simp [hr, h2]

theorem State.b_setB (s : State) (d r : BReg) (x : BLine) : (s.setB d x).b r = if r = d then x else s.b r := by
  unfold State.b
  by_cases hr : r = d
  · subst hr
    simp [State.setB]
  · have h2 : d.toNat ≠ r.toNat := fun e => hr (BitVec.eq_of_toNat_eq e.symm)
    simp [hr, h2, State.setB]

theorem State.m_setM (s : State) (d r : MReg) (x : Tile) : (s.setM d x).m r = if r = d then x else s.m r := by
  unfold State.m
  by_cases hr : r = d
  · subst hr
    simp [State.setM]
  · have h2 : d.toNat ≠ r.toNat := fun e => hr (BitVec.eq_of_toNat_eq e.symm)
    simp [hr, h2, State.setM]

/-- A channel after a change of one. -/
theorem Core.chan_setChan (c : Core) (n k : Chan) (f : ChanState → ChanState) :
    (c.setChan n f).chan k = if k = n then f (c.chan n) else c.chan k := by
  by_cases h : k = n
  · subst h
    simp [Core.chan, Core.setChan]
  · have h2 : n.toNat ≠ k.toNat := fun e => h (BitVec.eq_of_toNat_eq e.symm)
    simp [Core.chan, Core.setChan, h, h2]

end Sys2Proof.Machine
end

