-- ==== Sys2Proof/Laws/Ops.lean ====
section
/-! SUPPORT. Sys2Proof/Laws/Ops.lean: everything the shared operations of completing instructions can do, once each, in the
terms of Safety. -/

namespace Sys2Proof.Machine

/-! ## An instruction under way -/

/-- Before an instruction retires: the acting core is c but for its strands and the checker's record, no strand but the
acting one has changed, and nothing outside the core has. -/
def Near (c : Core) (s t : State) : Prop :=
  ∃ (strands : Vector Strand 8) (check : Check),
    (∀ n : StrandNo, n ≠ s.cur → strands[n.toNat] = s.core.strands[n.toNat]) ∧
    t = { s with core := { c with strands := strands, check := check } }

theorem Near.refl (s : State) : Near s.core s s := ⟨s.core.strands, s.core.check, fun _ _ => rfl, rfl⟩

theorem Near.setSt {c : Core} {s t : State} (h : Near c s t) (f : Strand → Strand) : Near c s (t.setSt f) := by
  obtain ⟨ss, k, hn, rfl⟩ := h
  refine ⟨ss.set s.cur.toNat (f ss[s.cur.toNat]), k, fun n h => ?_, rfl⟩
  have h2 : s.cur.toNat ≠ n.toNat := fun e => h (BitVec.eq_of_toNat_eq e.symm)
  simp [h2, hn n h]

theorem Near.sign {c : Core} {s t : State} (h : Near c s t) (xs : List Byte) : Near c s (t.mapCore fun k => k.sign xs) := by
  obtain ⟨ss, k, hn, rfl⟩ := h
  exact ⟨ss, _, hn, rfl⟩

theorem Near.setG {c : Core} {s t : State} (h : Near c s t) (d : GReg) (x : Word) : Near c s (t.setG d x) := by
  unfold State.setG
  split
  · exact h
  · exact (h.setSt _).sign _

theorem Near.setK {c : Core} {s t : State} (h : Near c s t) (d : KReg) (x : BitVec 8) : Near c s (t.setK d x) := by
  unfold State.setK
  split
  · exact h
  · exact (h.setSt _).sign _

theorem Near.setV {c : Core} {s t : State} (h : Near c s t) (d : VReg) (x : VWord) : Near c s (t.setV d x) := (h.setSt _).sign _

theorem Near.raiseFlags {c : Core} {s t : State} (h : Near c s t) (f : Flags) : Near c s (t.raiseFlags f) := h.setSt _

theorem Near.jump {c : Core} {s t : State} (h : Near c s t) (pc : Word) : Near c s (t.jump pc) := h.setSt _

/-- A change of the core's other parts. -/
theorem Near.mapCore {c : Core} {s t : State} (h : Near c s t) (f : Core → Core) (d : Core)
    (hf : ∀ ss k, f { c with strands := ss, check := k } = { d with strands := ss, check := k }) :
    Near d s (t.mapCore f) := by
  obtain ⟨ss, k, hn, rfl⟩ := h
  refine ⟨ss, k, hn, ?_⟩
  show ({ s with core := f { c with strands := ss, check := k } } : State) = _
  rw [hf]

theorem Near.touch {c : Core} {s t : State} (h : Near c s t) (a n : Nat) :
    Near { c with well := c.well.touch a n } s (t.touch a n) := h.mapCore _ _ fun _ _ => rfl

theorem Near.store {c : Core} {s t : State} (h : Near c s t) (a : Nat) (xs : List Byte) :
    Near { c with well := c.well.store a xs } s (t.store a xs) := by
  obtain ⟨ss, k, hn, rfl⟩ := h
  exact ⟨ss, _, hn, rfl⟩

theorem Near.setB {c : Core} {s t : State} (h : Near c s t) (r : BReg) (x : BLine) :
    Near { c with b := c.b.set r.toNat x } s (t.setB r x) := by
  obtain ⟨ss, k, hn, rfl⟩ := h
  exact ⟨ss, _, hn, rfl⟩

theorem Near.setM {c : Core} {s t : State} (h : Near c s t) (r : MReg) (x : Tile) :
    Near { c with m := c.m.set r.toNat x } s (t.setM r x) := by
  obtain ⟨ss, k, hn, rfl⟩ := h
  exact ⟨ss, _, hn, rfl⟩

/-- The retirement that completes an instruction. -/
theorem Near.retire {c : Core} {s t : State} (h : Near c s t) (hc : c.csr.retired = s.core.csr.retired) :
    Own c s (t.mapCore Core.retire) := by
  obtain ⟨ss, k, hn, rfl⟩ := h
  refine ⟨ss, ({ c with strands := ss, check := k } : Core).retire.check, hn, ?_⟩
  rw [← hc]
  rfl

theorem Near.done {c : Core} {s t : State} (h : Near c s t) (hc : c.csr.retired = s.core.csr.retired) (len : Nat) :
    Own c s (t.done len) := (h.jump _).retire hc

theorem Own.bytes {c : Core} {s t : State} (h : Own c s t) (hc : c.well.bytes = s.core.well.bytes) : SameBytes s t := by
  obtain ⟨ss, k, hn, rfl⟩ := h
  intro a
  show Mem.get c.well.bytes a = _
  rw [hc]
  rfl

/-! ## Flags -/

@[simp] theorem or_zext_zero (x : Word) : x ||| zext 0#7 = x := by simp [zext]

/-- Leaving the strand where it was undoes the pc of a completed instruction, and nothing else. -/
theorem State.jump_done (s : State) (len : Nat) : (s.done len).jump s.pc = s.mapCore Core.retire := by
  simp only [State.done, State.jump, State.mapCore, State.setSt, Core.retire, Core.setStrand, State.pc, State.st]
  simp
  exact Vector.set_getElem_self _

/-- No enabled trap: finishing raises the flags and completes (R106). -/
theorem State.finish_quiet (s : State) (f : Flags) (h : s.arithDue f = false) : s.finish f = (s.raiseFlags f).done 4 := by
  simp [State.finish, h]

/-- An enabled trap: the instruction completes, and ARITH is taken after that with the strand at it (R106, R359). -/
theorem State.finish_traps (s : State) (f : Flags) (h : s.arithDue f = true) :
    s.finish f = ((((s.raiseFlags f).done 4).jump (s.raiseFlags f).pc).trapAfter Code.arith (zext f) 4) := by
  rw [State.jump_done]; simp [State.finish, h, zext]

/-- Finishing after work that leaves the pc and FMODE says both what the instruction gives and where it traps (R106). -/
theorem raises_of_finish {i : Instr} {s t : State} {f : Flags} {P : State → Prop} (h : exec i s = .next (t.finish f))
    (hpc : (t.raiseFlags f).pc = s.pc) (hm : t.st.fmode = s.st.fmode) (hP : P ((t.raiseFlags f).done 4)) : Raises i s f P := by
  constructor
  · intro q
    exact ⟨_, by rw [h, State.finish_quiet _ _ (by simpa [State.arithDue, Quiet, hm] using q)], hP⟩
  · intro q
    refine ⟨_, hP, ?_⟩
    rw [TrapsArith, h, State.finish_traps _ _ (by simpa [State.arithDue, Quiet, hm] using q), hpc]

theorem State.fmode_setG (s : State) (d : GReg) (x : Word) : (s.setG d x).st.fmode = s.st.fmode := by
  rw [State.st_setG]
  split <;> rfl

theorem State.arithDue_setG (s : State) (d : GReg) (x : Word) (f : Flags) : (s.setG d x).arithDue f = s.arithDue f := by
  simp [State.arithDue, State.fmode_setG]

theorem State.arithDue_setV (s : State) (d : VReg) (x : VWord) (f : Flags) : (s.setV d x).arithDue f = s.arithDue f := by
  simp [State.arithDue]

theorem State.arithDue_setK (s : State) (d : KReg) (x : BitVec 8) (f : Flags) : (s.setK d x).arithDue f = s.arithDue f := by
  have : (s.setK d x).st.fmode = s.st.fmode := by
    rw [State.st_setK]
    split <;> rfl
  simp [State.arithDue, this]

/-! ## Completing with one register written -/

theorem State.g_st {s t : State} (h : t.st.g = s.st.g) (r : GReg) : t.g r = s.g r := by simp [State.g, h]

/-- A g register written and the instruction done, in a machine u that is s but for the rest of the core. -/
theorem WroteG.intro {c : Core} {s u : State} (h : Near c s u) (hc : c.csr.retired = s.core.csr.retired) (hu : u.st = s.st) (d : GReg) (x : Word) (fl : Flags) (pc : Word) :
    WroteG c s ((((u.setG d x).raiseFlags fl).jump pc).mapCore Core.retire) d x fl pc := by
  have hown := (((h.setG d x).raiseFlags fl).jump pc).retire hc
  have hg : (u.setG d x).st = { s.st with g := (u.setG d x).st.g } := by
    rw [State.st_setG, hu]
    split <;> rfl
  refine ⟨hown, ?_, fun r => ?_⟩
  · simp only [State.st_retire, State.st_jump, State.st_raiseFlags]
    rw [hg]
    rfl
  · have h1 : ((((u.setG d x).raiseFlags fl).jump pc).mapCore Core.retire).g r = (u.setG d x).g r :=
      State.g_st (by simp) r
    rw [h1, State.g_setG]
    split
    · rfl
    · exact State.g_st (by rw [hu]) r

theorem State.raise_zero (s : State) : s.raiseFlags 0 = s := by
  have h (st : Strand) : { st with fflags := st.fflags ||| (0 : Flags).zeroExtend 64 } = st := by simp
  simp only [State.raiseFlags, State.setSt, Core.setStrand, h]
  simp

theorem State.pc_setG (s : State) (d : GReg) (x : Word) : (s.setG d x).pc = s.pc := by
  unfold State.pc
  rw [State.st_setG]
  split <;> rfl

/-- PUT: one g register written, nothing else (R40, R352). -/
theorem State.put_spec (s : State) (d : GReg) (x : Word) : PutG s (s.put d x) d x := by
  have h := WroteG.intro (Near.refl s) rfl rfl d x 0 (s.pc + 4)
  rw [State.raise_zero] at h
  unfold PutG PutF
  rw [State.put, State.done, State.pc_setG]
  exact ⟨h, h.1.bytes rfl⟩

/-- A g register written and flags raised. -/
theorem State.raisedG_spec (s : State) (d : GReg) (x : Word) (f : Flags) : PutF s (((s.setG d x).raiseFlags f).done 4) d x f := by
  have hp : ((s.setG d x).raiseFlags f).pc = s.pc := by
    rw [← State.pc_setG s d x]
    simp [State.pc]
  rw [State.done, hp]
  have h2 := WroteG.intro (Near.refl s) rfl rfl d x f (s.pc + 4)
  exact ⟨h2, h2.1.bytes rfl⟩

/-- A g register written and flags raised, where no trap is enabled for them (R106, R124). -/
theorem State.finishG_spec (s : State) (d : GReg) (x : Word) (f : Flags) (h : s.arithDue f = false) :
    PutF s ((s.setG d x).finish f) d x f := by
  rw [State.finish_quiet _ _ (by rw [State.arithDue_setG, h])]
  exact s.raisedG_spec d x f

/-- An instruction that writes a g register and raises flags, trapping where one is enabled (R106, R124). -/
theorem raises_putF {i : Instr} {s : State} {d : GReg} {x : Word} {f : Flags} (h : exec i s = .next ((s.setG d x).finish f)) :
    Raises i s f (fun t => PutF s t d x f) :=
  raises_of_finish h (by rw [← State.pc_setG s d x]; simp [State.pc]) (by rw [State.st_setG]; split <;> rfl) (s.raisedG_spec d x f)

theorem State.v_st {s t : State} (h : t.st.v = s.st.v) (r : VReg) : t.v r = s.v r := by simp [State.v, h]

theorem PutV.intro {c : Core} {s u : State} (h : Near c s u) (hc : c.csr.retired = s.core.csr.retired)
    (hb : c.well.bytes = s.core.well.bytes) (hu : u.st = s.st) (d : VReg) (x : VWord) (fl : Flags) :
    PutV c s (((u.setV d x).raiseFlags fl).done 4) d x fl := by
  have hown := ((h.setV d x).raiseFlags fl).done hc 4
  refine ⟨hown, hown.bytes hb, ?_, fun r => ?_⟩
  · simp [hu, State.pc, zext]
  · have h1 : (((u.setV d x).raiseFlags fl).done 4).v r = (u.setV d x).v r := State.v_st (by simp) r
    rw [h1, State.v_setV]
    split
    · rfl
    · exact State.v_st (by rw [hu]) r

/-- A v register written and flags raised, where no trap is enabled for them (R106, R126). -/
theorem State.finishV_spec (s : State) (d : VReg) (x : VWord) (f : Flags) (h : s.arithDue f = false) :
    PutV s.core s ((s.setV d x).finish f) d x f := by
  rw [State.finish_quiet _ _ (by rw [State.arithDue_setV, h])]
  exact PutV.intro (Near.refl s) rfl rfl rfl d x f

/-- An instruction that writes a v register and raises flags, trapping where one is enabled (R106, R126). -/
theorem raises_putV {i : Instr} {s : State} {d : VReg} {x : VWord} {f : Flags} (h : exec i s = .next ((s.setV d x).finish f)) :
    Raises i s f (fun t => PutV s.core s t d x f) :=
  raises_of_finish h (by simp [State.pc, State.st_setV]) (by simp [State.st_setV]) (PutV.intro (Near.refl s) rfl rfl rfl d x f)

/-- A v register written, no flags (R127). -/
theorem State.doneV_spec (s : State) (d : VReg) (x : VWord) : PutV s.core s ((s.setV d x).done 4) d x 0 := by
  have h := PutV.intro (Near.refl s) rfl rfl rfl d x 0
  rw [State.raise_zero] at h
  exact h

theorem State.k_st {s t : State} (h : t.st.k = s.st.k) (r : KReg) : t.k r = s.k r := by simp [State.k, h]

theorem PutK.intro {c : Core} {s u : State} (h : Near c s u) (hc : c.csr.retired = s.core.csr.retired)
    (hb : c.well.bytes = s.core.well.bytes) (hu : u.st = s.st) (d : KReg) (x : BitVec 8) (fl : Flags) :
    PutK c s (((u.setK d x).raiseFlags fl).done 4) d x fl := by
  have hown := ((h.setK d x).raiseFlags fl).done hc 4
  have hk : (u.setK d x).st = { s.st with k := (u.setK d x).st.k } := by
    rw [State.st_setK, hu]
    split <;> rfl
  refine ⟨hown, hown.bytes hb, ?_, fun r => ?_⟩
  · simp only [State.st_done, State.st_raiseFlags, State.pc]
    rw [hk]
    rfl
  · have h1 : (((u.setK d x).raiseFlags fl).done 4).k r = (u.setK d x).k r := State.k_st (by simp) r
    rw [h1, State.k_setK]
    split
    · rfl
    · exact State.k_st (by rw [hu]) r

/-- A k register written and flags raised, where no trap is enabled for them (R106, R141). -/
theorem State.finishK_spec (s : State) (d : KReg) (x : BitVec 8) (f : Flags) (h : s.arithDue f = false) :
    PutK s.core s ((s.setK d x).finish f) d x f := by
  rw [State.finish_quiet _ _ (by rw [State.arithDue_setK, h])]
  exact PutK.intro (Near.refl s) rfl rfl rfl d x f

/-- An instruction that writes a k register and raises flags, trapping where one is enabled (R106, R141). -/
theorem raises_putK {i : Instr} {s : State} {d : KReg} {x : BitVec 8} {f : Flags} (h : exec i s = .next ((s.setK d x).finish f)) :
    Raises i s f (fun t => PutK s.core s t d x f) :=
  raises_of_finish h (by simp only [State.pc, State.st_raiseFlags, State.st_setK]; split <;> rfl) (by rw [State.st_setK]; split <;> rfl) (PutK.intro (Near.refl s) rfl rfl rfl d x f)

/-- A k register written, no flags. -/
theorem State.doneK_spec (s : State) (d : KReg) (x : BitVec 8) : PutK s.core s ((s.setK d x).done 4) d x 0 := by
  have h := PutK.intro (Near.refl s) rfl rfl rfl d x 0
  rw [State.raise_zero] at h
  exact h

/-- An instruction that writes no register completes. -/
theorem State.done_spec {c : Core} {s u : State} (h : Near c s u) (hc : c.csr.retired = s.core.csr.retired) (hu : u.st = s.st)
    (len : Nat) : Stepped c s (u.done len) 0 len := by
  refine ⟨h.done hc len, ?_⟩
  simp [hu, State.pc]

end Sys2Proof.Machine
end

