-- ==== Sys2Proof/Laws/Elems.lean ====
section
/-! SUPPORT. Sys2Proof/Laws/Elems.lean: elements read back from a packed v register, and what a masked vector operation
leaves in each element (R41, R125). -/

namespace Sys2Proof.Machine

/-- Packing adds each code at its place; the codes after the first count from place 1. -/
theorem packCodes_aux (b : Nat) (cs : List Nat) : ∀ (acc k : Nat),
    (cs.zipIdx k).foldl (fun a (c, i) => a + c * 2 ^ (b * i)) acc = acc + 2 ^ (b * k) * packCodes b cs := by
  induction cs with
  | nil => intro acc k; simp [packCodes]
  | cons c cs ih =>
    intro acc k
    have h : packCodes b (c :: cs) = c + 2 ^ b * packCodes b cs := by
      unfold packCodes
      rw [List.zipIdx_cons, List.foldl_cons, ih]
      simp [packCodes]
    rw [List.zipIdx_cons, List.foldl_cons, ih, h]
    rw [Nat.mul_add, Nat.mul_add, Nat.pow_add]
    ring

theorem packCodes_cons (b c : Nat) (cs : List Nat) : packCodes b (c :: cs) = c + 2 ^ b * packCodes b cs := by
  show ((c :: cs).zipIdx).foldl _ _ = _
  rw [List.zipIdx_cons, List.foldl_cons, packCodes_aux]
  simp

/-- Codes that fit their width make a number that fits the sum of the widths. -/
theorem packCodes_lt (b : Nat) (cs : List Nat) (h : ∀ c ∈ cs, c < 2 ^ b) : packCodes b cs < 2 ^ (b * cs.length) := by
  induction cs with
  | nil => simp [packCodes]
  | cons c cs ih =>
    have h1 := h c (by simp)
    have h2 := ih fun x hx => h x (by simp [hx])
    rw [packCodes_cons, List.length_cons, Nat.mul_add, Nat.pow_add, Nat.mul_one, Nat.mul_comm (2 ^ (b * cs.length))]
    calc c + 2 ^ b * packCodes b cs < 2 ^ b + 2 ^ b * packCodes b cs := by omega
      _ = 2 ^ b * (packCodes b cs + 1) := by ring
      _ ≤ 2 ^ b * 2 ^ (b * cs.length) := Nat.mul_le_mul_left _ h2

/-- Code i of a packed number, where the codes fit. -/
theorem packCodes_get (b : Nat) (cs : List Nat) (h : ∀ c ∈ cs, c < 2 ^ b) : ∀ i, (hi : i < cs.length) →
    packCodes b cs / 2 ^ (b * i) % 2 ^ b = cs[i] := by
  induction cs with
  | nil => intro i hi; simp at hi
  | cons c cs ih =>
    intro i hi
    have h1 := h c (by simp)
    rw [packCodes_cons]
    cases i with
    | zero => simp [Nat.mod_eq_of_lt h1]
    | succ i =>
      have h2 := ih (fun x hx => h x (by simp [hx])) i (by simpa using hi)
      rw [Nat.mul_add, Nat.mul_one, Nat.add_comm (b * i), Nat.pow_add, ← Nat.div_div_eq_div_mul,
        Nat.add_mul_div_left _ _ (by positivity), Nat.div_eq_of_lt h1, Nat.zero_add]
      simpa using h2

/-- An element of a v register made of elements that fit. -/
theorem velem_vOf (w : Nat) (xs : List Nat) (h : ∀ x ∈ xs, x < 2 ^ w) (hl : w * xs.length ≤ 256) (i : Nat) (hi : i < xs.length) :
    velem w (vOf w xs) i = xs[i] := by
  have h1 : packCodes w xs < 2 ^ 256 := lt_of_lt_of_le (packCodes_lt w xs h) (Nat.pow_le_pow_right (by omega) hl)
  unfold velem natBits vOf
  rw [BitVec.toNat_ofNat, Nat.mod_eq_of_lt h1]
  exact packCodes_get w xs h i hi

theorem velem_lt (w : Nat) (x : VWord) (i : Nat) : velem w x i < 2 ^ w := Nat.mod_lt _ (by positivity)

/-- A merged v register, element by element (R125). -/
theorem velem_vmerge (w : Nat) (k : BitVec 8) (old : VWord) (f : Nat → Nat) (hf : ∀ i, f i < 2 ^ w) (i : Nat) (hi : i < 256 / w) :
    velem w (vmerge w k old ((List.range (256 / w)).map f)) i = if kbit w k i then f i else velem w old i := by
  unfold vmerge
  rw [velem_vOf]
  · simp [List.getD_eq_getElem?_getD, hi]
  · intro x hx
    simp only [List.mem_map, List.mem_range] at hx
    obtain ⟨j, hj, rfl⟩ := hx
    split
    · simp [List.getD_eq_getElem?_getD, hj, hf]
    · exact velem_lt _ _ _
  · simpa using Nat.mul_div_le 256 w
  · simpa using hi

/-- A masked vector operation without flags, element by element (R125, R127). -/
theorem State.vint_spec (s : State) (w : Nat) (d : VReg) (k : KReg) (f : Nat → Nat) (hf : ∀ i, f i < 2 ^ w) :
    PutElems s (s.vint w d k f) w d k f 0 :=
  ⟨_, State.doneV_spec s d _, fun i hi => velem_vmerge w (s.k k) (s.v d) f hf i hi⟩

/-- A masked vector operation with flags, where none is enabled to trap (R125, R126). -/
theorem State.vfp_spec (s : State) (w : Nat) (d : VReg) (k : KReg) (f : Nat → Nat × Flags) (hf : ∀ i, (f i).1 < 2 ^ w)
    (hq : Quiet s (unionFlags w (s.k k) fun i => (f i).2)) :
    PutElems s (s.vfp w d k f) w d k (fun i => (f i).1) (unionFlags w (s.k k) fun i => (f i).2) :=
  ⟨_, State.finishV_spec s d _ _ (by simpa [State.arithDue, Quiet] using hq),
    fun i hi => velem_vmerge w (s.k k) (s.v d) (fun i => (f i).1) hf i hi⟩

end Sys2Proof.Machine
end

