-- ==== Sys2Proof/Laws/Encoding.lean ====
section
/-! SUPPORT. Sys2Proof/Laws/Encoding.lean: the fields and the major of a packed word, format by format (R34). -/

namespace Sys2Proof

@[simp] theorem major_packA (op : BitVec 6) (d a b : BitVec 5) (fn : BitVec 11) :
    (packA op d a b fn).extractLsb' 26 6 = op := by
  ext i hi
  simp [packA]
  grind

@[simp] theorem unpackA_packA (op : BitVec 6) (d a b : BitVec 5) (fn : BitVec 11) :
    unpackA (packA op d a b fn) = ⟨d, a, b, fn⟩ := by
  unfold unpackA packA
  congr 1 <;> (ext i hi; simp; grind)

@[simp] theorem major_packI (op : BitVec 6) (d a : BitVec 5) (imm : BitVec 16) :
    (packI op d a imm).extractLsb' 26 6 = op := by
  ext i hi
  simp [packI]
  grind

@[simp] theorem unpackI_packI (op : BitVec 6) (d a : BitVec 5) (imm : BitVec 16) :
    unpackI (packI op d a imm) = ⟨d, a, imm⟩ := by
  unfold unpackI packI
  congr 1 <;> (ext i hi; simp; grind)

@[simp] theorem major_packJ (op : BitVec 6) (disp : BitVec 26) :
    (packJ op disp).extractLsb' 26 6 = op := by
  ext i hi
  simp [packJ]
  grind

@[simp] theorem unpackJ_packJ (op : BitVec 6) (disp : BitVec 26) : unpackJ (packJ op disp) = disp := by
  ext i hi
  simp [unpackJ, packJ]
  grind

@[simp] theorem major_packM (op : BitVec 6) (d a : BitVec 5) (sz : BitVec 2) (sx : BitVec 1) (off : BitVec 13) :
    (packM op d a sz sx off).extractLsb' 26 6 = op := by
  ext i hi
  simp [packM]
  grind

@[simp] theorem unpackM_packM (op : BitVec 6) (d a : BitVec 5) (sz : BitVec 2) (sx : BitVec 1) (off : BitVec 13) :
    unpackM (packM op d a sz sx off) = ⟨d, a, sz, sx, off⟩ := by
  unfold unpackM packM
  congr 1 <;> (ext i hi; simp; grind)

@[simp] theorem major_packV (op : BitVec 6) (d a b c : BitVec 4) (k : BitVec 3) (fn : BitVec 7) :
    (packV op d a b c k fn).extractLsb' 26 6 = op := by
  ext i hi
  simp [packV]
  grind

@[simp] theorem unpackV_packV (op : BitVec 6) (d a b c : BitVec 4) (k : BitVec 3) (fn : BitVec 7) :
    unpackV (packV op d a b c k fn) = ⟨d, a, b, c, k, fn⟩ := by
  unfold unpackV packV
  congr 1 <;> (ext i hi; simp; grind)

@[simp] theorem major_packVM (op : BitVec 6) (v : BitVec 4) (g s : BitVec 5) (esz : BitVec 2) (k : BitVec 3) (off : BitVec 7) :
    (packVM op v g s esz k off).extractLsb' 26 6 = op := by
  ext i hi
  simp [packVM]
  grind

@[simp] theorem unpackVM_packVM (op : BitVec 6) (v : BitVec 4) (g s : BitVec 5) (esz : BitVec 2) (k : BitVec 3) (off : BitVec 7) :
    unpackVM (packVM op v g s esz k off) = ⟨v, g, s, esz, k, off⟩ := by
  unfold unpackVM packVM
  congr 1 <;> (ext i hi; simp; grind)

@[simp] theorem major_packVG (op : BitVec 6) (v : BitVec 4) (g : BitVec 5) (x : BitVec 7) (k : BitVec 3) (fn : BitVec 7) :
    (packVG op v g x k fn).extractLsb' 26 6 = op := by
  ext i hi
  simp [packVG]
  grind

@[simp] theorem unpackVG_packVG (op : BitVec 6) (v : BitVec 4) (g : BitVec 5) (x : BitVec 7) (k : BitVec 3) (fn : BitVec 7) :
    unpackVG (packVG op v g x k fn) = ⟨v, g, x, k, fn⟩ := by
  unfold unpackVG packVG
  congr 1 <;> (ext i hi; simp; grind)

@[simp] theorem major_packVE (op : BitVec 6) (g : BitVec 5) (v : BitVec 4) (x : BitVec 7) (k : BitVec 3) (fn : BitVec 7) :
    (packVE op g v x k fn).extractLsb' 26 6 = op := by
  ext i hi
  simp [packVE]
  grind

@[simp] theorem unpackVE_packVE (op : BitVec 6) (g : BitVec 5) (v : BitVec 4) (x : BitVec 7) (k : BitVec 3) (fn : BitVec 7) :
    unpackVE (packVE op g v x k fn) = ⟨g, v, x, k, fn⟩ := by
  unfold unpackVE packVE
  congr 1 <;> (ext i hi; simp; grind)

@[simp] theorem major_packVC (op : BitVec 6) (d a : BitVec 4) (c : BitVec 8) (k : BitVec 3) (fn : BitVec 7) :
    (packVC op d a c k fn).extractLsb' 26 6 = op := by
  ext i hi
  simp [packVC]
  grind

@[simp] theorem unpackVC_packVC (op : BitVec 6) (d a : BitVec 4) (c : BitVec 8) (k : BitVec 3) (fn : BitVec 7) :
    unpackVC (packVC op d a c k fn) = ⟨d, a, c, k, fn⟩ := by
  unfold unpackVC packVC
  congr 1 <;> (ext i hi; simp; grind)

@[simp] theorem major_packK (op : BitVec 6) (m : BitVec 3) (ba bb aux : BitVec 4) (gx : BitVec 5) (mem : BitVec 6) :
    (packK op m ba bb aux gx mem).extractLsb' 26 6 = op := by
  ext i hi
  simp [packK]
  grind

@[simp] theorem unpackK_packK (op : BitVec 6) (m : BitVec 3) (ba bb aux : BitVec 4) (gx : BitVec 5) (mem : BitVec 6) :
    unpackK (packK op m ba bb aux gx mem) = ⟨m, ba, bb, aux, gx, mem⟩ := by
  unfold unpackK packK
  congr 1 <;> (ext i hi; simp; grind)

@[simp] theorem major_packKM (op : BitVec 6) (b : BitVec 4) (g : BitVec 5) (fmt : BitVec 4) (off : BitVec 13) :
    (packKM op b g fmt off).extractLsb' 26 6 = op := by
  ext i hi
  simp [packKM]
  grind

@[simp] theorem unpackKM_packKM (op : BitVec 6) (b : BitVec 4) (g : BitVec 5) (fmt : BitVec 4) (off : BitVec 13) :
    unpackKM (packKM op b g fmt off) = ⟨b, g, fmt, off⟩ := by
  unfold unpackKM packKM
  congr 1 <;> (ext i hi; simp; grind)

@[simp] theorem major_packC (op : BitVec 6) (d a ch : BitVec 5) (fn : BitVec 8) (z : BitVec 1) (cls : BitVec 2) :
    (packC op d a ch fn z cls).extractLsb' 26 6 = op := by
  ext i hi
  simp [packC]
  grind

@[simp] theorem unpackC_packC (op : BitVec 6) (d a ch : BitVec 5) (fn : BitVec 8) (z : BitVec 1) (cls : BitVec 2) :
    unpackC (packC op d a ch fn z cls) = ⟨d, a, ch, fn, z, cls⟩ := by
  unfold unpackC packC
  congr 1 <;> (ext i hi; simp; grind)

@[simp] theorem major_packS (op : BitVec 6) (d a : BitVec 5) (csr : BitVec 12) (fn : BitVec 4) :
    (packS op d a csr fn).extractLsb' 26 6 = op := by
  ext i hi
  simp [packS]
  grind

@[simp] theorem unpackS_packS (op : BitVec 6) (d a : BitVec 5) (csr : BitVec 12) (fn : BitVec 4) :
    unpackS (packS op d a csr fn) = ⟨d, a, csr, fn⟩ := by
  unfold unpackS packS
  congr 1 <;> (ext i hi; simp; grind)

@[simp] theorem unpackCL_packCL (ch : BitVec 5) (z : BitVec 3) (len : BitVec 24) :
    unpackCL (packCL ch z len) = ⟨ch, z, len⟩ := by
  unfold unpackCL packCL
  congr 1 <;> (ext i hi; simp; grind)

end Sys2Proof
end

