-- ==== Sys2Proof/Laws/Memory.lean ====
section
/-! SUPPORT. Sys2Proof/Laws/Memory.lean: a byte read after a byte or a run of bytes is written, and the canonical form that
every memory operation keeps (R7, R168). -/

namespace Sys2Proof.Machine

/-! ## The canonical form -/

/-- A memory that starts no lower is also one that starts lower. -/
theorem Memory.wfFrom_le {lo lo' : Nat} (m : List Host.Cell) (h : Memory.wfFrom lo m = true) (hl : lo' ≤ lo) :
    Memory.wfFrom lo' m = true := by
  cases m with
  | nil => rfl
  | cons c rest =>
    simp only [Memory.wfFrom, Bool.and_eq_true, decide_eq_true_eq] at h ⊢
    exact ⟨⟨by omega, h.1.2⟩, h.2⟩

/-- No byte below the start of a canonical memory is listed. -/
theorem Mem.get_below {lo : Nat} (m : List Host.Cell) (h : Memory.wfFrom lo m = true) (a : Nat) (ha : a < lo) :
    Mem.get m a = Memory.default := by
  induction m generalizing lo with
  | nil => rfl
  | cons c rest ih =>
    simp only [Memory.wfFrom, Bool.and_eq_true, decide_eq_true_eq] at h
    rw [Mem.get, if_neg (by omega)]
    exact ih h.2 (by omega)

/-- Writing a byte keeps the canonical form. -/
theorem Mem.set_wfFrom {lo : Nat} (m : List Host.Cell) (h : Memory.wfFrom lo m = true) (a : Nat) (x : Byte) (ha : lo ≤ a) :
    Memory.wfFrom lo (Mem.set m a x) = true := by
  induction m generalizing lo with
  | nil =>
    unfold Mem.set
    split
    · rfl
    · simp [Memory.wfFrom, *]
  | cons c rest ih =>
    obtain ⟨b, y⟩ := c
    have hw := h
    simp only [Memory.wfFrom, Bool.and_eq_true, decide_eq_true_eq] at h
    obtain ⟨⟨h1, h2⟩, h3⟩ := h
    unfold Mem.set
    split
    · split
      · exact hw
      · simp [Memory.wfFrom, *] <;> omega
    · split
      · split
        · exact Memory.wfFrom_le rest h3 (by omega)
        · simp [Memory.wfFrom, *]
      · simp [Memory.wfFrom, h1, h2]
        exact ih h3 (by omega)

theorem Mem.set_wf (m : List Host.Cell) (h : Memory.wf m = true) (a : Nat) (x : Byte) : Memory.wf (Mem.set m a x) = true :=
  Mem.set_wfFrom m h a x (Nat.zero_le a)

/-- Writing a run of bytes keeps the canonical form. -/
theorem Mem.write_wf (m : List Host.Cell) (h : Memory.wf m = true) (a : Nat) (xs : List Byte) :
    Memory.wf (Mem.write m a xs) = true := by
  induction xs generalizing m a with
  | nil => exact h
  | cons x xs ih => exact ih _ (Mem.set_wf m h a x) (a + 1)

theorem Well.store_wf (w : Well) (h : Memory.wf w.bytes = true) (a : Nat) (xs : List Byte) :
    Memory.wf (w.store a xs).bytes = true := Mem.write_wf w.bytes h a xs

theorem Well.spoil_wf (w : Well) (h : Memory.wf w.bytes = true) (n : Nat) : Memory.wf (w.spoil n).bytes = true :=
  Mem.write_wf w.bytes h _ _

theorem Well.touch_bytes (w : Well) (a n : Nat) : (w.touch a n).bytes = w.bytes := rfl

/-! ## Reads after writes -/

/-- A byte after one byte is written. No canonical form is needed. -/
theorem Mem.get_set (m : List Host.Cell) (h : Memory.wf m = true) (a b : Nat) (x : Byte) :
    Mem.get (Mem.set m a x) b = if b = a then x else Mem.get m b := by
  have key : ∀ (m : List Host.Cell) (lo : Nat), Memory.wfFrom lo m = true →
      Mem.get (Mem.set m a x) b = if b = a then x else Mem.get m b := by
    intro m
    induction m with
    | nil =>
      intro lo _
      unfold Mem.set
      split
      · simp [Mem.get, *]
      · by_cases hb : b = a
        · simp [Mem.get, hb]
        · simp [Mem.get, hb, Ne.symm hb]
    | cons c rest ih =>
      intro lo hw
      obtain ⟨k, y⟩ := c
      have hw2 := hw
      simp only [Memory.wfFrom, Bool.and_eq_true, decide_eq_true_eq] at hw
      obtain ⟨⟨h1, h2⟩, h3⟩ := hw
      unfold Mem.set
      split
      · rename_i hk
        split
        · rename_i hx
          by_cases hb : b = a
          · have e1 : Mem.get rest b = Memory.default := Mem.get_below rest h3 b (by omega)
            rw [if_pos hb, Mem.get, if_neg (by omega), e1, hx]
          · rw [if_neg hb]
        · by_cases hb : b = a
          · rw [if_pos hb, Mem.get, if_pos hb.symm]
          · rw [if_neg hb, Mem.get, if_neg (Ne.symm hb)]
      · split
        · rename_i hk
          subst hk
          split
          · rename_i hx
            by_cases hb : b = a
            · rw [if_pos hb, Mem.get_below rest h3 b (by omega), hx]
            · rw [if_neg hb, Mem.get, if_neg (Ne.symm hb)]
          · by_cases hb : b = a
            · rw [if_pos hb, Mem.get, if_pos hb.symm]
            · rw [if_neg hb, Mem.get, if_neg (Ne.symm hb), Mem.get, if_neg (Ne.symm hb)]
        · by_cases hb : k = b
          · rw [Mem.get, if_pos hb, if_neg (by omega), Mem.get, if_pos hb]
          · rw [Mem.get, if_neg hb, ih _ h3, Mem.get, if_neg hb]
  exact key m 0 h

/-- A byte after a run of bytes is written. -/
theorem Mem.get_write (m : List Host.Cell) (h : Memory.wf m = true) (a : Nat) (xs : List Byte) (b : Nat) :
    Mem.get (Mem.write m a xs) b = if a ≤ b ∧ b < a + xs.length then xs.getD (b - a) 0 else Mem.get m b := by
  induction xs generalizing m a with
  | nil => simp [Mem.write] <;> omega
  | cons x xs ih =>
    rw [Mem.write, ih _ (Mem.set_wf m h a x), Mem.get_set m h]
    by_cases hb : b = a
    · subst hb
      rw [if_neg (by omega), if_pos rfl, if_pos (by simp)]
      simp
    · by_cases h1 : a + 1 ≤ b ∧ b < a + 1 + xs.length
      · have e : b - a = (b - (a + 1)) + 1 := by omega
        rw [if_pos h1, if_pos (by simp; omega), e]
        simp
      · rw [if_neg h1, if_neg hb, if_neg (by simp; omega)]

end Sys2Proof.Machine
end

