-- ==== Sys2Proof/Laws/Parts.lean ====
section
/-! SUPPORT. Sys2Proof/Laws/Parts.lean: what an instruction with several accesses does in one step (R138, R156, R161, R238). -/

namespace Sys2Proof.Machine

/-- Where nothing divides it, an instruction with several accesses does all of them in its one step. -/
theorem State.accesses_whole (s : State) (p : Part) (t : State) (h : s.split = []) : s.accesses p t = t := by
  simp [State.accesses, h]

/-- Where something does, it makes the accesses that are named. -/
theorem State.accesses_named (s : State) (p : Part) (t : State) (m : BitVec 32) (rest : List (BitVec 32)) (h : s.split = m :: rest) :
    s.accesses p t = { s with split := rest }.partStep p m := by
  simp [State.accesses, h]

/-- Everything that a step of accesses can do: it traps on the first uncorrectable word that it still meets and makes none, it makes the
last ones and the instruction ends, or it makes some and the strand keeps what is left. -/
theorem State.partStep_cases (s : State) (p : Part) (m : BitVec 32) :
    (∃ e, p.firstBad s.core.well = some e ∧ s.partStep p m =
      match p.fin with
      | .tile _ => s.trapFree Code.ueWell 4
      | _ => s.trap Code.ueWell (BitVec.ofNat 64 e.addr) 4) ∨
    (p.firstBad s.core.well = none ∧ (p.made s.core.well m).done = true ∧
      s.partStep p m = ((s.makeElems p m).setSt fun st => { st with part := none }).partEnd (p.made s.core.well m)) ∨
    (p.firstBad s.core.well = none ∧ (p.made s.core.well m).done = false ∧
      s.partStep p m = (s.makeElems p m).setSt fun st => { st with part := some (p.made s.core.well m) }) := by
  unfold State.partStep
  cases h : p.firstBad s.core.well with
  | some e => exact .inl ⟨e, rfl, rfl⟩
  | none => cases h2 : (p.made s.core.well m).done <;> simp [h2]

/-- An access that has been made stays made, with what it read. -/
theorem Part.made_keeps (p : Part) (w : Well) (m : BitVec 32) (i x : Nat) (hi : i < p.elems.length) (h : p.got.getD i none = some x) :
    (p.made w m).got.getD i none = some x := by
  have ho : p.isOpen i = false := by unfold Part.isOpen; rw [h]; simp
  have hn : p.now m i = false := by simp [Part.now, ho]
  unfold Part.made
  simp [List.getD_eq_getElem?_getD, hi, hn] at h ⊢
  simpa using h

/-- Where every access is named, every one is made and the instruction ends. -/
theorem Part.made_all (p : Part) (w : Well) (h : p.elems.length ≤ 32) : (p.made w allElems).done = true := by
  unfold Part.done
  rw [List.all_eq_true]
  intro x hx
  simp only [Part.made, List.mem_map] at hx
  obtain ⟨⟨e, i⟩, hm, rfl⟩ := hx
  obtain ⟨hi, he⟩ := List.mem_zipIdx' hm
  dsimp only at hi he ⊢
  split
  · rfl
  · rename_i hn
    by_contra hg
    apply hn
    have hb : allElems.getLsbD i = true := by
      have h1 : i < 32 := by omega
      have h2 : ∀ k : Fin 32, allElems.getLsbD k = true := by decide
      exact h2 ⟨i, h1⟩
    have ho : p.isOpen i = true := by
      unfold Part.isOpen
      cases hq : p.got.getD i none with
      | none => simp [hi]
      | some y => rw [hq] at hg; simp at hg
    unfold Part.now
    simp only [ho, Bool.true_and, List.any_eq_true, List.mem_range]
    exact ⟨i, hi, by simp [hb, ho]⟩

end Sys2Proof.Machine
end

