-- ==== Sys2Proof/Laws/PerInstr.lean ====
section
/-! SUPPORT. Sys2Proof/Laws/PerInstr.lean: per instruction, a word it encodes to says by its major whether a second word follows
(R33, R37); a step of the hardware encodes to none. -/

namespace Sys2Proof.Laws.Length

/-- The first word's major says whether a second word follows, and no third does. -/
def Statement (i : Instr) : Prop :=
  ∀ w ws, encode i = w :: ws → (isTwoWord w = true ↔ ws.length = 1) ∧ ws.length ≤ 1

theorem one (w0 : IWord) (hm : isTwoWord w0 = false) (w : IWord) (ws : List IWord) (h : [w0] = w :: ws) :
    (isTwoWord w = true ↔ ws.length = 1) ∧ ws.length ≤ 1 := by
  cases h
  simp [hm]

theorem two (w0 w1 : IWord) (hm : isTwoWord w0 = true) (w : IWord) (ws : List IWord) (h : [w0, w1] = w :: ws) :
    (isTwoWord w = true ↔ ws.length = 1) ∧ ws.length ≤ 1 := by
  cases h
  simp [hm]

theorem add (d a b : GReg) : Statement (.add d a b) := one _ (by simp [isTwoWord])
theorem sub (d a b : GReg) : Statement (.sub d a b) := one _ (by simp [isTwoWord])
theorem and (d a b : GReg) : Statement (.and d a b) := one _ (by simp [isTwoWord])
theorem or (d a b : GReg) : Statement (.or d a b) := one _ (by simp [isTwoWord])
theorem xor (d a b : GReg) : Statement (.xor d a b) := one _ (by simp [isTwoWord])
theorem sll (d a b : GReg) : Statement (.sll d a b) := one _ (by simp [isTwoWord])
theorem srl (d a b : GReg) : Statement (.srl d a b) := one _ (by simp [isTwoWord])
theorem sra (d a b : GReg) : Statement (.sra d a b) := one _ (by simp [isTwoWord])
theorem slt (d a b : GReg) : Statement (.slt d a b) := one _ (by simp [isTwoWord])
theorem sltn (d a b : GReg) : Statement (.sltn d a b) := one _ (by simp [isTwoWord])
theorem min (d a b : GReg) : Statement (.min d a b) := one _ (by simp [isTwoWord])
theorem max (d a b : GReg) : Statement (.max d a b) := one _ (by simp [isTwoWord])
theorem minn (d a b : GReg) : Statement (.minn d a b) := one _ (by simp [isTwoWord])
theorem maxn (d a b : GReg) : Statement (.maxn d a b) := one _ (by simp [isTwoWord])
theorem mul (d a b : GReg) : Statement (.mul d a b) := one _ (by simp [isTwoWord])
theorem mulh (d a b : GReg) : Statement (.mulh d a b) := one _ (by simp [isTwoWord])
theorem mulhn (d a b : GReg) : Statement (.mulhn d a b) := one _ (by simp [isTwoWord])
theorem div (d a b : GReg) : Statement (.div d a b) := one _ (by simp [isTwoWord])
theorem divn (d a b : GReg) : Statement (.divn d a b) := one _ (by simp [isTwoWord])
theorem rem (d a b : GReg) : Statement (.rem d a b) := one _ (by simp [isTwoWord])
theorem remn (d a b : GReg) : Statement (.remn d a b) := one _ (by simp [isTwoWord])
theorem clz (d a : GReg) : Statement (.clz d a) := one _ (by simp [isTwoWord])
theorem ctz (d a : GReg) : Statement (.ctz d a) := one _ (by simp [isTwoWord])
theorem popc (d a : GReg) : Statement (.popc d a) := one _ (by simp [isTwoWord])
theorem brev (d a : GReg) : Statement (.brev d a) := one _ (by simp [isTwoWord])
theorem bswap (d a : GReg) : Statement (.bswap d a) := one _ (by simp [isTwoWord])
theorem sextB (d a : GReg) : Statement (.sextB d a) := one _ (by simp [isTwoWord])
theorem sextH (d a : GReg) : Statement (.sextH d a) := one _ (by simp [isTwoWord])
theorem sextW (d a : GReg) : Statement (.sextW d a) := one _ (by simp [isTwoWord])
theorem zextB (d a : GReg) : Statement (.zextB d a) := one _ (by simp [isTwoWord])
theorem zextH (d a : GReg) : Statement (.zextH d a) := one _ (by simp [isTwoWord])
theorem zextW (d a : GReg) : Statement (.zextW d a) := one _ (by simp [isTwoWord])
theorem cmovnz (d a b : GReg) : Statement (.cmovnz d a b) := one _ (by simp [isTwoWord])
theorem cmovz (d a b : GReg) : Statement (.cmovz d a b) := one _ (by simp [isTwoWord])
theorem addsh1 (d a b : GReg) : Statement (.addsh1 d a b) := one _ (by simp [isTwoWord])
theorem addsh2 (d a b : GReg) : Statement (.addsh2 d a b) := one _ (by simp [isTwoWord])
theorem addsh3 (d a b : GReg) : Statement (.addsh3 d a b) := one _ (by simp [isTwoWord])
theorem qshift (d a b : GReg) : Statement (.qshift d a b) := one _ (by simp [isTwoWord])
theorem addi (d a : GReg) (imm : BitVec 16) : Statement (.addi d a imm) := one _ (by simp [isTwoWord])
theorem andi (d a : GReg) (imm : BitVec 16) : Statement (.andi d a imm) := one _ (by simp [isTwoWord])
theorem ori (d a : GReg) (imm : BitVec 16) : Statement (.ori d a imm) := one _ (by simp [isTwoWord])
theorem xori (d a : GReg) (imm : BitVec 16) : Statement (.xori d a imm) := one _ (by simp [isTwoWord])
theorem slti (d a : GReg) (imm : BitVec 16) : Statement (.slti d a imm) := one _ (by simp [isTwoWord])
theorem shiSll (d a : GReg) (n : BitVec 6) : Statement (.shiSll d a n) := one _ (by simp [isTwoWord])
theorem shiSrl (d a : GReg) (n : BitVec 6) : Statement (.shiSrl d a n) := one _ (by simp [isTwoWord])
theorem shiSra (d a : GReg) (n : BitVec 6) : Statement (.shiSra d a n) := one _ (by simp [isTwoWord])
theorem lih (d a : GReg) (imm : BitVec 16) : Statement (.lih d a imm) := one _ (by simp [isTwoWord])
theorem li48 (d : GReg) (imm : BitVec 48) : Statement (.li48 d imm) := two _ _ (by simp [isTwoWord])
theorem beq (a b : GReg) (disp : BitVec 16) : Statement (.beq a b disp) := one _ (by simp [isTwoWord])
theorem bne (a b : GReg) (disp : BitVec 16) : Statement (.bne a b disp) := one _ (by simp [isTwoWord])
theorem blt (a b : GReg) (disp : BitVec 16) : Statement (.blt a b disp) := one _ (by simp [isTwoWord])
theorem bge (a b : GReg) (disp : BitVec 16) : Statement (.bge a b disp) := one _ (by simp [isTwoWord])
theorem bltn (a b : GReg) (disp : BitVec 16) : Statement (.bltn a b disp) := one _ (by simp [isTwoWord])
theorem bgen (a b : GReg) (disp : BitVec 16) : Statement (.bgen a b disp) := one _ (by simp [isTwoWord])
theorem jal (disp : BitVec 26) : Statement (.jal disp) := one _ (by simp [isTwoWord])
theorem jalr (d a : GReg) (imm : BitVec 16) : Statement (.jalr d a imm) := one _ (by simp [isTwoWord])
theorem dbnz (a : GReg) (disp : BitVec 16) : Statement (.dbnz a disp) := one _ (by simp [isTwoWord])
theorem cmk (d a b : GReg) : Statement (.cmk d a b) := one _ (by simp [isTwoWord])
theorem cgx (d a : GReg) : Statement (.cgx d a) := one _ (by simp [isTwoWord])
theorem cgy (d a : GReg) : Statement (.cgy d a) := one _ (by simp [isTwoWord])
theorem cgr (d a : GReg) : Statement (.cgr d a) := one _ (by simp [isTwoWord])
theorem cadd (d a b : GReg) : Statement (.cadd d a b) := one _ (by simp [isTwoWord])
theorem cdist (d a b : GReg) : Statement (.cdist d a b) := one _ (by simp [isTwoWord])
theorem ld (d a : GReg) (sz : Sz) (sx : Bool) (off : BitVec 13) : Statement (.ld d a sz sx off) := one _ (by simp [isTwoWord])
theorem st (s a : GReg) (sz : Sz) (off : BitVec 13) : Statement (.st s a sz off) := one _ (by simp [isTwoWord])
theorem ldx (d a b : GReg) (sh : BitVec 2) (sx : Bool) (sz : Sz) : Statement (.ldx d a b sh sx sz) := one _ (by simp [isTwoWord])
theorem stx (s a b : GReg) (sh : BitVec 2) (sz : Sz) : Statement (.stx s a b sh sz) := one _ (by simp [isTwoWord])
theorem amoadd (d a b : GReg) (w64 : Bool) : Statement (.amoadd d a b w64) := one _ (by simp [isTwoWord])
theorem amoand (d a b : GReg) (w64 : Bool) : Statement (.amoand d a b w64) := one _ (by simp [isTwoWord])
theorem amoor (d a b : GReg) (w64 : Bool) : Statement (.amoor d a b w64) := one _ (by simp [isTwoWord])
theorem amoxor (d a b : GReg) (w64 : Bool) : Statement (.amoxor d a b w64) := one _ (by simp [isTwoWord])
theorem amomin (d a b : GReg) (w64 : Bool) : Statement (.amomin d a b w64) := one _ (by simp [isTwoWord])
theorem amomax (d a b : GReg) (w64 : Bool) : Statement (.amomax d a b w64) := one _ (by simp [isTwoWord])
theorem amominn (d a b : GReg) (w64 : Bool) : Statement (.amominn d a b w64) := one _ (by simp [isTwoWord])
theorem amomaxn (d a b : GReg) (w64 : Bool) : Statement (.amomaxn d a b w64) := one _ (by simp [isTwoWord])
theorem amoswap (d a b : GReg) (w64 : Bool) : Statement (.amoswap d a b w64) := one _ (by simp [isTwoWord])
theorem amocas (d a b : GReg) (w64 : Bool) : Statement (.amocas d a b w64) := one _ (by simp [isTwoWord])
theorem fence (core : Bool) : Statement (.fence core) := one _ (by simp [isTwoWord])
theorem ffence (scope : Scope) : Statement (.ffence scope) := one _ (by simp [isTwoWord])
theorem fadd (d a b : GReg) (rm : Rm) (p : Prec) : Statement (.fadd d a b rm p) := one _ (by simp [isTwoWord])
theorem fsub (d a b : GReg) (rm : Rm) (p : Prec) : Statement (.fsub d a b rm p) := one _ (by simp [isTwoWord])
theorem fmul (d a b : GReg) (rm : Rm) (p : Prec) : Statement (.fmul d a b rm p) := one _ (by simp [isTwoWord])
theorem fdiv (d a b : GReg) (rm : Rm) (p : Prec) : Statement (.fdiv d a b rm p) := one _ (by simp [isTwoWord])
theorem fsqrt (d a : GReg) (rm : Rm) (p : Prec) : Statement (.fsqrt d a rm p) := one _ (by simp [isTwoWord])
theorem fmin (d a b : GReg) (p : Prec) : Statement (.fmin d a b p) := one _ (by simp [isTwoWord])
theorem fmax (d a b : GReg) (p : Prec) : Statement (.fmax d a b p) := one _ (by simp [isTwoWord])
theorem feq (d a b : GReg) (p : Prec) : Statement (.feq d a b p) := one _ (by simp [isTwoWord])
theorem flt (d a b : GReg) (p : Prec) : Statement (.flt d a b p) := one _ (by simp [isTwoWord])
theorem fle (d a b : GReg) (p : Prec) : Statement (.fle d a b p) := one _ (by simp [isTwoWord])
theorem fclass (d a : GReg) (p : Prec) : Statement (.fclass d a p) := one _ (by simp [isTwoWord])
theorem fsgcp (d a b : GReg) (p : Prec) : Statement (.fsgcp d a b p) := one _ (by simp [isTwoWord])
theorem fsgcn (d a b : GReg) (p : Prec) : Statement (.fsgcn d a b p) := one _ (by simp [isTwoWord])
theorem fsgxr (d a b : GReg) (p : Prec) : Statement (.fsgxr d a b p) := one _ (by simp [isTwoWord])
theorem fma (d a b c : GReg) (p : Prec) (rm : Rm) : Statement (.fma d a b c p rm) := one _ (by simp [isTwoWord])
theorem fms (d a b c : GReg) (p : Prec) (rm : Rm) : Statement (.fms d a b c p rm) := one _ (by simp [isTwoWord])
theorem fnma (d a b c : GReg) (p : Prec) (rm : Rm) : Statement (.fnma d a b c p rm) := one _ (by simp [isTwoWord])
theorem fnms (d a b c : GReg) (p : Prec) (rm : Rm) : Statement (.fnms d a b c p rm) := one _ (by simp [isTwoWord])
theorem fcvt (d a : GReg) (sat : Bool) (rm : Rm) (src dst : Ty) : Statement (.fcvt d a sat rm src dst) := one _ (by simp [isTwoWord])
theorem vld (v : VReg) (a s : GReg) (esz : Sz) (k : KReg) (off : BitVec 7) : Statement (.vld v a s esz k off) := one _ (by simp [isTwoWord])
theorem vst (v : VReg) (a s : GReg) (esz : Sz) (k : KReg) (off : BitVec 7) : Statement (.vst v a s esz k off) := one _ (by simp [isTwoWord])
theorem vgath (v : VReg) (a : GReg) (vi : VReg) (e64 : Bool) (k : KReg) (off : BitVec 7) : Statement (.vgath v a vi e64 k off) := one _ (by simp [isTwoWord])
theorem vscat (v : VReg) (a : GReg) (vi : VReg) (e64 : Bool) (k : KReg) (off : BitVec 7) : Statement (.vscat v a vi e64 k off) := one _ (by simp [isTwoWord])
theorem vfadd (d a b : VReg) (k : KReg) (p : Prec) : Statement (.vfadd d a b k p) := one _ (by simp [isTwoWord])
theorem vfsub (d a b : VReg) (k : KReg) (p : Prec) : Statement (.vfsub d a b k p) := one _ (by simp [isTwoWord])
theorem vfmul (d a b : VReg) (k : KReg) (p : Prec) : Statement (.vfmul d a b k p) := one _ (by simp [isTwoWord])
theorem vfdiv (d a b : VReg) (k : KReg) (p : Prec) : Statement (.vfdiv d a b k p) := one _ (by simp [isTwoWord])
theorem vfsqrt (d a : VReg) (k : KReg) (p : Prec) : Statement (.vfsqrt d a k p) := one _ (by simp [isTwoWord])
theorem vfmin (d a b : VReg) (k : KReg) (p : Prec) : Statement (.vfmin d a b k p) := one _ (by simp [isTwoWord])
theorem vfmax (d a b : VReg) (k : KReg) (p : Prec) : Statement (.vfmax d a b k p) := one _ (by simp [isTwoWord])
theorem vfabs (d a : VReg) (k : KReg) (p : Prec) : Statement (.vfabs d a k p) := one _ (by simp [isTwoWord])
theorem vfneg (d a : VReg) (k : KReg) (p : Prec) : Statement (.vfneg d a k p) := one _ (by simp [isTwoWord])
theorem vfeq (d : KReg) (a b : VReg) (k : KReg) (p : Prec) : Statement (.vfeq d a b k p) := one _ (by simp [isTwoWord])
theorem vflt (d : KReg) (a b : VReg) (k : KReg) (p : Prec) : Statement (.vflt d a b k p) := one _ (by simp [isTwoWord])
theorem vfle (d : KReg) (a b : VReg) (k : KReg) (p : Prec) : Statement (.vfle d a b k p) := one _ (by simp [isTwoWord])
theorem vfrcp (d a : VReg) (k : KReg) : Statement (.vfrcp d a k) := one _ (by simp [isTwoWord])
theorem vfrsq (d a : VReg) (k : KReg) : Statement (.vfrsq d a k) := one _ (by simp [isTwoWord])
theorem vfex2 (d a : VReg) (k : KReg) : Statement (.vfex2 d a k) := one _ (by simp [isTwoWord])
theorem vflg2 (d a : VReg) (k : KReg) : Statement (.vflg2 d a k) := one _ (by simp [isTwoWord])
theorem vftanh (d a : VReg) (k : KReg) : Statement (.vftanh d a k) := one _ (by simp [isTwoWord])
theorem vfma (d a b c : VReg) (k : KReg) (p : Prec) : Statement (.vfma d a b c k p) := one _ (by simp [isTwoWord])
theorem vfms (d a b c : VReg) (k : KReg) (p : Prec) : Statement (.vfms d a b c k p) := one _ (by simp [isTwoWord])
theorem vfnma (d a b c : VReg) (k : KReg) (p : Prec) : Statement (.vfnma d a b c k p) := one _ (by simp [isTwoWord])
theorem vfnms (d a b c : VReg) (k : KReg) (p : Prec) : Statement (.vfnms d a b c k p) := one _ (by simp [isTwoWord])
theorem vadd (d a b : VReg) (k : KReg) (esz : Sz) : Statement (.vadd d a b k esz) := one _ (by simp [isTwoWord])
theorem vsub (d a b : VReg) (k : KReg) (esz : Sz) : Statement (.vsub d a b k esz) := one _ (by simp [isTwoWord])
theorem vmul (d a b : VReg) (k : KReg) (esz : Sz) : Statement (.vmul d a b k esz) := one _ (by simp [isTwoWord])
theorem vmulh (d a b : VReg) (k : KReg) (esz : Sz) : Statement (.vmulh d a b k esz) := one _ (by simp [isTwoWord])
theorem vmulhn (d a b : VReg) (k : KReg) (esz : Sz) : Statement (.vmulhn d a b k esz) := one _ (by simp [isTwoWord])
theorem vand (d a b : VReg) (k : KReg) (esz : Sz) : Statement (.vand d a b k esz) := one _ (by simp [isTwoWord])
theorem vor (d a b : VReg) (k : KReg) (esz : Sz) : Statement (.vor d a b k esz) := one _ (by simp [isTwoWord])
theorem vxor (d a b : VReg) (k : KReg) (esz : Sz) : Statement (.vxor d a b k esz) := one _ (by simp [isTwoWord])
theorem vsll (d a b : VReg) (k : KReg) (esz : Sz) : Statement (.vsll d a b k esz) := one _ (by simp [isTwoWord])
theorem vsrl (d a b : VReg) (k : KReg) (esz : Sz) : Statement (.vsrl d a b k esz) := one _ (by simp [isTwoWord])
theorem vsra (d a b : VReg) (k : KReg) (esz : Sz) : Statement (.vsra d a b k esz) := one _ (by simp [isTwoWord])
theorem vmin (d a b : VReg) (k : KReg) (esz : Sz) : Statement (.vmin d a b k esz) := one _ (by simp [isTwoWord])
theorem vmax (d a b : VReg) (k : KReg) (esz : Sz) : Statement (.vmax d a b k esz) := one _ (by simp [isTwoWord])
theorem vminn (d a b : VReg) (k : KReg) (esz : Sz) : Statement (.vminn d a b k esz) := one _ (by simp [isTwoWord])
theorem vmaxn (d a b : VReg) (k : KReg) (esz : Sz) : Statement (.vmaxn d a b k esz) := one _ (by simp [isTwoWord])
theorem vadds (d a b : VReg) (k : KReg) (esz : Sz) : Statement (.vadds d a b k esz) := one _ (by simp [isTwoWord])
theorem vsubs (d a b : VReg) (k : KReg) (esz : Sz) : Statement (.vsubs d a b k esz) := one _ (by simp [isTwoWord])
theorem vaddsn (d a b : VReg) (k : KReg) (esz : Sz) : Statement (.vaddsn d a b k esz) := one _ (by simp [isTwoWord])
theorem vsubsn (d a b : VReg) (k : KReg) (esz : Sz) : Statement (.vsubsn d a b k esz) := one _ (by simp [isTwoWord])
theorem veq (d : KReg) (a b : VReg) (k : KReg) (e64 : Bool) : Statement (.veq d a b k e64) := one _ (by simp [isTwoWord])
theorem vlt (d : KReg) (a b : VReg) (k : KReg) (e64 : Bool) : Statement (.vlt d a b k e64) := one _ (by simp [isTwoWord])
theorem vltn (d : KReg) (a b : VReg) (k : KReg) (e64 : Bool) : Statement (.vltn d a b k e64) := one _ (by simp [isTwoWord])
theorem vabs (d a : VReg) (k : KReg) (esz : Sz) : Statement (.vabs d a k esz) := one _ (by simp [isTwoWord])
theorem vperm (d a b : VReg) (k : KReg) (esz : Sz) : Statement (.vperm d a b k esz) := one _ (by simp [isTwoWord])
theorem vbcast (d : VReg) (a : GReg) (k : KReg) (esz : Sz) : Statement (.vbcast d a k esz) := one _ (by simp [isTwoWord])
theorem vext (d : GReg) (a : VReg) (x : BitVec 7) (esz : Sz) : Statement (.vext d a x esz) := one _ (by simp [isTwoWord])
theorem vins (d : VReg) (a : GReg) (x : BitVec 7) (esz : Sz) : Statement (.vins d a x esz) := one _ (by simp [isTwoWord])
theorem vredadd (d a : VReg) (k : KReg) (p : Prec) : Statement (.vredadd d a k p) := one _ (by simp [isTwoWord])
theorem vredmax (d a : VReg) (k : KReg) (p : Prec) : Statement (.vredmax d a k p) := one _ (by simp [isTwoWord])
theorem vredmin (d a : VReg) (k : KReg) (p : Prec) : Statement (.vredmin d a k p) := one _ (by simp [isTwoWord])
theorem vmaxx (d a : VReg) (k : KReg) (p : Prec) : Statement (.vmaxx d a k p) := one _ (by simp [isTwoWord])
theorem vminx (d a : VReg) (k : KReg) (p : Prec) : Statement (.vminx d a k p) := one _ (by simp [isTwoWord])
theorem vsel (d a b : VReg) (k : KReg) (esz : Sz) : Statement (.vsel d a b k esz) := one _ (by simp [isTwoWord])
theorem vmov (d a : VReg) (k : KReg) (esz : Sz) : Statement (.vmov d a k esz) := one _ (by simp [isTwoWord])
theorem vzip (d a b : VReg) (k : KReg) (esz : Sz) : Statement (.vzip d a b k esz) := one _ (by simp [isTwoWord])
theorem vunzip (d a b : VReg) (k : KReg) (esz : Sz) : Statement (.vunzip d a b k esz) := one _ (by simp [isTwoWord])
theorem vrot (d a : VReg) (c : BitVec 8) (k : KReg) (esz : Sz) : Statement (.vrot d a c k esz) := one _ (by simp [isTwoWord])
theorem kand (d a b : KReg) : Statement (.kand d a b) := one _ (by simp [isTwoWord])
theorem kor (d a b : KReg) : Statement (.kor d a b) := one _ (by simp [isTwoWord])
theorem knot (d a : KReg) : Statement (.knot d a) := one _ (by simp [isTwoWord])
theorem kmovKk (d a : KReg) : Statement (.kmovKk d a) := one _ (by simp [isTwoWord])
theorem kmovKg (d : KReg) (a : GReg) : Statement (.kmovKg d a) := one _ (by simp [isTwoWord])
theorem kmovGk (d : GReg) (a : KReg) : Statement (.kmovGk d a) := one _ (by simp [isTwoWord])
theorem vcvt (d a : VReg) (dst : Ty) (sat : Bool) (vr : BitVec 3) (k : KReg) (rm : Rm) (src : Ty) : Statement (.vcvt d a dst sat vr k rm src) := one _ (by simp [isTwoWord])
theorem vrng (d a b : VReg) (k : KReg) : Statement (.vrng d a b k) := one _ (by simp [isTwoWord])
theorem vrngi (d a : VReg) (c : BitVec 8) (k : KReg) : Statement (.vrngi d a c k) := one _ (by simp [isTwoWord])
theorem bld (b : BReg) (a : GReg) (f : Bfmt) (off : BitVec 13) : Statement (.bld b a f off) := one _ (by simp [isTwoWord])
theorem bst (b : BReg) (a : GReg) (f : Bfmt) (off : BitVec 13) : Statement (.bst b a f off) := one _ (by simp [isTwoWord])
theorem blds (b : BReg) (a : GReg) (f : Bfmt) (off : BitVec 13) : Statement (.blds b a f off) := one _ (by simp [isTwoWord])
theorem bmma (m : MReg) (a b : BReg) : Statement (.bmma m a b) := one _ (by simp [isTwoWord])
theorem bmmz (m : MReg) (a b : BReg) : Statement (.bmmz m a b) := one _ (by simp [isTwoWord])
theorem badd (d a b : BReg) : Statement (.badd d a b) := one _ (by simp [isTwoWord])
theorem bsub (d a b : BReg) : Statement (.bsub d a b) := one _ (by simp [isTwoWord])
theorem bmul (d a b : BReg) : Statement (.bmul d a b) := one _ (by simp [isTwoWord])
theorem bneg (d a : BReg) : Statement (.bneg d a) := one _ (by simp [isTwoWord])
theorem bmaxe (d a b : BReg) : Statement (.bmaxe d a b) := one _ (by simp [isTwoWord])
theorem bscl (d a : BReg) (x : GReg) : Statement (.bscl d a x) := one _ (by simp [isTwoWord])
theorem bnorm (d a : BReg) : Statement (.bnorm d a) := one _ (by simp [isTwoWord])
theorem bexp (d : GReg) (a : BReg) : Statement (.bexp d a) := one _ (by simp [isTwoWord])
theorem bmaxi (d : GReg) (a : BReg) : Statement (.bmaxi d a) := one _ (by simp [isTwoWord])
theorem bclr (d : BReg) (f : Bfmt) : Statement (.bclr d f) := one _ (by simp [isTwoWord])
theorem bmov (d a : BReg) : Statement (.bmov d a) := one _ (by simp [isTwoWord])
theorem blsf (d : GReg) (m : MReg) : Statement (.blsf d m) := one _ (by simp [isTwoWord])
theorem blsft (d : KReg) (m : MReg) : Statement (.blsft d m) := one _ (by simp [isTwoWord])
theorem blsfc (m : MReg) : Statement (.blsfc m) := one _ (by simp [isTwoWord])
theorem benc (d : BReg) (hi : Bool) (f : Bfmt) : Statement (.benc d hi f) := one _ (by simp [isTwoWord])
theorem bdec (hi : Bool) (b : BReg) : Statement (.bdec hi b) := one _ (by simp [isTwoWord])
theorem bmrd (v : BitVec 3) (m : MReg) : Statement (.bmrd v m) := one _ (by simp [isTwoWord])
theorem bmrb (d : BReg) (m : MReg) (j : BitVec 2) (f : Bfmt) : Statement (.bmrb d m j f) := one _ (by simp [isTwoWord])
theorem bmsv (m : MReg) (x : GReg) : Statement (.bmsv m x) := one _ (by simp [isTwoWord])
theorem bmrs (m : MReg) (x : GReg) : Statement (.bmrs m x) := one _ (by simp [isTwoWord])
theorem mxin (d : BReg) (ty : MxTy) (v : BitVec 3) (x : GReg) (f : Bfmt) : Statement (.mxin d ty v x f) := one _ (by simp [isTwoWord])
theorem mxout (v : BitVec 3) (ty : MxTy) (x : GReg) (b : BReg) : Statement (.mxout v ty x b) := one _ (by simp [isTwoWord])
theorem dmma (d a b : VReg) : Statement (.dmma d a b) := one _ (by simp [isTwoWord])
theorem send (s t : GReg) (ch : Chan) (cls : BitVec 2) : Statement (.send s t ch cls) := one _ (by simp [isTwoWord])
theorem sendv (v : VReg) (t : GReg) (ch : Chan) (cls : BitVec 2) : Statement (.sendv v t ch cls) := one _ (by simp [isTwoWord])
theorem sendb (b : BReg) (t : GReg) (ch : Chan) (cls : BitVec 2) : Statement (.sendb b t ch cls) := one _ (by simp [isTwoWord])
theorem recv (d : GReg) (ch : Chan) : Statement (.recv d ch) := one _ (by simp [isTwoWord])
theorem recvv (d : VReg) (ch : Chan) : Statement (.recvv d ch) := one _ (by simp [isTwoWord])
theorem recvb (d : BReg) (ch : Chan) : Statement (.recvb d ch) := one _ (by simp [isTwoWord])
theorem poll (d : GReg) (ch : Chan) : Statement (.poll d ch) := one _ (by simp [isTwoWord])
theorem qflush (ch : Chan) : Statement (.qflush ch) := one _ (by simp [isTwoWord])
theorem mark (ch : Chan) (m : Marker) (cls : BitVec 2) : Statement (.mark ch m cls) := one _ (by simp [isTwoWord])
theorem spawn (d a : GReg) : Statement (.spawn d a) := one _ (by simp [isTwoWord])
theorem exit : Statement .exit := one _ (by simp [isTwoWord])
theorem yield : Statement .yield := one _ (by simp [isTwoWord])
theorem waitq (d a : GReg) : Statement (.waitq d a) := one _ (by simp [isTwoWord])
theorem waite (a : GReg) : Statement (.waite a) := one _ (by simp [isTwoWord])
theorem waitm (ch : Chan) (m : Marker) : Statement (.waitm ch m) := one _ (by simp [isTwoWord])
theorem barr (ch : Chan) (n : BitVec 4) : Statement (.barr ch n) := one _ (by simp [isTwoWord])
theorem sleep (a : GReg) : Statement (.sleep a) := one _ (by simp [isTwoWord])
theorem wake (a : GReg) : Statement (.wake a) := one _ (by simp [isTwoWord])
theorem slotw (a b : GReg) : Statement (.slotw a b) := one _ (by simp [isTwoWord])
theorem stid (d : GReg) : Statement (.stid d) := one _ (by simp [isTwoWord])
theorem csrr (d : GReg) (csr : BitVec 12) : Statement (.csrr d csr) := one _ (by simp [isTwoWord])
theorem csrw (csr : BitVec 12) (a : GReg) : Statement (.csrw csr a) := one _ (by simp [isTwoWord])
theorem csrs (csr : BitVec 12) (a : GReg) : Statement (.csrs csr a) := one _ (by simp [isTwoWord])
theorem csrc (csr : BitVec 12) (a : GReg) : Statement (.csrc csr a) := one _ (by simp [isTwoWord])
theorem csrrw (d : GReg) (csr : BitVec 12) (a : GReg) : Statement (.csrrw d csr a) := one _ (by simp [isTwoWord])
theorem supvDone (a : GReg) : Statement (.supvDone a) := one _ (by simp [isTwoWord])
theorem supvCheckpoint (a : GReg) : Statement (.supvCheckpoint a) := one _ (by simp [isTwoWord])
theorem supvSlotmove (a : GReg) : Statement (.supvSlotmove a) := one _ (by simp [isTwoWord])
theorem supvPumpswap (a : GReg) : Statement (.supvPumpswap a) := one _ (by simp [isTwoWord])
theorem supvHostnote (a : GReg) : Statement (.supvHostnote a) := one _ (by simp [isTwoWord])
theorem supvSlottime (a : GReg) : Statement (.supvSlottime a) := one _ (by simp [isTwoWord])
theorem supvUnassigned (code : BitVec 6) (a : GReg) : Statement (.supvUnassigned code a) := one _ (by simp [isTwoWord])
theorem brk (code : BitVec 12) : Statement (.brk code) := one _ (by simp [isTwoWord])
theorem idle : Statement .idle := one _ (by simp [isTwoWord])
theorem fltres (a : GReg) : Statement (.fltres a) := one _ (by simp [isTwoWord])
theorem fltskp (a : GReg) : Statement (.fltskp a) := one _ (by simp [isTwoWord])
theorem fltkil (a : GReg) : Statement (.fltkil a) := one _ (by simp [isTwoWord])
theorem chksig (d a : GReg) : Statement (.chksig d a) := one _ (by simp [isTwoWord])
theorem strmOut (d a : GReg) (ch : Chan) (len : BitVec 24) : Statement (.strmOut d a ch len) := two _ _ (by simp [isTwoWord])
theorem strmIn (d a : GReg) (ch : Chan) (len : BitVec 24) : Statement (.strmIn d a ch len) := two _ _ (by simp [isTwoWord])
theorem strmCopy (d a b : GReg) (len : BitVec 24) : Statement (.strmCopy d a b len) := two _ _ (by simp [isTwoWord])
theorem fget (d a b : GReg) (len : BitVec 24) : Statement (.fget d a b len) := two _ _ (by simp [isTwoWord])
theorem fput (d a b : GReg) (len : BitVec 24) : Statement (.fput d a b len) := two _ _ (by simp [isTwoWord])
theorem fld (d a : GReg) (sz : Sz) (sx : Bool) (off : BitVec 32) : Statement (.fld d a sz sx off) := two _ _ (by simp [isTwoWord])
theorem fst (s a : GReg) (sz : Sz) (off : BitVec 32) : Statement (.fst s a sz off) := two _ _ (by simp [isTwoWord])
theorem famoadd (d a b : GReg) (w64 : Bool) (off : BitVec 32) : Statement (.famoadd d a b w64 off) := two _ _ (by simp [isTwoWord])
theorem famoand (d a b : GReg) (w64 : Bool) (off : BitVec 32) : Statement (.famoand d a b w64 off) := two _ _ (by simp [isTwoWord])
theorem famoor (d a b : GReg) (w64 : Bool) (off : BitVec 32) : Statement (.famoor d a b w64 off) := two _ _ (by simp [isTwoWord])
theorem famoxor (d a b : GReg) (w64 : Bool) (off : BitVec 32) : Statement (.famoxor d a b w64 off) := two _ _ (by simp [isTwoWord])
theorem famomin (d a b : GReg) (w64 : Bool) (off : BitVec 32) : Statement (.famomin d a b w64 off) := two _ _ (by simp [isTwoWord])
theorem famomax (d a b : GReg) (w64 : Bool) (off : BitVec 32) : Statement (.famomax d a b w64 off) := two _ _ (by simp [isTwoWord])
theorem famominn (d a b : GReg) (w64 : Bool) (off : BitVec 32) : Statement (.famominn d a b w64 off) := two _ _ (by simp [isTwoWord])
theorem famomaxn (d a b : GReg) (w64 : Bool) (off : BitVec 32) : Statement (.famomaxn d a b w64 off) := two _ _ (by simp [isTwoWord])
theorem famoswap (d a b : GReg) (w64 : Bool) (off : BitVec 32) : Statement (.famoswap d a b w64 off) := two _ _ (by simp [isTwoWord])
theorem famocas (d a b : GReg) (w64 : Bool) (off : BitVec 32) : Statement (.famocas d a b w64 off) := two _ _ (by simp [isTwoWord])
theorem ftbl (a : GReg) (count : BitVec 16) : Statement (.ftbl a count) := two _ _ (by simp [isTwoWord])
theorem ftbu (a : GReg) (count : BitVec 16) : Statement (.ftbu a count) := two _ _ (by simp [isTwoWord])
theorem ftbp (a : GReg) (count : BitVec 16) : Statement (.ftbp a count) := two _ _ (by simp [isTwoWord])
theorem bmloop (f : MReg) (s : BReg) (a b n : GReg) (t : Tiles) (fmt : Bfmt) (sa sb : BitVec 16) : Statement (.bmloop f s a b n t fmt sa sb) := two _ _ (by simp [isTwoWord])
theorem chbind (ch : Chan) (a : GReg) (base len : BitVec 16) : Statement (.chbind ch a base len) := two _ _ (by simp [isTwoWord])
theorem strandRelease (n : StrandNo) : Statement (.strandRelease n) := nofun
theorem sleepExpire (n : StrandNo) : Statement (.sleepExpire n) := nofun
theorem roundStart : Statement .roundStart := nofun
theorem localPortSend (cls : BitVec 2) (engine : Bool) : Statement (.localPortSend cls engine) := nofun
theorem routeMessage (inp : Port) (ch : Chan) (noise : BitVec 32) : Statement (.routeMessage inp ch noise) := nofun
theorem classPromote (inp : Port) (ch : Chan) : Statement (.classPromote inp ch) := nofun
theorem combineLine (ch : Chan) (out : Port) : Statement (.combineLine ch out) := nofun
theorem renormApply (inp : Port) (ch : Chan) : Statement (.renormApply inp ch) := nofun
theorem markerForward (ch : Chan) : Statement (.markerForward ch) := nofun
theorem voteForward (ch : Chan) : Statement (.voteForward ch) := nofun
theorem routerDelivery (cls : BitVec 2) : Statement (.routerDelivery cls) := nofun
theorem headerAccept (cls : BitVec 2) : Statement (.headerAccept cls) := nofun
theorem markerRecordAccept (cls : BitVec 2) : Statement (.markerRecordAccept cls) := nofun
theorem spillDelivery : Statement .spillDelivery := nofun
theorem bankPromote (req : Requester) (bank : Nat) : Statement (.bankPromote req bank) := nofun
theorem eccWriteback (word : Nat) : Statement (.eccWriteback word) := nofun
theorem scrub : Statement .scrub := nofun
theorem engineCommandComplete (idx : Nat) : Statement (.engineCommandComplete idx) := nofun
theorem fgetGranuleData : Statement .fgetGranuleData := nofun
theorem engineResume (idx : Nat) : Statement (.engineResume idx) := nofun
theorem farRequestPlace (turn : PumpTurn) : Statement (.farRequestPlace turn) := nofun
theorem outboundSlot (pump : BitVec 8) (lane : BitVec 3) (slot : Nat) : Statement (.outboundSlot pump lane slot) := nofun
theorem inboundSlot (pump : BitVec 8) (lane : BitVec 3) (slot : Nat) : Statement (.inboundSlot pump lane slot) := nofun
theorem farResponse : Statement .farResponse := nofun
theorem controllerPerform (turn : PumpTurn) : Statement (.controllerPerform turn) := nofun
theorem outcomeExpire : Statement .outcomeExpire := nofun
theorem laneRetrain (pump : BitVec 8) (lane : BitVec 3) : Statement (.laneRetrain pump lane) := nofun
theorem laneReturn (pump : BitVec 8) (lane : BitVec 3) : Statement (.laneReturn pump lane) := nofun
theorem pageWalk (pump : BitVec 8) : Statement (.pageWalk pump) := nofun
theorem walkReadReturn (turn : PumpTurn) : Statement (.walkReadReturn turn) := nofun
theorem faultqRoom (asid : BitVec 16) : Statement (.faultqRoom asid) := nofun
theorem slotTableSwitch (pump : BitVec 8) : Statement (.slotTableSwitch pump) := nofun
theorem csrset (csr : BitVec 12) (value : Word) : Statement (.csrset csr value) := nofun
theorem routenext (ch : Chan) (entry : Word) : Statement (.routenext ch entry) := nofun
theorem routeset (ch : Chan) (entry : Word) : Statement (.routeset ch entry) := nofun
theorem wellw (addr : Nat) (words : List Word) : Statement (.wellw addr words) := nofun
theorem wellr (addr n : Nat) : Statement (.wellr addr n) := nofun
theorem clear : Statement .clear := nofun
theorem start : Statement .start := nofun
theorem member (dim : Word) (chans : BitVec 32) : Statement (.member dim chans) := nofun
theorem shoot (asid : BitVec 16) (page count : Nat) : Statement (.shoot asid page count) := nofun
theorem shootAck : Statement .shootAck := nofun
theorem strandKill (n : StrandNo) : Statement (.strandKill n) := nofun
theorem strandRetry (n : StrandNo) : Statement (.strandRetry n) := nofun
theorem strandSetpc (n : StrandNo) (pc : Word) : Statement (.strandSetpc n pc) := nofun
theorem stater (off n : Nat) : Statement (.stater off n) := nofun
theorem statew (off : Nat) (words : List Word) : Statement (.statew off words) := nofun
theorem pumpset (pumps : List (BitVec 8)) : Statement (.pumpset pumps) := nofun
theorem controlNak (code : BitVec 8) : Statement (.controlNak code) := nofun
theorem quiesce : Statement .quiesce := nofun
theorem quiesceForward (out : Port) : Statement (.quiesceForward out) := nofun
theorem quiet : Statement .quiet := nofun
theorem quiesceTimeout (fnum : BitVec 16) : Statement (.quiesceTimeout fnum) := nofun
theorem launch (rec : List Word) : Statement (.launch rec) := nofun
theorem resize (rec : List Word) : Statement (.resize rec) := nofun
theorem resizeShrink (fnum : BitVec 16) : Statement (.resizeShrink fnum) := nofun
theorem resizeTimeout (fnum : BitVec 16) : Statement (.resizeTimeout fnum) := nofun
theorem placement : Statement .placement := nofun
theorem preempt (fnum : BitVec 16) : Statement (.preempt fnum) := nofun
theorem saveWrite (fnum : BitVec 16) : Statement (.saveWrite fnum) := nofun
theorem restore (fnum : BitVec 16) : Statement (.restore fnum) := nofun
theorem drain (fnum : BitVec 16) : Statement (.drain fnum) := nofun
theorem faultMessage : Statement .faultMessage := nofun
theorem hostRetry (t : HostTarget) : Statement (.hostRetry t) := nofun
theorem hostSkip (t : HostTarget) : Statement (.hostSkip t) := nofun
theorem hostKill (t : HostTarget) : Statement (.hostKill t) := nofun
theorem rollback (fnum : BitVec 16) : Statement (.rollback fnum) := nofun
theorem contextCreate (desc : List Word) : Statement (.contextCreate desc) := nofun
theorem contextDelete (asid : BitVec 16) : Statement (.contextDelete asid) := nofun
theorem contextReuseExpire (asid : BitVec 16) : Statement (.contextReuseExpire asid) := nofun
theorem pageTableChange (asid : BitVec 16) (page count : Nat) : Statement (.pageTableChange asid page count) := nofun
theorem pageTableDone : Statement .pageTableDone := nofun
theorem cisternError (asid : BitVec 16) (page count : Nat) : Statement (.cisternError asid page count) := nofun
theorem quarClear (asid : BitVec 16) (page count : Nat) : Statement (.quarClear asid page count) := nofun
theorem attest (nonce : List Word) (field : Option Word) : Statement (.attest nonce field) := nofun
theorem domainConfig (cfg : DomainCfg) : Statement (.domainConfig cfg) := nofun
theorem domainLeave : Statement .domainLeave := nofun
theorem checkIntervalEnd : Statement .checkIntervalEnd := nofun
theorem check (sig : BitVec 32) : Statement (.check sig) := nofun
theorem checkRecheck (sig : BitVec 32) : Statement (.checkRecheck sig) := nofun
theorem coreRetire (site : Site) : Statement (.coreRetire site) := nofun
theorem clockChange (region : Region) : Statement (.clockChange region) := nofun
theorem powerGood : Statement .powerGood := nofun
theorem secureBoot (rejecting : List (BitVec 5)) : Statement (.secureBoot rejecting) := nofun
theorem supply (found : SupplyFound) : Statement (.supply found) := nofun
theorem clocks (slow dead : List Region) : Statement (.clocks slow dead) := nofun
theorem wellInit (bad : List Site) : Statement (.wellInit bad) := nofun
theorem grading : Statement .grading := nofun
theorem enumeration : Statement .enumeration := nofun
theorem photonics (deadLanes : List (BitVec 8 × BitVec 3)) : Statement (.photonics deadLanes) := nofun
theorem port0Reset : Statement .port0Reset := nofun
theorem portReset (port : BitVec 2) : Statement (.portReset port) := nofun
theorem bundleUpdate (bundle : Bundle) : Statement (.bundleUpdate bundle) := nofun
theorem versionAdvance : Statement .versionAdvance := nofun
theorem reservedEncoding (w0 w1 : IWord) : Statement (.reservedEncoding w0 w1) := nofun
theorem fetchFault : Statement .fetchFault := nofun
theorem lossOfPowerGood : Statement .lossOfPowerGood := nofun
theorem softError (word : Nat) (uncorrectable : Bool) : Statement (.softError word uncorrectable) := nofun

end Sys2Proof.Laws.Length
end

