-- ==== Sys2Proof/Tests/Slice0.lean ====
section
/-! SUPPORT. Sys2Proof/Tests/Slice0.lean: ill-formed terms that WellFormed refuses, words that the decoder reads, worked examples of the spec, and for each statement states and operands that meet its hypotheses, clause by clause. -/

namespace Sys2Proof.Tests
open Sys2Proof Sys2Proof.Machine
set_option maxRecDepth 10000

/-- What the decoder reads from a word, or from a pair of words. -/
noncomputable def word (w0 w1 : IWord) : Option Instr := (decode w0 w1).toOption

/-! ## Ill-formed terms: one for each check of WellFormed (R50 to R57) -/

theorem test_refuses_dbnz_g0 : (Instr.dbnz 0 5).wellFormed = false := by decide
theorem test_refuses_signed_64_bit_load : (Instr.ld 1 2 .w64 true 0).wellFormed = false := by decide
theorem test_refuses_signed_64_bit_indexed_load : (Instr.ldx 1 2 3 0 true .w64).wellFormed = false := by decide
theorem test_refuses_signed_64_bit_far_load : (Instr.fld 1 2 .w64 true 0).wellFormed = false := by decide
theorem test_refuses_stochastic_scalar : [Instr.fadd 1 2 3 .sto .s, .fsub 1 2 3 .sto .s, .fmul 1 2 3 .sto .s, .fdiv 1 2 3 .sto .s,
    .fsqrt 1 2 .sto .s, .fma 1 2 3 4 .s .sto, .fms 1 2 3 4 .s .sto, .fnma 1 2 3 4 .s .sto, .fnms 1 2 3 4 .s .sto,
    .fcvt 1 2 false .sto .f32 .f16].map Instr.wellFormed = List.replicate 10 false := by decide
theorem test_refuses_conversions : [Instr.fcvt 1 2 false .rne .f32 .f32, .fcvt 1 2 false .rne .i8 .n64, .fcvt 1 2 true .rne .f64 .f32,
    .vcvt 1 2 .f32 false 0 0 .rne .f32, .vcvt 1 2 .i8 false 0 0 .rne .i16, .vcvt 1 2 .f32 true 0 0 .rne .f64,
    .vcvt 1 2 .f16 false 3 0 .rne .f32].map Instr.wellFormed = List.replicate 7 false := by decide
theorem test_refuses_element_index : [Instr.vext 1 2 32 .w8, .vins 1 2 16 .w16, .vrot 1 2 8 0 .w32, .vext 1 2 4 .w64].map Instr.wellFormed =
    List.replicate 4 false := by decide
theorem test_accepts_last_element : [Instr.vext 1 2 31 .w8, .vins 1 2 15 .w16, .vrot 1 2 7 0 .w32, .vext 1 2 3 .w64].map Instr.wellFormed =
    List.replicate 4 true := by decide
theorem test_refuses_class_3 : [Instr.send 1 2 5 3, .sendv 1 2 5 3, .sendb 1 2 5 3, .mark 5 .drain 3].map Instr.wellFormed =
    List.replicate 4 false := by decide
theorem test_refuses_csrs : [Instr.csrr 1 0x007, .csrr 1 0x220, .csrw 0x008 1, .csrs 0x0C0 1, .csrc 0x045 1, .csrrw 1 0x068 2].map
    Instr.wellFormed = List.replicate 6 false := by decide
theorem test_refuses_assigned_service_as_unassigned : (Instr.supvUnassigned 5 1).wellFormed = false := by decide
theorem test_refuses_lengths : [Instr.strmOut 1 2 5 0, .strmIn 1 2 5 4, .strmCopy 1 2 3 9, .fget 1 2 3 0, .fput 1 2 3 32].map Instr.wellFormed =
    List.replicate 5 false := by decide
theorem test_refuses_page_count_0 : [Instr.ftbl 1 0, .ftbu 1 0, .ftbp 1 0].map Instr.wellFormed = List.replicate 3 false := by decide
theorem test_refuses_bmloop_ranges : [Instr.bmloop 7 0 1 2 3 .two .bk8 0 0, .bmloop 0 14 1 2 3 .two .bk8 0 0].map Instr.wellFormed =
    [false, false] ∧ (Instr.bmloop 4 11 1 2 3 .four .bk8 0 0).wellFormed = true := by decide

/-! ## Decoding: words of the spec's own examples, or written out from its encodings -/

/-- The program of spec/02_words.md (R70): addi, ld.64, add, dbnz, st.64, exit. -/
theorem test_decode_first_program :
    word 0x08A01000 0 = some (.addi 5 0 0x1000) ∧ word 0x50E5C000 0 = some (.ld 7 5 .w64 false 0) ∧
    word 0x04843800 0 = some (.add 4 4 7) ∧ word 0x48C0FFFD 0 = some (.dbnz 6 0xFFFD) ∧
    word 0x5485C000 0 = some (.st 4 5 .w64 0) ∧ word 0xD4000001 0 = some .exit := by decide
/-- R131: `li48 g9, #-2`. -/
theorem test_decode_li48 : word 0xE120FFFF 0xFFFFFFFE = some (.li48 9 0xFFFFFFFFFFFE) := by decide
/-- R49: QSHIFT g1, g2, g3 with fn 0x040, and CLZ g1, g2 with fn 0x020. -/
theorem test_decode_alu : word (0x04000000 + 1 * 2 ^ 21 + 2 * 2 ^ 16 + 3 * 2 ^ 11 + 0x040) 0 = some (.qshift 1 2 3) ∧
    word (0x04000000 + 1 * 2 ^ 21 + 2 * 2 ^ 16 + 0x020) 0 = some (.clz 1 2) := by decide
/-- R50, the SHI kinds of R36: shi.sra g4, g5, #63 has kind 10. -/
theorem test_decode_shift : word 0b000111_00100_00101_10_00000000_111111 0 = some (.shiSra 4 5 63) := by decide
/-- R135's example `fma.s g4, g5, g6, g7`, R136's `fcvt.e4m3.f32.rne g4, g5`, and fdiv.d under RUP by R51. -/
theorem test_decode_float : word 0x6C8531C7 0 = some (.fma 4 5 6 7 .s .dyn) ∧ word 0x708500AC 0 = some (.fcvt 4 5 false .rne .f32 .e4m3) ∧
    word (0x68000000 + 1 * 2 ^ 21 + 2 * 2 ^ 16 + 3 * 2 ^ 11 + 2 * 2 ^ 7 + 2 ^ 6 + 3) 0 = some (.fdiv 1 2 3 .rup .d) := by decide
/-- Chapter 05's vector words: vredadd, vcvt.sto.sat, vrngi; vsubs.16 v1, v2, v3, k4 by R51. -/
theorem test_decode_vector : word 0x9CC80044 0 = some (.vredadd 3 2 0 .s) ∧ word 0xA0873C5A 0 = some (.vcvt 2 1 .e4m3 true 7 0 .sto .f32) ∧
    word 0xA5500101 0 = some (.vrngi 5 4 0 2) ∧
    word (0x98000000 + 1 * 2 ^ 22 + 2 * 2 ^ 18 + 3 * 2 ^ 14 + 4 * 2 ^ 7 + 1 * 2 ^ 5 + 0x10) 0 = some (.vsubs 1 2 3 4 .w16) := by decide
/-- R51 and R52: vfneg.f64 v1, v2, k3; a compare's kd in [24:22]; knot k1, k2; kmov g3, k4; vins v1, g2, #5 at 32 bits. -/
theorem test_decode_masks :
    word (0x90000000 + 1 * 2 ^ 22 + 2 * 2 ^ 18 + 3 * 2 ^ 7 + 2 ^ 5 + 8) 0 = some (.vfneg 1 2 3 .d) ∧
    word (0x90000000 + 5 * 2 ^ 22 + 1 * 2 ^ 18 + 2 * 2 ^ 14 + 0x0A) 0 = some (.vflt 5 1 2 0 .s) ∧
    word (0x9C000000 + 1 * 2 ^ 22 + 2 * 2 ^ 18 + 0x12) 0 = some (.knot 1 2) ∧
    word (0x9C000000 + 3 * 2 ^ 21 + 4 * 2 ^ 18 + 2 * 2 ^ 5 + 0x13) 0 = some (.kmovGk 3 4) ∧
    word (0x9C000000 + 1 * 2 ^ 22 + 2 * 2 ^ 17 + 5 * 2 ^ 10 + 2 * 2 ^ 5 + 3) 0 = some (.vins 1 2 5 .w32) := by decide
/-- Chapter 09's words: ld.i32, stx.32, amocas.64, vgath, fences, strm.out, fget, fld, famocas, ftbl, chbind. -/
theorem test_decode_memory :
    word 0x5085BFF8 0 = some (.ld 4 5 .w32 true 0x1FF8) ∧ word 0x5C853022 0 = some (.stx 4 5 6 2 .w32) ∧
    word 0x60853019 0 = some (.amocas 4 5 6 true) ∧ word 0x88885800 0 = some (.vgath 2 4 5 false 0 0) ∧
    word 0x64000001 0 = some (.fence true) ∧ word 0x6400000C 0 = some (.ffence .domain) := by decide
theorem test_decode_far :
    word 0xE5640000 0x28000040 = some (.strmOut 11 4 5 64) ∧ word 0xE9442800 0x1000 = some (.fget 10 4 5 4096) ∧
    word 0xECA9000C 0 = some (.fld 5 9 .w64 false 0) ∧ word 0xEC85312E 0 = some (.famocas 4 5 6 true 0) ∧
    word 0xF0040000 0x10 = some (.ftbl 4 16) ∧ word 0xF8040009 0x06000020 = some (.chbind 9 4 0x600 0x20) := by decide
/-- Chapter 06's words: bld, bmma, bmmz, dmma, bmloop; and by R54 bexp g9, b4, benc.bk8 b1 from v8, mxin, blsft. -/
theorem test_decode_block :
    word 0xB0884009 0 = some (.bld 2 4 .bk8 9) ∧ word 0xB4918000 0 = some (.bmma 1 2 3) ∧ word 0xB4918001 0 = some (.bmmz 1 2 3) ∧
    word 0xC0C48000 0 = some (.dmma 3 1 2) ∧ word 0xF4853030 0x00090012 = some (.bmloop 0 0 4 5 6 .two .bk8 9 18) ∧
    word (0xB8000000 + 4 * 2 ^ 19 + 9 * 2 ^ 6 + 7) 0 = some (.bexp 9 4) ∧
    word (0xBC000000 + 8 * 2 ^ 19 + 2 * 2 ^ 15 + 1 * 2 ^ 11) 0 = some (.benc 1 true .bk8) ∧
    word (0xBC000000 + 4 * 2 ^ 23 + 2 * 2 ^ 15 + 5 * 2 ^ 11 + 7 * 2 ^ 6 + 6) 0 = some (.mxin 5 .fp4 0 7 .bk8) ∧
    word (0xB8000000 + 6 * 2 ^ 23 + 3 * 2 ^ 11 + 0x0C) 0 = some (.blsft 3 6) := by decide
/-- Chapter 11's words. -/
theorem test_decode_control :
    word 0x3085FFFC 0 = some (.blt 4 5 0xFFFC) ∧ word 0x40000380 0 = some (.jal 0x380) ∧ word 0x44010000 0 = some (.jalr 0 1 0) ∧
    word 0x4C853000 0 = some (.cmk 4 5 6) ∧ word 0xD4850000 0 = some (.spawn 4 5) ∧ word 0xD4061005 0 = some (.waitm 6 (.barrier 2)) ∧
    word 0xD4061006 0 = some (.barr 6 2) ∧ word 0xD4042809 0 = some (.slotw 4 5) ∧ word 0xD480000A 0 = some (.stid 4) := by decide
/-- R55: send, recv, mark of chapter 09; csrw DPW, supv 4, brk, fltskp, chksig. -/
theorem test_decode_messages_and_system :
    word 0xD0E82801 0 = some (.send 7 8 5 1) ∧ word 0xD1202818 0 = some (.recv 9 5) ∧ word 0xD0602841 0 = some (.mark 5 (.barrier 3) 1) ∧
    word (0xD8000000 + 13 * 2 ^ 16 + 0x042 * 2 ^ 4 + 1) 0 = some (.csrw 0x042 13) ∧
    word (0xD8000000 + 7 * 2 ^ 16 + 4 * 2 ^ 4 + 5) 0 = some (.supvHostnote 7) ∧ word (0xD8000000 + 0xABC * 2 ^ 4 + 6) 0 = some (.brk 0xABC) ∧
    word (0xD8000000 + 7 * 2 ^ 16 + 9) 0 = some (.fltskp 7) ∧ word (0xD8000000 + 4 * 2 ^ 21 + 5 * 2 ^ 16 + 0xB) 0 = some (.chksig 4 5) := by decide
/-- R57: the all-zero and the all-ones word, a must-be-zero bit, a reserved class, an unassigned fn, CSR and service code. -/
theorem test_decode_refuses :
    [(0, 0), (0xFFFFFFFF, 0xFFFFFFFF), (0xB4918002, 0), (0xD0E82803, 0), (0x0484383F, 0), (0xD8000070, 0),
     (0xD8000405, 0), (0xE121FFFF, 0), (0xF0040000, 0), (0xF0040000, 0x10010)].map
      (fun w : IWord × IWord => word w.1 w.2) = List.replicate 10 none := by decide

/-! ## Small states -/

/-- Strand 0 of one core runs at 0x1000 and owns every b and m register; the wafer is READY; rectangle 5 has 20 rows and 20
columns, and the field of R16's example has its origin at logical (2, 4). -/
def base : State :=
  let r := State.reset
  { r with
    core := { r.core with
      ident := { r.core.ident with rect := 5, rrows := 20, rcols := 20 }
      strands := r.core.strands.set 0 { Strand.blank with state := .live .run, pc := 0x1000 }
      csr := { r.core.csr with ownB := 0x8888888888888888, ownM := 0x88888888, fieldOrg := 0x00500804 } }
    boot := { phase := 8, ready := true, fail := false, fcode := 0, below := false } }

/-- The acting strand changed. -/
def mine (f : Strand → Strand) (s : State) : State := { s with core := s.core.setStrand s.cur f }
/-- Values in g registers. -/
def withG (xs : List (GReg × Word)) (s : State) : State :=
  mine (fun st => { st with g := xs.foldl (fun g x => g.set x.1.toNat x.2) st.g }) s
/-- A value in a v register. -/
def withV (d : VReg) (x : VWord) (s : State) : State := mine (fun st => { st with v := st.v.set d.toNat x }) s
/-- The core changed. -/
def core (f : Core → Core) (s : State) : State := { s with core := f s.core }
/-- Bytes in the well. -/
def withWell (a : Nat) (xs : List Byte) (s : State) : State := core (fun c => { c with well := c.well.store a xs }) s
/-- The next state of an instruction. -/
def ran (i : Instr) (s : State) : State := match exec i s with
  | .next t => t
  | _ => s

/-! ## Worked examples of the spec -/

/-- R129: division by zero and the one overflow. -/
theorem test_division_corners :
    (ran (.div 3 1 2) (withG [(1, 5)] base)).g 3 = 0x7FFFFFFFFFFFFFFF ∧ (ran (.rem 3 1 2) (withG [(1, 5)] base)).g 3 = 5 ∧
    (ran (.div 3 1 2) (withG [(1, 0x8000000000000000), (2, 0xFFFFFFFFFFFFFFFF)] base)).g 3 = 0x7FFFFFFFFFFFFFFF := by decide
/-- R40: g0 stays 0. R131: LI48's example. -/
theorem test_g0_and_li48 : (ran (.addi 0 1 7) (withG [(1, 5)] base)).g 0 = 0 ∧
    (ran (.li48 9 0xFFFFFFFFFFFE) base).g 9 = 0xFFFFFFFFFFFFFFFE ∧ (ran (.li48 9 0) base).pc = 0x1008 := by decide
/-- R132's example: 1000.0 against 448.0 needs a shift of 2. -/
theorem test_qshift_example : (ran (.qshift 3 1 2) (withG [(1, 0x447A0000), (2, 0x43E00000)] base)).g 3 = 2 := by decide
/-- R134's example. -/
theorem test_fclass_example : (ran (.fclass 3 1 .s) (withG [(1, 0x80000001)] base)).g 3 = 9 ∧
    (ran (.fclass 3 1 .s) (withG [(1, 0x7FC00000)] base)).g 3 = 6 := by decide
/-- R136's example: 464.0 ties to 448, NX only. -/
theorem test_fcvt_example : let t := ran (.fcvt 4 5 false .rne .f32 .e4m3) (withG [(5, 0x43E80000)] base)
    t.g 4 = 0x7E ∧ t.st.fflags = zext Flags.nx := by decide
/-- R145's example: 2^24, 1, 1, -2^24 sum to 1.0 in the tree, with NX. -/
theorem test_vredadd_example : let t := ran (.vredadd 3 2 0 .s) (withV 2 0xCB8000003F8000003F8000004B800000 base)
    t.v 3 = 0x3F800000 ∧ t.st.fflags = zext Flags.nx := by decide
/-- R147's example. -/
theorem test_vcvt_example : let t := ran (.vcvt 2 1 .e4m3 true 7 0 .sto .f32) (withV 1 0x8000000043FA00003E99999A (withV 7 0x66660000 base))
    t.v 2 = 0x807E29 ∧ t.st.fflags = zext (Flags.nx ||| Flags.of) := by decide
/-- R149's example. -/
theorem test_vrngi_example : (ran (.vrngi 5 4 0 2) (mine (fun st => { st with k := st.k.set 2 0x03 }) base)).v 5 = 0x7C1D3DA500000000 := by decide
/-- R162's example. -/
theorem test_mxin_example : let t := ran (.mxin 5 .fp4 0 7 .bk8) (withG [(7, 0x807F)] (withV 0 (0x97 + 3 * 2 ^ 128) base))
    (t.b 5).hdr = 0x0000820000008300 ∧ (t.b 5).pay[0] = 0xF860 ∧ (t.b 5).pay[4] = 0x60 ∧ (t.b 5).mask = 0 ∧ t.st.fflags = 0 := by decide
/-- R287's examples. -/
theorem test_coordinate_examples :
    (ran (.cmk 4 5 6) (withG [(5, 1), (6, 3)] base)).g 4 = 0x500C07 ∧
    (ran (.cadd 7 4 8) (withG [(4, 0x500C07), (8, 0xFFFFFFFD00000000)] base)).g 7 = 0x500007 ∧
    (ran (.cgy 10 7) (withG [(7, 0x500007)] base)).g 10 = 0xFFFFFFFFFFFFFFFE ∧
    (ran (.cdist 9 4 7) (withG [(4, 0x500C07), (7, 0x500007)] base)).g 9 = 3 ∧
    (ran (.cadd 7 4 8) (withG [(4, 0x500C07), (8, 0xFFFFFFFC00000000)] base)).st.trapVal = 0x3FFFFFFF00000007 := by decide
/-- R282 to R284: blt goes back by 4 words, jal links in g1, dbnz falls through at 0. -/
theorem test_branches : (ran (.blt 4 5 0xFFFC) (withG [(4, 1), (5, 2)] base)).pc = 0xFF0 ∧ (ran (.jal 0x380) base).pc = 0x1E00 ∧
    (ran (.jal 0x380) base).g 1 = 0x1004 ∧ (ran (.dbnz 6 0xFFFD) (withG [(6, 1)] base)).pc = 0x1004 := by decide
/-- R236: a signed load from below its base, and a store whose bytes are little-endian (R7). -/
theorem test_load_and_store :
    (ran (.ld 4 5 .w32 true 0x1FF8) (withG [(5, 0x808)] (withWell 0x800 [0xFE, 0xFF, 0xFF, 0xFF] base))).g 4 = 0xFFFFFFFFFFFFFFFE ∧
    (ran (.st 4 5 .w32 0) (withG [(4, 0x11223344), (5, 0x800)] base)).core.well.bytes =
      [(0x800, 0x44), (0x801, 0x33), (0x802, 0x22), (0x803, 0x11)] := by decide
/-- R237: compare-and-swap stores only where the old value equals gd. -/
theorem test_amocas : let s := withG [(4, 7), (5, 0x800), (6, 9)] (withWell 0x800 [7] base)
    (ran (.amocas 4 5 6 true) s).core.well.bytes = [(0x800, 9)] ∧ (ran (.amocas 4 5 6 true) (withG [(4, 8)] s)).g 4 = 7 ∧
    (ran (.amocas 4 5 6 true) (withG [(4, 8)] s)).core.well.bytes = [(0x800, 7)] := by decide
/-- R58 and R326: a reserved word takes ILLEGAL, tells the supervisor, and the strand parks. -/
theorem test_illegal : let t := ran (.reservedEncoding 0 0) base
    t.st.trapCause = 1 ∧ t.st.trapPc = 0x1000 ∧ t.st.parked = true ∧ t.sup.mail.length = 1 := by decide
/-- R360: FLTSKP of a parked strand moves it past its instruction. -/
theorem test_fltskp : let s := core (fun c => c.setStrand 1 fun st => { st with state := .live .park, trapPc := 0x40, twoWord := true }) base
    ((ran (.fltskp 7) (withG [(7, 1)] s)).core.strand 1).pc = 0x48 := by decide
/-- Chapter 09's example: the header of `send.c1 ch5, g7, g8` over a binding of class 1 and format f32. -/
theorem test_send_example :
    let s := core (fun c => c.setChan 5 fun h => { h with bind := (1 : Word) <<< 8 ||| 2 }) (withG [(7, 0xC00000003FC00000), (8, 7)] base)
    (ran (.send 7 8 5 1) s).core.router.staged.map (fun m => (m.msg.hdr &&& 0xFFFFFFFFFC000000, m.msg.pay)) =
      [(0x040120001C000000, [0xC00000003FC00000])] := by decide
/-- R207's example: pump 3 of 6. -/
theorem test_pump_choice : psetIndex 0x0000000400035000 6 = 3 := by decide
/-- One step from the state after reset runs the word placed for it: addi g4, g0, #0 of R70. -/
theorem test_step_runs_placed_word : (match step (State.reset.withFetchWord 32 0x08A01000) with
  | .next t => t.g 5
  | _ => 0) = 0x1000 := by decide

/-! ## Witnesses: for each statement that has hypotheses, states and operands that meet them, clause by clause -/

/-- An uncorrectable well word. -/
def badWord (a : Nat) (s : State) : State := core (fun c => { c with well := { c.well with marks := [(a / 8, .uncorrectable)] } }) s
/-- A channel of the core. -/
def withChan (ch : Chan) (f : ChanState → ChanState) (s : State) : State := core (fun c => c.setChan ch f) s
/-- The word that binds a ring of 8 words at 0x2000 with class 1 and a format. -/
def ring (fmt : Nat) : Word := BitVec.ofNat 64 (0x400 * 2 ^ 48 + 8 * 2 ^ 32 + 1 * 2 ^ 8 + fmt)
/-- Channel 5 bound so, its ring empty. -/
def bound (fmt : Nat) (s : State) : State := withChan 5 (fun h => { h with bind := ring fmt, free := 8 }) s
/-- Every trap enabled (R103). -/
def trapping (s : State) : State := mine (fun st => { st with fmode := 0x1F0 }) s

theorem witness_EncodeDecode : (Instr.addi 1 2 3).wellFormed = true ∧ encode (.addi 1 2 3) = [0x08220003] ∧
    (Instr.li48 9 0x123456789ABC).wellFormed = true ∧ encode (.li48 9 0x123456789ABC) = [0xE1201234, 0x56789ABC] := by decide
theorem witness_DecodeEncode : (∃ i, decode 0x08220003 0 = .ok i) ∧ ∃ i, decode 0xE1201234 0x56789ABC = .ok i := ⟨⟨_, rfl⟩, _, rfl⟩

/-- addi g4, g0, #0 at 0x1000. -/
def code4 : State := withWell 0x1000 [0, 0, 0x80, 0x08] base
/-- li48 g9, #-2 at the last two words of the well. -/
def code8 : State := mine (fun st => { st with pc := 393208 }) (withWell 393208 [0xFF, 0xFF, 0x20, 0xE1, 0xFE, 0xFF, 0xFF, 0xFF] base)
theorem witness_StepRunsDecoded : (∃ u i, code4.agenda = [] ∧ code4.wafer.deaf code4.core.ident.site = false ∧
      code4.core.dueEvent = none ∧ (code4.mapCore Core.tick).pick = some u ∧ u.heldLoop = none ∧ u.pc.toNat % 4 = 0 ∧ u.pc.toNat + 4 ≤ 393216 ∧ u.core.well.badIn u.pc.toNat 4 = false ∧
      decode (BitVec.ofNat 32 (u.number u.pc.toNat 4)) 0 = .ok i) :=
  ⟨_, _, rfl, by decide, by decide, rfl, by decide, by decide, by decide, by decide, rfl⟩
theorem witness_StepRunsDecoded_two_words : (∃ u i, code8.agenda = [] ∧ code8.core.dueEvent = none ∧ (code8.mapCore Core.tick).pick = some u ∧ u.heldLoop = none ∧
      u.pc.toNat % 4 = 0 ∧ u.pc.toNat + 8 ≤ 393216 ∧ u.core.well.badIn u.pc.toNat 4 = false ∧ u.core.well.badIn (u.pc.toNat + 4) 4 = false ∧
      decode (BitVec.ofNat 32 (u.number u.pc.toNat 4)) (BitVec.ofNat 32 (u.number (u.pc.toNat + 4) 4)) = .ok i) :=
  ⟨_, _, rfl, by decide, rfl, by decide, by decide, by decide, by decide, by decide, rfl⟩
/-- A BMLOOP of strand 0 under way, and a core that is powered off. -/
theorem witness_StepRunsDecoded_loop : (∃ r u, let s := core (fun c => { c with loop := some ⟨0, 0, .two, .bk8, 9, 18, 7, false, 2, 0x4000, 0x8000⟩, csr := { c.csr with mprog := mprogWord true 0 0x400 0 } }) base
      s.agenda = [] ∧ s.core.dueEvent = none ∧ (s.mapCore Core.tick).pick = some u ∧ u.heldLoop = some r) ∧
    (let s := core (fun c => { c with ident := { c.ident with site := ⟨3, 4⟩ } }) { base with wafer := { base.wafer with gradeX := [⟨3, 4⟩] } }
     s.agenda = [] ∧ s.core.ident.site ∈ s.wafer.gradeX) ∧
    (core (fun c => { c with issue := { c.issue with roundDue := true } }) base).core.dueEvent = some .roundStart := by
  exact ⟨⟨_, _, rfl, by decide, rfl, rfl⟩, by decide, by decide⟩
theorem witness_StepRunsDecoded_turns : { base with agenda := [⟨⟨3, 4⟩, some .powerGood⟩] }.agenda = ⟨⟨3, 4⟩, some .powerGood⟩ :: [] ∧
    { base with agenda := [⟨⟨3, 4⟩, none⟩] }.agenda = [⟨⟨3, 4⟩, none⟩] := by decide
theorem witness_FetchAndDecodeFaults : (∃ u e, base.agenda = [] ∧ base.core.dueEvent = none ∧ (base.mapCore Core.tick).pick = some u ∧
      u.core.fetchFault u.pc = none ∧ decode (u.core.fetch u.pc).1 (u.core.fetch u.pc).2 = .error e) :=
  ⟨_, _, rfl, by decide, rfl, by decide, rfl⟩
theorem witness_FetchAndDecodeFaults_fetch : let at' (a : Word) (s : State) := mine (fun st => { st with pc := a }) s
    let two := withWell 393212 [0, 0, 0x20, 0xE1] (at' 393212 base)
    (at' 0x1002 base).pc.toNat % 4 ≠ 0 ∧ ((at' 393216 base).pc.toNat % 4 = 0 ∧ (at' 393216 base).pc.toNat + 4 > 393216) ∧
    (badWord 0x1000 base).core.well.badIn (badWord 0x1000 base).pc.toNat 4 = true ∧
    (0x38 ≤ ((BitVec.ofNat 32 (two.number 393212 4) : IWord).extractLsb' 26 6).toNat ∧ two.pc.toNat + 8 > 393216 ∧
      two.core.well.badIn 393212 4 = false) ∧
    (let s := badWord 0x1008 (at' 0x1004 (withWell 0x1004 [0, 0, 0x20, 0xE1] base))
     0x38 ≤ ((BitVec.ofNat 32 (s.number 0x1004 4) : IWord).extractLsb' 26 6).toNat ∧ s.core.well.badIn 0x1004 4 = false ∧
      s.core.well.badIn 0x1008 4 = true) := by decide

/-- Channel 5 names strand 0 its handler (R178). -/
def handled (s : State) : State := withChan 5 (fun h => { h with bind := ring 2 ||| 0x2000, free := 8 }) s
/-- A check state. -/
def withCheck (f : Check → Check) (s : State) : State := core (fun c => { c with check := f c.check }) s
theorem witness_Issue : let named := core (fun c => { c with issue := { c.issue with table := c.issue.table.set 3 8 } }) base
    let able (c : Core) (n : StrandNo) : Bool := decide ((c.strand n).state = .live .run) && !(c.strand n).yielded
    ((named.core.issue.table.toList.getD 3 0).getLsbD 3 = true ∧ (named.core.strand 0).state = .live .run) ∧
    ((handled base).core.issue.hcount < ((handled base).core.issue.hmin.extractLsb' 0 6).toNat ∧ (able (handled base).core 0 &&
      (handled base).core.isHandler 0) = true) ∧
    (able base.core 0 = true ∧ base.core.isHandler 0 = false ∧ base.core.issue.table.toList.getD 0 0 = 0) ∧
    (∀ n, able State.reset.core n = false) ∧ (core (fun c => { c with stopped := true }) base).core.stopped = true := by decide
/-- A wait of strand 0. -/
def waiting (w : Wait) (s : State) : State := mine (fun st => { st with state := .live (.wait w) }) s
theorem witness_Issue_events : ((waiting (.finished 8) base).core.strand 0).liveState = some (.wait (.finished 8)) ∧
    (let s := waiting (.ffence true 7) base; (s.core.strand 0).liveState = some (.wait (.ffence true 7)) ∧ s.core.fenceHolds true 0 7 = false) ∧
    (waiting .reissue base).core.waitOver 0 .reissue = true ∧ (waiting .idle base).core.waitOver 0 .idle = false ∧
    (let s := waiting (.sleep (some 5)) base
     (s.core.strand 0).state = .live (.wait (.sleep (some 5))) ∧ s.core.csr.cycle.toNat < 5 ∧
       5 ≤ (core (fun c => { c with csr := { c.csr with cycle := 5 } }) s).core.csr.cycle.toNat) ∧
    (let s := withCheck (fun k => { k with ended := some 3 }) base; s.core.check.ended = some 3 ∧ ¬ s.core.ident.chkd = true) ∧
    base.core.check.ended = none ∧
    (withCheck (fun k => { k with queue := [(1, 4)] }) base).core.check.queue = (1, 4) :: [] ∧
    (withCheck (fun k => { k with raised := some 4 }) base).core.check.raised = some 4 := by decide
/-- A checked core of which every interval is sampled. -/
def sampledCore (q : List (Nat × BitVec 32)) : State := core (fun c => { c with ident := { c.ident with chkd := true } })
  (withCheck (fun k => { k with ended := some 3, queue := q, sr := 0 }) base)
theorem sampled_every (seed : BitVec 32) (i : Nat) : sampled seed i 0 = true := by simp [sampled, Nat.mod_one]
theorem witness_Issue_sampled (q : List (Nat × BitVec 32)) : let c := (sampledCore q).core
    c.check.ended = some 3 ∧ (c.ident.chkd = true ∧ c.check.suspended = false ∧ sampled Config.checkSeed (c.check.idx - 1) c.check.sr = true) ∧
    c.check.queue = q :=
  ⟨rfl, ⟨rfl, rfl, sampled_every Config.checkSeed _⟩, rfl⟩
theorem witness_FaultTaken : let c := (core (fun c => { c.setStrand 1 (fun st => { st with state := .live (.wait .idle) }) with
      csr := { c.csr with faultSt := 9, faultMask := 4 } }) base).core
    (c.csr.faultMask.getLsbD 2 = true ∧ c.csr.faultSt.getLsbD 3 = true ∧ (c.csr.faultSt.extractLsb' 0 3 : StrandNo) ≠ 0 ∧
      (c.strand (c.csr.faultSt.extractLsb' 0 3)).state = .live (.wait .idle) ∧ (c.strand 0).state = .live .run) ∧
    (base.core.csr.faultMask.getLsbD 2 = false ∧ (base.core.strand 0).state = .live .run) ∧
    (c.setStrand 0 fun st => { st with state := .stop .run }).strand 0 = { c.strand 0 with state := .stop .run } := by decide
theorem witness_MemoryStaysCanonical : base.memWf = true ∧ (withWell 0x800 [1, 0, 2] base).memWf = true ∧ ∃ t, step base = .next t :=
  ⟨by decide, by decide, _, rfl⟩
/-! ### Integer, floating-point and vector instructions -/

/-- f32 patterns: 1.0, 2.0, a signalling and a quiet NaN. -/
def f1 : Word := 0x3F800000
def f2 : Word := 0x40000000
def fsig : Word := 0x7F800001
def fquiet : Word := 0x7FC00000

theorem witness_IntegerOperations : (withG [(2, 1)] base).g 2 ≠ 0 ∧ base.g 2 = 0 := by decide
theorem witness_Division : let s (a b : Word) := withG [(1, a), (2, b)] base
    ((s 5 2).g 2 ≠ 0 ∧ ¬ ((s 5 2).g 1 = 0x8000000000000000 ∧ (s 5 2).g 2 = 0xFFFFFFFFFFFFFFFF)) ∧
    ((s 0x8000000000000000 0xFFFFFFFFFFFFFFFF).g 1 = 0x8000000000000000 ∧ (s 0x8000000000000000 0xFFFFFFFFFFFFFFFF).g 2 = 0xFFFFFFFFFFFFFFFF) ∧
    (s 5 0).g 2 = 0 := by decide
theorem witness_ImmediatesAndQshift : (∀ n m e, FFmt.f32.decode 0x7F800000 ≠ .fin n m e) ∧ Quiet base .nv ∧ ¬ Quiet (trapping base) .nv ∧
    (∃ n e m' e', FFmt.f32.decode 0 = .fin n 0 e ∧ m' ≠ 0 ∧ FFmt.f32.decode 0x3F800000 = .fin false m' e') ∧
    (∃ n m e, FFmt.f32.decode 0x447A0000 = .fin n m e ∧ m ≠ 0) ∧ (∀ m e, m ≠ 0 → FFmt.f32.decode 0x80000000 ≠ .fin false m e) :=
  ⟨by
    intro n m e
    rw [show FFmt.f32.decode 0x7F800000 = .inf false by decide]
    simp, by unfold Quiet; decide, by unfold Quiet; decide, ⟨_, _, _, _, rfl, by decide, rfl⟩, ⟨_, _, _, rfl, by decide⟩, by
    intro m e h1 h2
    have : FFmt.f32.decode 0x80000000 = .fin true 0 (-149) := by decide
    rw [this] at h2
    simp at h2⟩
theorem witness_ScalarFloatAndCompare : let q (i : Nat × Flags) (s : State) := Quiet s i.2
    q (FFmt.f32.add .rne 0x3F800000 0x40000000) base ∧ q (FFmt.f32.div .rne 0x3F800000 0) base ∧
    (∀ n f sg, FFmt.f32.decode 0x3F800000 ≠ .nan n f sg) ∧ (∃ n f, FFmt.f32.decode 0x7F800001 = .nan n f true) ∧
    (∃ n f, FFmt.f32.decode 0x7FC00000 = .nan n f false) ∧ Quiet base .nv :=
  ⟨by unfold Quiet; decide, by unfold Quiet; decide, (fun n f sg h => nomatch h), ⟨_, _, rfl⟩, ⟨_, _, rfl⟩, by unfold Quiet; decide⟩
theorem witness_ScalarConvert : (Instr.fcvt 4 5 false .rne .f32 .e4m3).wellFormed = true ∧
    Quiet base (convert .f32 .e4m3 .rne false 0x43E80000).2 := ⟨by decide, by unfold Quiet; decide⟩
/-- One f32 division by zero, in a scalar and in lane 0, with its trap enabled; a NaN in lane 0 of a compare. -/
theorem witness_ArithAndLsfTraps_arith : ¬ Quiet (trapping base) (FFmt.f32.add .rne 0x7F800001 0x3F800000).2 ∧
    ¬ Quiet (trapping base) (unionFlags 32 0xFF fun i => (FFmt.f32.mul .rne (velem 32 0x7F800001 i) (velem 32 0 i)).2) ∧
    ¬ Quiet (trapping base) (unionFlags 32 0xFF fun i => (FFmt.f32.flt (velem 32 0x7FC00000 i) (velem 32 0 i)).2) := by
  unfold Quiet; decide
/-- BK8 lines with one element each, and a tile that holds 1 x 2^48: the step of W = 20 loses the product. -/
def lossy : State := core (fun c => { c with
  b := (c.b.set 2 { BLine.zero with tag := .bk8, hdr := 0x8000, pay := (Vector.replicate 16 0).set 0 0x40 }).set 3
    { BLine.zero with tag := .bk8, hdr := 0x8000, pay := (Vector.replicate 16 0).set 0 0x01 }
  m := c.m.set 1 (Vector.replicate 16 { Acc.zero with ea := 560, sig := 1 })
  csr := { c.csr with dpw := 0x100 } }) base
set_option exponentiation.threshold 512 in
theorem witness_ArithAndLsfTraps_lsf : let r := stepTile 8 (lossy.core.csr.dpw.extractLsb' 0 4) (lossy.m 1) ((lossy.b 2).blks .bk8) ((lossy.b 3).blks .bk8)
    Owns lossy [2, 3] [1] ∧ Quiet lossy r.flags ∧ lossy.core.csr.dpw.getLsbD 8 = true ∧ r.flags &&& .ls ≠ 0 := by
  unfold Owns Quiet; decide
theorem witness_RoundingModes : 5 % 2 ^ 1 ≠ 0 ∧ 4 % 2 ^ 1 = 0 ∧ (∀ r, Mode.rne ≠ .sto r) ∧ 2 * 5 = (2 * 2 + 1) * 2 ^ 1 := by
  refine ⟨by decide, by decide, ?_, by decide⟩
  intro r h
  cases h
/-- 1 + 2^-24 rounds with a loss in f32, 2^128 is beyond its maximum, and 3.5 has no integer. -/
theorem witness_InexactArithmetic : FFmt.f32 ∈ [FFmt.f16, FFmt.bf16, FFmt.f32, FFmt.f64, FFmt.e4m3, FFmt.e5m2] ∧
    (∃ M E, FFmt.f32.decode FFmt.f32.maxFinite = .fin false M E) ∧ (FFmt.f32.round .rne false false (2 ^ 24 + 1) (-24)).2 = .nx ∧
    (FFmt.f32.round .rne false false 1 128).2 = (.of ||| .nx) ∧
    (∃ n m e, FFmt.f32.decode 0x40600000 = .fin n m e ∧ Ty.f32.ffmt = some FFmt.f32 ∧ Ty.i32.ffmt = none) ∧
    (∃ n fr sg, FFmt.f32.decode 0x7FC00000 = .nan n fr sg) ∧ FFmt.f32.decode 0xFF800000 = .inf true :=
  ⟨by decide, ⟨_, _, rfl⟩, by decide, by decide, ⟨_, _, _, rfl, rfl, rfl⟩, ⟨_, _, _, rfl⟩, rfl⟩
/-- In f32: ∞ × 0 + a NaN, ∞ · 1 + 1, ∞ · 1 − ∞, 1 · 1 + ∞, 1 · 1 − 1, and a comparison of −0 with +0. -/
theorem witness_InexactArithmetic_fused : let d := FFmt.f32.decode
    d 0x7F800000 = .inf false ∧ d 0xFF800000 = .inf true ∧ d 0 = .fin false 0 (-149) ∧ d 0x80000000 = .fin true 0 (-149) ∧
    d 0x3F800000 = .fin false (2 ^ 23) (-23) ∧ d 0xBF800000 = .fin true (2 ^ 23) (-23) ∧ d 0x7FC00000 = .nan false (2 ^ 22) false ∧
    d 0x7F800001 = .nan false 1 true := by decide
theorem witness_RoundingModes_representable : (∀ r, Mode.sto 0xFFFF = .sto r → r < 2 ^ 16) ∧ FFmt.f32 ∈ [FFmt.f16, FFmt.bf16, FFmt.f32] ∧
    (0x80000001 < 2 ^ FFmt.f32.bits) ∧ FFmt.f32.decode 0x80000001 = .fin true 1 (-149) := by
  refine ⟨?_, by decide, by decide, by decide⟩
  intro r h
  cases h
  decide
/-- Lanes 0 and 1 of v1 hold -1.0 and 2.0. -/
def lanes : State := withV 1 0x40000000BF800000 base
theorem witness_VectorFloat : Quiet lanes (unionFlags 32 (lanes.k 0) fun i => (FFmt.f32.add .rne (velem 32 (lanes.v 1) i) 0).2) ∧
    Quiet lanes (unionFlags 32 (lanes.k 0) fun i => (vfrcp .rne (velem 32 (lanes.v 1) i)).2) ∧ ∃ m e, m ≠ 0 ∧ FFmt.f32.decode 0xBF800000 = .fin true m e :=
  ⟨by unfold Quiet; decide, by unfold Quiet; decide, _, _, by decide, rfl⟩
theorem witness_VectorIntegersAndMasks : Quiet lanes (unionFlags 32 (lanes.k 0) fun i => (FFmt.f32.flt (velem 32 (lanes.v 1) i) 0).2) := by unfold Quiet; decide
theorem witness_Reductions : let r := redTree 32 (lanes.k 0) (lanes.v 1) (FFmt.f32.add .rne)
    let cs := (actives 32 (lanes.k 0)).map fun i => (velem 32 (lanes.v 1) i, i)
    Quiet lanes r.2 ∧ Quiet lanes (pickFlags FFmt.f32 cs) ∧ (∃ x, pickVal FFmt.f32 FFmt.ltZeros cs = some x) ∧
    (∀ j < 8, kbit 32 (base.k 1) j = false) ∧ actives 32 (base.k 1) = [] :=
  ⟨by unfold Quiet; decide, by unfold Quiet; decide, ⟨_, rfl⟩, by decide, by decide⟩
theorem witness_ConvertRandomDmma : (Instr.vcvt 2 1 .f16 false 0 0 .rne .f32).wellFormed = true ∧
    Quiet lanes (unionFlags 32 (lanes.k 0) fun i => (convert .f32 .f16 .rne false (velem 32 (lanes.v 1) i)).2) ∧
    Quiet lanes (FFmt.f64.fma .rne false false (velem 64 (lanes.v 1) 0) 0 0).2 := ⟨by decide, by unfold Quiet; decide, by unfold Quiet; decide⟩

/-! ### The well, blocks -/

theorem witness_LoadsAndStores : let s (a : Word) := withG [(1, a)] base
    Accessible (s 393208) ((s 393208).g 1) 8 8 ∧ (base.core.memWf = true ∧ ((s 393208).g 1).toNat + 8 ≤ 393216) ∧
    ((s 0x801).g 1).toNat % 2 ≠ 0 ∧ (((s 393216).g 1).toNat % 8 = 0 ∧ 393216 < ((s 393216).g 1).toNat + 8) ∧
    (badWord 0x800 base).core.well.badIn 0x800 8 = true ∧ base.core.well.badIn 0x800 4 = false := by
  unfold Accessible; decide
theorem witness_Atomics : base.core.memWf = true ∧ Accessible (withG [(1, 393212)] base) 393212 4 4 ∧
    (393212 % 8 ≠ 0 ∧ 393216 % 8 = 0 ∧ 393216 < 393216 + 8) ∧ (badWord 0x800 base).core.well.badIn 0x800 8 = true := by unfold Accessible; decide
theorem witness_VectorMemory : (∀ i < Sz.w32.count, kbit 32 (base.k 0) i = true →
    Accessible base (393184 + BitVec.ofNat 64 i * 4) 4 4) ∧ base.core.memWf = true := by
  unfold Accessible; decide
theorem witness_Ownership : ¬ Owns State.reset [1] [] ∧ ¬ Owns State.reset [] [1] ∧
    (4 ≤ (5 : Chan).toNat ∧ (bound 9 State.reset).core.csr.loopAct = false ∧ ((bound 9 State.reset).core.chan 5).bind.extractLsb' 8 2 = (1 : BitVec 2) ∧
      ¬ Owns (bound 9 State.reset) [1] []) := by unfold Owns; decide
theorem witness_BlockMemoryAndReads : Owns base [3, 15] [7] ∧ Accessible base 0x800 80 8 ∧ base.core.memWf = true ∧ 393144 + 8 * (8 + 1) ≤ 393216 := by
  unfold Owns Accessible; decide
/-- The same lines, -64 times 64, over a tile whose elements hold the most negative significand under the greatest exponent. -/
def saturating : State := trapping (core (fun c => { c with
  b := (c.b.set 2 { BLine.zero with tag := .bk8, hdr := 0x8000800080008000, pay := (Vector.replicate 16 0).set 0 0xC0 }).set 3
    { BLine.zero with tag := .bk8, hdr := 0x8000800080008000, pay := (Vector.replicate 16 0).set 0 0x40 }
  m := c.m.set 1 (Vector.replicate 16 { Acc.zero with ea := 1023, win := 0, sig := -32768 })
  csr := { c.csr with dpw := 0x100 } }) base)
set_option exponentiation.threshold 512 in
theorem witness_MatrixStep : (Owns base [2, 3] [1] ∧ Quiet base 0 ∧ ¬ base.core.csr.dpw.getLsbD 8 = true) ∧
    (let r := stepTile 8 (saturating.core.csr.dpw.extractLsb' 0 4) (saturating.m 1) ((saturating.b 2).blks .bk8) ((saturating.b 3).blks .bk8)
     Owns saturating [2, 3] [1] ∧ ¬ Quiet saturating r.flags) ∧
    (let r := stepTile 8 (lossy.core.csr.dpw.extractLsb' 0 4) (lossy.m 1) ((lossy.b 2).blks .bk8) ((lossy.b 3).blks .bk8)
     Owns lossy [2, 3] [1] ∧ Quiet lossy r.flags ∧ lossy.core.csr.dpw.getLsbD 8 = true ∧ r.lost ≠ 0) := by
  unfold Owns Quiet; decide
set_option exponentiation.threshold 512 in
/-- Blocks of a bk8 line, neither poison nor with a NaN, whose sum discards nothing; and the bound of a mantissa. -/
theorem witness_MatrixStep_window : let b : Blk := ⟨128, 0xE4, List.replicate 16 127⟩
    let r := alignWindow 8 7 Acc.zero b b
    (8 ∈ [4, 8, 16]) ∧ b.e < 256 ∧ (∀ x ∈ b.ms ++ b.ms, x.natAbs ≤ 2 ^ (8 - 1)) ∧ (-128 : Int).natAbs ≤ 2 ^ (8 - 1) ∧
    r.2.seen = false ∧ r.2.lost = false ∧ r.2.overflow = false ∧ r.1.sig ≠ 0 := by decide
theorem witness_BlockArithmetic : Owns base [1, 2, 3] [] ∧ Quiet base 0 ∧
    (formBlock 8 .rne (List.zipWith valAdd (blkVals 8 Blk.zero) (blkVals 8 Blk.zero))).2 = 0 := by unfold Owns Quiet; decide
/-- b4 holds a line whose block 2 is poison, POISONCTL.TRAP set; element 3 of m1 is poison. -/
def poisoned : State := core (fun c => { c with
  b := c.b.set 4 { BLine.zero with tag := .bk8, hdr := 0xFF00 <<< 32 }
  m := c.m.set 1 ((Vector.replicate 16 Acc.zero).set 3 { Acc.zero with poi := true })
  csr := { c.csr with poisonCtl := 1 } }) base
theorem witness_BlockConversions : (Owns poisoned [4] [1] ∧ poisoned.core.csr.poisonCtl.getLsbD 0 = true) ∧
    firstPoison ((poisoned.b 4).blks .bk8) = some 2 ∧ (poisoned.m 1).firstPoison = some 3 ∧
    (Owns base [4] [1] ∧ Quiet base .nv ∧ base.core.csr.poisonCtl.getLsbD 0 = false) ∧ Accessible base 0x800 256 16 ∧
    (base.core.memWf = true ∧ 392960 % 16 = 0 ∧ 392960 + 256 ≤ 393216) := by
  unfold Owns Quiet Accessible; decide
/-- Traps on: the members that can raise a flag, on operands that do. Lane 0 of v1 is a signalling NaN; b4 as in poisoned; an
infinite value, a tiny one, and a line of two very different magnitudes are formed. -/
theorem witness_Raises : let s := withV 1 0x7F800001 (trapping base)
    (¬ Quiet s .nv ∧ ¬ Quiet s (FFmt.f32.add .rne 0x7F800001 0).2 ∧ ¬ Quiet s (convert .f32 .e4m3 .rne false 0x7F800001).2) ∧
    (¬ Quiet s (unionFlags 32 (s.k 0) fun i => (FFmt.f32.add .rne (velem 32 (s.v 1) i) 0).2) ∧
      ¬ Quiet s (unionFlags 32 (s.k 0) fun i => (FFmt.f32.flt (velem 32 (s.v 1) i) 0).2) ∧
      ¬ Quiet s (redTree 32 (s.k 0) (s.v 1) (FFmt.f32.add .rne)).2 ∧
      ¬ Quiet s (pickFlags FFmt.f32 ((actives 32 (s.k 0)).map fun i => (velem 32 (s.v 1) i, i))) ∧
      ¬ Quiet s (unionFlags 32 (s.k 0) fun i => (convert .f32 .f16 .rne false (velem 32 (s.v 1) i)).2) ∧
      ¬ Quiet s (FFmt.f64.fma .rne false false 0x7FF0000000000001 0 0).2) ∧
    (¬ Quiet s (formBlock 8 .rne (FVal.inf false :: List.replicate 15 (.fin false 0 0))).2 ∧ ¬ Quiet s (accF32 .rne { Acc.zero with ea := 400, sig := 1 }).2 ∧
      anyPoison ((poisoned.b 4).blks .bk8) = true ∧ ¬ Quiet s (mxOf .fp4 8 .rne 0 (List.replicate 4 ⟨128, 0, 127 :: 1 :: List.replicate 14 0⟩)).2.2.2) := by
  unfold Quiet; decide
/-- g4, g5 and g6 hold the addresses and a count of 2 steps. -/
def looping (n : Word) : State := withG [(4, 0x4000), (5, 0x8000), (6, n)] base
theorem witness_BlockLoop : (Instr.bmloop 0 0 4 5 6 .two .bk8 9 18).wellFormed = true ∧ (looping 2).core.csr.loopAct = false ∧
    (let s := core (fun c => { c with loop := some ⟨0, 0, .two, .bk8, 9, 18, 7, false, 2, 0x4000, 0x8000⟩, csr := { c.csr with mprog := mprogWord true 0 0x400 1 } }) base
     s.core.csr.loopAct = true ∧ s.core.csr.loopStr = s.cur ∧ (s.core.csr.loopPcw.setWidth 64 : Word) <<< 2 = s.pc ∧ s.core.csr.loopDone = 1) ∧
    (let s := core (fun c => { c with csr := { c.csr with mprog := mprogWord true 3 0x400 1 } }) base
     s.core.csr.loopAct = true ∧ s.core.csr.loopStr ≠ s.cur) ∧
    Owns (looping 2) [0, 1, 2] [0, 1] ∧ ((looping 2).loopRun 0 0 4 5 6 .two .bk8 9 18).pa % 8 = 0 ∧ ((looping 2).loopRun 0 0 4 5 6 .two .bk8 9 18).pb % 8 = 0 ∧
    ((looping 0).loopRun 0 0 4 5 6 .two .bk8 9 18).n ≤ 0 ∧ 0 < ((looping 2).loopRun 0 0 4 5 6 .two .bk8 9 18).n ∧ 0x8000 + 72 * 1 + 72 ≤ 393216 ∧
    (looping 2).core.well.badIn 0x4000 72 = false ∧ (looping 2).core.csr.dpw.getLsbD 8 = false ∧ Quiet (looping 2) 0 := by
  unfold Owns Quiet; decide
/-- The lines of lossy at 0x4000 and 0x8000. -/
def lossyLines (s : State) : State := withG [(4, 0x4000), (5, 0x8000), (6, 2)]
  (withWell 0x8000 (leBytes 8 (s.b 3).hdr.toNat ++ leBytes 8 (s.b 3).pay[0].toNat) (withWell 0x4000 (leBytes 8 (s.b 2).hdr.toNat ++ leBytes 8 (s.b 2).pay[0].toNat) s))
set_option exponentiation.threshold 512 in
theorem witness_BlockLoop_faults : let at' (a b : Word) := withG [(4, a), (5, b)] base
    let r (s : State) := s.loopRun 1 4 4 5 6 .one .bk8 9 9
    let q (s : State) := stepTile 8 (r s).win (s.m 1) ((BLine.ofWords .bk8 (s.core.well.words (r s).pa 9)).blks .bk8)
      ((BLine.ofWords .bk8 (s.core.well.words (r s).pb 9)).blks .bk8)
    (((at' 0x4001 0).g 4).toNat % 8 ≠ 0 ∧ ((at' 0x4000 0x8004).g 4).toNat % 8 = 0 ∧ ((at' 0x4000 0x8004).g 5).toNat % 8 ≠ 0) ∧
    (¬ 393152 + 72 ≤ 393216 ∧ 393144 + 72 ≤ 393216 ∧ (badWord 0x8040 base).core.well.badIn 0x8000 72 = true) ∧
    ([0x4000, 0x8000] = [] ++ 0x4000 :: [(0x8000 : Nat)] ∧ [0x4000, 0x8000] = [0x4000] ++ (0x8000 : Nat) :: []) ∧
    (Owns (lossyLines lossy) [4, 5] [1] ∧ (r (lossyLines lossy)).lsf = true ∧ (q (lossyLines lossy)).lost ≠ 0 ∧ Quiet (lossyLines lossy) (q (lossyLines lossy)).flags) ∧
    (Owns (lossyLines saturating) [4, 5] [1] ∧ ¬ Quiet (lossyLines saturating) (q (lossyLines saturating)).flags) := by
  unfold Owns Quiet; decide
/-! ### Control, strands, system -/

theorem witness_Branches : ((0x48000005 : IWord).extractLsb' 26 6 = 0x12 ∧ (0x48000005 : IWord).extractLsb' 21 5 = 0) ∧
    ((0x48C10005 : IWord).extractLsb' 26 6 = 0x12 ∧ (0x48C10005 : IWord).extractLsb' 16 5 ≠ 0) := by decide
/-- An inner name, the last name of the rectangle, and names outside it. -/
theorem witness_Coordinates : base.core.ident.rrows ≤ 1024 ∧ base.core.ident.rcols ≤ 1024 ∧
    (let ok (n : BitVec 26) : Prop := natBits n.toNat 20 6 = natBits base.core.ident.name.toNat 20 6 ∧
       natBits n.toNat 10 10 < base.core.ident.rrows ∧ natBits n.toNat 0 10 < base.core.ident.rcols
     ok 0x504C13 ∧ ok 0x500000 ∧ ¬ ok 0x504C14 ∧ ¬ ok 0x505000 ∧ ¬ ok 0x400000) ∧
    (natBits (base.core.csr.fieldOrg).toNat 10 10 = 2 ∧ natBits (base.core.csr.fieldOrg).toNat 0 10 = 4) := by decide
theorem witness_StrandsMade : (2 : Word).toNat % 4 ≠ 0 ∧ ((393216 : Word).toNat % 4 = 0 ∧ 393212 < (393216 : Word).toNat) ∧
    ((393212 : Word).toNat % 4 = 0 ∧ (393212 : Word).toNat ≤ 393212) ∧ base.st.state ≠ .absent ∧
    ((base.core.strand 1).state = .absent ∧ base.core.isHandler 1 = false ∧ ∀ m : StrandNo, m.toNat < 1 → ¬ (base.core.strand m).state = .absent) ∧
    (∀ n : StrandNo, ¬ ((core (fun c => { c with strands := Vector.replicate 8 { Strand.blank with state := .live .park } }) base).core.strand n).state =
      .absent) ∧
    ((waiting (.sleep none) base).core.strand 0).liveState = some (.wait (.sleep none)) ∧
    ((waiting .idle base).core.strand 0).liveState = some (.wait .idle) ∧ (base.core.strand 0).liveState = some .run := by decide
theorem witness_StrandsMade_slots : let s := mine (fun st => { st with inBarr := true }) base
    ((s.core.strand 0).state ≠ .absent ∧ (s.core.strand 0).inBarr = true) ∧ base.core.issue.allowed.getLsbD 1 = true ∧
    (s.core.issue.next.set 31 8).toList.length = 32 ∧
    ((s.core.issue.next.set 31 8).toList.filter fun x => x.getLsbD 3 && !s.core.isHandler (x.extractLsb' 0 3)).length +
      (s.core.issue.hmin.extractLsb' 0 6).toNat ≤ 32 ∧
    ¬ ((core (fun c => { c with issue := { c.issue with hmin := 32 } }) s).core.issue.next.set 31 8 |>.toList.filter fun x =>
      x.getLsbD 3 && !s.core.isHandler (x.extractLsb' 0 3)).length + 32 ≤ 32 ∧
    (∀ n : StrandNo, (State.reset.core.strand n).state = .absent) := by decide
/-- An entry with one unread word, and a marker record, on channel 5. -/
def anEntry : Entry := { hdr := 0x0401000000000000, off := 0, words := 1, read := 0 }
def holding (fmt : Nat) (xs : List Item) (s : State) : State := withChan 5 (fun h => { h with bind := ring fmt, free := 4, items := xs }) s
theorem witness_StrandEnds : let s := handled (withChan 5 (fun h => { h with items := [.entry anEntry] }) base)
    ((s.core.chan 5).hv = true ∧ (s.core.chan 5).hstr = s.cur ∧ Item.entry anEntry ∈ (s.core.chan 5).items) ∧
    s.core.issue.allowed.getLsbD s.cur.toNat = true ∧ (∀ ch : Chan, ¬ (base.core.chan ch).hv = true) ∧
    (let c := core (fun c => { c with far := { c.far with
       regions := [some ⟨8, 2, 0⟩, some ⟨9, 1, 1⟩, none, none]
       ftb := [⟨0, 8, false, 0, true, true, 0⟩, ⟨0, 9, false, 1, true, true, 0⟩] } }) base
     (∃ r, c.core.far.regions.getD 0 none = some r ∧ r.strand = c.cur) ∧ (∃ r, c.core.far.regions.getD 1 none = some r ∧ r.strand ≠ c.cur) ∧
     c.core.far.regions.length ≤ 4) := by
  refine ⟨by decide, by decide, by decide, ⟨_, rfl, by decide⟩, ⟨_, rfl, by decide⟩, by decide⟩
theorem witness_Waits : let b := bound 2 base
    let m : BitVec 32 := 1#32 <<< 5
    let staged (s : State) := mine (fun st => { st with barrStaged := true }) s
    ((3 : Chan).toNat < 4 ∧ (0x8 : BitVec 32).getLsbD 3 = true ∧ ∀ j : Nat, j < 3 → (0x8 : BitVec 32).getLsbD j = false) ∧
    ((∀ k : Chan, k.toNat < 4 → m.getLsbD k.toNat = false) ∧ (∀ k : Chan, m.getLsbD k.toNat = true → (b.core.chan k).rlen ≠ 0) ∧ m ≠ 0 ∧
      (b.core.chan 5).headEntry = none) ∧
    ((holding 2 [.entry anEntry] base).core.chan 5).headEntry = some anEntry ∧
    (4 ≤ (5 : Chan).toNat ∧ (b.core.chan 5).rlen ≠ 0) ∧ ¬ (base.core.chan 5).rlen ≠ 0 ∧ ¬ 4 ≤ (3 : Chan).toNat ∧
    ((holding 2 [.marker 3] base).core.chan 5).headMarker = some (Marker.barrier 3).code ∧ (b.core.chan 5).headMarker ≠ some 3 ∧
    (staged b).st.barrStaged = true ∧ b.st.barrStaged = false ∧ closedBit (b.core.route 5) = false ∧
    b.core.canStage (b.core.chan 5).cls 1 = true ∧
    (core (fun c => { c with router := { c.router with staged := [{ strand := none, msg := { ch := 5, hdr := 0x0400000000000000, pay := List.replicate 31 0, bad := false } }] } })
      b).core.canStage 1 1 = false ∧
    closedBit ((core (fun c => { c with router := { c.router with route := c.router.route.set 5 0x0004000000000000 } }) b).core.route 5) = true ∧
    (let h := holding 2 [.marker 3] base
     (h.core.chan 5).headMarker = some (0#1 ++ 3#4) ∧ h.st.barrStaged = false ∧ closedBit (h.core.route 5) = false ∧ h.core.canStage 1 1 = true) ∧
    ((∀ j : Nat, j < 4 → m.getLsbD j = false) ∧ m.getLsbD 5 = true ∧ ¬ (base.core.chan 5).rlen ≠ 0 ∧
      ∀ j : Chan, j.toNat < 5 → m.getLsbD j.toNat = false) ∧
    (mine (fun st => { st with sleepLeft := some 0 }) base).st.sleepLeft = some 0 ∧
    (mine (fun st => { st with wakePending := true }) base).st.wakePending = true ∧ base.st.wakePending = false ∧ base.st.sleepLeft = none := by
  decide
theorem witness_SupervisorCallsAndDisposals : base.core.csr.faultMask.getLsbD 0x12 = false := by decide
theorem witness_SupervisorCallsAndDisposals_disposals : let s (sup : Bool) := core (fun c => c.setStrand 7 fun st => { st with state := .live .park, toSupervisor := sup }) base
    let able (s : State) (n : StrandNo) := n ≠ s.cur ∧ (s.core.strand n).state ≠ .absent ∧
      ¬ ((s.core.strand n).parked = true ∧ (s.core.strand n).toSupervisor = true)
    (able (s false) 7 ∧ ((s false).core.strand 7).parked = true) ∧ ¬ able (s true) 7 ∧ ¬ able base 0 ∧ ¬ able base 7 ∧
    (let u := core (fun c => c.setStrand 7 fun st => { st with state := .live .run }) base; able u 7 ∧ (u.core.strand 7).parked = false) ∧
    (∀ ch : Chan, ¬ ((s false).core.chan ch).hv = true) ∧
    (let h := withChan 5 (fun h => { h with bind := ring 2 ||| 0x1E000, items := [.entry anEntry] }) (s false)
     (h.core.chan 5).hv = true ∧ (h.core.chan 5).hstr = 7 ∧ Item.entry anEntry ∈ (h.core.chan 5).items) := by decide

/-! ### Messages -/

theorem witness_Sends : let full (s : State) := core (fun c => { c with router := { c.router with
      staged := [{ strand := none, msg := { ch := 5, hdr := 0x0400000000000000, pay := List.replicate 31 0, bad := false } }] } }) s
    let fine (s : State) (cls : BitVec 2) := 4 ≤ (5 : Chan).toNat ∧ (s.core.chan 5).bind.extractLsb' 8 2 = cls
    fine (bound 2 base) 1 ∧ ¬ fine (bound 2 base) 0 ∧ ¬ 4 ≤ (3 : Chan).toNat ∧
    closedBit ((bound 2 base).core.route 5) = false ∧ (bound 2 base).core.canStage 1 2 = true ∧ (full (bound 2 base)).core.canStage 1 2 = false ∧
    Quiet (bound 2 base) (encodeWord 2 .rne false 0 0xC00000003FC00000).2 ∧
    (8 ≤ ((bound 9 base).core.chan 5).bind.extractLsb' 0 4 ∧ blockFmt (((bound 9 base).core.chan 5).bind.extractLsb' 0 4) = some .bk8) ∧
    ((bound 11 base).core.chan 5).bind.extractLsb' 0 4 = 11 ∧ Owns base [4] [] ∧
    closedBit ((core (fun c => { c with router := { c.router with route := c.router.route.set 5 0x0004000000000000 } }) base).core.route 5) = true := by
  unfold Owns Quiet; decide
theorem witness_Sends_mx : (∃ x, mxFmt 11 = some x) ∧ (∃ x, mxFmt 12 = some x) ∧ (∃ f, elemFmt 2 = some f) := ⟨⟨_, rfl⟩, ⟨_, rfl⟩, _, rfl⟩
theorem witness_ReceivesAndPolls : let line : Entry := { hdr := 0x240A900000000000, off := 0, words := 10, read := 0 }
    let s := holding 2 [.entry anEntry] base
    let big := withChan 5 (fun h => { h with bind := BitVec.ofNat 64 (0x400 * 2 ^ 48 + 11 * 2 ^ 32 + 9), items := [.entry line] }) base
    (4 ≤ (5 : Chan).toNat ∧ (s.core.chan 5).rlen ≠ 0) ∧ ¬ (base.core.chan 5).rlen ≠ 0 ∧ (s.core.chan 5).headEntry = some anEntry ∧
    0 < anEntry.words - anEntry.read ∧ s.core.well.badIn 0x2008 8 = false ∧ (badWord 0x2008 s).core.well.badIn 0x2008 8 = true ∧
    ((bound 9 base).core.chan 5).headEntry = none ∧ (8 ≤ ((bound 9 base).core.chan 5).bind.extractLsb' 0 4) ∧
    ((big.core.chan 5).headEntry = some line ∧ natBits line.hdr.toNat 60 4 = 2 ∧ storedFmt (line.hdr.extractLsb' 44 4) = some .bk8 ∧
      line.words = 8 + 2 ∧ line.read = 0) ∧ natBits anEntry.hdr.toNat 60 4 ≠ 2 ∧ Owns base [4] [] := by
  unfold Owns; decide
theorem witness_ReceivesAndPolls_polls : (3 : Chan).toNat < 4 ∧ 4 ≤ (4 : Chan).toNat ∧
    ((holding 2 [.entry anEntry, .marker 3] base).core.chan 5).headEntry = some anEntry ∧
    ((holding 2 [.marker 3] base).core.chan 5).items.takeWhile (fun i => match i with | .marker _ => false | _ => true) = [] := by decide
theorem witness_SupervisorCallsAndDisposals_ends : let s := core (fun c => { (c.setStrand 7 fun st => { st with state := .live .park }) with
      csr := { c.csr with mprog := mprogWord true 7 0 1 } }) base
    (s.core.issue.allowed.getLsbD (7 : StrandNo).toNat = true) ∧
    (s.core.csr.mprog.getLsbD 63 = true ∧ s.core.csr.mprog.extractLsb' 53 3 = (7 : StrandNo)) ∧ ¬ base.core.csr.mprog.getLsbD 63 = true := by decide
theorem witness_Sends_poison : let s := bound 11 poisoned
    4 ≤ (5 : Chan).toNat ∧ Owns s [4] [] ∧ (∃ x, mxFmt ((s.core.chan 5).bind.extractLsb' 0 4) = some x) ∧ s.core.csr.poisonCtl.getLsbD 0 = true ∧
    anyPoison ((s.b 4).blks (s.b 4).tag) = true ∧ closedBit (s.core.route 5) = false := by
  refine ⟨by decide, by unfold Owns; decide, ⟨_, rfl⟩, by decide, by decide, by decide⟩

/-! ### Far memory -/

/-- The far path changed. -/
def far (f : FarPath → FarPath) (s : State) : State := core (fun c => { c with far := f c.far }) s
/-- A locked or unlocked FTB entry of 64 KiB. -/
def pageAt (n : Nat) (w lock : Bool) : FtbEntry := { asid := 0, page := n, big := false, pa := 0x70000, w := w, lock := lock, region := 0 }
def holdsPage (n : Nat) (w lock : Bool) (s : State) : State := far (fun x => { x with ftb := pageAt n w lock :: x.ftb }) s
/-- An access of the acting strand that is outstanding under issue number 4. -/
def anOut (kind : FarKind) : Out :=
  { seq := 4, strand := 0, kind := kind, va := 0x30008, nb := 8, sx := false, dst := 9, pc := 0x1000, cmd := 2, well := 0x800, stall := none }
def anAnswer (kind : FarKind) (status : FarStatus) : Resp :=
  { seq := 4, strand := 0, kind := kind, va := 0x30008, status := status, data := List.replicate 64 1 }
def answered (kind : FarKind) (status : FarStatus) (s : State) : State :=
  far (fun x => { x with seq := 5, outs := [anOut kind], resps := [anAnswer kind status] }) s
/-- An engine command of tag 0 under issue number 2. -/
def aCmd (kind : CmdKind) (left : Nat) (pause : Pause) : Cmd :=
  { kind := kind, tag := 0, seq := 2, strand := 0, ch := 5, bind := ring 0, well := 0x800, dst := 0x30040, left := left, pause := pause
    stopped := false }
def commanded (k : Cmd) (s : State) : State := core (fun c => { c with cmds := k :: c.cmds, far := { c.far with seq := 5 } }) s
theorem noRegion (r : FtbRegion) (p : FtbRegion → Prop) : ¬ (some r ∈ [none, none, none, (none : Option FtbRegion)] ∧ p r) := by simp

theorem witness_FarAccesses : let at' (x : Word) := withG [(2, x)] base
    base.core.ident.readsAs = none ∧ base.st.redo = false ∧ ((at' 4).g 2 + (0 : BitVec 32).signExtend 64).toNat % 8 ≠ 0 ∧
    (((at' 0x10000000000000).g 2).toNat % 8 = 0 ∧ 2 ^ 52 ≤ ((at' 0x10000000000000).g 2).toNat) ∧
    (((at' 0xFFFFFFFFFFFF8).g 2).toNat < 2 ^ 52 ∧ (base.core.far.ftb.find? fun e => e.covers base.core.csr.asid 0xFFFFFFFFF) = none) ∧
    ((holdsPage 3 true false base).core.far.ftb.find? fun e => e.covers base.core.csr.asid 3) = some (pageAt 3 true false) ∧
    (pageAt 3 false false).w = false ∧ 0x30008 / 65536 = 3 := by decide
theorem witness_FarAccesses_regions : let u := far (fun x => { x with regions := [none, some ⟨3, 2, 1⟩, none, none] }) base
    (∃ r, some r ∈ u.core.far.regions ∧ r.page ≤ 4 ∧ 4 < r.page + r.count) ∧
    ¬ ∃ r, some r ∈ base.core.far.regions ∧ r.page ≤ 3 ∧ 3 < r.page + r.count :=
  ⟨⟨⟨3, 2, 1⟩, by decide, by decide, by decide⟩, fun ⟨r, h⟩ => noRegion r (fun r => r.page ≤ 3 ∧ 3 < r.page + r.count) h⟩
theorem witness_FarCompletions_responses : let s (kind : FarKind) (status : FarStatus) := answered kind status (waiting (.far 4) base)
    (∀ status ∈ [FarStatus.ok, .ueFar, .farUnsup], ∀ kind ∈ [FarKind.fld, .famo 9, .fst, .fput],
      (s kind status).core.far.resps = [] ++ anAnswer kind status :: [] ∧
      (s kind status).core.nextResp false = some (anAnswer kind status, anOut kind)) ∧
    (anOut .fld).pc ≠ 0xFFFFFFFFFFFFFFFF ∧ ((s .fld .ok).core.strand 0).parked = false ∧ ((s .fst .ueFar).core.strand 0).state ≠ .absent ∧
    ((answered .fst .ueFar base).core.strand 0).liveState = some .run ∧
    ((answered .fst .ueFar (mine (fun st => { st with state := .live .park }) base)).core.strand 0).parked = true ∧
    (answered .fget .ok base).core.nextResp false = none := by decide
theorem witness_FarCompletions_waits : let b := commanded (aCmd .fget 64 .none) base
    let p := commanded (aCmd .fget 64 (.farFault 0x30040)) base
    let e : TagErr := { tag := 0, seq := 7, code := 0x0D, val := 0x30040 }
    let r := core (fun c => { c with errs := [{ e with seq := 8 }, { e with tag := 1, seq := 3 }, e] }) base
    (∃ o ∈ (answered .fst .ok base).core.far.outs, o.seq < (answered .fst .ok base).core.far.seq ∧ o.strand = base.cur) ∧
    (∃ k ∈ b.core.cmds, (k.kind = .fget ∨ k.kind = .fput) ∧ k.seq < b.core.far.seq ∧ k.strand = b.cur ∧ k.tag = (b.g 2).extractLsb' 0 6) ∧
    ((¬ ∃ o ∈ base.core.far.outs, o.seq < base.core.far.seq) ∧ ¬ ∃ k ∈ base.core.cmds, k.tag = 0) ∧ b.st.redo = false ∧
    b.core.workFault (Cmd.fenced true b.cur 5) (Out.fenced true b.cur 5) = none ∧
    p.core.workFault (Cmd.fenced false p.cur 5) (Out.fenced false p.cur 5) = some (0x09, 0x30040) ∧
    (∀ x ∈ base.core.errs, x.tag ≠ 0) ∧ (e ∈ r.core.errs ∧ ∀ x ∈ r.core.errs, x.tag = 0 → x ≠ e → e.seq < x.seq) ∧
    b.core.workFault (fun k => decide (k.tag = 0)) (b.core.outOfTag 0) = none ∧
    p.core.workFault (fun k => decide (k.tag = 0)) (p.core.outOfTag 0) = some (0x09, 0x30040) := by decide
theorem witness_FarAccesses_behind : let s (p : Pause) := commanded (aCmd .fget 64 p) (holdsPage 3 true false base)
    let touching (k : Cmd) : Prop := k.strand = (s .none).cur ∧ k.kind = .fget ∧ k.left ≠ 0 ∧ 0x30040 < k.dst + k.left ∧ k.dst < 0x30040 + 8
    ((∃ k ∈ (s .none).core.cmds, touching k) ∧ ∀ k ∈ (s .none).core.cmds, ∀ x, k.pause ≠ .farFault x) ∧
    ((s (.farFault 0x30040)).core.cmds = [] ++ aCmd .fget 64 (.farFault 0x30040) :: [] ∧ touching (aCmd .fget 64 (.farFault 0x30040))) := by
  refine ⟨⟨⟨_, List.mem_singleton.mpr rfl, by decide⟩, ?_⟩, rfl, by decide⟩
  intro k h x e
  rw [List.mem_singleton.mp h] at e
  cases e
theorem witness_FarCompletions_parked : let s (sup : Bool) := answered .fld .ok (mine (fun st => { st with state := .live .park, toSupervisor := sup }) base)
    (s true).core.nextResp false = some (anAnswer .fld .ok, anOut .fld) ∧ (s false).core.nextResp false = none ∧
    ∀ sup, ((s sup).core.strand 0).state = .live .park ∧ ((s sup).core.strand 0).pc = (anOut .fld).pc := by decide
theorem witness_FarAccesses_again : let s := mine (fun st => { st with redo := true }) (answered .fld .ok base)
    let p := mine (fun st => { st with redo := true }) (commanded (aCmd .fget 64 (.farFault 0x30040)) (holdsPage 3 true false base))
    (s.core.far.outs.find? fun o => decide (o.strand = s.cur ∧ o.pc = s.pc ∧ o.kind = .fld ∧ o.va = (anOut .fld).va)) = some (anOut .fld) ∧
    s.st.redo = true ∧ (p.st.redo = true ∧ (∀ o ∈ p.core.far.outs, o.kind ≠ .fld) ∧ p.core.cmds = [] ++ aCmd .fget 64 (.farFault 0x30040) :: []) := by decide
theorem witness_RegionsAndBindings_walks : let w : Walk := { seq := 6, va := 0x30040, who := .ftbl 0 1, discard := false }
    let s := far (fun x => { x with walks := [w] }) base
    let full := far (fun x => { x with walks := [w], ftb := List.replicate 24 (pageAt 9 true true) }) base
    (∀ t ∈ [s, full], (t.coreAt ⟨0, 0⟩).far.walks.find? (fun w => w.seq = 6) = some w) ∧
    ((0x1001 : Word).getLsbD 2 = false ∧ (0x100D : Word).getLsbD 3 = true ∧ (0x1005 : Word).getLsbD 2 = true ∧ (0x1005 : Word).getLsbD 3 = false) ∧
    (((s.coreAt ⟨0, 0⟩).far.ftb.filter (·.lock)).length < 24 ∧ ∀ e ∈ (s.coreAt ⟨0, 0⟩).far.ftb, e.lock = false) ∧
    ¬ ((full.coreAt ⟨0, 0⟩).far.ftb.filter (·.lock)).length < 24 := by decide
theorem witness_RegionsAndBindings_regions : let some4 := far (fun x => { x with regions := List.replicate 4 (some ⟨9, 1, 1⟩) }) base
    let full := far (fun x => { x with ftb := List.replicate 24 (pageAt 9 true true) }) base
    let one := holdsPage 2 true true (withG [(2, 0x20000)] base)
    base.st.ftblOpen = none ∧ (some4.core.far.regions.length = 4 ∧ ∀ r ∈ some4.core.far.regions, r ≠ none) ∧
    (0 < base.core.far.regions.length ∧ base.core.far.regions.getD 0 none = none) ∧
    (base.core.far.ftb.filter (·.lock)).length < 24 ∧ 24 ≤ (full.core.far.ftb.filter (·.lock)).length ∧
    natBits (one.g 2).toNat 16 36 = 2 ∧ (∃ e ∈ one.core.far.ftb, e.lock = true ∧ e.covers 0 2 = true) ∧
    (¬ ∃ e ∈ one.core.far.ftb, e.lock = true ∧ e.covers 0 3 = true) ∧ (∀ y, 2 ≤ y → y < 3 → y = 2) ∧
    base.core.far.regions.length = 4 := by
  refine ⟨by decide, by decide, by decide, by decide, by decide, by decide, by decide, by decide, fun y h1 h2 => by omega, by decide⟩
theorem witness_RegionsAndBindings_bindings : let c := (handled base).core
    let ok (x : Word) : Prop := natBits x.toNat 19 45 = 0 ∧ natBits x.toNat 4 4 = 0 ∧ natBits x.toNat 8 2 ≠ 3 ∧ natBits x.toNat 0 4 ≤ 12
    (3 : Chan).toNat < 4 ∧ 4 ≤ (4 : Chan).toNat ∧ ok 12 ∧ ok 0x20C ∧ ¬ ok 13 ∧ ¬ ok 0x300 ∧ ¬ ok 0x10 ∧ ¬ ok 0x80000 ∧
    (49152 < (49151 : BitVec 16).toNat + (2 : BitVec 16).toNat ∧ (49151 : BitVec 16).toNat + (1 : BitVec 16).toNat ≤ 49152) ∧
    ((c.chan 5).items = [] ∧ c.headerWaits 5 = false ∧ ∀ k ∈ c.cmds, ¬ (k.kind = .strmIn ∧ k.ch = 5)) ∧
    ((holding 2 [.entry anEntry] base).core.chan 5).items ≠ [] := by decide
theorem witness_EngineCommands : let s := withG [(1, 0x800), (2, 0x30040), (3, 393212), (4, 393216), (6, 0xFFFFFFFFFFFC0)] (bound 9 base)
    let full := core (fun c => { c with cmds := List.replicate 16 (aCmd .fget 64 .none) }) s
    s.core.cmds.length < 16 ∧ ¬ full.core.cmds.length < 16 ∧ (3 : Chan).toNat < 4 ∧ 4 ≤ (5 : Chan).toNat ∧
    (s.g 3).toNat % 8 ≠ 0 ∧ ((s.g 4).toNat % 8 = 0 ∧ 393216 < (s.g 4).toNat + (8 : BitVec 24).toNat) ∧ (s.g 4).toNat + (0 : BitVec 24).toNat ≤ 393216 ∧
    ¬ (s.core.chan 6).rlen ≠ 0 ∧ (s.core.chan 5).rlen ≠ 0 ∧ unitWords (s.core.chan 5).bind = some 9 ∧ (72 : BitVec 24).toNat % (8 * 9) = 0 ∧
    (64 : BitVec 24).toNat % (8 * 9) ≠ 0 ∧ unitWords ((bound 0 base).core.chan 5).bind = none ∧
    natBits ((bound 0 base).core.chan 5).bind.toNat 0 4 ≤ 7 ∧ (s.g 1).toNat % 8 = 0 ∧ (s.g 2).toNat % 64 = 0 ∧ (s.g 1).toNat % 64 = 0 ∧
    (s.g 3).toNat % 64 ≠ 0 ∧ 2 ^ 52 < (s.g 6).toNat + (128 : BitVec 24).toNat ∧ (s.g 6).toNat + (64 : BitVec 24).toNat ≤ 2 ^ 52 := by decide
theorem witness_EngineCommands_granules : let get := commanded (aCmd .fget 64 .none) base
    let put := commanded (aCmd .fput 64 .none) base
    (get.core.cmds.find? fun j => j.seq = 2) = some (aCmd .fget 64 .none) ∧ (put.core.cmds.find? fun j => j.seq = 2) = some (aCmd .fput 64 .none) ∧
    ((holdsPage 3 true false put).core.far.ftb.find? fun e => e.covers 0 (0x30040 / 65536)) = some (pageAt 3 true false) ∧
    ((holdsPage 3 false false put).core.far.ftb.find? fun e => e.covers 0 (0x30040 / 65536)) = some (pageAt 3 false false) ∧
    put.core.well.badIn 0x800 64 = false ∧ (get.core.far.ftb.find? fun e => e.covers 0 3) = none ∧ get.core.inRegion 3 = false ∧
    (far (fun x => { x with regions := [none, some ⟨3, 1, 1⟩, none, none] }) get).core.inRegion 3 = true := by decide

/-! ### Events of a core and its router -/

theorem witness_EngineEvents : let s (status : FarStatus) := answered .fget status base
    let k := aCmd .strmOut 16 .none
    let walk : Walk := { seq := 6, va := 0x30040, who := .engine 2 0 0, discard := false }
    let m : Msg := { ch := 5, hdr := 0x0400000000000000, pay := [7], bad := false }
    let one (k : Cmd) := commanded k base
    (∀ status ∈ [FarStatus.ok, .ueFar], (s status).core.nextResp true = some (anAnswer .fget status, anOut .fget)) ∧
    base.core.nextResp true = none ∧ ((one (aCmd .fget 64 .walk)).core.cmds[0]? = some (aCmd .fget 64 .walk)) ∧
    ((one (aCmd .fget 64 .walk)).core.far.walks = [] ∧ (one (aCmd .fget 64 .walk)).core.stopped = false) ∧
    walk ∈ (far (fun x => { x with walks := [walk] }) (one (aCmd .fget 64 .walk))).core.far.walks ∧
    ((one (aCmd .fget 0 .none)).core.far.outs = [] ∧ (aCmd .fget 0 .none).left = 0) ∧
    (∃ x ∈ (commanded (aCmd .fget 0 .none) (s .ok)).core.far.outs, x.kind = .fget ∧ x.cmd = 2) ∧
    ((one (aCmd .copy 16 .none)).core.memWf = true ∧ (aCmd .copy 16 .none).well + 16 ≤ (aCmd .copy 16 .none).dst ∧
      (one (aCmd .copy 16 .none)).core.well.badIn 0x800 16 = false) ∧
    (let x : Staged := { strand := some 0, msg := m }
     let mk : Staged := { strand := some 0, msg := { m with ch := 6, hdr := 0x3000000000000000, pay := [] } }
     let t := core (fun c => { c with router := { c.router with staged := [x, mk] } }) base
     (t.core.router.staged = [] ++ x :: [mk] ∧ x.msg.hdr.extractLsb' 58 2 = 1#2) ∧
     (t.core.router.staged = [x] ++ mk :: [] ∧ mk.msg.hdr.extractLsb' 58 2 = 0#2 ∧ x.msg.hdr.extractLsb' 58 2 ≠ 0#2 ∧
       natBits mk.msg.hdr.toNat 60 4 = 3 ∧ x.strand ≠ none ∧ x.strand = mk.strand) ∧
     (∀ m ∈ t.core.router.staged, m.msg.hdr.extractLsb' 58 2 ≠ 2#2) ∧
     ((core (fun c => { c with router := { c.router with inq := [(.loc, { m with pay := List.replicate 5 0 })] } }) t).core.router.inq.map
       fun y => y.2.pay.length + 1).sum = 6) ∧
    (let b := commanded { aCmd .fget 64 .none with seq := 1 } (one (aCmd .fget 64 .behind))
     ((∃ k ∈ b.core.cmds, k.seq < 2 ∧ k.left ≠ 0 ∧ 0x30040 < k.dst + k.left ∧ k.dst < 0x30040 + 64) ∧ b.core.cmds[1]? = some (aCmd .fget 64 .behind)) ∧
     ¬ ∃ k ∈ (one (aCmd .fget 64 .behind)).core.cmds, k.seq < 2) ∧ (one k).core.firstOn k = true ∧
    ((one k).core.cmds.find? (fun k => decide (k.kind = .strmOut) && decide (k.left ≠ 0) && decide (k.bind.extractLsb' 8 2 = 1)) = some k ∧
      closedBit ((one k).core.route 5) = false ∧ k.bind.extractLsb' 0 4 = 0 ∧ (one k).core.well.badIn 0x800 16 = false) := by decide
theorem witness_RegionsAndBindings_open : let top := withG [(2, 0xFFFFFFFFF0000)] base
    natBits (top.g 2).toNat 16 36 = 0xFFFFFFFFF ∧ 2 ^ 52 ≤ (0xFFFFFFFFF + 1) * 65536 ∧
    (∃ e ∈ (holdsPage 0xFFFFFFFFF true true top).core.far.ftb, e.lock = true ∧ e.covers 0 0xFFFFFFFFF = true) ∧
    (mine (fun st => { st with ftblOpen := some 0 }) base).st.ftblOpen = some 0 ∧
    (let u := far (fun x => { x with regions := [some ⟨2, 2, 0⟩, some ⟨2, 1, 1⟩, none, none] }) (holdsPage 2 true true base)
     (∃ r, u.core.far.regions.getD 0 none = some r ∧ r.strand = u.cur ∧ 2 ≤ r.page ∧ r.page + r.count ≤ 2 + 2) ∧
     ∃ r, u.core.far.regions.getD 1 none = some r ∧ ¬ r.strand = u.cur) := by
  refine ⟨by decide, by decide, by decide, by decide, ⟨_, rfl, by decide⟩, ⟨_, rfl, by decide⟩⟩
theorem witness_EngineCommands_behind : let put := commanded { aCmd .fput 64 .none with seq := 3 } (commanded (aCmd .fget 64 .none) base)
    ((put.core.cmds.find? fun j => j.seq = 3) = some { aCmd .fput 64 .none with seq := 3 }) ∧
    (∃ j ∈ put.core.cmds, j.strand = 0 ∧ j.seq < 3 ∧ j.kind = .fget ∧ j.left ≠ 0 ∧ 0x30040 < j.dst + j.left ∧ j.dst < 0x30040 + 64) ∧
    ((badWord 0x800 put).core.well.badIn (0x800 + 8 * 0) 8 = true ∧ (badWord 0x838 put).core.well.badIn (0x800 + 8 * 6) 8 = false) := by decide

/-- A message of a kind with a format and payload, class 1, channel 5. -/
def aMsg (kind fmt : Nat) (pay : List Word) : Msg :=
  { ch := 5, hdr := BitVec.ofNat 64 (kind * 2 ^ 60 + 2 ^ 58 + pay.length * 2 ^ 48 + fmt * 2 ^ 44 + 3 * 2 ^ 26), pay := pay, bad := false }
/-- It waits at the local port. -/
def arrived (m : Msg) (s : State) : State := core (fun c => { c with router := { c.router with portq := [m] } }) s
theorem witness_DeliveryEvents : let w := arrived (aMsg 0 2 [7, 8]) (handled base)
    let big := arrived (aMsg 0 2 (List.replicate 8 7)) (bound 2 base)
    let l := arrived (aMsg 2 9 (List.replicate 9 0)) (bound 9 base)
    let wide := withChan 5 (fun h => { h with bind := BitVec.ofNat 64 (0x400 * 2 ^ 48 + 11 * 2 ^ 32 + 9), free := 11 })
    let sp : Spill := { ch := 5, item := .marker 3, words := [] }
    let spilt := core (fun c => { c with spill := [sp] }) (bound 2 base)
    base.core.atPort 1 = none ∧ w.core.atPort 1 = some (aMsg 0 2 [7, 8]) ∧
    (let m := aMsg 0 2 [7, 8]
     natBits m.hdr.toNat 60 4 ≤ 1 ∧ m.ringWords ≤ (w.core.chan 5).rlen ∧ w.core.memWf = true ∧ w.core.spill = [] ∧
      (m.pay.flatMap (decodeBeat 2 (w.core.shiftOf (w.core.chan 5)))).length + 1 ≤ (w.core.chan 5).room ∧
      (w.core.chan 5).rbase + (w.core.chan 5).rlen ≤ 49152 ∧ (w.core.chan 5).hv = true ∧ (w.core.chan 5).hstr = 0) ∧
    ((big.core.chan 5).rlen < (aMsg 0 2 (List.replicate 8 7)).ringWords ∧ big.core.atPort 1 = some (aMsg 0 2 (List.replicate 8 7))) ∧
    (let t := withChan 5 (fun h => { h with free := 3, items := [.entry { anEntry with words := 5 }] }) w
     (aMsg 0 2 [7, 8]).ringWords ≤ (t.core.chan 5).rlen ∧ (t.core.chan 5).room = 2 ∧
      ((aMsg 0 2 [7, 8]).pay.flatMap (decodeBeat 2 (t.core.shiftOf (t.core.chan 5)))).length = 2 ∧ t.core.stopped = false ∧
      t.core.atPort 1 = some (aMsg 0 2 [7, 8])) ∧
    (l.core.atPort 1 = some (aMsg 2 9 (List.replicate 9 0)) ∧ storedFmt ((aMsg 2 9 (List.replicate 9 0)).hdr.extractLsb' 44 4) = some .bk8 ∧
      (l.core.chan 5).rlen < 11) ∧
    ((wide l).core.atPort 1 = some (aMsg 2 9 (List.replicate 9 0)) ∧ Bfmt.bk8.n + 3 = ((wide l).core.chan 5).rlen ∧
      ((wide l).core.chan 5).room = 11 ∧ ((wide l).core.chan 5).items = [] ∧ (wide l).core.spill = [] ∧ ((wide l).core.chan 5).hv = false) ∧
    (let t := arrived (aMsg 3 0 []) (bound 2 base)
     t.core.atPort 1 = some (aMsg 3 0 []) ∧ ((aMsg 3 0 []).hdr.extractLsb' 26 5 : BitVec 5).toNat ≤ 0x10 ∧ (t.core.chan 5).rlen ≠ 0 ∧
      (t.core.chan 5).items = [] ∧ t.core.spill = [] ∧ t.core.marks < 64) ∧
    (let t := arrived (aMsg 3 0 []) base
     t.core.atPort 1 = some (aMsg 3 0 []) ∧ (t.core.chan 5).rlen = 0) ∧
    (spilt.core.nextSpill = some sp ∧ spilt.core.stopped = false) ∧ base.core.nextSpill = none := by decide

/-- A message that heads the west input, under a route entry for channel 5. -/
def routed (e : Nat) (m : Msg) (s : State) : State :=
  core (fun c => { c with router := { c.router with inq := [(.w, m)], route := c.router.route.set 5 (BitVec.ofNat 64 e) } }) s
/-- The byte of an entry for one input: outputs and mode. -/
def via (p : Port) (mask mode : Nat) : Nat := (mask + mode * 2 ^ 5) * 2 ^ (8 * portNo p)
theorem witness_RouterEvents : let m := aMsg 0 2 [7]
    let e (s : State) := s.core.route 5
    let p := portNo .w
    let fwd := routed (via .w 1 0) m base
    base.core.router.headAt .w 5 = none ∧ fwd.core.router.headAt .w 5 = some m ∧
    (8 ≤ natBits (aMsg 8 2 []).hdr.toNat 60 4 ∧ natBits ({ m with pay := [] } : Msg).hdr.toNat 48 10 ≠ 0 ∧ natBits (m.hdr).toNat 48 10 = m.pay.length) ∧
    natBits (e (routed 0 m base)).toNat (8 * p) 5 = 0 ∧ (e (routed (via .w 1 0 + 2 ^ 50) m base)).getLsbD 50 = true ∧
    (natBits (e fwd).toNat (8 * p) 5 = 2 ^ portNo .n ∧ (e fwd).getLsbD 50 = false ∧ natBits (e fwd).toNat (8 * p + 5) 2 = 0) ∧
    (e (routed (via .w 1 0 + 2 ^ (40 + portNo .w)) (aMsg 3 0 []) base)).getLsbD (40 + p) = true ∧ (e fwd).getLsbD (40 + p) = false ∧
    natBits (e (routed (via .w 1 3) m base)).toNat (8 * p + 5) 2 = 3 ∧
    (base.wafer.neighbour base.core.ident.site .s = some ⟨1, 0⟩ ∧ base.wafer.neighbour base.core.ident.site .n = none) ∧
    393208 < 393216 ∧ 8 * 49151 < 393216 ∧ 393216 ≤ 8 * 49152 := by decide

/-- Messages that head the north and west inputs of channel 5, under an entry. -/
def both (e : Nat) (n w : Msg) (s : State) : State :=
  core (fun c => { c with router := { c.router with inq := [(.w, w), (.n, n)], route := c.router.route.set 5 (BitVec.ofNat 64 e) } }) s
/-- North and west are joined, and each goes to the core alone in a mode. -/
def joined (mode : Nat) : Nat := via .n 16 mode + via .w 16 mode + 2 ^ 40 + 2 ^ 43
/-- A line with three elements of block 0 that are not 0. -/
def aLine (x : Word) : Msg := aMsg 2 9 (0x0000820000008300 :: x :: List.replicate 7 0)
theorem witness_GroupEvents : let hd (p : Port) : Msg := aLine (if p = .n then 0x7F7F01 else 0x7F8002)
    let s := both (joined 1) (hd .n) (hd .w) base
    let e := s.core.route 5
    let renorm := aMsg 4 9 [1, 0, 0]
    let y : Combined := { ch := 5, out := Port.loc, mode := 1, line := 3, fmt := .bk8, members := [(Port.n, 0, [0, 0, 0, 0]), (Port.w, 1, [0, 0, 0, 0])], poison := List.replicate 4 false, bad := true }
    let known := core (fun c => { c with router := { c.router with combined := [y] } }) (both (joined 1) renorm renorm base)
    let marks := both (joined 1) (aMsg 3 0 []) (aMsg 3 0 []) base
    let three := core (fun c => { c with router := { c.router with inq := (.e, aMsg 0 2 [7]) :: c.router.inq } })
      (both (via .n 16 3 + via .e 16 3 + via .w 16 3 + 2 ^ 40 + 2 ^ 41 + 2 ^ 43) (aMsg 0 2 [7]) (aMsg 0 2 [7]) base)
    let max := both (joined 2) (hd .n) (hd .w) base
    e.getLsbD 50 = false ∧ groupOf e .loc 1 = [.n, .w] ∧ groupOf e .s 1 = [] ∧ groupOf (base.core.route 5) .loc 1 = [] ∧
    (groupOf (max.core.route 5) .loc 2 = [.n, .w] ∧ max.core.groupHeads 5 (groupOf (max.core.route 5) .loc 1) = none) ∧
    s.mayLeave (s.core.router.mover [.n, .w] 5 (1#5 <<< portNo .loc) 1) = true ∧
    (∀ p ∈ groupOf e .loc 1, s.core.router.headAt p 5 = some (hd p) ∧ natBits (hd p).hdr.toNat 60 4 = 2 ∧ (hd p).bad = false ∧
      blockFmt ((hd p).hdr.extractLsb' 44 4) = some .bk8 ∧ natBits (hd p).hdr.toNat 48 10 = 9 ∧ (hd p).hdr.getLsbD 43 = false) ∧
    ((combineLines .bk8 false (groupOf e .loc 1 |>.map fun p => lineIn .bk8 (hd p))).renorm.isSome = true ∧
      (combineLines .bk8 false [lineIn .bk8 (hd .n), lineIn .bk8 (aLine 0)]).renorm = none) ∧
    (∀ x ∈ [lineIn .bk8 (hd .n), lineIn .bk8 (hd .w)], ∀ j < 4, ((blksOf .bk8 x.hdr x.pay).getD j Blk.zero).isPoison = false) ∧
    (∃ j < 4, ((blksOf .bk8 (lineIn .bk8 { aLine 0 with pay := poisonLine .bk8 false }).hdr (poisonLine .bk8 false |>.drop 1)).getD j
      Blk.zero).isPoison = true) ∧
    (known.core.router.headAt .w 5 = some renorm ∧ inJoin (known.core.route 5) .w = true ∧ modeOf (known.core.route 5) (portNo .w) = 1 ∧
      natBits renorm.hdr.toNat 60 4 = 4 ∧ known.core.router.lineFrom 5 .w (natBits renorm.hdr.toNat 26 1) = some (y, [0, 0, 0, 0])) ∧
    (known.core.router.combined = y :: [] ∧ (y.members.find? fun z => z.1 = .w) = some (.w, 1, [0, 0, 0, 0]) ∧
      known.core.router.lineFrom 5 .n (natBits renorm.hdr.toNat 26 1) = none) ∧
    (both (joined 1) renorm renorm base).core.router.combined = [] ∧
    ((∀ p ∈ allPorts.filter (inJoin (marks.core.route 5)), marks.core.router.headAt p 5 = some (aMsg 3 0 []) ∧
        modeOf (marks.core.route 5) (portNo p) ≠ 3 ∧ (marks.core.router.vote 5).owedBy p = []) ∧
      allPorts.filter (inJoin (marks.core.route 5)) = [.n, .w] ∧ nextv (marks.core.route 5) = false ∧
      ((aMsg 3 0 []).hdr.extractLsb' 26 5 : BitVec 5) ≠ 0x11) ∧
    (∃ p ∈ allPorts.filter (inJoin e), modeOf e (portNo p) ≠ 3 ∧ s.core.router.markAt p 5 = none) ∧
    (voteMembers (three.core.route 5) = [.n, .e, .w] ∧ (∀ p ∈ voteMembers (three.core.route 5), three.core.router.headAt p 5 = some (aMsg 0 2 [7])) ∧
      three.core.router.votes = []) ∧ (voteMembers e).length ≠ 3 ∧
    natBits ((0xFFFE000000000000 : Word)).toNat 48 16 < 0xFFFF := by
  intro hd s e renorm y known marks three; and_intros <;> decide
/-- Three inputs that vote and are joined, with their heads. -/
def voting (xs : List (Port × Msg)) : State := core (fun c => { c with router := { c.router with
  inq := xs, route := c.router.route.set 5 (BitVec.ofNat 64 (via .n 16 3 + via .e 16 3 + via .w 16 3 + 2 ^ 40 + 2 ^ 41 + 2 ^ 43)) } }) base
theorem witness_GroupEvents_votes : let m := aMsg 0 2 [7]
    let mk (code : Nat) : Msg := { aMsg 3 0 [] with hdr := (aMsg 3 0 []).hdr ||| BitVec.ofNat 64 (code * 2 ^ 26) }
    let late := voting [(.n, m), (.e, m)]
    let owing := core (fun c => { c with router := { c.router with votes := [⟨5, [], [(.w, (aMsg 0 2 [8]).wire.map some)], []⟩] } }) (voting [(.w, m)])
    let split := voting [(.n, mk 0), (.e, mk 0), (.w, mk 4)]
    let two := core (fun c => { c with router := { c.router with
      route := c.router.route.set 5 (BitVec.ofNat 64 (via .n 16 3 + via .w 16 3 + 2 ^ 40 + 2 ^ 43)) } }) (voting [(.n, m), (.w, m)])
    voteMembers (late.core.route 5) = [.n, .e, .w] ∧ late.core.router.headAt .w 5 = none ∧ m.beats ≤ 64 ∧
    (late.mayLeave (late.core.router.mover [.n, .e, .w] 5 (omask (late.core.route 5) (portNo .n)) (m.hdr.extractLsb' 58 2)) = true ∧
      late.core.router.votes = [] ∧ m.wire ≠ (aMsg 0 2 [8]).wire) ∧
    ((owing.core.router.vote 5).owedBy .w = (aMsg 0 2 [8]).wire.map some ∧ owing.core.router.inq = [(.w, m)] ∧ m.beats = (aMsg 0 2 [8]).wire.length ∧
      (aMsg 0 2 [8]).wire.map Beat.isMark = [false, false]) ∧
    voteMembers (two.core.route 5) = [.n, .w] ∧
    (allPorts.filter (inJoin (split.core.route 5)) = [.n, .e, .w] ∧ split.core.router.headAt .w 5 = some (mk 4) ∧
      ((mk 4).hdr.extractLsb' 26 5 : BitVec 5) ≠ (mk 0).hdr.extractLsb' 26 5 ∧ natBits (mk 4).hdr.toNat 26 17 ≤ 0x12 ∧
      ([Port.n, .e, .w].find? fun p => p ≠ .w) = some .n) := by
  intro m mk late owing split two; and_intros <;> decide
theorem witness_RouterEvents_turns : let m := aMsg 0 2 [7]
    let low : Msg := { m with ch := 6, hdr := 0x0001000000000000 }
    let s := core (fun c => { c with router := { c.router with
      inq := [(.w, m), (.s, low)], since := [(.w, 5, 0)], last := [(.n, .e)]
      route := (c.router.route.set 5 (BitVec.ofNat 64 (via .w 1 0))).set 6 (BitVec.ofNat 64 (via .s 1 0)) } }) base
    let full := core (fun c => { c with router := { c.router with portq := [{ m with pay := List.replicate 5 0 }] } }) base
    (s.clearAll 1 1 = true ∧ full.clearAll 16 1 = false ∧ full.clear ⟨0, 0⟩ .loc 1 = false) ∧
    (s.movers = [⟨.w, 5, 1, 1, 1⟩, ⟨.s, 6, 1, 0, 0⟩] ∧ s.core.router.before ⟨.w, 5, 1, 1, 1⟩ ⟨.s, 6, 1, 0, 0⟩ = true ∧
      s.core.router.before ⟨.s, 6, 1, 0, 0⟩ ⟨.w, 5, 1, 1, 1⟩ = false ∧ shared 1#5 1#5 = some .n ∧ shared 1#5 2#5 = none) ∧
    (s.core.router.heads .w 5 = some 0 ∧ (Port.w, (5 : Chan)) ∉ s.core.router.promoted ∧ (s.core.router.last.find? fun x => x.1 = .n) = some (.n, .e)) ∧
    (let b : State := core (fun c => { c with well := { c.well with banks := [⟨.port0, 7, 0, false⟩] } }) base
     (∃ x ∈ b.core.well.banks, x.req = .port0 ∧ x.bank = 7) ∧ ∀ x ∈ base.core.well.banks, x.req = .port0 → x.bank ≠ 7) := by
  intro m low s full; and_intros <;> decide
theorem witness_DeliveryEvents_more : let l := arrived (aMsg 2 9 (List.replicate 9 0)) (bound 9 base)
    let r := arrived (aMsg 4 9 [1, 0, 0]) (bound 9 base)
    let full := core (fun c => { c with marked := List.replicate 64 5 }) (withChan 5 (fun h => { h with items := List.replicate 64 (.marker 3) }) (arrived (aMsg 3 0 []) (bound 2 base)))
    let member : Msg := { aMsg 3 0 [] with hdr := (aMsg 3 0 []).hdr ||| (0x10 <<< 26) }
    (r.core.atPort 1 = some (aMsg 4 9 [1, 0, 0]) ∧ (r.core.chan 5).rlen ≠ 0 ∧ ∀ i ∈ (r.core.chan 5).items, i.isHeld = false) ∧
    (64 ≤ full.core.marks ∧ full.core.atPort 1 = some (aMsg 3 0 [])) ∧ 0x10 < (member.hdr.extractLsb' 26 5 : BitVec 5).toNat ∧
    l.core.atPort 2 = none ∧ (handled base).core.issue.allowed.getLsbD ((handled base).core.chan 5).hstr.toNat = true := by
  intro l r full member; and_intros <;> decide

/-! ### Pumps -/

/-- Pump 7 with lane 2 carrying a kind of slot for field 3 of context 0 in every slot. -/
def pumped (kind : SlotKind) (f : Pump → Pump) (s : State) : State :=
  let p := Pump.blank 7
  { s with pumps := [f { p with table := p.table.set 2 (Vector.replicate 64 { kind := kind, asid := 0, fnum := 3 }) }] }
def aReq (kind : FarKind) : FarReq :=
  { site := ⟨0, 0⟩, name := 0, seq := 4, strand := 0, asid := 0, fnum := 3, kind := kind, va := 0x30008, pa := 0x70008, nb := 8
    data := List.replicate 8 9, cmp := List.replicate 8 0, ident := none }
/-- The identifier that the request gets in slot 1 of lane 2. -/
def anIdent : ReqId := ⟨base.waferNo, 7, ⟨2, 1, 0⟩⟩
def aPlaced (kind : FarKind) (progress : Progress) : Placed :=
  { req := { aReq kind with ident := if progress = .waiting then none else some anIdent }, place := ⟨2, 1, 0⟩, progress := progress }
def placedAt (kind : FarKind) (progress : Progress) (s : State) : State :=
  { pumped .idle (fun p => { p with placed := [aPlaced kind progress] }) s with slot := 2 }
/-- A domain. -/
def aDomain : DomainCfg :=
  { domain := 0, wafer := 1, pumpPorts := [], ranges := [⟨0, 0x70000, 0, none⟩, ⟨0x70000, 65536, 1, some 300⟩], nonce := [] }
theorem witness_PumpEvents : let t := Vector.replicate 8 (Vector.replicate 64 Slot.idle)
    let t1 := t.set 0 ((Vector.replicate 64 Slot.idle).set 5 { kind := .maint, asid := 0, fnum := 0 })
    let next (f : Nat) (t : Vector (Vector Slot 64) 8) := pumped .idle (fun p => { p with next := [(f, t)] }) base
    let queued := pumped .atomic (fun p => { p with queue := [aReq (.famo 0)] }) base
    let third (s : State) : State := { s with sup := { s.sup with domain := some aDomain } }
    let retrain (st : LaneState) := pumped .idle (fun p => { p with lanes := p.lanes.set 2 st }) base
    let p (s : State) := s.pump 7
    (p base).next = [] ∧ (p (next 1 t)).next = (1, t) :: [] ∧ (p (next 1 t)).next = [] ++ [(1, t)] ∧ (next 1 t).canReach (Max.max 0 (64 * 1)) = true ∧
    ({ next 1 t with pumps := { (p (next 1 t)) with no := 6, next := [(0, t)] } :: (next 1 t).pumps } : State).canReach 64 = false ∧
    (base.tableAccepted (p base) t = false ∧ base.tableAccepted (p base) t1 = true ∧ ∀ x ∈ (p base).placed, x.progress ≠ .waiting) ∧
    (let s := pumped .idle (fun p => { p with placed := [{ aPlaced .fst .waiting with req := { aReq .fst with fnum := 3 }, place := ⟨2, 70, 0⟩ }] }) base
     64 * (p s).nextFrame s.slot ≤ 70 ∧ ((t1[(2 : BitVec 3).toNat]).toList.getD (70 % 64) Slot.idle).takes { aReq .fst with fnum := 3 } = false ∧
      s.tableAccepted (p s) t1 = true ∧ (∀ y ∈ (p s).next, s.slot < 64 * y.1)) ∧
    ((p base).queue = [] ∧ (p queued).queue = [aReq (.famo 0)] ∧ (p queued).stalled = [] ∧ (∀ b ∈ (p queued).replay, b.unused = []) ∧
      queued.thirdParty 0x70008 = false ∧ (p queued).slotFor queued.slot laneNos (aReq (.famo 0)) = some ⟨2, 1, 0⟩) ∧
    ((third queued).thirdParty 0x70008 = true ∧ (p (third queued)).queue = [aReq (.famo 0)]) ∧
    (p (pumped .idle (fun p => { p with queue := [aReq .fst] }) base)).slotFor 0 laneNos (aReq .fst) = none ∧
    ((p (retrain .dead)).lanes[(2 : BitVec 3).toNat] ≠ .live ∧ (p base).lanes[(2 : BitVec 3).toNat] = .live ∧ (p base).begun[(2 : BitVec 3).toNat] ≤ 1) ∧
    (∀ x ∈ (p base).placed, x.place.lane ≠ 2) ∧
    ((p (retrain .retraining)).lanes[(2 : BitVec 3).toNat] = .retraining ∧ (p (retrain .retraining)).stalled = []) := by
  intro t t1 next queued third retrain p; and_intros <;> decide
theorem witness_PumpEvents_performs : let ok := anAnswer .fld .ok
    let p (s : State) := s.pump 7
    let done := placedAt .fld (.performed ok) base
    (p base).nextPerform 0 = none ∧
    (∀ kind ∈ [FarKind.fld, .fst, .famo 0, .fget, .fput], (p (placedAt kind .sent base)).nextPerform 2 = some (.request (aPlaced kind .sent)) ∧
      (aPlaced kind .sent).req.ident = some anIdent ∧ (placedAt kind .sent base).cis.outcome (some anIdent) = none) ∧
    (let s : State := { placedAt .fst .sent base with cis := { base.cis with outcomes := [⟨anIdent, 3, ok⟩], bad := [0x70008 / 64] } }
     (p s).nextPerform 2 = some (.request (aPlaced .fst .sent)) ∧ s.cis.outcome (some anIdent) = some ok ∧ 0x70008 / 64 ∈ s.cis.bad) ∧
    0x70008 / 64 ∉ base.cis.bad ∧
    (let s := pumped .readreq (fun p => { p with placed := [aPlaced .fld (.performed ok)] }) base
     (p s).claimOf 2 49 = some 1 ∧ (p s).placed = [aPlaced .fld (.performed ok)] ∧ s.canReach 49 = true ∧ s.canReach 50 = false) ∧
    (p done).claimOf 2 49 = none ∧ (p done).prev = none := by
  intro ok p done; and_intros <;> decide
theorem witness_PumpEvents_lanes : let p (s : State) := s.pump 7
    let sent := placedAt .fld .sent base
    let moved := pumped .readreq (fun p => { p with
      placed := [aPlaced .fld .waiting], table := p.table.set 3 (Vector.replicate 64 { kind := .readreq, asid := 0, fnum := 3 }) }) base
    let stalled (kind : SlotKind) := pumped kind (fun p => { p with lanes := p.lanes.set 2 .retraining, stalled := [⟨aReq .fld, 2⟩] }) base
    let on (s : State) : Pump := { p s with lanes := (p s).lanes.set 2 .live, stalled := [] }
    ((p sent).placed = [aPlaced .fld .sent] ∧ (p sent).lanes[(2 : BitVec 3).toNat] = .live ∧ (aPlaced .fld .sent).req.ident ≠ none) ∧
    ((p moved).stalledOn (0x70008 / 64) = false ∧ ({ p moved with lanes := (p moved).lanes.set 2 .retraining, placed := [] } : Pump).slotFor 0
      (laneNos.filter fun l => l ≠ 2) (aReq .fld) = some ⟨3, 1, 0⟩) ∧
    (on (stalled .readreq)).slotFor 0 [2] (aReq .fld) = some ⟨2, 1, 0⟩ ∧ (on (stalled .idle)).slotFor 0 [2] (aReq .fld) = none ∧
    (base.coreAt ⟨0, 0⟩).csr.faultMask.getLsbD 11 = false := by
  intro p sent moved stalled on; and_intros <;> decide
theorem witness_PumpEvents_replay : let r : FarReq := { aReq .fld with fnum := 3, data := [], cmp := [] }
    let z : Replay := ⟨(base.coreAt ⟨0, 0⟩).position, 0, 0x30008, .fld, 8, [], .ok, List.replicate 8 1⟩
    let s (zs : List Replay) := pumped .idle (fun p => { p with queue := [r], replay := [⟨3, [], false, [((base.coreAt ⟨0, 0⟩).position, zs)]⟩] }) (far (fun x => { x with outs := [anOut .fld] }) base)
    (s [z]).posOf r = (base.coreAt ⟨0, 0⟩).position ∧ (base.posOf r = 336 * 464 ∧ r.site = ⟨0, 0⟩) ∧
    (((s [z]).pump 7).replayMatch (base.coreAt ⟨0, 0⟩).position r = some z) ∧
    (((s [{ z with nb := 4 }]).pump 7).replayMatch (base.coreAt ⟨0, 0⟩).position r = none ∧ r.kind.replayed = true ∧
      ((s [{ z with nb := 4 }]).pump 7).replaying 3 (base.coreAt ⟨0, 0⟩).position = some [{ z with nb := 4 }] ∧ (s []).thirdParty r.pa = false ∧
      ((s []).pump 7).slotFor 0 laneNos r = none) := by
  intro r z s; and_intros <;> decide
/-- Context 3 with one level 0 entry at 0x10000. -/
def aContext : Context := { asid := 3, l0len := 1, root := 0x10000, faultq := 0, fqlen := 16 }
def withContext (s : State) : State :=
  { s with sup := { s.sup with contexts := [aContext], faultqs := [{ asid := 3, ring := [], held := [] }] } }
/-- Bytes in the cistern. -/
def withFar (a : Nat) (xs : List Byte) (s : State) : State := { s with cis := { s.cis with bytes := Mem.write s.cis.bytes a xs } }
def aWalk (va : Nat) : WalkReq := { site := ⟨0, 0⟩, seq := 4, asid := 3, fnum := 0, name := 0, va := va, who := .strand 0 0 }
theorem witness_PageWalkEvents : let w (level : Nat) : WalkRun := { req := aWalk 0x30008, level := level, addr := 0x10000, sent := some ⟨2, 0, 0⟩, got := some (.entry 0x70003) }
    let asked (va : Nat) := withContext (pumped .idle (fun p => { p with walkq := [aWalk va] }) base)
    let e : TransEntry := { asid := 3, page := 3, big := false, pte := 0x70003 }
    let read (level pte : Nat) : State := { withFar 0x10000 (leBytes 8 pte) (pumped .idle (fun p => { p with walks := [w level] }) base) with slot := 48 }
    let p (s : State) := s.pump 7
    let pte (s : State) (b n : Nat) : Nat := natBits (BitVec.ofNat 64 (ofLeBytes (Mem.read s.cis.bytes 0x10000 8)) : Word).toNat b n
    let found (s : State) := s.sup.contexts.find? fun c => c.asid = 3
    let held := { base with sup := { (withContext base).sup with faultqs := [{ asid := 3, ring := [], held := [[1, 2, 3, 4]] }] } }
    (p base).walkq = [] ∧ ((p (asked 0x30008)).walkq = [aWalk 0x30008] ∧ (p (asked 0x30008)).cached 3 0x30008 = none) ∧
    (p (pumped .idle (fun p => { p with cache := [e] }) base)).cached 3 0x30008 = some e ∧
    (found (asked 0x30008) = some aContext ∧ natBits 0x30008 40 12 < aContext.l0len ∧ aContext.l0len ≤ natBits (2 ^ 40) 40 12) ∧
    (p base).walks = [] ∧ (∀ level ∈ [0, 1, 2], (p (read level 0x70003)).nextReturn = some (w level, ⟨2, 0, 0⟩, .entry 0x70003)) ∧
    (let s := { pumped .maint (fun p => { p with walks := [{ w 2 with got := none }] }) base with slot := 1 }
     (p s).nextPerform s.slot = some (.walk { w 2 with got := none }) ∧ s.canReach 48 = true ∧ s.canReach 49 = false) ∧
    0x10000 / 64 ∈ ({ read 2 0 with cis := { (read 2 0).cis with bad := [0x10000 / 64] } } : State).cis.bad ∧ 0x10000 / 64 ∉ (read 2 0).cis.bad ∧
    pte (read 2 0) 0 1 = 0 ∧ (pte (read 2 0x70003) 0 1 = 1 ∧ pte (read 2 0x70003) 52 12 = 0 ∧ pte (read 2 0x70003) 5 11 = 0) ∧
    (pte (read 1 0x70013) 4 1 = 1 ∧ pte (read 1 0x70013) 16 12 ≠ 0) ∧
    (pte (read 1 0x10000013) 4 1 = 1 ∧ pte (read 1 0x10000013) 16 12 = 0 ∧ pte (read 1 0x10000013) 5 11 = 0 ∧ pte (read 1 0x10000013) 52 12 = 0) ∧
    (pte (read 1 0x70001) 0 1 = 1 ∧ pte (read 1 0x70001) 1 4 = 0) ∧ pte (read 2 0x70009) 3 1 = 1 ∧
    ((far (fun x => { x with walks := [{ seq := 4, va := 0x30008, who := .strand 0 0, discard := false }] }) base).coreAt ⟨0, 0⟩).far.walks.find?
      (fun w => w.seq = 4) = some { seq := 4, va := 0x30008, who := .strand 0 0, discard := false } ∧
    (base.sup.faultqs.find? fun q => q.asid = 3) = none ∧ found held = some aContext ∧
    ((withContext base).sup.faultqs.find? fun q => q.asid = 3) = some { asid := 3, ring := [], held := [] } ∧
    (held.sup.faultqs.find? fun q => q.asid = 3) = some { asid := 3, ring := [], held := [[1, 2, 3, 4]] } := by
  intro w asked e read p pte found held; and_intros <;> decide

/-! ### Control port, fields, supervisors -/

theorem witness_ControlPortCommands : let quiet := core (fun c => { c with stopped := true }) base
    let stopped := core (fun c => { c with router := { c.router with qIn := [.n, .e, .s, .w] } }) quiet
    let parkedAt := core (fun c => c.setStrand 7 fun st => { st with state := .live .park }) base
    let shot : Shoot := { asid := 0, page := 3, count := 1, invalidated := 1, locked := false, waits := [] }
    let waits := far (fun x => { x with shoots := [{ shot with waits := [4] }] }) (answered .fld .ok base)
    let started := core (fun c => { c with issue := { c.issue with plain := 0x81 } }) base
    ((0x005 : BitVec 12).toNat ≤ 0x011 ∧ 0x020 ≤ (0x020 : BitVec 12).toNat ∧ (0x041 : BitVec 12).toNat ≤ 0x041 ∧ (1 : BitVec 12).toNat ≤ 1) ∧
    (393208 % 8 = 0 ∧ 393208 + 8 * 1 ≤ 393216 ∧ ¬ 393208 + 8 * 2 ≤ 393216 ∧ ¬ 4 % 8 = 0 ∧ 1023 ≤ 1023 ∧ ¬ 1024 ≤ 1023) ∧
    (started.core.issue.plain.getLsbD (7 : StrandNo).toNat = true ∧ (started.core.strand 7).state = .absent ∧ started.core.issue.plain.getLsbD 1 = false) ∧
    (parkedAt.core.strand 7).state ≠ .absent ∧ ([1, 2] : List (BitVec 8)).Nodup ∧ ¬ ([1, 1] : List (BitVec 8)).Nodup ∧ ¬ 1 ≤ ([] : List (BitVec 8)).length ∧
    13 < (14 : BitVec 8).toNat ∧ (∃ o ∈ waits.core.far.outs, o.seq ∈ ({ shot with waits := [4] } : Shoot).waits) ∧
    (let s := far (fun x => { x with shoots := [shot] }) base
     s.core.far.shoots.find? s.core.shootReady = some shot) ∧
    (∃ e ∈ (holdsPage 3 true true base).core.far.ftb, e.asid = 0 ∧ 3 < e.page + 1 ∧ e.page < 3 + 1 ∧ e.lock = true) ∧
    (base.farPending = false ∧ (answered .fld .ok base).farPending = true) ∧ (3 : Chan).toNat < 4 ∧
    (base.mayRoute ⟨0, 0⟩ 5 0 = true) ∧ 1023 + 7169 ≤ 8192 ∧ ¬ 1023 + 7170 ≤ 8192 ∧ quiet.core.stopped = true ∧ base.core.stopped = false ∧ (base.core.strand 0).state = .live .run ∧
    base.core.isQuiet = false ∧ (stopped.core.isQuiet = true ∧ stopped.core.quiet = false ∧ stopped.core.spilled = []) ∧
    ((0x8503 : Word).getLsbD 15 = true ∧ (0x8503 : Word).extractLsb' 8 5 = (5 : Chan)) ∧ base.core.issue.allowed.getLsbD 7 = true := by
  intro quiet stopped parkedAt shot waits started; and_intros <;> decide

/-- Field 2 of context 3: one core, at the first site of the first rectangle. -/
def aField : Field :=
  { fnum := 2, asid := 3, launchId := 9, record := [], image := 0, rect := 0, row := 0, col := 0, rows := 1, cols := 1, prio := 1, options := 1
    save := 0, pumps := [7], slots := (0, 0, 0), imgm := [], home := 0, phase := .loaded, started := none, saves := [], replays := []
    resizes := [], copyAt := [], drains := none, doneAt := none, seamsOut := [], borders := 0, mhz := 1750, rtm := [] }
/-- One rectangle of 4 rows and 4 columns, and fields. -/
def withFields (fs : List Field) (s : State) : State :=
  { s with wafer := { s.wafer with rects := [⟨0, 3, [0, 1, 2, 3]⟩] }, sup := { s.sup with fields := fs } }
def entryAt (ch : Chan) (p q : Port) (c : Core) : Core := { c with router := { c.router with route := c.router.route.set ch.toNat (BitVec.ofNat 64 (via p (2 ^ portNo q) 0)) } }
/-- Three routers of a square of four lead ch5 round to the first, whose entry is still clear. -/
def threeOfFour (s : State) : State :=
  let at' (i j : Nat) : Core := { s.core with ident := { s.core.ident with site := ⟨i, j⟩ } }
  { s with others := [entryAt 5 .w .s (at' 0 1), entryAt 5 .n .w (at' 1 1), entryAt 5 .e .n (at' 1 0)] }
theorem witness_ControlPortCommands_free_of_cycles : let s := threeOfFour (withFields [] base)
    s.mayRoute ⟨0, 0⟩ 5 (BitVec.ofNat 64 (via .s (2 ^ portNo .e) 0)) = false ∧ s.mayRoute ⟨0, 0⟩ 5 (BitVec.ofNat 64 (via .s 16 0)) = true ∧
    s.mayRoute ⟨0, 0⟩ 3 (BitVec.ofNat 64 (via .s (2 ^ portNo .e) 0)) = true ∧ (5 : Chan).toNat ≥ 4 := by decide +kernel
/-- Thirty-two slots name strand 1, so that no share is left; and a core that has stopped with a message in its spill area. -/
theorem witness_ControlPortCommands_tables : let full := core (fun c => { c with issue := { c.issue with next := Vector.replicate 32 9 } }) base
    (full.maySet 0x068 1 = false ∧ full.maySet 0x068 0 = true ∧ base.maySet 0x061 0x09090909 = true) ∧
    (let s := core (fun c => { c with stopped := true, spill := [⟨5, .entry { hdr := 0x0401000000000000, off := 0, words := 1, read := 0 }, [7]⟩], router := { c.router with qIn := [.n, .e, .s, .w] } })
       (withFields [{ aField with phase := .stopping 0 }] base)
     s.core.isQuiet = true ∧ s.core.quiet = false ∧ s.core.spilled ≠ [] ∧ s.core.spillSent = false ∧ s.spillPlace ≠ none) := by decide +kernel
def supervised (f : Sup → Sup) (s : State) : State := { s with sup := f s.sup }
def withoutReady (s : State) : State := { s with boot := { s.boot with ready := false } }
/-- Context 3 with its first 256 MiB translated to address 0, and there an image of one core without a section (R67). -/
def withImage (s : State) : State :=
  withFar 0 (leBytes 8 0x00000001314C4349 ++ leBytes 8 0x10001 ++ leBytes 8 64 ++ leBytes 8 64)
    (withFar 0x10000 (leBytes 8 0x20001) (withFar 0x20000 (leBytes 8 0x13) (withContext s)))
/-- A launch record for it: LAUNCHID 9, 1 × 1, one pump without slots, PLACE as given (R268). -/
def aRecord (place : Nat) : List Word := [BitVec.ofNat 64 (1 + 3 * 2 ^ 16 + 9 * 2 ^ 32), 0, BitVec.ofNat 64 (0x10001 + place * 2 ^ 32), 0x100000000, 0, 0, 0, 0]
def theImage : Image :=
  { rows := 1, cols := 1, flags := 0, sections := []
    bytes := leBytes 8 0x00000001314C4349 ++ leBytes 8 0x10001 ++ leBytes 8 64 ++ leBytes 8 64 ++ List.replicate 32 0 }
/-- Strand 0 gone: the core is idle. -/
def idled (s : State) : State := core (fun c => { c with strands := Vector.replicate 8 Strand.blank }) s
theorem launch_accepted (s : State) (bs : List Byte) (im : Image) (h1 : launchFault bs = none)
    (h2 : (s.context (BitVec.ofNat 16 (fieldAt bs 2 2))).isNone = false)
    (h3 : s.readImage (BitVec.ofNat 16 (fieldAt bs 2 2)) (fieldAt bs 8 8) = some im) (h4 : im.rows = fieldAt bs 16 2) (h5 : im.cols = fieldAt bs 18 2)
    (h6 : pumpsOf bs im = some (1, 0, 0, 0)) (h7 : im.flags = 0) (h8 : im.behaves im.rows im.cols (0, 0, 0) = true) (h9 : im.sections = []) : s.launchRefused bs = none := by
  have routes : s.routesRefused bs im = false := by
    have none4 (k : Nat) : im.records k = [] := by simp [Image.records, h9]
    have t0 : im.tripled = [] := by simp [Image.tripled, none4]
    have c0 (x : Shape) : compileRoutes im x none = some [] := by simp only [compileRoutes, none4]; rfl
    simp [State.routesRefused, t0, c0]
  unfold State.launchRefused
  simp [routes, h1, h2, h3, ← h4, ← h5, h6, h7, h8]
def anAccepted : State := withImage (withFields [] base)
/-- Whether an image behaves is a free value (log entry 5): where this one does, its record is not rejected. -/
theorem witness_FieldEvents_accepted (place : Nat) (h : place = 0 ∨ place = 4)
    (hb : ∀ im, anAccepted.readImage 3 0 = some im → im.behaves im.rows im.cols (0, 0, 0) = true) :
    anAccepted.launchRefused (recordBytes (aRecord place)) = none := by
  have read : (anAccepted.readImage 3 0).map (fun im => (im.rows, im.cols, im.flags, im.sections)) = some (1, 1, 0, []) := by decide
  have known : (anAccepted.context 3).isNone = false := by decide
  have fields : ∀ p ∈ [0, 4], launchFault (recordBytes (aRecord p)) = none ∧
      (BitVec.ofNat 16 (fieldAt (recordBytes (aRecord p)) 2 2) : BitVec 16) = 3 ∧ fieldAt (recordBytes (aRecord p)) 8 8 = 0 ∧
      fieldAt (recordBytes (aRecord p)) 16 2 = 1 ∧ fieldAt (recordBytes (aRecord p)) 18 2 = 1 := by decide
  have pumps : ∀ p ∈ [0, 4], ∀ im : Image, im.sections = [] → pumpsOf (recordBytes (aRecord p)) im = some (1, 0, 0, 0) := by
    intro p hp ⟨_, _, _, _, _⟩ hi
    simp only at hi
    subst hi
    rcases hp with _ | ⟨_, _ | ⟨_, ⟨⟩⟩⟩ <;> rfl
  have m : place ∈ [0, 4] := by obtain rfl | rfl := h <;> decide
  obtain ⟨h1, h3, h4, h5, h6⟩ := fields place m
  have p := pumps place m
  generalize recordBytes (aRecord place) = bs at *
  generalize anAccepted = s at *
  obtain ⟨im, hi, r⟩ := Option.map_eq_some_iff.mp read
  simp only [Prod.mk.injEq] at r
  exact launch_accepted s bs im h1 (by rw [h3]; exact known) (by rw [h3, h4]; exact hi) (by rw [h5, r.1]) (by rw [h6, r.2.1]) (p im r.2.2.2) r.2.2.1 (hb im hi) r.2.2.2
theorem witness_FieldEvents : let one := withFields [aField] base
    let able := withImage (withFields [] base)
    let draining := idled (withFields [{ aField with drains := some [(0, 5, 0)] }] base)
    let joined' (s : State) : State := { s with sup := { s.sup with domain := some { domain := 0, wafer := 1, pumpPorts := [], ranges := [], nonce := [] } } }
    let stuck := withChan 5 (fun h => { h with bind := ring 2 }) (routed (via .w 16 0) (aMsg 0 2 []) draining)
    (∃ f ∈ one.sup.fields, ∃ t ∈ one.coreSites f, regionOf t = regionOf ⟨0, 0⟩) ∧ base.sup.fields = [] ∧ (withoutReady base).boot.ready = false ∧
    base.boot.ready = true ∧ base.launchRefused (recordBytes [0]) = some (0x10, 0) ∧
    fieldAt (recordBytes (aRecord 0)) 20 1 / 4 % 2 = 0 ∧ fieldAt (recordBytes (aRecord 4)) 20 1 / 4 % 2 = 1 ∧
    (let full := withImage (withFields [{ aField with rows := 4, cols := 4 }] base)
     (full.imageFor (recordBytes (aRecord 4))).bind (full.placeFor (recordBytes (aRecord 4))) = none ∧
       (able.imageFor (recordBytes (aRecord 4))).bind (able.placeFor (recordBytes (aRecord 4))) ≠ none ∧ able.sup.queued = []) ∧
    (fieldAt (recordBytes [2]) 0 2 ≠ 1 ∧ fieldAt (recordBytes [1]) 0 2 = 1 ∧ fieldAt (recordBytes [1]) 2 2 = 0) ∧
    (launchFault (recordBytes (aRecord 0)) = none ∧ base.context 3 = none) ∧ base.field 2 = none ∧ one.field 2 = some aField ∧
    (one.coreSites aField = [⟨0, 0⟩] ∧ (one.coreAt ⟨0, 0⟩).idle = false) ∧
    (((idled one).coreAt ⟨0, 0⟩).idle = true ∧ ((idled one).coreAt ⟨0, 0⟩).issue.plain = 0 ∧ aField.drains = none) ∧
    (draining.field 2 = some { aField with drains := some [(0, 5, 0)] } ∧
      ¬ 0 < ((draining.coreAt ⟨0, 0⟩).chan 5).items.count (.marker 0x10)) ∧
    (let t := withChan 5 (fun h => { h with items := [.marker 0x10] }) draining
     t.coreSites aField = [⟨0, 0⟩] ∧ 0 < ((t.coreAt ⟨0, 0⟩).chan 5).items.count (.marker 0x10)) ∧
    (stuck.sinks aField = [(0, 5, 0)] ∧ (joined' base).sup.domain ≠ none ∧ base.sup.domain = none) ∧
    (let q := supervised (fun u => { u with queued := [.record (aRecord 0)] }) able
     ∃ x ∈ q.sup.queued, fieldAt (recordBytes (aRecord 4)) 23 1 ≤ q.prioOf x) := by
  intro one able draining stuck; and_intros <;> decide

/-- A note of a consumed error of field 2, at supervisor 0. -/
def aNote : Posted := { dst := 0, fnum := 2, mail := .note 0x0D 2 }
theorem witness_StopEvents : let one := withFields [aField] base
    let phase (p : FieldPhase) (s : State) := withFields [{ aField with phase := p }] s
    let quiet (s : State) := core (fun c => { c with stopped := true, quiet := true }) s
    let outranked := supervised (fun u => { u with queued := [.record [1, 0, 0x0200000000000000]] }) one
    let entry (p q : Port) (s : State) := core (fun c => { c with router := { c.router with route := c.router.route.set 5 (BitVec.ofNat 64 (via p (2 ^ portNo q) 0)) } }) s
    let on (p : Port) (s : State) := core (fun c => { c with router := { c.router with qIn := [p] } }) s
    let two := withFields [{ aField with cols := 2 }] base
    let told (f : Field) := supervised (fun u => { u with mail := [aNote] }) (withFields [f] base)
    let h : HostTarget := { wafer := 0, fnum := 3, core := 0, strand := 0 }
    base.field 2 = none ∧ one.field 2 = some aField ∧ aField.options.getLsbD 0 = true ∧
    (∃ q ∈ outranked.sup.queued, aField.prio < outranked.prioOf q) ∧ outranked.field 2 = some aField ∧ one.sup.queued = [] ∧
    ((∃ p, (entry .n .e (on .n two)).core.feeds p .e = true) ∧
      (∀ p ∈ allPorts, (entry .n .e (on .n two)).core.feeds p .e = true → (entry .n .e (on .n two)).core.arrivedOn p = true) ∧
      Port.e ∉ (on .n two).core.router.qOut ∧ two.wafer.neighbour ⟨0, 0⟩ .e = some ⟨0, 1⟩ ∧ two.quiesces ⟨0, 0⟩ ⟨0, 1⟩ = true) ∧
    (one.wafer.neighbour ⟨0, 0⟩ .s = some ⟨1, 0⟩ ∧ one.quiesces ⟨0, 0⟩ ⟨1, 0⟩ = false ∧
      (∀ p ∈ allPorts, (entry .n .s (on .n one)).core.feeds p .s = true → (entry .n .s (on .n one)).core.arrivedOn p = true)) ∧
    ((entry .n .loc (on .n one)).core.feeds .n .loc = true ∧
      ∀ p ∈ allPorts, (entry .n .loc (on .n one)).core.feeds p .loc = true → (entry .n .loc (on .n one)).core.arrivedOn p = true) ∧
    (∃ p ∈ allPorts, (entry .n .e one).core.feeds p .e = true ∧ (entry .n .e one).core.arrivedOn p = false) ∧
    (∀ p ∈ allPorts, base.core.feeds p .e = false) ∧
    (let s := phase (.stopping 0) base
     s.field 2 = some { aField with phase := .stopping 0 } ∧ (∃ x ∈ s.coreSites { aField with phase := .stopping 0 }, (s.coreAt x).quiet = false) ∧
      aField.resizes = [] ∧ (s.coreSites { aField with phase := .stopping 0 }).Nodup ∧ s.sup.held = [] ∧ h.fnum ≠ 2) ∧
    (∀ why ∈ [(0 : BitVec 2), 1, 2, 3], let s := quiet (phase (.stopping why) base)
      s.field 2 = some { aField with phase := .stopping why } ∧ ∀ x ∈ s.coreSites { aField with phase := .stopping why }, (s.coreAt x).quiet = true) ∧
    (phase .descheduled base).field 2 = some { aField with phase := .descheduled } ∧
    ((told aField).sup.mail.find? fun m => match m.mail with
      | .note x n => decide (n = 2) && (x == 0x0C#8 || x == 0x0D#8 || x == 0x0E#8 || x == 0x14#8)
      | _ => false) = some aNote ∧ (told aField).field 2 = some aField ∧
    (withFields [{ aField with row := 1, phase := .stopping 0 }] base).quiesces ⟨0, 0⟩ ⟨1, 0⟩ = true ∧
    (one.holder ⟨0, 0⟩ = some aField ∧ one.holder ⟨1, 0⟩ = none ∧ two.holder ⟨0, 1⟩ = some { aField with cols := 2 }) := by
  intro one phase quiet outranked entry on two told h
  refine ⟨?_, ?_, ?_, ?_, ?_, ?_, ⟨⟨.n, ?_⟩, ?_, ?_, ?_, ?_⟩, ?_⟩
  rotate_right; and_intros
  all_goals decide

theorem witness_ResizeAndPlacement : let asks (rows cols : Nat) : List Word :=
      [2, 0x300000002, BitVec.ofNat 64 (rows + cols * 2 ^ 16), 0x100000000, 0, 0, 0, 0]
    let f := { aField with rows := 2, cols := 2 }
    let r : ResizeRun := { rows := 1, cols := 2, launchId := 9, micros := 1, cut := false }
    let one := withFields [f] base
    let resizing := withFields [{ f with resizes := [r] }] base
    let busy := { resizing with others := [(mine (fun st => { st with state := .live .run })
      { base with core := { base.core with ident := { base.core.ident with site := ⟨1, 0⟩ } } }).core] }
    let gone := ({ f with resizes := [r] } : Field).stripOf r
    let able := supervised (fun u => { u with queued := [.record (aRecord 0)] }) (withImage (withFields [] base))
    let s1 := supervised (fun u => { u with queued := [] }) able
    let bs := recordBytes (aRecord 0)
    let waits := supervised (fun u => { u with queued := [.restore 2 1] }) (withFields [{ aField with phase := .descheduled }] base)
    (withoutReady base).boot.ready = false ∧ base.boot.ready = true ∧ resizeFault (recordBytes [0x10002]) false = some 2 ∧ fieldAt (recordBytes [0x10002]) 2 2 ≠ 0 ∧
    (fieldAt (recordBytes [2]) 0 2 = 2 ∧ fieldAt (recordBytes [2]) 2 2 = 0 ∧ fieldAt (recordBytes [2]) 4 4 = 0 ∧ fieldAt (recordBytes [2]) 16 2 = 0) ∧
    (resizeFault (recordBytes (asks 1 2)) true = none ∧ (one.sup.fields.find? fun f => (one.fieldIdOf f).toNat = fieldAt (recordBytes (asks 1 2)) 8 8) = some f) ∧
    base.sup.fields = [] ∧ (fieldAt (recordBytes (asks 1 3)) 16 2 < f.rows ∧ f.cols < fieldAt (recordBytes (asks 1 3)) 18 2 ∧
      resizeFault (recordBytes (asks 1 3)) true = none) ∧
    (¬ f.cols < fieldAt (recordBytes (asks 1 2)) 18 2 ∧ fieldAt (recordBytes (asks 1 2)) 16 2 < f.rows ∧ f.resizes = [] ∧ f.phase = .loaded) ∧
    one.field 2 = some f ∧ resizing.field 2 = some { f with resizes := [r] } ∧ r.rows < f.rows ∧
    (gone.filterMap (resizing.wafer.siteOf 0) = [⟨1, 0⟩, ⟨1, 1⟩] ∧ (∀ y ∈ gone.filterMap (resizing.wafer.siteOf 0), (resizing.coreAt y).idle = true) ∧
      (busy.coreAt ⟨1, 0⟩).idle = false) ∧
    (let g := withFields [aField] base
     g.field 2 = some aField ∧ aField.rows ≤ 2 ∧ aField.cols ≤ 1 ∧ g.wafer.siteOf 0 (1, 0) = some ⟨1, 0⟩ ∧ g.free? ⟨1, 0⟩ = true ∧
      g.wafer.clockFor [⟨0, 0⟩, ⟨1, 0⟩] = g.wafer.clockFor [⟨0, 0⟩] ∧ g.clockOk 1750 2 [⟨1, 0⟩] = true ∧
      (withFields [aField, { aField with fnum := 3, row := 1 }] base).free? ⟨1, 0⟩ = false) ∧
    base.sup.queued = [] ∧ able.queueHead = some (.record (aRecord 0)) ∧
    (fieldAt bs 20 1 / 4 % 2 = 0 ∧ s1.readImage 3 0 = some theImage ∧
      s1.imageFor bs = some theImage ∧
      s1.placeFor bs theImage = some (0, { row := 0, col := 0, rows := 1, cols := 1 }, none, [])) ∧
    (∀ x ∈ [(resizing, r), (withFields [{ f with resizes := [{ r with cut := true }] }] base, { r with cut := true })],
      x.1.field 2 = some { f with resizes := [x.2] } ∧
      (∀ y ∈ [(⟨0, 0⟩ : Site), ⟨0, 1⟩], (x.1.coreAt y).switched = true) ∧ ∀ y ∈ gone.filterMap (x.1.wafer.siteOf 0), (x.1.coreAt y).passing = false) ∧
    (let full := withImage (withFields [{ aField with rows := 4, cols := 4 }] base)
     full.placeFor bs theImage = none) ∧
    (waits.queueHead = some (.restore 2 1) ∧ waits.field 2 = some { aField with phase := .descheduled } ∧ aField.saves = []) := by
  intro asks f r one resizing busy gone able s1 bs waits; and_intros <;> decide +kernel
theorem witness_ResizeAndPlacement_free_values : let s1 := withImage (withFields [] (pumped .maint (fun p => { p with no := 0, table := p.table.set 2 (Vector.replicate 64 Slot.maint) }) base))
    ∃ ps, s1.choosePumps 1 [] = some ps := by
  unfold State.choosePumps
  dsimp only
  split
  · exact ⟨_, rfl⟩
  · exact ⟨_, if_pos (List.length_pos_of_mem (List.mem_filter.2 ⟨(by decide : (0 : BitVec 8) ∈ pumpNos), by decide +kernel⟩))⟩

/-- A field whose image behaves has its routes (whether it does is a free value, log entry 5). -/
theorem witness_ResizeAndPlacement_routes (rows cols : Nat) (h : (rows, cols) = (1, 2) ∨ (rows, cols) = (2, 1))
    (hb : ∀ im, anAccepted.readImage 3 0 = some im → im.behaves rows cols (0, 0, 0) = true) :
    ∃ im, anAccepted.routesFor (aField.reshaped rows cols) = some (im, [], []) := by
  have read : (anAccepted.readImage 3 0).map (·.sections) = some [] := by decide
  generalize anAccepted = s at *
  obtain ⟨im, hi, hs⟩ := Option.map_eq_some_iff.mp read
  refine ⟨im, ?_⟩
  have b := hb im hi
  have rec4 : im.records 4 = [] := by
    unfold Image.records
    rw [hs]
    rfl
  have none' : compileRoutes im (aField.reshaped rows cols).shape (aField.reshaped rows cols).triple = some [] := by
    obtain ⟨_, _, _, _, _⟩ := im
    simp only at hs
    subst hs
    obtain h | h := h <;> (obtain ⟨rfl, rfl⟩ := Prod.mk.inj h; rfl)
  unfold State.routesFor
  rw [show (aField.reshaped rows cols).asid = 3 from rfl, show (aField.reshaped rows cols).image = 0 from rfl, hi]
  simp only [none', rec4]
  rw [show (aField.reshaped rows cols).rows = rows from rfl, show (aField.reshaped rows cols).cols = cols from rfl,
    show (aField.reshaped rows cols).slots = (0, 0, 0) from rfl, b]
  rfl

/-! ### A valid save image: pages of context 3 at their own addresses, a header with MAGIC and DIGEST at 0x100000, zeros after it -/

theorem farRead_of (s : State) (asid : BitVec 16) (hb : s.cis.bad = []) (ht : ∀ va < 2 ^ 28, s.translate asid va = some (va, 0x13)) :
    ∀ k va n, n < k * pageSize → va % pageSize = 0 → va + n ≤ 2 ^ 28 →
      s.farPages asid k va n = some (Mem.read s.cis.bytes va n) := by
  intro k
  induction k with
  | zero => intro va n h; omega
  | succ k ih =>
    intro va n h hv hs
    rw [Nat.succ_mul] at h
    have hp : 0 < pageSize := by decide
    unfold State.farPages
    by_cases hn : n = 0
    · simp [hn, Mem.read]
    · have hm : inPage va n = Min.min n pageSize := by unfold inPage; rw [hv, Nat.sub_zero]
      simp only [hn, if_false, ht va (by omega), hb, hm, List.any_nil, Bool.false_eq_true]
      by_cases hk : n ≤ pageSize
      · rw [Nat.min_eq_left hk, Nat.sub_self]
        cases k <;> simp [State.farPages]
      · obtain ⟨r, rfl⟩ := Nat.exists_eq_add_of_le (Nat.le_of_lt (Nat.lt_of_not_le hk))
        rw [Nat.min_eq_right (by omega), Nat.add_sub_cancel_left, ih (va + pageSize) r (by omega) (by rw [Nat.add_mod_right, hv]) (by omega)]
        simp only [Option.map_some, Mem.read, Option.some.injEq, List.range_add, List.map_append, List.map_map]
        congr 1
        exact List.map_congr_left fun i _ => by simp [Nat.add_assoc]
theorem get_none (m : List Host.Cell) (a : Nat) (h : ∀ x ∈ m, x.1 ≠ a) : Mem.get m a = 0 := by
  induction m with
  | nil => rfl
  | cons x m ih =>
    unfold Mem.get
    rw [if_neg (h x (List.mem_cons_self ..))]
    exact ih fun y hy => h y (List.mem_cons_of_mem _ hy)
theorem get_append (m n : List Host.Cell) (a : Nat) : (∀ x ∈ n, x.1 ≠ a) → Mem.get (m ++ n) a = Mem.get m a := by
  intro h
  induction m with
  | nil => exact get_none n a h
  | cons x m ih => simp only [List.cons_append, Mem.get, ih]
theorem get_after (m n : List Host.Cell) (a : Nat) (h : ∀ x ∈ m, x.1 ≠ a) : Mem.get (m ++ n) a = Mem.get n a := by
  induction m with
  | nil => rfl
  | cons x m ih =>
    rw [List.cons_append, Mem.get, if_neg (h x (List.mem_cons_self ..))]
    exact ih fun y hy => h y (List.mem_cons_of_mem _ hy)
theorem padBytes_length (n : Nat) (bs : List Byte) : (padBytes n bs).length = n := by unfold padBytes; simp; omega
def zeros : List Byte := List.replicate (imageSize 1 1 - 4096) 0
def savedField : Field := { aField with phase := .descheduled, save := 0x100000, saves := [⟨1, [⟨0, base.core⟩]⟩] }
def headCells (digest : List Byte) : List Host.Cell :=
  [((0x100000 : Nat), (0x53 : Byte)), (0x100001, 0x41), (0x100002, 0x56), (0x100003, 0x45)] ++ (List.range 64).map fun i => (0x1000A0 + i, digest.getD i 0)
def savedState (digest : List Byte) : State :=
  let s := supervised (fun u => { u with queued := [.restore 2 1], fields := [savedField] }) anAccepted
  { s with cis := { s.cis with bytes := s.cis.bytes ++ headCells digest } }
theorem headCells_range (digest : List Byte) (x : Host.Cell) (h : x ∈ headCells digest) : 0x100000 ≤ x.1 ∧ x.1 < 0x1000E0 := by
  unfold headCells at h
  simp only [List.mem_append, List.mem_cons, List.mem_map, List.mem_range, List.not_mem_nil, or_false] at h
  rcases h with (rfl | rfl | rfl | rfl) | ⟨i, hi, rfl⟩ <;> simp <;> omega
theorem low_cells : ∀ x ∈ anAccepted.cis.bytes, x.1 < 0x100000 := by decide
theorem saved_below (digest : List Byte) (x : Nat) (h : x < 0x100000) : Mem.get (savedState digest).cis.bytes x = Mem.get anAccepted.cis.bytes x :=
  get_append _ _ _ fun y hy => by have := headCells_range digest y hy; omega
theorem saved_above (digest : List Byte) (x : Nat) (h : 0x100000 ≤ x) : Mem.get (savedState digest).cis.bytes x = Mem.get (headCells digest) x :=
  get_after _ _ _ fun y hy => by have := low_cells y hy; omega
theorem saved_entry (digest : List Byte) (a : Nat) (h : a + 8 ≤ 0x100000) : (savedState digest).entryAt a = anAccepted.entryAt a := by
  have e : Mem.read (savedState digest).cis.bytes a 8 = Mem.read anAccepted.cis.bytes a 8 :=
    List.map_congr_left fun i hi => saved_below digest (a + i) (by have := List.mem_range.mp hi; omega)
  show (if anAccepted.cis.bad.contains (a / granule) then none else some (BitVec.ofNat 64 (ofLeBytes (Mem.read (savedState digest).cis.bytes a 8)))) = _
  rw [e]
  rfl
theorem saved_leaf (digest : List Byte) (va : Nat) (h : va < 2 ^ 28) : (savedState digest).leafOf 3 va = some (0x13, 1, 0x20000) := by
  have e0 : anAccepted.entryAt 0x10000 = some 0x20001 := by decide
  have e1 : anAccepted.entryAt 0x20000 = some 0x13 := by decide
  have hc : (savedState digest).context 3 = some aContext := rfl
  have i0 : walkIndex va 0 = 0 := by unfold walkIndex natBits; omega
  have i1 : walkIndex va 1 = 0 := by unfold walkIndex natBits; omega
  have inside : ¬ (farSize ≤ va ∨ aContext.l0len ≤ 0) := by
    rintro (h' | h')
    · have : 2 ^ 28 ≤ farSize := by decide
      omega
    · exact absurd h' (by decide)
  unfold State.leafOf
  simp only [hc, i0, i1]
  rw [if_neg inside, show aContext.root + 8 * 0 = 0x10000 from rfl, saved_entry digest _ (by omega), e0]
  simp only [show pteV 0x20001 = true by decide, show pteMalformed 0x20001 0 = false by decide, show ptePa 0x20001 * pageSize + 8 * 0 = 0x20000 by decide]
  rw [saved_entry digest _ (by omega), e1]
  rfl
theorem saved_translate (digest : List Byte) (va : Nat) (h : va < 2 ^ 28) : (savedState digest).translate 3 va = some (va, 0x13) := by
  unfold State.translate
  rw [saved_leaf digest va h]
  have m : bigPages * pageSize = 2 ^ 28 := by decide
  simp only [show pteQuar 0x13 = false by decide, show ptePa 0x13 = 0 by decide, if_true, Bool.false_eq_true, if_false, m, Nat.mod_eq_of_lt h,
    Nat.zero_mul, Nat.zero_add]
theorem drop_map_range (f : Nat → Byte) (n k : Nat) : ((List.range (k + n)).map f).drop k = (List.range n).map fun i => f (k + i) := by
  rw [List.range_add, List.map_append, List.drop_left' (by simp), List.map_map]
  rfl
theorem take_map_range (f : Nat → Byte) (n k : Nat) : ((List.range (k + n)).map f).take k = (List.range k).map f := by
  rw [List.range_add, List.map_append, List.take_left' (by simp)]
theorem get_cells (b : Nat) (f : Nat → Byte) : ∀ n j, j < n → Mem.get ((List.range n).map fun i => (b + i, f i)) (b + j) = f j := by
  intro n
  induction n with
  | zero => intro j h; omega
  | succ n ih =>
    intro j h
    rw [List.range_succ, List.map_append]
    by_cases hj : j < n
    · rw [get_append, ih j hj]
      intro x hx
      simp only [List.map_cons, List.map_nil, List.mem_singleton] at hx
      rw [hx]
      simp only
      omega
    · rw [get_after, show j = n by omega]
      · simp [Mem.get]
      · intro x hx
        obtain ⟨i, hi, rfl⟩ := List.mem_map.mp hx
        have := List.mem_range.mp hi
        simp only
        omega
theorem map_getD (l : List Byte) (n : Nat) (h : l.length = n) : (List.range n).map (fun i => l.getD i 0) = l := by
  subst h
  refine List.ext_getElem (by simp) fun i h1 h2 => ?_
  simp [List.getD_eq_getElem?_getD, h2]
theorem mem_window (bs : List Byte) (a n : Nat) (x : Byte) (h : x ∈ (bs.drop a).take n) : ∃ i, a ≤ i ∧ i < a + n ∧ bs[i]? = some x := by
  obtain ⟨j, hj⟩ := List.mem_iff_getElem?.mp h
  rw [List.getElem?_take] at hj
  split at hj
  · exact ⟨a + j, by omega, by omega, by rwa [List.getElem?_drop] at hj⟩
  · simp at hj
theorem zeros_window (bs : List Byte) (h : ∀ x ∈ bs, x = 0) (a n : Nat) : ∀ x ∈ (bs.drop a).take n, x = 0 :=
  fun x hx => h x (List.mem_of_mem_drop (List.mem_of_mem_take hx))
theorem zerosAt_of (bs : List Byte) (a n : Nat) (h : ∀ x ∈ (bs.drop a).take n, x = 0) : zerosAt bs a n = true := by
  unfold zerosAt
  simpa using h
theorem ofLeBytes_zeros : ∀ bs : List Byte, (∀ x ∈ bs, x = 0) → ofLeBytes bs = 0 := by
  intro bs
  induction bs with
  | nil => intro; rfl
  | cons b bs ih =>
    intro h
    rw [h b (List.mem_cons_self ..)]
    simp [ofLeBytes, ih fun x hx => h x (List.mem_cons_of_mem _ hx)]
theorem bitsZero_of (bs : List Byte) (h : ∀ x ∈ bs, x = 0) (a lo n : Nat) : bitsZero bs a lo n = true := by
  unfold bitsZero fieldAt
  rw [ofLeBytes_zeros _ (zeros_window bs h _ _)]
  simp [natBits]
theorem stateReserved_zeros (bs : List Byte) (h : ∀ x ∈ bs, x = 0) : stateReserved bs = true := by
  have z : ∀ a n, zerosAt bs a n = true := fun a n => zerosAt_of _ _ _ (zeros_window bs h a n)
  have s : ∀ i, strandReserved ((bs.drop (1024 * i)).take 1024) = true := fun i => by
    have h' := zeros_window bs h (1024 * i) 1024
    have z' : ∀ a n, zerosAt ((bs.drop (1024 * i)).take 1024) a n = true := fun a n => zerosAt_of _ _ _ (zeros_window _ h' a n)
    unfold strandReserved
    simp only [z', bitsZero_of _ h', Bool.and_self]
  unfold stateReserved
  simp [z, s, bitsZero_of _ h]
theorem imageReserved_of (n p : Nat) (bs : List Byte)
    (h : ∀ i x, bs[i]? = some x → 4 ≤ i → i < 160 ∨ 224 ≤ i → x = 0) : imageReserved n p bs = true := by
  have w : ∀ a m, 4 ≤ a → a + m ≤ 160 ∨ 224 ≤ a → ∀ x ∈ (bs.drop a).take m, x = 0 := fun a m h4 hm x hx => by
    obtain ⟨i, h1, h2, h3⟩ := mem_window bs a m x hx
    exact h i x h3 (by omega) (by omega)
  have f : ∀ a m, 4 ≤ a → a + m ≤ 160 ∨ 224 ≤ a → fieldAt bs a m = 0 := fun a m h4 hm => ofLeBytes_zeros _ (w a m h4 hm)
  have st : ∀ i, stateReserved ((bs.drop (recordBase i + 393216)).take 65536) = true :=
    fun i => stateReserved_zeros _ (w _ _ (by omega) (.inr (by omega)))
  unfold imageReserved headerReserved
  simp only [f 12 4 (by omega) (by omega), zerosAt_of _ _ _ (w 30 2 (by omega) (by omega)), zerosAt_of _ _ _ (w 1248 2848 (by omega) (by omega)), st,
    Bool.and_true, Bool.true_and, Nat.zero_le, decide_true]
  simp [natBits, fun x => f (224 + 4 * x) 4 (by omega) (by omega)]
/-- The hypotheses of the restore from a valid image. -/
theorem witness_ResizeAndPlacement_restore : let s := savedState (padBytes 64 (Config.shake256 zeros))
    s.imageValid savedField 1 = true ∧ s.queueHead = some (.restore 2 1) ∧ s.field 2 = some savedField ∧
    (savedField.saves.find? fun y => y.kind = 1) = some ⟨1, [⟨0, base.core⟩]⟩ ∧ savedField.resizes = [] ∧
    s.freePlace 1 1 [] (base.core.ident.mhz = 1750) = some (0, { row := 0, col := 0, rows := 1, cols := 1 }) ∧
    (∀ g ∈ base.core.far.regions, g = none) := by
  intro s
  refine ⟨?_, rfl, rfl, rfl, rfl, by decide, by decide⟩
  obtain ⟨n, size⟩ : ∃ n, imageSize 1 1 = 4096 + n := ⟨imageSize 1 1 - 4096, by decide⟩
  have r : s.farRead 3 0x100000 (imageSize 1 1) = some (Mem.read s.cis.bytes 0x100000 (imageSize 1 1)) :=
    farRead_of s 3 rfl (saved_translate _) _ _ _ (by decide) (by decide) (by decide)
  have at' : ∀ i, Mem.get s.cis.bytes (0x100000 + i) = Mem.get (headCells (padBytes 64 (Config.shake256 zeros))) (0x100000 + i) :=
    fun i => saved_above _ _ (by omega)
  have rest : (Mem.read s.cis.bytes 0x100000 (imageSize 1 1)).drop 4096 = zeros := by
    unfold Mem.read zeros
    rw [size, drop_map_range, Nat.add_sub_cancel_left]
    refine List.eq_replicate_iff.mpr ⟨by simp, fun b hb => ?_⟩
    obtain ⟨i, -, rfl⟩ := List.mem_map.mp hb
    rw [at']
    exact get_none _ _ fun x hx => by have := headCells_range _ x hx; omega
  have magic : fieldAt (Mem.read s.cis.bytes 0x100000 (imageSize 1 1)) 0 4 = 0x45564153 := by
    unfold fieldAt Mem.read
    rw [List.drop_zero, show imageSize 1 1 = 4 + (imageSize 1 1 - 4) by decide, take_map_range, List.map_congr_left fun i _ => at' i]
    rfl
  have digest : ((Mem.read s.cis.bytes 0x100000 (imageSize 1 1)).drop 160).take 64 = padBytes 64 (Config.shake256 zeros) := by
    unfold Mem.read
    rw [show imageSize 1 1 = 160 + (64 + (imageSize 1 1 - 224)) by decide, drop_map_range, take_map_range]
    refine Eq.trans ?_ (map_getD _ 64 (padBytes_length _ _))
    refine List.map_congr_left fun i hi => ?_
    rw [at', headCells, get_after, show 0x100000 + (160 + i) = 0x1000A0 + i by omega, get_cells _ _ 64 i (List.mem_range.mp hi)]
    intro x hx
    simp only [List.mem_cons, List.not_mem_nil, or_false] at hx
    rcases hx with rfl | rfl | rfl | rfl <;> simp only <;> omega
  unfold State.imageValid
  rw [show savedField.imageAt 1 = 0x100000 from rfl, show imageSize (savedField.rows * savedField.cols) savedField.pumps.length = imageSize 1 1 from rfl,
    show savedField.asid = 3 from rfl]
  have reserved : imageReserved (savedField.rows * savedField.cols) savedField.pumps.length (Mem.read s.cis.bytes 0x100000 (imageSize 1 1)) = true := by
    refine imageReserved_of _ _ _ fun i x hx h4 h => ?_
    unfold Mem.read at hx
    rw [List.getElem?_map] at hx
    obtain ⟨j, hj, rfl⟩ := Option.map_eq_some_iff.mp hx
    obtain ⟨-, rfl⟩ : i < imageSize 1 1 ∧ i = j := by rw [List.getElem?_eq_some_iff] at hj; simpa using hj
    rw [at']
    refine get_none _ _ fun y hy => ?_
    unfold headCells at hy
    simp only [List.mem_append, List.mem_cons, List.mem_map, List.mem_range, List.not_mem_nil, or_false] at hy
    rcases hy with (rfl | rfl | rfl | rfl) | ⟨k, hk, rfl⟩ <;> simp only <;> omega
  simp only [r, rest, magic, digest, reserved, decide_true, Bool.and_self]

/-- A fault message of the core of field 2 at 0x1000, and its strand parked by it. -/
def faultOf (code : BitVec 8) (val : Word) : Posted :=
  let m : Msg := { ch := 1, hdr := 0x5C02000000500000 ||| (code.zeroExtend 64 <<< 26), pay := [0x1000, val], bad := false }
  { dst := 0, fnum := 2, mail := .fault ⟨0, 0⟩ 2 m }
def faulted (code : BitVec 8) (val : Word) (s : State) : State :=
  supervised (fun u => { u with mail := [{ dst := 0, fnum := 2, mail := .note 0x13 2 }, faultOf code val] }) (mine (fun st => { st with
    state := .live .park, trapCause := code.zeroExtend 64, trapPc := 0x1000, trapVal := val, toSupervisor := true }) s)
theorem witness_FaultMessageEvents : let one := withFields [aField] base
    let s (code : BitVec 8) (val : Word) := faulted code val one
    let tg : HostTarget := { wafer := 0, fnum := 2, core := 0x500000, strand := 0 }
    let stopping := withFields [{ aField with phase := .stopping 0 }] base
    base.sup.mail.find? (fun m => base.canTake m.mail) = none ∧
    (∀ code ∈ [0x01, 0x02, 0x03, 0x09, 0x0A, 0x0B, 0x0C, 0x0D, 0x0E, 0x0F, 0x12, 0x13, 0x14, 0x15],
      (s (BitVec.ofNat 8 code) 7).sup.mail.find? (fun m => (s (BitVec.ofNat 8 code) 7).canTake m.mail) = some (faultOf (BitVec.ofNat 8 code) 7)) ∧
    (((s 0x0B 7).coreAt ⟨0, 0⟩).strand 0).parked = true ∧ (withoutReady base).boot.ready = false ∧ base.boot.ready = true ∧
    ((s 0x01 0).field tg.fnum = some aField ∧ tg.wafer = (s 0x01 0).waferNo ∧ aField.phase = .loaded ∧
      ((s 0x01 0).coreSites aField).filter (fun y => ((s 0x01 0).coreAt y).ident.name = tg.core) = [⟨0, 0⟩]) ∧
    ((((s 0x01 0).coreAt ⟨0, 0⟩).strand 0).toSupervisor = true ∧ (((s 0x01 0).coreAt ⟨0, 0⟩).strand 0).exists = true) ∧
    base.field 2 = none ∧ stopping.field 2 = some { aField with phase := .stopping 0 } ∧
    ((s 0x12 0).field ((2 : Word).extractLsb' 0 16) = some aField ∧ aField.copyAt = [] ∧ ((s 0x12 0).coreAt ⟨0, 0⟩).ident.readsAs = none) ∧
    (∀ n ∈ [0, 1, 2, 3, 4, 5, 6, 63], ((BitVec.ofNat 64 (n * 2 ^ 58) : Word).toNat / 2 ^ 58 = n) ∧
      (s 0x12 (BitVec.ofNat 64 (n * 2 ^ 58))).sup.mail.find? (fun m => (s 0x12 (BitVec.ofNat 64 (n * 2 ^ 58))).canTake m.mail) =
        some (faultOf 0x12 (BitVec.ofNat 64 (n * 2 ^ 58)))) ∧
    aField.options.getLsbD 1 = false ∧ ({ aField with options := 2 } : Field).options.getLsbD 1 = true := by
  intro one s tg stopping; and_intros <;> decide +kernel
theorem witness_ContextEvents : let desc (l0len : Nat) : List Word := [BitVec.ofNat 64 (3 + l0len * 2 ^ 32), 0x10000, 0x40, 16]
    let bs (n : Nat) := recordBytes (desc n)
    let change : PageChange := { asid := 3, page := 0, count := 1, waits := [⟨0, 0⟩] }
    let ours := core (fun c => { c with csr := { c.csr with fieldId := 0x300000002 } }) (withFields [aField] base)
    let waits := supervised (fun u => { u with changes := [change] }) ours
    let ack (w : Word) : Posted := { dst := 0, fnum := 2, mail := .ack ⟨0, 0⟩ 0x09 false [w, 3, 0, 1] }
    let acked (w : Word) := supervised (fun u => { u with mail := [ack w] }) waits
    let mapped := withImage (withFields [aField] base)
    let kills := withImage (withFields [{ aField with options := 4 }] base)
    (withoutReady base).boot.ready = false ∧ base.boot.ready = true ∧
    (∀ n ∈ [1, 4096], fieldAt (bs n) 0 2 = 3 ∧ fieldAt (bs n) 2 2 = 0 ∧ fieldAt (bs n) 4 4 = n ∧ fieldAt (bs n) 8 8 % 65536 = 0 ∧
      fieldAt (bs n) 16 8 % 64 = 0 ∧ fieldAt (bs n) 24 4 = 16 ∧ fieldAt (bs n) 28 4 = 0) ∧
    (base.context 3 = none ∧ base.sup.deleted = []) ∧ fieldAt (bs 4097) 4 4 = 4097 ∧
    (((withContext base).context 3).isSome = true ∧ (withContext base).sup.fields = []) ∧ (∃ f ∈ ours.sup.fields, f.asid = 3) ∧
    base.sup.changes = [] ∧ (waits.sup.changes = [change] ∧ (waits.coreAt ⟨0, 0⟩).csr.asid = 3 ∧ waits.shootAck change ⟨0, 0⟩ = none) ∧
    ((acked 5).shootAck change ⟨0, 0⟩ = some (ack 5) ∧ (ack 5).mail.locked = false) ∧
    ((acked 0x8000000000000005).shootAck change ⟨0, 0⟩ = some (ack 0x8000000000000005) ∧ (ack 0x8000000000000005).mail.locked = true ∧
      ((acked 5).sup.fields.find? fun f => decide (⟨0, 0⟩ ∈ (acked 5).coreSites f)) = some aField ∧ (acked 5).field 2 = some aField ∧
      aField.phase = .loaded) ∧
    (mapped.leafOf 3 0 = some (0x13, 1, 0x20000) ∧ aField.options.getLsbD 2 = false) ∧
    (kills.leafOf 3 0 = some (0x13, 1, 0x20000) ∧ { aField with options := 4 } ∈ kills.sup.fields ∧ (4 : BitVec 32).getLsbD 2 = true) := by
  intro desc bs change ours waits ack acked mapped kills; and_intros <;> decide +kernel
theorem witness_ServiceEvents : let one := withFields [aField] base
    let joined := supervised (fun u => { u with domain := some aDomain }) base
    let fails : State := { withoutReady base with boot := { (withoutReady base).boot with fail := true } }
    fails.boot.fail = true ∧ base.boot.ready = true ∧ ((withoutReady base).boot.fail = false ∧ (withoutReady base).boot.ready = false) ∧
    ((∀ f ∈ one.sup.fields, one.fieldIdOf f ≠ 1) ∧ (one.sup.fields.find? fun f => decide (one.fieldIdOf f = 0x300000002)) = some aField) ∧
    (joined.sup.domain.isSome = true ∧ base.sup.domain = none) ∧
    ((∀ f ∈ joined.sup.fields, f.phase = .descheduled) ∧ (∀ p ∈ joined.pumps, p.queue = []) ∧ joined.cis.outcomes = []) ∧
    (∃ f ∈ (supervised (fun u => { u with domain := some aDomain }) one).sup.fields, f.phase ≠ .descheduled) ∧
    (base.sup.fields.find? fun f => decide ((⟨0, 0⟩ : Site) ∈ base.coreSites f)) = none ∧
    ((one.sup.fields.find? fun f => decide ((⟨0, 0⟩ : Site) ∈ one.coreSites f)) = some aField ∧ one.field 2 = some aField) ∧
    aField.options.getLsbD 0 = true ∧ ({ aField with options := 6 } : Field).options.getLsbD 0 = false := by
  intro one joined fails; and_intros <;> decide
theorem witness_BringupEvents : let at' (n : Nat) : State := { State.reset with boot := { Boot.reset with phase := n } }
    let updated (i : Nat) : State := { base with flash := { base.flash with active := i } }
    State.reset.boot.phase = 0 ∧ base.boot.phase ≠ 0 ∧ (∀ n ∈ [1, 2, 3, 4, 5, 6, 7], (at' n).boot.phase = n ∧ (at' n).boot.fail = false) ∧
    (∀ n ∈ [1, 2, 3, 4, 5, 6, 7], ¬ (base.boot.phase = n ∧ base.boot.fail = false)) ∧ (∀ i : BitVec 5, i ∈ (List.range 32).map (BitVec.ofNat 5)) ∧
    ((∃ i : BitVec 5, i ∉ [(31 : BitVec 5)]) ∧ ∃ i : BitVec 5, i ∈ [(31 : BitVec 5)]) ∧ (at' 7).sup.ring = [] ∧
    (State.reset.boot.ready = false ∧ base.boot.ready = true) ∧ (updated 0).flash.active = 0 ∧ (updated 1).flash.active = 1 ∧
    (let s : State := { base with flash := { base.flash with accepted := some [], version := 63 } }
     s.flash.accepted.isSome = true ∧ s.flash.version < 64) ∧ base.flash.accepted = none ∧ ¬ 64 ≤ 63 := by
  intro at' updated; and_intros <;> decide
theorem witness_FaultMessageEvents_notes : let fault := withContext (faulted 0x12 0x1000000000000000 (withFields [aField] base))
    let s (full : Bool) : State :=
      if full then supervised (fun u => { u with faultqs := [{ asid := 3, ring := [], held := [[1, 0, 0, 0]] }] }) fault else fault
    let note : List Word := [BitVec.ofNat 64 (4 + 2 * 2 ^ 32), 0, 0, 0]
    (∃ q ∈ ((s true).faultRecord 3 note).sup.faultqs, q.asid = 3 ∧ note ∈ q.held) ∧
    (∀ q ∈ ((s false).faultRecord 3 note).sup.faultqs, q.asid = 3 → note ∉ q.held) := by
  intro fault s note; constructor <;> decide
theorem witness_ServiceEvents_ring : let s := supervised (fun u => { u with ring := [aRecord 0] }) base
    s.boot.ready = true ∧ s.sup.domain = none ∧ s.sup.ring = [aRecord 0] ∧ base.sup.ring = [] := by decide
theorem witness_BringupEvents_attachments : (withFields [] base).wafer.through ⟨0, 0⟩ = false ∧ (withFields [] base).wafer.through ⟨9, 0⟩ = true ∧
    (111 : BitVec 8).toNat < 112 ∧ 112 ≤ (112 : BitVec 8).toNat ∧ (223 : BitVec 8).toNat < 224 ∧ 240 ≤ (240 : BitVec 8).toNat := by decide

/-! ### Instructions with several accesses, and the vector and block functions -/

/-- Strand 0 has the second of two loads left. -/
def halfLoad (fin : PartEnd) (s : State) : State := mine (fun st => { st with part := some ⟨[⟨0x800, 8, []⟩, ⟨0x808, 8, []⟩], [some 7, none], fin⟩ }) s
theorem witness_StepRunsDecoded_part : ∃ p u, (halfLoad .vstore base).agenda = [] ∧ (halfLoad .vstore base).core.dueEvent = none ∧
    ((halfLoad .vstore base).mapCore Core.tick).pick = some u ∧ u.heldLoop = none ∧ u.st.part = some p := ⟨_, _, rfl, by decide, rfl, rfl, rfl⟩
theorem witness_VectorMemory_faults : let active (i : Nat) : Prop := i < Sz.w32.count ∧ kbit 32 (base.k 0) i = true
    let addr (n i : Nat) : Word := BitVec.ofNat 64 n + BitVec.ofNat 64 i * 4
    let fits (A : Word) : Prop := A.toNat % 4 = 0 ∧ A.toNat + 4 ≤ 393216
    let bad (s : State) (A : Word) : Prop := s.core.well.badIn A.toNat 4 = true
    (active 0 ∧ (addr 0x801 0).toNat % 4 ≠ 0) ∧
    (active 2 ∧ (∀ l < 2, fits (addr 393208 l)) ∧ (addr 393208 2).toNat % 4 = 0 ∧ 393216 < (addr 393208 2).toNat + 4) ∧
    ((∀ j < 8, fits (addr 0x7F8 j)) ∧ active 2 ∧ bad (badWord 0x800 base) (addr 0x7F8 2) ∧ ∀ l < 2, ¬ bad (badWord 0x800 base) (addr 0x7F8 l)) ∧
    (∀ j < 8, fits (addr 393184 j) ∧ ¬ bad base (addr 393184 j)) ∧ base.split = [] ∧ { base with split := [1, 2] }.split = 1 :: [2] ∧
    ((badWord 0x800 base).core.well.badIn 0x800 8 = true ∧ (badWord 0x800 base).core.memWf = true) := by decide
theorem witness_VectorMemory_parts : let p : Part := ⟨[⟨0x800, 8, []⟩, ⟨0x808, 8, []⟩], [some 7, none], .vload 2 0xFF 64⟩
    let left (i : Nat) : Prop := i < p.elems.length ∧ p.got.getD i none = none
    (left 1 ∧ (badWord 0x808 base).core.well.badIn 0x808 8 = true ∧ ¬ left 0) ∧ base.core.well.badIn 0x808 8 = false ∧
    ((1 : BitVec 32).getLsbD 1 = false ∧ (2 : BitVec 32).getLsbD 1 = true) ∧ base.core.memWf = true ∧
    (∀ x, some x ∈ [some 7, some (8 : Nat)] → x < 2 ^ 64) := by
  intro p left; and_intros <;> first | decide | (intro x h; simp at h; omega)
theorem witness_BlockMemoryAndReads_faults : Owns (badWord 0x808 base) [3] [] ∧ (0x804 : Word).toNat % 8 ≠ 0 ∧
    ((393152 : Word).toNat % 8 = 0 ∧ 393216 < (393152 : Word).toNat + 8 * 9) ∧ (0x800 : Word).toNat % 8 = 0 ∧
    ((badWord 0x808 base).core.well.badIn (0x800 + 8 * 1) 8 = true ∧ ∀ l < 1, (badWord 0x808 base).core.well.badIn (0x800 + 8 * l) 8 = false) ∧
    (PartEnd.line 3 .bk8 = .line 3 .bk8 ∧ PartEnd.lineStore true = .lineStore true) := by unfold Owns; decide
theorem witness_BlockConversions_faults : Owns (badWord 0x808 base) [] [1] ∧ (0x808 : Word).toNat % 16 ≠ 0 ∧
    ((393216 : Word).toNat % 16 = 0 ∧ 393216 < (393216 : Word).toNat + 256) ∧ (badWord 0x808 base).core.well.badIn 0x800 256 = true ∧
    base.core.well.badIn 0x800 256 = false ∧ { base with split := [1] }.split = 1 :: [] := by unfold Owns; decide
/-- BMAXI over a line with a poison block, over one with a NaN mantissa, and over one with neither. -/
theorem witness_BlockMemoryAndReads_selects : let A (m : Int) : List Blk := List.replicate 4 ⟨128, 0, List.replicate 16 m⟩
    (∃ j < 4, (((poisoned.b 4).blks .bk8).getD j Blk.zero).e = 255) ∧ (∀ j < 4, ((A 5).getD j Blk.zero).e ≠ 255) ∧
    ((((A (-128)).getD 0 Blk.zero).ms.getD 3 0) = -2 ^ (8 - 1)) ∧ ∀ i < 64, (((A 5).getD (i / 16) Blk.zero).ms.getD (i % 16) 0) ≠ -2 ^ (8 - 1) := by decide
/-- Special operands: a quiet NaN, 3, 2^0. -/
theorem witness_VectorFloat_special : FFmt.f32.decode 0x7FC00000 = .nan false 0x400000 false ∧
    (FFmt.f32.decode 0x40400000 = .fin false 12582912 (-22) ∧ (-22 : Int) ≤ 0 ∧ 12582912 = 3 * 2 ^ (22 : Int).toNat ∧ 0 < 3 ∧ 3 < 2 ^ 12) ∧
    FFmt.f32.decode 0x3F800000 = .fin false (2 ^ 23) (-23) := by decide
/-- 1/3 is no multiple of a power of two at hand, and lies between two neighbours of the grid of 2^-200; 1/2 is one. -/
theorem witness_VectorFunctions : (FFmt.f32.decode 0x40400000 = .fin false 12582912 (-22) ∧ 0 < 12582912) ∧
    (let q : Nat := 2 ^ 200 / 3
     2 ^ 64 ≤ q ∧ (-200 : Int) ≤ -200 ∧ (q : ℝ) * (2 : ℝ) ^ (-200 : Int) < |1 / 3| ∧ |1 / 3| < ((q : ℝ) + 1) * (2 : ℝ) ^ (-200 : Int)) ∧
    |(1 / 2 : ℝ)| = ((1 : Nat) : ℝ) * (2 : ℝ) ^ (-1 : Int) ∧ ((false = true) ↔ (1 / 3 : ℝ) < 0) ∧ ((true = true) ↔ (-1 / 3 : ℝ) < 0) := by
  refine ⟨by decide, ⟨by norm_num, le_rfl, ?_, ?_⟩, by norm_num, by norm_num, by norm_num⟩ <;>
    rw [abs_of_pos (by norm_num)] <;> norm_num
theorem witness_Reductions_selects : let val (x : VWord) (i : Nat) := FFmt.f32.decode (velem 32 x i)
    let cand (s : State) (k : KReg) (i : Nat) : Prop := i < 256 / 32 ∧ kbit 32 (s.k k) i = true
    (∃ j, cand lanes 0 j) ∧ (∀ j, ¬ cand base 1 j) ∧ (∀ i, cand lanes 0 i → ∀ n f g, val (lanes.v 1) i ≠ .nan n f g) ∧
    (cand lanes 0 0 ∧ val (withV 1 0x7F800001 base |>.v 1) 0 = .nan false 1 true) ∧ Quiet lanes 0 ∧ ¬ Quiet (withV 1 0x7F800001 (trapping base)) .nv := by
  intro val cand
  refine ⟨⟨0, by decide⟩, fun j h => ?_, fun i h => ?_, by decide, by unfold Quiet; decide, by unfold Quiet; decide⟩
  · have hj : ∀ j < 8, kbit 32 (base.k 1) j = false := by decide
    have := hj j h.1
    rw [h.2] at this
    cases this
  · have hv : ∀ i < 8, (match val (lanes.v 1) i with | .nan _ _ _ => false | _ => true) = true := by decide
    intro n f g e
    have := hv i h.1
    rw [e] at this
    cases this
/-- MX elements: an infinity and NaNs of the 8-bit formats, values formed, and the cases of a block's SHIFT. -/
theorem witness_BlockForms : (0x7C / 2 ^ 2 % 2 ^ 5 = 31 ∧ 0x7C % 2 ^ 2 = 0 ∧ 0x7D / 2 ^ 2 % 2 ^ 5 = 31 ∧ 0x7D % 2 ^ 2 ≠ 0) ∧
    (0x7F / 2 ^ 3 % 2 ^ 4 = 15 ∧ 0x7F % 2 ^ 3 = 7) ∧ (∃ v ∈ List.replicate 32 (FVal.inf false), ∀ n m e, v ≠ .fin n m e) ∧
    (¬ (∃ v ∈ List.replicate 32 (FVal.fin false 0 0), ∀ n m e, v ≠ .fin n m e) ∧ ∀ v ∈ List.replicate 32 (FVal.fin false 0 0), ∃ n e, v = .fin n 0 e) ∧
    (¬ (∃ v ∈ List.replicate 32 (FVal.fin true 3 (-1)), ∀ n m e, v ≠ .fin n m e) ∧ FVal.fin true 3 (-1) ∈ List.replicate 32 (FVal.fin true 3 (-1)) ∧
      ∀ n' m' e', .fin n' m' e' ∈ List.replicate 32 (FVal.fin true 3 (-1)) → m' ≠ 0 → ((m' : Nat).log2 : Int) + e' ≤ (3 : Nat).log2 + (-1)) ∧
    [Blk.zero, Blk.zero, Blk.zero, Blk.zero].length = 4 ∧
    (let b : Blk := ⟨128, 0, List.replicate 16 1⟩
     b.e ≠ 255 ∧ (2 : Int) ≠ 0 ∧ 0 ≤ (b.e : Int) + 2 ∧ (b.e : Int) + 2 ≤ 254 ∧ 254 < (b.e : Int) + 127 ∧ (b.e : Int) + -129 < 0) := by
  refine ⟨by decide, by decide, ⟨_, List.mem_replicate.2 ⟨by decide, rfl⟩, by simp⟩, ⟨?_, ?_⟩, ⟨?_, by simp, ?_⟩, rfl, by decide⟩ <;> simp
theorem witness_ReductionTree : (0x0F : BitVec 8).getLsbD (32 / 32 * 0) = true ∧ (0x0F : BitVec 8).getLsbD (64 / 32 * 2) = false := by decide
theorem witness_FarCompletions_walked_again : let k := aCmd .fget 64 (.rewalk 0x30040)
    let p := commanded k base
    (p.core.cmds = [] ++ k :: [] ∧ Cmd.fenced true p.cur 5 k = true ∧ k.pause = .rewalk 0x30040) ∧
    (∀ k ∈ base.core.cmds, ∀ y, k.pause ≠ .rewalk y) ∧ base.core.csr.faultMask.getLsbD 11 = false ∧ base.core.far.outs = [] := by
  exact ⟨by decide, fun k h => absurd h (List.not_mem_nil), by decide, by decide⟩
/-- An open region whose next page lies beyond the far space, and one whose only page is locked; a wanted page of an FTBP. -/
theorem witness_RegionsAndBindings_last : let top := mine (fun st => { st with ftblOpen := some 1 }) (withG [(2, 0xFFFFFFFFF0000)] base)
    let one := mine (fun st => { st with ftblOpen := some 1 }) (holdsPage 2 true true (withG [(2, 0x20000)] base))
    (top.st.ftblOpen = some 1 ∧ (top.core.far.ftb.filter (·.lock)).length < 24 ∧ natBits (top.g 2).toNat 16 36 ≤ 0x1000000000 ∧
      0x1000000000 < natBits (top.g 2).toNat 16 36 + 2 ∧ 2 ^ 52 ≤ 0x1000000000 * 65536) ∧
    (∃ e ∈ (holdsPage 0xFFFFFFFFF true true top).core.far.ftb, e.lock = true ∧ e.covers 0 0xFFFFFFFFF = true) ∧
    (¬ ∃ e ∈ (holdsPage 0xFFFFFFFFF true true top).core.far.ftb, e.lock = true ∧ e.covers 0 0x1000000000 = true) ∧
    (one.st.ftblOpen ≠ none ∧ natBits (one.g 2).toNat 16 36 = 2 ∧ ∃ e ∈ one.core.far.ftb, e.lock = true ∧ e.covers 0 2 = true) ∧
    (3 * 65536 < 2 ^ 52 ∧ ∀ e ∈ one.core.far.ftb, e.covers one.core.csr.asid 3 = false) := by decide
/-- A BMLOOP of the strand that ends, and one of another strand. -/
theorem witness_StrandEnds_loops : let s (n : Nat) := core (fun c => { c with csr := { c.csr with mprog := BitVec.ofNat 64 (2 ^ 63 + n * 2 ^ 53) } }) base
    ((s 0).core.csr.mprog.getLsbD 63 = true ∧ (s 0).core.csr.mprog.extractLsb' 53 3 = (s 0).cur) ∧
    ((s 1).core.csr.mprog.getLsbD 63 = true ∧ ¬ (s 1).core.csr.mprog.extractLsb' 53 3 = (s 1).cur) := by decide
/-- A STRM in of three words with two at hand, one of whose ring word is uncorrectable, and one with nothing at hand. -/
theorem witness_EngineEvents_in : let e : Entry := { hdr := 0x0403000000000000, off := 0, words := 3, read := 1 }
    let k : Cmd := { aCmd .strmIn 24 .none with well := 0x800 }
    let s := commanded k (holding 2 [.entry e] base)
    (s.core.cmds[0]? = some k ∧ (∀ j ∈ s.core.cmds, j.seq = k.seq → j = k) ∧ k.kind = .strmIn ∧ 0 < k.left ∧ k.pause = .none ∧ s.core.far.outs = []) ∧
    (s.core.stopped = false ∧ s.core.firstOn k = true ∧ k.left % 8 = 0 ∧ k.well % 8 = 0 ∧ s.core.memWf = true ∧
      (s.core.chan k.ch).headEntry = some e ∧ e.read < e.words ∧ (s.core.chan k.ch).items = [.entry e]) ∧
    (let src (i : Nat) : Nat := 8 * ((s.core.chan k.ch).rbase + (e.off + 1 + e.read + i) % (s.core.chan k.ch).rlen)
     (∀ i < 2, s.core.well.badIn (src i) 8 = false ∧ (src i + 8 ≤ k.well ∨ k.well + 8 * 2 ≤ src i)) ∧
     (badWord (src 0) s).core.well.badIn (src 0) 8 = true) ∧ ((commanded k (bound 2 base)).core.chan k.ch).headEntry = none := by decide
/-- Commands at a walk asked for again after a FARFAULT, the walk over and not; a copy that is not the first of its channel; and streams
out of a block, of MX elements, over an uncorrectable word, on a core whose local input is full. -/
theorem witness_EngineEvents_out : let again := commanded (aCmd .fget 64 (.rewalk 0x30040)) base
    let walk : Walk := { seq := 6, va := 0x30040, who := .engine 2 0 0, discard := false }
    let out (fmt : Nat) : Cmd := { aCmd .strmOut 80 .none with bind := ring fmt }
    let s (fmt : Nat) (t : State) := commanded (out fmt) t
    let stream (t : State) := t.core.cmds.find? fun k => decide (k.kind = .strmOut) && decide (k.left ≠ 0) && decide (k.bind.extractLsb' 8 2 = 1#2) && t.core.firstOn k
    let many : Msg := { ch := 5, hdr := 0x0405000000000000, pay := List.replicate 5 0, bad := false }
    (again.core.cmds[0]? = some (aCmd .fget 64 (.rewalk 0x30040)) ∧ again.core.far.walks = [] ∧ again.core.stopped = false) ∧
    walk ∈ (far (fun x => { x with walks := [walk] }) again).core.far.walks ∧
    (∀ fmt ∈ [2, 9, 12], stream (s fmt base) = some (out fmt) ∧ closedBit ((s fmt base).core.route 5) = false ∧ (s fmt base).core.memWf = true ∧
      ((out fmt).bind.extractLsb' 0 4).toNat = fmt ∧ (badWord 0x808 (s fmt base)).core.well.badIn (0x800 + 8 * 1) 8 = true ∧
      (badWord 0x808 (s fmt base)).core.well.badIn (0x800 + 8 * 0) 8 = false) ∧
    (((core (fun c => { c with router := { c.router with inq := [(.loc, many)] } }) base).core.router.inq.map fun y => y.2.pay.length + 1).sum = 6) ∧
    { base with core := { base.core with stopped := true } }.core.stopped = true := by decide
/-- A line that is held at the head of a ring of 24 words. -/
def aHeld (combined : Bool) : Held :=
  { hdr := 0x240B900000000000, off := 0, line := 0, fmt := .bk8, combined := combined, raw := List.replicate 9 0, exps := [128, 128, 128, 255]
    vals := List.replicate 64 0, nans := List.replicate 64 false, mask := 0, shift := 0, bad := false }
def holdingLine (l : Held) (lines : Nat) (s : State) : State :=
  withChan 5 (fun h => { h with bind := BitVec.ofNat 64 (0x400 * 2 ^ 48 + 24 * 2 ^ 32 + 1 * 2 ^ 8 + 9), free := 13, items := [.held l], lines := lines }) s
theorem witness_DeliveryEvents_held : let line := aMsg 2 9 (List.replicate 9 0)
    let s (n : Nat) (m : Msg) := arrived m (holdingLine (aHeld true) n base)
    let h (n : Nat) (m : Msg) := (s n m).core.chan 5
    let member : Msg := { aMsg 3 0 [] with hdr := (aMsg 3 0 []).hdr ||| (0x10 <<< 26) }
    let renorm : Msg := { aMsg 4 9 [1, 0, 0] with hdr := (aMsg 4 9 [1, 0, 0]).hdr ^^^ (1 <<< 26) }
    (∀ m ∈ [line, aMsg 3 0 [], member, renorm, aMsg 4 9 [1, 0, 0]], (h 2 m).items = [.held (aHeld true)] ∧ (s 2 m).core.spill = [] ∧ (aHeld true).raw.length = 8 + 1 ∧
      8 + 3 ≤ (h 2 m).rlen ∧ (h 2 m).rbase + (h 2 m).rlen ≤ 49152 ∧ (s 2 m).core.memWf = true ∧ (s 2 m).core.atPort 1 = some m) ∧
    (natBits line.hdr.toNat 60 4 = 2 ∧ storedFmt (line.hdr.extractLsb' 44 4) = some .bk8 ∧ (aHeld true).line + 2 ≤ (h 2 line).lines ∧ 11 ≤ (h 2 line).room) ∧
    ((h 1 line).lines < (aHeld true).line + 2 ∧ ∀ l, Item.held l ∈ (h 1 line).items → l = aHeld true) ∧
    ((s 2 (aMsg 3 0 [])).core.marks < 64 ∧ 0x10 < (member.hdr.extractLsb' 26 5 : BitVec 5).toNat) ∧
    ((aHeld true).combined = true ∧ (aHeld true).line % 2 = natBits renorm.hdr.toNat 26 1 ∧ (aHeld true).line % 2 ≠ natBits (aMsg 4 9 [1, 0, 0]).hdr.toNat 26 1) := by
  intro line s h member renorm
  refine ⟨by decide, by decide, ⟨by decide, fun l hl => ?_⟩, by decide, by decide⟩
  simpa [h, s, arrived, holdingLine, withChan, core, Core.setChan, Core.chan] using hl
/-- A stopped core whose ring has no room for words and for a line, with room in its spill area and without; and what it has spilled. -/
theorem witness_DeliveryEvents_spill : let words := aMsg 0 2 [7, 8]
    let line := aMsg 2 9 (List.replicate 9 0)
    let full (m : Msg) := arrived m (holdingLine (aHeld true) 1 (core (fun c => { c with stopped := true }) base))
    let tight (m : Msg) := withChan 5 (fun h => { h with free := 2, items := [.held (aHeld true), .held { aHeld true with off := 11 }] }) (full m)
    let area (xs : List Spill) (s : State) := core (fun c => { c with spill := xs }) s
    let entry : Spill := { ch := 5, item := .entry anEntry, words := [7] }
    let held : Spill := { ch := 5, item := .held (aHeld false), words := [] }
    let size (x : Spill) : Nat := match x.item with | .held l => 8 * (l.fmt.n + 3) | .entry _ => 8 * (x.words.length + 1) | .marker _ => 0
    (((tight words).core.chan 5).room < 2 + 1 ∧ words.ringWords ≤ ((tight words).core.chan 5).rlen ∧ (tight words).core.atPort 1 = some words ∧
      (tight words).core.stopped = true ∧ ((tight words).core.spill.map size).sum + 8 * 3 ≤ 65536) ∧
    (((tight line).core.chan 5).room < 8 + 3 ∧ (tight line).core.atPort 1 = some line ∧ ((tight line).core.chan 5).lines < (aHeld true).line + 2 ∧
      ((tight line).core.spill.map size).sum + 8 * 11 ≤ 65536) ∧
    (∃ xs : List Word, ¬ (([{ ch := 6, item := .entry anEntry, words := xs }] : List Spill).map size).sum + 8 * 1 ≤ 65536) ∧
    (∀ x ∈ [entry, held], (area [x] (holdingLine (aHeld true) 1 base)).core.nextSpill = some x ∧ (area [x] base).core.stopped = false) ∧
    (entry.item = .entry anEntry ∧ held.item = .held (aHeld false) ∧ entry.words.length < 24 ∧ (holdingLine (aHeld true) 1 base).core.memWf = true ∧
      ((holdingLine (aHeld true) 1 base).core.chan 5).rbase + 24 ≤ 49152) ∧
    (anEntry.read = 0 ∧ ({ anEntry with read := 1 } : Entry).read = 1 ∧ ({ words with bad := true } : Msg).bad = true ∧ words.bad = false) := by
  intro words line full tight area entry held size
  obtain ⟨xs, h⟩ : ∃ xs : List Word, xs.length = 8191 := ⟨List.replicate 8191 7, List.length_replicate ..⟩
  refine ⟨by decide, by decide, ⟨xs, ?_⟩, by decide, by decide, by decide⟩
  simp [size, h]
/-- A request whose access its core waits for, and one that no core waits for; requests of a field that has ended, and two that wait for
one lane. -/
theorem witness_PumpEvents_ended : let waits := far (fun x => { x with outs := [anOut .fld] }) base
    let two : FarReq := { aReq .fld with pa := 0x70048, seq := 5 }
    let ended (kind : FarKind) : Placed := { aPlaced kind .sent with req := { (aPlaced kind .sent).req with fnum := 0 } }
    let leaves (x : Placed) := pumped .idle (fun p => { p with placed := [x] }) base
    let back := pumped .readreq (fun p => { p with lanes := p.lanes.set 2 .retraining, stalled := [⟨aReq .fld, 2⟩, ⟨two, 2⟩] }) base
    (∃ o ∈ (waits.coreAt ⟨0, 0⟩).far.outs, o.seq = 4) ∧ ((base.coreAt ⟨0, 0⟩).far.outs = [] ∧ (base.coreAt ⟨0, 0⟩).outFor (anAnswer .fld .ok) = none) ∧
    ((waits.coreAt ⟨0, 0⟩).outFor (anAnswer .fld .ok) ≠ none ∧ ∀ c ∈ waits.core :: waits.others, c.ident.readsAs ≠ some (waits.coreAt ⟨0, 0⟩).ident.name) ∧
    (∀ kind ∈ [FarKind.fst, .fput, .famo 0], (ended kind).req.fnum = 0 ∧ (ended kind).req.ident ≠ none ∧ (ended kind).progress = .sent ∧
      ((leaves (ended kind)).pump 7).placed = [ended kind] ∧ ((leaves (ended kind)).pump 7).lanes[(2 : BitVec 3).toNat] = .live ∧
      (ended kind).place.lane = 2) ∧ (ended .fld).req.kind = .fld ∧
    ((back.pump 7).lanes[(2 : BitVec 3).toNat] = .retraining ∧ (back.pump 7).stalled = [⟨aReq .fld, 2⟩, ⟨two, 2⟩] ∧ aReq .fld ≠ two ∧ (back.pump 7).placed = []) := by
  intro waits two ended leaves back; and_intros <;> decide
/-- The two requests in their slots, one behind the other. -/
theorem test_resent_in_order : (match exec (.laneReturn 7 2) (pumped .readreq (fun p => { p with
      lanes := p.lanes.set 2 .retraining, stalled := [⟨aReq .fld, 2⟩, ⟨{ aReq .fld with pa := 0x70048, seq := 5 }, 2⟩] }) base) with
    | .next t => (t.pump 7).placed.map fun x => (x.req.seq, x.place)
    | _ => []) = [(4, ⟨2, 1, 0⟩), (5, ⟨2, 1, 1⟩)] := by decide
/-- Walks of a strand, of an engine command and of an FTBP that find a leaf: nothing of the FTB in the way, and all of it. -/
theorem witness_PageWalkEvents_loads : let s (who : Walker) (l : List FtbEntry) := far (fun x => { x with ftb := l, walks := [{ seq := 4, va := 0x30008, who := who, discard := false }] }) base
    (∀ who ∈ [Walker.strand 0 0, .engine 2 0 0, .prefetched 3 1, .prefetched 3 0], ((s who []).coreAt ⟨0, 0⟩).far.walks.find? (fun w => w.seq = 4) =
      some { seq := 4, va := 0x30008, who := who, discard := false }) ∧
    ((0x70003 : Word).getLsbD 3 = false ∧ (0x7000B : Word).getLsbD 3 = true) ∧
    (((s (.strand 0 0) []).coreAt ⟨0, 0⟩).far.ftb.length < 32) ∧
    (let full := List.replicate 32 (pageAt 9 true false)
     32 ≤ ((s (.strand 0 0) full).coreAt ⟨0, 0⟩).far.ftb.length ∧ (∃ o ∈ full, o.lock = false) ∧ ∀ o ∈ full, 3 + 1 ≤ o.page) ∧
    (∃ o ∈ ((s (.prefetched 3 1) [pageAt 3 true false]).coreAt ⟨0, 0⟩).far.ftb, o.asid = 0 ∧ o.page ≤ 0x30008 / 65536 ∧ 0x30008 / 65536 < o.page + 1) := by decide
/-- A member that is late, and its marker; two members' beats and the marker of a third, no two equal. -/
theorem witness_GroupEvents_late : let m := aMsg 0 2 [7]
    let mk : Msg := aMsg 3 0 []
    let owing (w : List (Option Beat)) (x : Msg) := core (fun c => { c with router := { c.router with votes := [⟨5, [(.w, 2)], [(.w, w)], []⟩] } }) (voting [(.w, x)])
    let p := (aMsg 0 2 [8]).wire
    (let r := (owing (p.map some) m).core.router
     (∃ v ∈ r.votes, v.ch = 5 ∧ ∃ bs, (Port.w, bs) ∈ v.owed) ∧ r.inq = [(.w, m)]) ∧
    (let r := (owing [mk.wire.head?] mk).core.router
     r.votes = [{ ch := 5, was := [(.w, 2)], owed := [(.w, [mk.wire.head?])], ahead := [] }] ∧ r.inq = [(.w, mk)] ∧
      natBits mk.hdr.toNat 60 4 = 3 ∧ natBits mk.hdr.toNat 48 10 = mk.pay.length ∧ natBits mk.hdr.toNat 26 17 ≤ 0x12) ∧
    ((voteBeat m.wire[1]? p[1]? none).1 = none ∧ (voteBeat m.wire[1]? p[1]? mk.wire.head?).2 = some 3) ∧
    ((voteBeat m.wire[1]? none none).1 = none ∧ (voteBeat m.wire[0]? p[0]? none).1 ≠ none) ∧
    (voteRun (m.wire, none) (m.wire, none) (p, none)).isSome = true := by
  intro m mk owing p
  exact ⟨⟨⟨_, List.mem_singleton.mpr rfl, rfl, _, List.mem_singleton.mpr rfl⟩, rfl⟩, by decide, by decide, by decide, by decide⟩
theorem witness_ControlPortCommands_sets : (base.farPending = false ∧ base.usable 1 = true ∧ base.usable 2 = true) ∧
    (pumped .idle (fun p => { p with lanes := Vector.replicate 8 .dead }) base).usable 7 = false ∧
    ((∃ l : BitVec 3, (base.pump 1).lanes[l.toNat] = .live) ∧ base.wafer.reach (pumpAt 1).1 ≠ []) ∧
    (let s := answered .fld .ok base
     ∃ o ∈ s.core.far.outs, o.seq = 4 ∧ ∃ y ∈ s.core.far.resps, s.core.outFor y = some o) ∧
    ((∀ k : StrandNo, (base.core.strand k).part = none) ∧ ∃ p, ((halfLoad .vstore base).core.strand 0).part = some p) ∧
    (base.behavesWith base.core = true ∧ base.sup.fields = []) ∧ base.sup.seams = [] ∧
    (((2 : Word) ^ 50).getLsbD 50 = true) := by
  refine ⟨by decide +kernel, by decide +kernel, by decide +kernel, by decide, ⟨by decide, _, rfl⟩, ⟨rfl, rfl⟩, rfl, by decide⟩
theorem witness_StopEvents_kept : ({ aField with phase := .descheduled } : Field).phase = .descheduled ∧ aField.phase ≠ .descheduled := by decide
theorem witness_ResizeAndPlacement_asked : let f := { aField with rows := 2, cols := 2 }
    let r : ResizeRun := { rows := 1, cols := 2, launchId := 9, micros := 1, cut := false }
    let dim (rows cols : Nat) : Word := BitVec.ofNat 64 (cols % 1024 + rows % 1024 * 2 ^ 10)
    let pend : Word := dim f.rows f.cols ||| (dim 1 2 <<< 20) ||| (1#64 <<< 40)
    let resizing := idled (withFields [{ f with resizes := [r] }] base)
    let told := core (fun c => { c with csr := { c.csr with fieldDim := pend } }) resizing
    let stable (s : State) : Prop := ∀ y ∈ s.coreSites f, ∀ ch : Chan, 4 ≤ ch.toNat → ((s.coreAt y).route ch).getLsbD 49 = false
    let moving := core (fun c => { c with router := { c.router with route := c.router.route.set 5 (2 ^ 49) } }) resizing
    let votes := core (fun c => { c with router := { c.router with
      inq := [(.s, aMsg 0 2 [7])], route := c.router.route.set 5 (BitVec.ofNat 64 (via .n 16 3 + via .s 16 3 + via .w 16 3 + 2 ^ 40 + 2 ^ 42 + 2 ^ 43)) } }) told
    let kept := ((f.reshaped 1 2).shape.nodes ++ (f.reshaped 1 2).copyNodes).filterMap (told.wafer.siteOf 0)
    let gone := (f.stripOf r).filterMap (told.wafer.siteOf 0)
    (∃ y ∈ told.coreSites f, (told.coreAt y).csr.fieldDim = pend) ∧ (¬ ∃ y ∈ resizing.coreSites f, (resizing.coreAt y).csr.fieldDim = pend) ∧
    stable told ∧ ¬ stable moving ∧ (kept = [⟨0, 0⟩, ⟨0, 1⟩] ∧ gone = [⟨1, 0⟩, ⟨1, 1⟩]) ∧ (∀ y ∈ gone, (told.coreAt y).idle = true) ∧
    told.voteDrained (told.withdrawStrip kept gone) (kept ++ gone) = true ∧ votes.voteDrained (votes.withdrawStrip kept gone) (kept ++ gone) = false ∧
    (told.routesFor (f.reshaped 1 2) = none ∧ (withFields [f] base).routesFor (f.reshaped 2 3) = none) ∧
    (let s := supervised (fun u => { u with domain := some aDomain }) base
     s.sup.domain ≠ none ∧ base.sup.domain = none) := by
  intro f r dim pend resizing told stable moving votes kept gone; and_intros <;> decide +kernel
/-- A HOSTNOTE's record that waits, its field stopping and not. -/
theorem witness_PageWalkEvents_notes : let note : List Word := [BitVec.ofNat 64 (4 + 2 * 2 ^ 32), 0, 0, 0]
    let s (f : Field) := supervised (fun u => { u with fields := [f], faultqs := [{ asid := 3, ring := [], held := [note] }] }) (withContext base)
    ((s { aField with phase := .stopping 0 }).mayWrite note = false ∧ (s aField).mayWrite note = true) ∧
    (natBits (note.getD 0 0).toNat 0 8 = 4 ∧ (s aField).field ((note.getD 0 0).extractLsb' 32 16) = some aField) ∧
    [note, [1, 0, 0, 0]] = [note] ++ [1, 0, 0, 0] :: [] ∧ (s { aField with phase := .stopping 0 }).mayWrite [1, 0, 0, 0] = true := by decide
theorem witness_FaultMessageEvents_codes : let one := withFields [aField] base
    let s (code : BitVec 8) (val : Word) := faulted code val one
    (∀ code ∈ [0x04, 0x05, 0x06, 0x08, 0x10, 0x11, 0x16, 0x17, 0x18], code ∉ [0x09, 0x0B, 0x0C, 0x0D, 0x0E, 0x12, 0x13, 0x14, 0x15] ∧
      (s (BitVec.ofNat 8 code) 7).sup.mail.find? (fun m => (s (BitVec.ofNat 8 code) 7).canTake m.mail) = some (faultOf (BitVec.ofNat 8 code) 7)) ∧
    (∀ n ∈ [0, 1], (BitVec.ofNat 64 (3 * 2 ^ 58 + n) : Word).toNat / 2 ^ 58 = 3 ∧
      (s 0x12 (BitVec.ofNat 64 (3 * 2 ^ 58 + n))).sup.mail.find? (fun m => (s 0x12 (BitVec.ofNat 64 (3 * 2 ^ 58 + n))).canTake m.mail) =
        some (faultOf 0x12 (BitVec.ofNat 64 (3 * 2 ^ 58 + n)))) ∧
    aField.pumps[0]? ≠ none ∧ aField.pumps[1]? = none := by
  intro one s; and_intros <;> decide +kernel
/-- A load of four words whose first step makes the first access alone: the instruction does not end, and its register stays (R138). -/
theorem test_divided_load : let t := ran (.vld 1 2 0 .w64 0 0) { withG [(2, 0x800)] (withWell 0x800 [7] base) with split := [1] }
    t.pc = base.pc ∧ t.v 1 = base.v 1 ∧ t.split = [] ∧ t.st.part.map (·.got) = some [some 7, none, none, none] := by decide
/-- A parked strand's load whose response has come, and one whose response has not; a spill area that holds a marker record. -/
theorem witness_FarWaits_come : let stalled := mine (fun st => { st with state := .live .park })
    let s := answered .fld .ok (stalled base)
    let o := anOut .fld
    let held (s : State) : Prop := (s.core.strand o.strand).parked = true ∧ (s.core.strand o.strand).pc = o.pc ∧
      ¬ ((s.core.strand o.strand).toSupervisor = true ∧ (s.core.strand o.strand).inPark = true)
    (s.core.far.outs = [o] ∧ held s ∧ ∃ y ∈ s.core.far.resps, s.core.outFor y = some o) ∧
    (let w := far (fun x => { x with outs := [o], seq := 5 }) (stalled base)
     o.seq < w.core.far.seq ∧ held w ∧ w.core.far.resps = []) := by
  intro stalled s o held
  exact ⟨⟨by decide, by decide, _, List.mem_singleton.mpr rfl, by decide⟩, by decide, by decide, rfl⟩
theorem witness_ChannelBinding_spilled : let c := (core (fun c => { c with spill := [⟨5, .marker 3, []⟩] }) (handled base)).core
    (c.chan 5).items = [] ∧ (∃ y ∈ c.spill, y.ch = 5) ∧ ∀ y ∈ c.spill, y.ch ≠ 6 := by decide
theorem test_fence_response_come : let parked := answered .fld .ok (mine (fun st => { st with state := .live .park }) base)
    let s (resps : List Resp) := far (fun x => { x with resps := resps }) parked
    (s [anAnswer .fld .ok]).core.fenceHolds true 1 5 = false ∧ (s []).core.fenceHolds true 1 5 = true := by decide

end Sys2Proof.Tests
end

section
/-! SUPPORT. The scope statements, part 1: a far memory whose tables map one 256 MiB page, read and filled page by page (R310, R311). -/

namespace Sys2Proof.Machine

/-! ## A byte of a memory that is a list of cells, in canonical form or not -/

/-- A byte that no cell lists reads as zero. -/
theorem Mem.get_unlisted {m : List Host.Cell} {a : Nat} (h : ∀ x ∈ m, x.1 ≠ a) : Mem.get m a = 0 := by
  induction m with
  | nil => rfl
  | cons x m ih =>
    rw [Mem.get, if_neg (h x (List.mem_cons_self ..))]
    exact ih fun y hy => h y (List.mem_cons_of_mem _ hy)

/-- Cells behind others do not count where they list another byte. -/
theorem Mem.get_append_left (m : List Host.Cell) {n : List Host.Cell} {a : Nat} (h : ∀ x ∈ n, x.1 ≠ a) :
    Mem.get (m ++ n) a = Mem.get m a := by
  induction m with
  | nil => exact Mem.get_unlisted h
  | cons x m ih => simp only [List.cons_append, Mem.get, ih]

/-- Cells in front of others do not count where they list other bytes. -/
theorem Mem.get_append_right {m : List Host.Cell} (n : List Host.Cell) {a : Nat} (h : ∀ x ∈ m, x.1 ≠ a) :
    Mem.get (m ++ n) a = Mem.get n a := by
  induction m with
  | nil => rfl
  | cons x m ih =>
    rw [List.cons_append, Mem.get, if_neg (h x (List.mem_cons_self ..))]
    exact ih fun y hy => h y (List.mem_cons_of_mem _ hy)

/-- The cells below an address hold what every byte below it reads as. -/
theorem Mem.get_filter_below (m : List Host.Cell) {base a : Nat} (h : a < base) :
    Mem.get (m.filter fun x => x.1 < base) a = Mem.get m a := by
  induction m with
  | nil => rfl
  | cons x m ih =>
    by_cases hx : x.1 < base
    · rw [List.filter_cons_of_pos (by simpa using hx), Mem.get, Mem.get, ih]
    · rw [List.filter_cons_of_neg (by simpa using hx), Mem.get, if_neg (by omega), ih]

/-- A stretch that is filled leaves every byte below it. -/
theorem Mem.get_fill_below (m cells : List Host.Cell) {base a : Nat} (n : Nat) (h : a < base) :
    Mem.get (Mem.fill m base n cells) a = Mem.get m a := by
  unfold Mem.fill
  rw [Mem.get_append_left, Mem.get_append_left, Mem.get_filter_below m h]
  · intro x hx
    obtain ⟨y, -, rfl⟩ := List.mem_map.mp hx
    simp only
    omega
  · intro x hx
    have : base + n ≤ x.1 := by simpa using (List.mem_filter.mp hx).2
    omega

/-! ## Tables that map one page of 256 MiB -/

/-- A level-0 entry for the table at 64 KiB, and there a writable level-1 leaf for the 256 MiB from 256 MiB on. -/
def farTables : List Host.Cell := [(0, 0x01), (2, 0x01), (0x10000, 0x13), (0x10003, 0x10)]

/-- The context of ASID 1, with its tables from physical address 0 on. -/
def farContext : Context := { asid := 1, l0len := 1, root := 0, faultq := 0, fqlen := 0 }

/-- Bytes that the page maps, from far address 0 and from this physical address on. -/
def farSpan : Nat := 2 ^ 28

/-- The machine translates the first 256 MiB of ASID 1 by the tables. -/
structure State.Mapped (s : State) : Prop where
  context : s.context 1 = some farContext
  good : s.cis.bad = []
  tables : ∀ a < farSpan, Mem.get s.cis.bytes a = Mem.get farTables a

/-- The machine with other cistern bytes. -/
def State.withFar (s : State) (bytes : List Host.Cell) : State := { s with cis := { s.cis with bytes := bytes } }

theorem State.Mapped.entryAt {s : State} (h : s.Mapped) {a : Nat} (ha : a + 8 ≤ farSpan) :
    s.entryAt a = some (BitVec.ofNat 64 (ofLeBytes (Mem.read farTables a 8))) := by
  have e : Mem.read s.cis.bytes a 8 = Mem.read farTables a 8 :=
    List.map_congr_left fun i hi => h.tables _ (by have := List.mem_range.mp hi; omega)
  simp [State.entryAt, h.good, e]

/-- A far address that the tables map. -/
theorem State.Mapped.translate {s : State} (h : s.Mapped) {va : Nat} (hva : va < farSpan) :
    s.translate 1 va = some (farSpan + va, 0x10000013) := by
  have root : s.entryAt 0 = some 0x10001 := by rw [h.entryAt (by decide)]; decide
  have leaf : s.entryAt 0x10000 = some 0x10000013 := by rw [h.entryAt (by decide)]; decide
  have small : va < 2 ^ 28 := hva
  have i0 : walkIndex va 0 = 0 := by unfold walkIndex natBits; omega
  have i1 : walkIndex va 1 = 0 := by unfold walkIndex natBits; omega
  have walk : s.leafOf 1 va = some (0x10000013, 1, 0x10000) := by
    have inside : ¬ (farSize ≤ va ∨ farContext.l0len ≤ 0) := by simp only [farSize, farContext]; omega
    unfold State.leafOf
    rw [h.context]
    simp only [i0, i1, if_neg inside, show farContext.root + 8 * 0 = 0 from rfl, root, show pteV 0x10001 = true by decide,
      show pteMalformed 0x10001 0 = false by decide, show ptePa 0x10001 * pageSize + 8 * 0 = 0x10000 by decide, leaf]
    rfl
  unfold State.translate
  rw [walk]
  simp only [show pteQuar 0x10000013 = false by decide, show ptePa 0x10000013 * pageSize = farSpan by decide, if_true,
    show bigPages * pageSize = 2 ^ 28 by decide, Nat.mod_eq_of_lt small, Bool.false_eq_true, if_false]

/-- Other bytes above the tables leave the mapping. -/
theorem State.Mapped.withFar {s : State} (h : s.Mapped) {bytes : List Host.Cell}
    (hb : ∀ a < farSpan, Mem.get bytes a = Mem.get farTables a) : (s.withFar bytes).Mapped :=
  ⟨h.context, h.good, hb⟩

/-- A stretch of mapped far memory is written a page at a time. -/
theorem State.Mapped.farFill_succ {s : State} (h : s.Mapped) (k n va : Nat) (cells : List Host.Cell) (hn : n ≠ 0) (hva : va < farSpan) :
    s.farFill 1 (k + 1) va n cells =
      (s.withFar (Mem.fill s.cis.bytes (farSpan + va) (inPage va n) cells)).farFill 1 k (va + inPage va n) (n - inPage va n)
        ((cells.filter fun x => inPage va n ≤ x.1).map fun x => (x.1 - inPage va n, x.2)) := by
  rw [State.farFill, if_neg hn, h.translate hva]
  simp only [show pteW 0x10000013 = true by decide, h.good, List.filter_nil, Bool.not_true, Bool.false_eq_true, if_false]
  congr 1
  simp only [State.withFar, ← h.good]

end Sys2Proof.Machine
end

section
/-! SUPPORT. The scope statements, part 2: a save image whose cells are out of order leaves a cistern that is not canonical (R334). -/

namespace Sys2Proof.Machine

/-! ## Cells out of order -/

/-- Two cells stand in a list in falling order of address. -/
def Disordered (m : List Host.Cell) (top : Nat) : Prop := ∃ x y : Host.Cell, y.1 ≤ x.1 ∧ x.1 < top ∧ [x, y].Sublist m

theorem Memory.wfFrom_sorted {lo : Nat} {m : List Host.Cell} (h : Memory.wfFrom lo m = true) :
    (∀ x ∈ m, lo ≤ x.1) ∧ m.Pairwise fun x y => x.1 < y.1 := by
  induction m generalizing lo with
  | nil => simp
  | cons c m ih =>
    simp only [Memory.wfFrom, Bool.and_eq_true, decide_eq_true_eq] at h
    obtain ⟨⟨hlo, -⟩, hrest⟩ := h
    obtain ⟨above, sorted⟩ := ih hrest
    refine ⟨List.forall_mem_cons.mpr ⟨hlo, fun x hx => ?_⟩, List.pairwise_cons.mpr ⟨fun x hx => above x hx, sorted⟩⟩
    have := above x hx
    omega

/-- A canonical memory has no cells out of order. -/
theorem Disordered.not_wf {m : List Host.Cell} {top : Nat} (h : Disordered m top) : Memory.wf m = false := by
  obtain ⟨x, y, hxy, -, sub⟩ := h
  rw [Bool.eq_false_iff]
  intro wf
  have := List.rel_of_pairwise_cons ((Memory.wfFrom_sorted wf).2.sublist sub) (List.mem_singleton.mpr rfl)
  omega

/-- What stands out of order below a stretch stays when the stretch is filled. -/
theorem Disordered.fill_below {m : List Host.Cell} {base : Nat} (h : Disordered m base) (n : Nat) (cells : List Host.Cell) :
    Disordered (Mem.fill m base n cells) (base + n) := by
  obtain ⟨x, y, hxy, hx, sub⟩ := h
  refine ⟨x, y, hxy, by omega, ?_⟩
  have kept : [x, y].Sublist (m.filter fun x => x.1 < base) := by
    have := sub.filter fun x : Host.Cell => decide (x.1 < base)
    rwa [List.filter_eq_self.mpr (by simp; omega)] at this
  exact kept.trans ((List.sublist_append_left ..).trans (List.sublist_append_left ..))

/-- What is filled in out of order stands out of order in the memory. -/
theorem Disordered.fill_with {cells : List Host.Cell} {n : Nat} (h : Disordered cells n) (m : List Host.Cell) (base : Nat) :
    Disordered (Mem.fill m base n cells) (base + n) := by
  obtain ⟨x, y, hxy, hx, sub⟩ := h
  refine ⟨(base + x.1, x.2), (base + y.1, y.2), by simp only; omega, by simp only; omega, ?_⟩
  have kept : [x, y].Sublist (cells.filter fun x => x.1 < n) := by
    have := sub.filter fun x : Host.Cell => decide (x.1 < n)
    rwa [List.filter_eq_self.mpr (by simp; omega)] at this
  exact (kept.map fun x : Host.Cell => (base + x.1, x.2)).trans
    ((List.sublist_append_right ..).trans (List.sublist_append_left ..))

/-! ## The pages of an image one after the other -/

/-- Two cells of one page stand in what is still to be written in falling order of address. -/
def PageDisordered (cells : List Host.Cell) (n : Nat) : Prop :=
  ∃ x y : Host.Cell, y.1 ≤ x.1 ∧ x.1 < n ∧ x.1 / pageSize = y.1 / pageSize ∧ [x, y].Sublist cells

/-- They stand so in the first page, or in what is left behind it. -/
theorem PageDisordered.step {cells : List Host.Cell} {n : Nat} (h : PageDisordered cells n) :
    Disordered cells (min n pageSize) ∨
      PageDisordered ((cells.filter fun x => min n pageSize ≤ x.1).map fun x => (x.1 - min n pageSize, x.2)) (n - min n pageSize) := by
  obtain ⟨x, y, hxy, hx, page, sub⟩ := h
  unfold PageDisordered
  unfold pageSize at *
  by_cases first : x.1 < 65536
  · exact .inl ⟨x, y, hxy, by omega, sub⟩
  · have m : min n 65536 = 65536 := by omega
    rw [m]
    refine .inr ⟨(x.1 - 65536, x.2), (y.1 - 65536, y.2), by simp only; omega, by simp only; omega, by simp only; omega, ?_⟩
    have kept : [x, y].Sublist (cells.filter fun x => 65536 ≤ x.1) := by
      have := sub.filter fun x : Host.Cell => decide (65536 ≤ x.1)
      rwa [List.filter_eq_self.mpr (by simp; omega)] at this
    exact kept.map fun x : Host.Cell => (x.1 - 65536, x.2)

/-- Far memory that is mapped takes every page of what is written to it, and what is out of order within a page stays so. -/
theorem State.Mapped.farFill_disordered {s : State} (h : s.Mapped) (k n va : Nat) (cells : List Host.Cell) (hk : n ≤ k * pageSize)
    (hva : va % pageSize = 0) (hn : va + n ≤ farSpan)
    (out : Disordered s.cis.bytes (farSpan + va) ∨ PageDisordered cells n) :
    ∃ bytes top, s.farFill 1 k va n cells = some (s.withFar bytes) ∧ Disordered bytes top := by
  induction k generalizing s n va cells with
  | zero =>
    refine ⟨s.cis.bytes, _, rfl, out.resolve_right ?_⟩
    rintro ⟨x, y, -, hx, -⟩
    omega
  | succ k ih =>
    by_cases hn0 : n = 0
    · subst hn0
      refine ⟨s.cis.bytes, _, by simp [State.farFill, State.withFar], out.resolve_right ?_⟩
      rintro ⟨x, y, -, hx, -⟩
      omega
    · have m : inPage va n = min n pageSize := by simp [inPage, hva]
      have size : pageSize = 65536 := rfl
      have span : farSpan = 268435456 := rfl
      rw [h.farFill_succ k n va cells hn0 (by omega), m]
      have mapped : (s.withFar (Mem.fill s.cis.bytes (farSpan + va) (min n pageSize) cells)).Mapped :=
        h.withFar fun a ha => by rw [Mem.get_fill_below _ _ _ (by omega), h.tables a ha]
      by_cases last : n ≤ pageSize
      · have done : Disordered (Mem.fill s.cis.bytes (farSpan + va) (min n pageSize) cells) (farSpan + va + min n pageSize) :=
          out.elim (·.fill_below _ _) fun p => p.step.elim (·.fill_with _ _) fun ⟨x, y, _, hx, _⟩ => by omega
        refine ⟨_, _, ?_, done⟩
        rw [show n - min n pageSize = 0 by omega]
        cases k <;> rfl
      · refine ih mapped _ _ _ (by rw [Nat.succ_mul] at hk; omega) (by rw [Nat.min_eq_right (by omega), Nat.add_mod_right, hva]) (by omega) ?_
        rw [← Nat.add_assoc]
        rcases out with low | p
        · exact .inl (low.fill_below _ _)
        · exact p.step.imp (·.fill_with _ _) id

end Sys2Proof.Machine
end

section
/-! SUPPORT. The scope statements, part 3: what the updates of a core at a site and of the pumps leave of the rest of the machine. -/

namespace Sys2Proof.Machine

/-- What every step of a fold leaves, the fold leaves. -/
theorem State.foldl_leaves {α β : Type} (p : State → β) (f : State → α → State) (h : ∀ s x, p (f s x) = p s) (xs : List α) (s : State) :
    p (xs.foldl f s) = p s := by
  induction xs generalizing s with
  | nil => rfl
  | cons x xs ih => rw [List.foldl_cons, ih, h]

@[simp] theorem State.setCoreAt_cis (s : State) (t : Site) (f : Core → Core) : (s.setCoreAt t f).cis = s.cis := by
  unfold State.setCoreAt; split <;> rfl
@[simp] theorem State.setCoreAt_sup (s : State) (t : Site) (f : Core → Core) : (s.setCoreAt t f).sup = s.sup := by
  unfold State.setCoreAt; split <;> rfl
@[simp] theorem State.setCoreAt_pumps (s : State) (t : Site) (f : Core → Core) : (s.setCoreAt t f).pumps = s.pumps := by
  unfold State.setCoreAt; split <;> rfl

@[simp] theorem State.vacate_cis (s : State) (sites : List Site) : (s.vacate sites).cis = s.cis :=
  State.foldl_leaves State.cis _ (fun _ _ => State.setCoreAt_cis _ _ _) sites s
theorem State.vacate_sup (s : State) (sites : List Site) :
    (s.vacate sites).sup = { s.sup with mail := s.sup.mail.filter fun x => !x.mail.shootFrom sites } := by
  have h := State.foldl_leaves State.sup (fun s t => s.setCoreAt t Core.vacate) (fun _ _ => State.setCoreAt_sup _ _ _) sites s
  simp only [State.vacate, State.mapSup, h]

/-- A next table changes the pumps, and the mail where the pump refuses it (R216). -/
theorem State.installTable_eq (s : State) (no : BitVec 8) (t : Vector (Vector Slot 64) 8) :
    ∃ pumps mail, s.installTable no t = { s with pumps := pumps, sup := { s.sup with mail := mail } } := by
  unfold State.installTable
  dsimp only
  split <;> exact ⟨_, _, rfl⟩

/-- Slots that become IDLE change the pumps, and the mail (R309). -/
theorem State.idleSlots_eq (s : State) (no : BitVec 8) (fnum : BitVec 16) :
    ∃ pumps mail, s.idleSlots no fnum = { s with pumps := pumps, sup := { s.sup with mail := mail } } := by
  unfold State.idleSlots
  dsimp only
  split
  · exact ⟨_, _, rfl⟩
  · exact s.installTable_eq no _

theorem State.dropSlots_eq (s : State) (fnum : BitVec 16) :
    ∃ pumps mail, s.dropSlots fnum = { s with pumps := pumps, sup := { s.sup with mail := mail } } := by
  unfold State.dropSlots
  induction s.pumps generalizing s with
  | nil => exact ⟨_, _, rfl⟩
  | cons p ps ih =>
    obtain ⟨_, _, one⟩ := (s.setPump p.no fun p => p.leave fnum).idleSlots_eq p.no fnum
    obtain ⟨_, _, rest⟩ := ih ((s.setPump p.no fun p => p.leave fnum).idleSlots p.no fnum)
    exact ⟨_, _, rest.trans (by rw [one]; rfl)⟩

/-- A field that loses its cores leaves the cistern as it stands (R337). -/
theorem State.deschedule_cis (s : State) (f : Field) : (s.deschedule f).cis = s.cis := by
  obtain ⟨_, _, h⟩ := (s.vacate (s.coreSites f)).dropSlots_eq f.fnum
  show ((s.vacate (s.coreSites f)).dropSlots f.fnum).cis = s.cis
  rw [h]
  exact s.vacate_cis _

end Sys2Proof.Machine
end

section
/-! SUPPORT. The scope statements, part 4: the form of R7 says nothing of where a well ends, and a save image puts the well's bytes in front
of the state area (R334), so a well that lists a byte beyond its end takes the cistern out of the form. -/

namespace Sys2Proof.Machine

/-- A quiet core with a byte listed behind the end of its well, and a state area whose first byte is not zero. -/
def overlongCore : Core :=
  { Core.blank ⟨0, 0⟩ with
    strands := (Vector.replicate 8 Strand.blank).set 0 { Strand.blank with pc := 1 }
    well := { Well.reset with bytes := [(wellSize + 7, 1)] }
    quiet := true }

/-- A field of that core alone, stopped by a pre-emption, with its save area at far address 0. -/
def stoppedField : Field :=
  { fnum := 1, asid := 1, launchId := 0, record := [], image := 0, rect := 0, row := 0, col := 0, rows := 1, cols := 1, prio := 0
    options := 0, save := 0, pumps := [], slots := (0, 0, 0), imgm := [], home := 0, phase := .stopping 0, started := none, saves := []
    replays := [], resizes := [], copyAt := [], drains := none, doneAt := none, seamsOut := [], mhz := 1750, borders := 0, rtm := [] }

/-- The machine in which that field is to be saved next. -/
noncomputable def overlongState : State :=
  { State.reset with
    core := overlongCore
    agenda := [{ site := ⟨0, 0⟩, act := some (.saveWrite 1) }]
    cis := { bytes := farTables, bad := [], outcomes := [] }
    sup := { Sup.reset with contexts := [farContext], fields := [stoppedField] }
    wafer := { Wafer.reset with rects := [{ a := 0, b := 0, cols := [0] }] } }

/-- The same once the turn has begun. -/
noncomputable def overlongTurn : State := { overlongState with agenda := [] }

theorem overlongState_memWf : overlongState.memWf = true := by decide

theorem overlongTurn_mapped : overlongTurn.Mapped := ⟨rfl, rfl, fun _ _ => rfl⟩

theorem overlongState_step : step overlongState = execSaveWrite 1 overlongTurn := by
  have begun : overlongState.begin { site := ⟨0, 0⟩, act := some (.saveWrite 1) } [] = overlongTurn := rfl
  have hears : overlongTurn.deafTo (some (.saveWrite 1)) = false := rfl
  have turn : step overlongState = turnStep (some (.saveWrite 1)) (overlongState.begin { site := ⟨0, 0⟩, act := some (.saveWrite 1) } []) := rfl
  rw [turn, begun, turnStep, hears]
  rfl

theorem overlongTurn_quiet : ((overlongTurn.coreSites stoppedField).all fun t => (overlongTurn.coreAt t).quiet) = true := by decide

/-- Nothing is left to complete before the save. -/
theorem overlongTurn_settled :
    (overlongTurn.coreSites stoppedField).foldl (fun t x => t.setCoreAt x Core.settle) overlongTurn = overlongTurn := by
  have settle : overlongCore.settle = overlongCore := rfl
  show { overlongTurn with core := overlongCore.settle } = overlongTurn
  rw [settle]
  rfl

/-- The state area begins with the pc of strand 0 (R335, R336). -/
theorem Core.stateWords_cons (c : Core) : ∃ ws, c.stateWords = (c.strand 0).pc :: ws := by
  unfold Core.stateWords padTo Core.strandRecord
  simp only [strandNos, List.flatMap_cons, List.cons_append]
  exact ⟨_, List.take_succ_cons⟩

theorem cellsOf_cons {b : Byte} (h : b ≠ Memory.default) (bs : List Byte) : ∃ cells, cellsOf (b :: bs) = (0, b) :: cells := by
  unfold cellsOf
  rw [List.zipIdx_cons, List.map_cons, List.filter_cons_of_pos (by simpa using h)]
  exact ⟨_, rfl⟩

/-- The core's record has the byte behind the well's end in front of the state area's first byte. -/
theorem overlongCore_recordCells :
    [(4096 + (wellSize + 7), (1 : Byte)), (4096 + 393216, 1)].Sublist (overlongCore.recordCells 0) := by
  obtain ⟨ws, words⟩ := overlongCore.stateWords_cons
  obtain ⟨cells, area⟩ := cellsOf_cons (b := 1) (by decide) ((leBytes 8 1).drop 1 ++ bytesOf ws)
  have state : cellsOf (bytesOf overlongCore.stateWords) = (0, 1) :: cells := by
    rw [words, ← area]
    rfl
  unfold Core.recordCells
  rw [state]
  exact (List.Sublist.refl [(4096 + (wellSize + 7), (1 : Byte))]).append (List.singleton_sublist.mpr (List.mem_cons_self ..))

/-- The image can be written, and leaves the cistern out of the form. -/
theorem overlongTurn_writeImage : ∃ t, overlongTurn.writeImage stoppedField 1 = some t ∧ Memory.wf t.cis.bytes = false := by
  have body : (overlongCore.recordCells 0).Sublist (overlongTurn.imageCells stoppedField []) :=
    (List.sublist_append_left (overlongCore.recordCells 0) _).trans ((List.sublist_append_left ..).trans (List.sublist_append_left ..))
  unfold State.writeImage
  dsimp only
  generalize cellsOf (overlongTurn.imageHeader _ _ _ _ _) = header
  have out : PageDisordered (header ++ overlongTurn.imageCells stoppedField []) 528384 :=
    ⟨_, _, by decide, by decide, by decide, (overlongCore_recordCells.trans body).trans (List.sublist_append_right ..)⟩
  obtain ⟨bytes, _, written, disordered⟩ :=
    overlongTurn_mapped.farFill_disordered 10 528384 0 _ (by decide) (by decide) (by decide) (.inr out)
  exact ⟨_, congrArg (Option.map _) written, disordered.not_wf⟩

/-- Refutes O10: a core whose well lists a byte behind its end is in the form, and once the field that holds it is saved, the image's
cells, the well's before those of the state area, stand in the cistern out of order. -/
theorem not_memoryStaysCanonical : ¬ Obligations.MemoryStaysCanonical := by
  unfold Obligations.MemoryStaysCanonical
  intro keeps
  obtain ⟨t, written, broken⟩ := overlongTurn_writeImage
  have saved : step overlongState = .next (t.deschedule stoppedField) := by
    rw [overlongState_step, execSaveWrite, show overlongTurn.field 1 = some stoppedField from rfl]
    simp only [overlongTurn_settled, overlongTurn_quiet, written, show stoppedField.phase = .stopping 0 from rfl]
    rfl
  have canonical := keeps _ _ overlongState_memWf saved
  unfold State.memWf at canonical
  rw [State.deschedule_cis, broken] at canonical
  simp at canonical

end Sys2Proof.Machine
end

section
/-! SUPPORT. The scope statements, part 5: clocks, launch records, and the draining of a field (R3, R268 to R270). -/

namespace Sys2Proof.Machine

/-! ## Clocks -/

theorem execClockChange_used {s : State} {g : Region} (h : ∃ f ∈ s.sup.fields, ∃ t ∈ s.coreSites f, regionOf t = g) :
    execClockChange g s = .next s := by
  have used : (s.sup.fields.any fun f => (s.coreSites f).any fun t => regionOf t = g) = true := by simpa using h
  simp only [execClockChange, used, if_true]

theorem execClockChange_unused {s : State} {g : Region} (h : ¬ ∃ f ∈ s.sup.fields, ∃ t ∈ s.coreSites f, regionOf t = g) :
    execClockChange g s =
      .next { s with wafer := { s.wafer with lowered := s.wafer.lowered.filter fun r => r ≠ g } }.setClocks := by
  have unused : (s.sup.fields.any fun f => (s.coreSites f).any fun t => regionOf t = g) = false := by
    rw [Bool.eq_false_iff]
    simpa using h
  simp only [execClockChange, unused, Bool.false_eq_true, if_false]

/-! ## Records of the ring -/

theorem State.postRecord_waits {s : State} (h : s.boot.ready = false ∨ s.sup.domain = none) (ws : List Word) :
    s.postRecord ws = { s with sup := { s.sup with ring := s.sup.ring ++ [ws] } } := by
  have shut : (s.boot.ready && s.sup.domain.isSome) = false := by rcases h with h | h <;> simp [h]
  simp only [State.postRecord, shut, Bool.false_eq_true, if_false]
  rfl

theorem State.postRecord_reads {s : State} (hr : s.boot.ready = true) (hd : s.sup.domain ≠ none) (ws : List Word) :
    s.postRecord ws = s.readRecord ws := by
  simp [State.postRecord, hr, Option.isSome_iff_ne_none.mpr hd]

theorem State.readRecord_resize {s : State} {ws : List Word} (h : fieldAt (recordBytes ws) 0 2 = 2) : s.readRecord ws = s.resize ws :=
  if_pos h

theorem State.readRecord_launch {s : State} {ws : List Word} (h : fieldAt (recordBytes ws) 0 2 ≠ 2) : s.readRecord ws = s.launch ws :=
  if_neg h

/-! ## Launch records -/

theorem State.launch_refused {s : State} {ws : List Word} {status detail : Nat}
    (h : s.launchRefused (recordBytes ws) = some (status, detail)) : s.launch ws = s.reject (recordBytes ws) status detail := by
  simp only [State.launch, h]

/-- A record that is not refused is queued, unless it asks for a placement now and has none (R268). -/
theorem State.launch_accepted {s : State} {ws : List Word} (h : s.launchRefused (recordBytes ws) = none)
    (place : fieldAt (recordBytes ws) 20 1 / 4 % 2 = 1 → ((s.imageFor (recordBytes ws)).bind (s.placeFor (recordBytes ws))).isSome = true ∧
      ∀ q ∈ s.sup.queued, ¬ fieldAt (recordBytes ws) 23 1 ≤ s.prioOf q) :
    s.launch ws = s.mapSup fun u => { u with queued := u.queued ++ [.record ws] } := by
  simp only [State.launch, h]
  refine if_neg ?_
  rintro ⟨now, blocked | nowhere⟩
  · obtain ⟨q, hq, before⟩ := List.any_eq_true.mp blocked
    exact (place now).2 q hq (of_decide_eq_true before)
  · have some' := (place now).1
    rw [Option.isNone_iff_eq_none.mp nowhere] at some'
    cases some'

/-- A record that asks for a placement now is rejected where it would wait (log entry 70). -/
theorem State.launch_nowhere {s : State} {ws : List Word} (h : s.launchRefused (recordBytes ws) = none)
    (now : fieldAt (recordBytes ws) 20 1 / 4 % 2 = 1)
    (wait : (∃ q ∈ s.sup.queued, fieldAt (recordBytes ws) 23 1 ≤ s.prioOf q) ∨
      (s.imageFor (recordBytes ws)).bind (s.placeFor (recordBytes ws)) = none) :
    s.launch ws = s.reject (recordBytes ws) 0x11 20 := by
  simp only [State.launch, h]
  refine if_pos ⟨now, wait.imp (fun blocked => ?_) fun nowhere => by rw [nowhere]; rfl⟩
  simpa using blocked

theorem launchFault_kind {bs : List Byte} (h : fieldAt bs 0 2 ≠ 1) : launchFault bs = some 0 := if_pos h

theorem launchFault_asid {bs : List Byte} (h1 : fieldAt bs 0 2 = 1) (h2 : fieldAt bs 2 2 = 0) : launchFault bs = some 2 := by
  simp [launchFault, h1, h2]

theorem State.launchRefused_fault {s : State} {bs : List Byte} {off : Nat} (h : launchFault bs = some off) :
    s.launchRefused bs = some (0x10, off) := by
  simp only [State.launchRefused, h]

theorem State.launchRefused_context {s : State} {bs : List Byte} (h : launchFault bs = none)
    (hc : s.context (BitVec.ofNat 16 (fieldAt bs 2 2)) = none) : s.launchRefused bs = some (0x14, 2) := by
  simp only [State.launchRefused, h, hc, Option.isNone_none, if_true]

/-! ## Draining -/

theorem mem_userChans {ch : Chan} : ch ∈ userChans ↔ 4 ≤ ch.toNat := by
  have all : ∀ c : Chan, c ∈ userChans ↔ 4 ≤ c.toNat := by decide
  exact all ch

theorem mem_allPorts (p : Port) : p ∈ allPorts := by cases p <;> decide

/-- The sinks of a field (R270). -/
theorem State.mem_sinks {s : State} {f : Field} {i : Nat} {ch : Chan} {n : Nat} :
    (i, ch, n) ∈ s.sinks f ↔ ∃ t, (s.coreSites f)[i]? = some t ∧ 4 ≤ ch.toNat ∧
      (∃ p, (omask ((s.coreAt t).route ch) (portNo p)).getLsbD 4 = true) ∧ n = ((s.coreAt t).chan ch).items.count (.marker 0x10) := by
  have local' (c : Core) (ch : Chan) : (allPorts.any fun p => c.carries ch p .loc) = true ↔
      ∃ p, (omask (c.route ch) (portNo p)).getLsbD 4 = true := by
    rw [List.any_eq_true]
    exact ⟨fun ⟨p, _, h⟩ => ⟨p, h⟩, fun ⟨p, h⟩ => ⟨p, mem_allPorts p, h⟩⟩
  simp only [State.sinks, List.mem_flatMap, List.mem_map, List.mem_filter, mem_userChans, local', Prod.exists, Prod.mk.injEq]
  constructor
  · rintro ⟨t, j, hj, ch', ⟨hch, hp⟩, rfl, rfl, rfl⟩
    exact ⟨t, List.mem_zipIdx_iff_getElem?.mp hj, hch, hp, rfl⟩
  · rintro ⟨t, ht, hch, hp, rfl⟩
    exact ⟨t, i, List.mem_zipIdx_iff_getElem?.mpr ht, ch, ⟨hch, hp⟩, rfl, rfl, rfl⟩

/-- Where every sink has its record: one more than before (log entry 16). -/
theorem State.drained_iff {s : State} {f : Field} {before : List (Nat × Chan × Nat)} :
    s.drained f before = true ↔ ∀ x ∈ before, ∀ t, (s.coreSites f)[x.1]? = some t →
      x.2.2 < ((s.coreAt t).chan x.2.1).items.count (.marker 0x10) := by
  rw [State.drained, List.all_eq_true]
  refine forall₂_congr fun x _ => ?_
  dsimp only
  cases (s.coreSites f)[x.1]? with
  | none => simp
  | some t =>
    simp only [decide_eq_true_eq, Option.some.injEq, forall_eq']
    exact Iff.rfl

/-- Whether every core of a field is idle and no plain strand waits for its START, as DRAIN asks it. -/
theorem State.allIdle_iff {s : State} {sites : List Site} :
    (sites.all fun t => (s.coreAt t).idle && decide ((s.coreAt t).issue.plain = 0)) = true ↔
      ∀ t ∈ sites, (s.coreAt t).idle = true ∧ (s.coreAt t).issue.plain = 0 := by
  simp only [List.all_eq_true, Bool.and_eq_true, decide_eq_true_eq]

theorem execDrain_absent {s : State} {k : BitVec 16} (h : s.field k = none) : execDrain k s = .next s := by
  simp only [execDrain, h]

theorem execDrain_notLoaded {s : State} {k : BitVec 16} {f : Field} (h : s.field k = some f) (hp : f.phase ≠ .loaded) :
    execDrain k s = .next s := by
  simp only [execDrain, h]
  cases phase : f.phase with
  | loaded => exact absurd phase hp
  | stopping why => rfl
  | descheduled => rfl

theorem execDrain_first {s : State} {k : BitVec 16} {f : Field} (h : s.field k = some f) (hp : f.phase = .loaded) (hd : f.drains = none) :
    execDrain k s = .next (if (s.coreSites f).all fun t => (s.coreAt t).idle && decide ((s.coreAt t).issue.plain = 0) then
      (s.coreSites f).foldl (fun s t => s.setCoreAt t Core.injectDrain) (s.setField k fun f => { f with drains := some (s.sinks f) })
      else s) := by
  simp only [execDrain, h, hp, hd]

theorem execDrain_again {s : State} {k : BitVec 16} {f : Field} {before : List (Nat × Chan × Nat)} (h : s.field k = some f)
    (hp : f.phase = .loaded) (hd : f.drains = some before) :
    execDrain k s = .next (if s.drained f before then s.endField f 0 else s) := by
  simp only [execDrain, h, hp, hd]

/-! ## The end of a field -/

theorem State.closeSeams_completions (s : State) (f : Field) : (s.closeSeams f).sup.completions = s.sup.completions :=
  State.foldl_leaves (fun s => s.sup.completions) _ (fun _ _ => by rw [State.setCoreAt_sup]) _ _

theorem State.closeBorder_sup (s : State) (but sites : List Site) : (s.closeBorder but sites).sup = s.sup := rfl

/-- A field that ends writes its record, and no field of its number is left (R270). -/
theorem State.endField_record (s : State) (f : Field) (status : Nat) :
    (s.endField f status).sup.completions = s.sup.completions ++
      [completion status f.launchId.toNat (s.fieldIdOf f) (f.doneAt.getD (s.cyclesOf f)) 0] := by
  obtain ⟨_, _, h⟩ := State.dropSlots_eq (((((s.complete (completion status f.launchId.toNat (s.fieldIdOf f)
    (f.doneAt.getD (s.cyclesOf f)) 0)).closeSeams f).closeBorder [] (s.coreSites f)).vacate (s.coreSites f))) f.fnum
  have same := congrArg (fun t => t.sup.completions) h
  simp only [State.vacate_sup, State.closeBorder_sup, State.closeSeams_completions] at same
  exact same

theorem State.endField_fields (s : State) (f : Field) (status : Nat) : ∀ x ∈ (s.endField f status).sup.fields, x.fnum ≠ f.fnum := by
  intro x hx
  have other := (List.mem_filter.mp hx).2
  exact of_decide_eq_true other

/-- Settles O54: an equation of the model for each case of a clock change, of a record and of DRAIN. -/
theorem fieldEvents : Obligations.FieldEvents := by
  unfold Obligations.FieldEvents
  intro s g ws k f status detail i n ch before bs sites idle used open' kept refused blocked low
  have launched (h : open') : exec (.launch ws) s = .next (s.launch ws) := by
    obtain ⟨ready, joined, kind⟩ := h
    exact congrArg _ ((State.postRecord_reads ready joined ws).trans (State.readRecord_launch kind))
  refine ⟨execClockChange_used, execClockChange_unused, fun h => congrArg _ (State.postRecord_waits h ws), rfl,
    fun ready joined kind => congrArg _ ((State.postRecord_reads ready joined ws).trans (State.readRecord_resize kind)),
    fun h no => (launched h).trans (congrArg _ (State.launch_refused no)),
    fun h yes later => (launched h).trans (congrArg _ (State.launch_accepted yes fun now => absurd (later.symm.trans now) Nat.zero_ne_one)),
    fun h yes now nowhere => (launched h).trans (congrArg _ (State.launch_nowhere yes now (.inr nowhere))),
    fun h yes now wait => (launched h).trans (congrArg _ (State.launch_nowhere yes now (.inl wait))),
    fun h yes now place first => (launched h).trans (congrArg _ (State.launch_accepted yes fun _ =>
      ⟨Option.isSome_iff_ne_none.mpr place, fun q hq before => first ⟨q, hq, before⟩⟩)),
    fun kind => State.launchRefused_fault (launchFault_kind kind),
    fun kind asid => State.launchRefused_fault (launchFault_asid kind asid),
    State.launchRefused_context, execDrain_absent, ?notYet, ?inject, State.mem_sinks, ?again⟩
  case notYet =>
    rintro found (phase | ⟨first, busy⟩)
    · exact execDrain_notLoaded found phase
    · by_cases phase : f.phase = .loaded
      · refine (execDrain_first found phase first).trans (congrArg _ (if_neg fun all => busy ?_))
        exact State.allIdle_iff.mp all
      · exact execDrain_notLoaded found phase
  case inject =>
    intro found phase quiet first
    exact (execDrain_first found phase first).trans (congrArg _ (if_pos (State.allIdle_iff.mpr quiet)))
  case again =>
    intro found phase injected arrived
    refine ⟨fun all => ⟨s.endField f 0, ?_, s.endField_fields f 0, s.endField_record f 0⟩, fun some' => ?_⟩
    · exact (execDrain_again found phase injected).trans (congrArg _ (if_pos (State.drained_iff.mpr all)))
    · exact (execDrain_again found phase injected).trans (congrArg _ (if_neg fun all => some' (State.drained_iff.mp all)))

end Sys2Proof.Machine
end

section
/-! SUPPORT. The scope statements, part 6: a pump set that is there before a restored field's own slots count again, and no longer after
(R337, R387, R388). -/

namespace Sys2Proof.Machine

/-! ## Parts of what is read -/

/-- A part of what is read is read from its place. -/
theorem Mem.read_part (m : List Host.Cell) (a : Nat) {n off len : Nat} (h : off + len ≤ n) :
    ((Mem.read m a n).drop off).take len = Mem.read m (a + off) len := by
  unfold Mem.read
  refine List.ext_getElem (by simp; omega) fun i _ _ => ?_
  simp [Nat.add_assoc]

theorem Mem.read_drop (m : List Host.Cell) (a n off : Nat) : (Mem.read m a (off + n)).drop off = Mem.read m (a + off) n := by
  rw [← Mem.read_part m a (Nat.le_refl (off + n)), List.take_of_length_le (by simp [Mem.read])]

theorem Mem.read_add (m : List Host.Cell) (a n k : Nat) : Mem.read m a (n + k) = Mem.read m a n ++ Mem.read m (a + n) k := by
  simp [Mem.read, List.range_add, Nat.add_assoc]

theorem Mem.read_zero {m : List Host.Cell} {a n : Nat} (h : ∀ i < n, Mem.get m (a + i) = 0) : Mem.read m a n = List.replicate n 0 :=
  List.eq_replicate_iff.mpr ⟨by simp [Mem.read], fun x hx => by
    obtain ⟨i, hi, rfl⟩ := List.mem_map.mp hx
    exact h i (List.mem_range.mp hi)⟩

theorem ofLeBytes_replicate_zero (n : Nat) : ofLeBytes (List.replicate n 0) = 0 := by
  induction n with
  | zero => rfl
  | succ n ih => rw [List.replicate_succ, ofLeBytes, ih]; rfl

/-- Mapped far memory is read a page at a time. -/
theorem State.Mapped.farPages {s : State} (h : s.Mapped) (k va n : Nat) (hk : n ≤ k * pageSize) (hva : va % pageSize = 0)
    (hn : va + n ≤ farSpan) : s.farPages 1 k va n = some (Mem.read s.cis.bytes (farSpan + va) n) := by
  induction k generalizing va n with
  | zero => rw [show n = 0 by omega]; rfl
  | succ k ih =>
    by_cases hn0 : n = 0
    · subst hn0; rfl
    · have m : inPage va n = min n pageSize := by rw [inPage, hva, Nat.sub_zero]
      rw [State.farPages, if_neg hn0, h.translate (by omega)]
      simp only [m, h.good, List.any_nil, Bool.false_eq_true, if_false]
      have size : pageSize = 65536 := rfl
      by_cases last : n ≤ pageSize
      · rw [Nat.min_eq_left last, Nat.sub_self]
        cases k <;> simp [State.farPages]
      · rw [Nat.min_eq_right (by omega), ih _ _ (by rw [Nat.succ_mul] at hk; omega) (by rw [Nat.add_mod_right, hva]) (by omega),
          Option.map_some, ← Nat.add_assoc, ← Mem.read_add, show pageSize + (n - pageSize) = n by omega]

/-! ## An image of no cores and one pump -/

/-- MAGIC of a save image (R334). -/
def magicBytes : List Byte := [0x53, 0x41, 0x56, 0x45]

/-- Far memory with an image at far address 0 that holds nothing but MAGIC and a digest. -/
def imageBytes (digest : List Byte) : List Host.Cell := Mem.write (Mem.write farTables farSpan magicBytes) (farSpan + 160) digest

theorem imageBytes_get {digest : List Byte} (h : digest.length = 64) (a : Nat) :
    Mem.get (imageBytes digest) a = if farSpan + 160 ≤ a ∧ a < farSpan + 160 + 64 then digest.getD (a - (farSpan + 160)) 0
      else if farSpan ≤ a ∧ a < farSpan + 4 then magicBytes.getD (a - farSpan) 0 else Mem.get farTables a := by
  have tables : Memory.wf farTables = true := by decide
  rw [imageBytes, Mem.get_write _ (Mem.write_wf _ tables _ _), Mem.get_write _ tables, h]
  rfl

theorem imageBytes_tables {digest : List Byte} (h : digest.length = 64) {a : Nat} (ha : a < farSpan) :
    Mem.get (imageBytes digest) a = Mem.get farTables a := by
  rw [imageBytes_get h, if_neg (by omega), if_neg (by omega)]

/-- Behind the tables the image's bytes are zero but for MAGIC and the digest. -/
theorem imageBytes_zero {digest : List Byte} (h : digest.length = 64) {off n : Nat} (ho : 4 ≤ off) (hn : off + n ≤ 160 ∨ 224 ≤ off) :
    Mem.read (imageBytes digest) (farSpan + off) n = List.replicate n 0 := by
  refine Mem.read_zero fun i hi => ?_
  rw [imageBytes_get h, if_neg (by omega), if_neg (by omega)]
  refine Mem.get_unlisted fun x hx => ?_
  have low : ∀ x ∈ farTables, x.1 < farSpan := by decide
  have := low x hx
  omega

theorem imageBytes_magic {digest : List Byte} (h : digest.length = 64) : Mem.read (imageBytes digest) farSpan 4 = magicBytes := by
  have at' : ∀ i < 4, Mem.get (imageBytes digest) (farSpan + i) = magicBytes.getD i 0 := fun i hi => by
    rw [imageBytes_get h, if_neg (by omega), if_pos (by omega), Nat.add_sub_cancel_left]
  exact (List.map_congr_left fun i hi => at' i (List.mem_range.mp hi)).trans rfl

theorem imageBytes_digest {digest : List Byte} (h : digest.length = 64) : Mem.read (imageBytes digest) (farSpan + 160) 64 = digest := by
  refine List.ext_getElem (by simp [Mem.read, h]) fun i hi _ => ?_
  have hi : i < 64 := by simpa [Mem.read] using hi
  simp only [Mem.read, List.getElem_map, List.getElem_range]
  rw [imageBytes_get h, if_pos (by omega), Nat.add_sub_cancel_left]
  exact List.getD_eq_getElem _ _ _

/-- The digest of an empty replay area (R334). -/
noncomputable def emptyDigest : List Byte := padBytes 64 (Config.shake256 (List.replicate 65536 0))

theorem length_padBytes (n : Nat) (bs : List Byte) : (padBytes n bs).length = n := by
  rw [padBytes, List.length_take, List.length_append, List.length_replicate]
  omega

theorem emptyDigest_length : emptyDigest.length = 64 := length_padBytes 64 _

/-- Such an image of no cores and one pump, as far memory gives it. -/
noncomputable def emptyImage : List Byte := Mem.read (imageBytes emptyDigest) farSpan 69632

theorem emptyImage_part {off n : Nat} (h : off + n ≤ 69632) :
    (emptyImage.drop off).take n = Mem.read (imageBytes emptyDigest) (farSpan + off) n := Mem.read_part _ _ h

theorem emptyImage_zero {off n : Nat} (ho : 4 ≤ off) (hn : off + n ≤ 160 ∨ 224 ≤ off) (h : off + n ≤ 69632) :
    (emptyImage.drop off).take n = List.replicate n 0 := by
  rw [emptyImage_part h, imageBytes_zero emptyDigest_length ho hn]

theorem emptyImage_zerosAt {off n : Nat} (ho : 4 ≤ off) (hn : off + n ≤ 160 ∨ 224 ≤ off) (h : off + n ≤ 69632) :
    zerosAt emptyImage off n = true := by
  rw [zerosAt, emptyImage_zero ho hn h]
  simp

theorem emptyImage_fieldAt {off n : Nat} (ho : 4 ≤ off) (hn : off + n ≤ 160 ∨ 224 ≤ off) (h : off + n ≤ 69632) :
    fieldAt emptyImage off n = 0 := by
  rw [fieldAt, emptyImage_zero ho hn h, ofLeBytes_replicate_zero]

theorem emptyImage_magic : fieldAt emptyImage 0 4 = 0x45564153 := by
  rw [fieldAt, emptyImage_part (by omega), Nat.add_zero, imageBytes_magic emptyDigest_length]
  rfl

theorem emptyImage_area : emptyImage.drop 4096 = List.replicate 65536 0 := by
  rw [← emptyImage_zero (off := 4096) (by omega) (.inr (by omega)) (by omega), List.take_of_length_le]
  simp [emptyImage, Mem.read]

theorem emptyImage_digest : (emptyImage.drop 160).take 64 = padBytes 64 (Config.shake256 (emptyImage.drop 4096)) := by
  rw [emptyImage_part (by omega), imageBytes_digest emptyDigest_length, emptyImage_area, emptyDigest]

theorem emptyImage_reserved : headerReserved 1 emptyImage = true := by
  unfold headerReserved
  rw [emptyImage_fieldAt (by omega) (by omega) (by omega), emptyImage_zerosAt (by omega) (by omega) (by omega),
    emptyImage_zerosAt (by omega) (by omega) (by omega)]
  simp only [Nat.zero_le, decide_true, Bool.and_self, Bool.true_and, List.all_eq_true, List.mem_range]
  intro i hi
  rw [emptyImage_fieldAt (by omega) (by omega) (by omega)]
  split <;> rfl

/-- An image that can be read is valid when MAGIC, DIGEST and the reserved fields are right (R337). -/
theorem State.imageValid_of {s : State} {f : Field} {kind : Nat} {bs : List Byte}
    (read : s.farRead f.asid (f.imageAt kind) (imageSize (f.rows * f.cols) f.pumps.length) = some bs) (magic : fieldAt bs 0 4 = 0x45564153)
    (digest : (bs.drop 160).take 64 = padBytes 64 (Config.shake256 (bs.drop 4096)))
    (reserved : imageReserved (f.rows * f.cols) f.pumps.length bs = true) : s.imageValid f kind = true := by
  rw [State.imageValid, read]
  simp only [magic, digest, reserved, decide_true, Bool.and_self]

/-- It is valid for a field of no cores and one pump. -/
theorem State.Mapped.imageValid {s : State} (h : s.Mapped) (hb : s.cis.bytes = imageBytes emptyDigest) {f : Field} (asid : f.asid = 1)
    (save : f.save = 0) (rows : f.rows = 0) (pumps : f.pumps.length = 1) : s.imageValid f 1 = true := by
  have at' : f.imageAt 1 = 0 := by simp [Field.imageAt, save]
  have size : imageSize (f.rows * f.cols) f.pumps.length = 69632 := by simp [imageSize, rows, pumps]
  have read : s.farRead 1 0 69632 = some emptyImage := by
    rw [State.farRead, h.farPages _ 0 69632 (by decide) rfl (by decide), Nat.add_zero, hb, emptyImage]
  refine State.imageValid_of (by rw [size, at', asid, read]) emptyImage_magic emptyImage_digest ?_
  rw [rows, pumps, Nat.zero_mul, imageReserved, emptyImage_reserved]
  rfl

/-! ## A pump whose table is full -/

/-- A slot of field 1. -/
def ownedSlot : Slot := { kind := .write, asid := 1, fnum := 1 }

/-- The slots of a lane: a MAINT slot, and every other one field 1's. -/
def fullLane : Vector Slot 64 := (Vector.replicate 64 ownedSlot).set 0 Slot.maint

theorem mem_fullLane {x : Slot} (h : x ∈ fullLane) : x = ownedSlot ∨ x = Slot.maint :=
  (Vector.mem_or_eq_of_mem_set h).imp_left Vector.eq_of_mem_replicate

/-- Lane 0 has those slots, and the other lanes are IDLE. -/
def fullTable : Vector (Vector Slot 64) 8 := (Vector.replicate 8 (Vector.replicate 64 Slot.idle)).set 0 fullLane

theorem mem_fullTable {l : Vector Slot 64} (hl : l ∈ fullTable) {x : Slot} (hx : x ∈ l) :
    x = ownedSlot ∨ x = Slot.maint ∨ x = Slot.idle := by
  rcases Vector.mem_or_eq_of_mem_set hl with idle | rfl
  · rw [Vector.eq_of_mem_replicate idle] at hx
    exact .inr (.inr (Vector.eq_of_mem_replicate hx))
  · exact (mem_fullLane hx).imp_right .inl

/-- Pump 0 with that table and lane 0 alone live. -/
def fullPump : Pump := { Pump.blank 0 with lanes := (Vector.replicate 8 .dead).set 0 .live, table := fullTable }

/-- A pump without a live lane. -/
def darkPump (no : BitVec 8) : Pump := { Pump.blank no with lanes := Vector.replicate 8 .dead }

/-- No place of the table takes a slot. -/
theorem fullPump_put (l : BitVec 3) (i : BitVec 6) (x : Slot) : fullPump.put fullTable l i x = none := by
  have dark : ∀ l : BitVec 3, l ≠ 0 → fullPump.laneLive l = false := by decide
  have taken (x : Slot) (h : x ∈ fullLane) : x ≠ Slot.idle := by
    rcases mem_fullLane h with rfl | rfl <;> decide
  refine if_neg fun room => ?_
  simp only [Bool.and_eq_true, decide_eq_true_eq] at room
  obtain ⟨⟨live, idle⟩, -⟩ := room
  by_cases lane : l = 0
  · subst lane
    exact taken _ (Vector.getElem_mem i.isLt) idle
  · exact Bool.false_ne_true ((dark l lane).symm.trans live)

theorem fullPump_putFirst (x : Slot) : fullPump.putFirst fullTable x = none := by
  simp only [Pump.putFirst, fullPump_put, List.findSome?_eq_none_iff, implies_true]

/-- So no slot can be added, whatever firmware chooses. -/
theorem fullPump_putSlots (n : Nat) (x : Slot) (xs : List Slot) : fullPump.putSlots n fullTable (x :: xs) = none := by
  simp only [Pump.putSlots, Pump.putAll, Pump.putGreedy, fullPump_put, fullPump_putFirst]

/-! ## A wafer of one core -/

/-- Only the site at row 1 and column 0 is not in pass-through. -/
def oneSite : Wafer := { Wafer.reset with rects := [{ a := 1, b := 1, cols := [0] }] }

theorem oneSite_through {site : Site} (h : site.row ≠ 1) : oneSite.through site = true := by
  have outside : oneSite.place site = none := by
    refine List.findSome?_eq_none_iff.mpr fun x hx => ?_
    obtain rfl : x = ({ a := 1, b := 1, cols := [0] }, 0) := List.mem_singleton.mp hx
    exact if_neg fun ⟨above, below, _⟩ => h (Nat.le_antisymm below above)
  simp only [Wafer.through, outside]
  rfl

/-- Along a row that is all in pass-through there is no site. -/
theorem Wafer.along_none {w : Wafer} {row : Nat} (h : ∀ col, w.through ⟨row, col⟩ = true) (east : Bool) (n col : Nat) :
    w.along row east n col = none := by
  induction n generalizing col with
  | zero => rfl
  | succ n ih => simp only [Wafer.along, h, ih, Bool.not_true, Bool.false_eq_true, if_false, ite_self]

/-- A port of another row does not reach the core. -/
theorem oneSite_reach {site : Site} (h : site.row ≠ 1) : oneSite.reach site = [] := by
  have none' := Wafer.along_none (w := oneSite) (row := site.row) fun col => oneSite_through (site := ⟨site.row, col⟩) h
  simp [Wafer.reach, oneSite_through h, Wafer.neighbour, none']

/-! ## A field to be restored -/

/-- A descheduled field of no cores and no slots, of the pumps given, whose image is at far address 0. -/
def evictedField (ps : List (BitVec 8)) : Field :=
  { fnum := 1, asid := 1, launchId := 0, record := [], image := 0, rect := 0, row := 0, col := 0, rows := 0, cols := 0, prio := 0
    options := 0, save := 0, pumps := ps, slots := (0, 0, 0), imgm := [], home := 0, phase := .descheduled, started := none
    saves := [{ kind := 1, cores := [] }], replays := [], resizes := [], copyAt := [], drains := none, doneAt := none, seamsOut := []
    mhz := 1750, borders := 0, rtm := [] }

/-- The machine with that field, whose pump 112 has no live lane any more, and with pump 0, whose table still has slots of it. The edge
ports of the other pumps do not reach the core. -/
noncomputable def crowdedState (queued : List Queued) : State :=
  { State.reset with
    pumps := [fullPump, darkPump 112]
    cis := { bytes := imageBytes emptyDigest, bad := [], outcomes := [] }
    sup := { Sup.reset with
      contexts := [farContext], fields := [evictedField [112]], queued := queued
      domain := some { domain := 1, wafer := 0, pumpPorts := [], ranges := [], nonce := [] } }
    wafer := oneSite }

theorem crowdedState_mapped (queued : List Queued) : (crowdedState queued).Mapped :=
  ⟨rfl, rfl, fun _ ha => imageBytes_tables emptyDigest_length ha⟩

theorem crowdedState_imageValid (queued : List Queued) : (crowdedState queued).imageValid (evictedField [112]) 1 = true :=
  (crowdedState_mapped queued).imageValid rfl rfl rfl rfl rfl

theorem crowdedState_freePlace : (crowdedState []).freePlace 0 0 [] true = some (0, { row := 0, col := 0, rows := 0, cols := 0 }) := rfl

/-- The edge ports of pumps 0 and 112 alone are on row 1 (R24). -/
theorem pumpAt_row {no : BitVec 8} (h : no ≠ 0) (h' : no ≠ 112) : (pumpAt no).1.row ≠ 1 := by
  unfold pumpAt
  dsimp only
  split
  · dsimp only
    bv_omega
  · split
    · dsimp only
      bv_omega
    · split <;> simp [meshRows]

/-- The pumps but pump 0 are on rows that do not reach the core, or dark. -/
theorem crowdedState_unusable {no : BitVec 8} (h : no ≠ 0) : (crowdedState []).usable no = false := by
  unfold State.usable
  by_cases dark : no = 112
  · subst dark
    rfl
  · rw [show (crowdedState []).wafer = oneSite from rfl, oneSite_reach (pumpAt_row h dark)]
    exact Bool.and_false _

/-- Without the slots of a field that it does not serve pump 0's table is sound. -/
theorem crowdedState_addSlots : ((crowdedState []).addSlots (crowdedState []).free 0 []).isSome = true := by decide +kernel

theorem pumpNos_eq : pumpNos = 0 :: (List.range 255).map fun i => BitVec.ofNat 8 (i + 1) := by
  rw [pumpNos, List.range_succ_eq_map, List.map_cons, List.map_map]
  rfl

/-- Pump 0 alone is usable and has room. -/
theorem crowdedState_roomy :
    (pumpNos.filter fun no => (crowdedState []).usable no && ((crowdedState []).addSlots (crowdedState []).free no []).isSome) = [0] := by
  have usable : (crowdedState []).usable 0 = true := rfl
  rw [pumpNos_eq, List.filter_cons_of_pos (by rw [usable, crowdedState_addSlots]; rfl), List.filter_eq_nil_iff.mpr]
  intro no hno
  obtain ⟨i, hi, rfl⟩ := List.mem_map.mp hno
  have := List.mem_range.mp hi
  rw [crowdedState_unusable (by bv_omega), Bool.false_and]
  exact Bool.false_ne_true

/-- So pump 0 is chosen, by firmware or else as the first. -/
theorem crowdedState_choosePumps : (crowdedState []).choosePumps 1 [] = some [0] := by
  unfold State.choosePumps
  rw [crowdedState_roomy]
  dsimp only
  split
  next h =>
    obtain ⟨one, -, all⟩ := h
    obtain ⟨p, pick⟩ := List.length_eq_one_iff.mp one
    rw [pick] at all ⊢
    simpa using all
  next => rfl

/-! ## The same field on pump 0 -/

/-- The field as it is to be restored on pump 0. -/
def restoringField : Field := { evictedField [0] with phase := .loaded, home := nearestSup 0 }

/-- The machine in which its slots are to be added. -/
noncomputable def restoringState : State :=
  { crowdedState [] with free := (crowdedState []).free + 1, sup := { (crowdedState []).sup with fields := [restoringField] } }

/-- On pump 0 the slots of the field are the field's own again. -/
theorem restoringState_freeSlots : restoringState.freeSlots 0 0 fullTable = fullTable := by
  have owned {l : Vector Slot 64} (hl : l ∈ fullTable) {x : Slot} (hx : x ∈ l) : restoringState.slotOwnerOk 0 x = true := by
    rcases mem_fullTable hl hx with rfl | rfl | rfl <;> rfl
  refine (Vector.map_congr_left fun l hl => ?_).trans (Vector.map_id _)
  refine (Vector.map_congr_left fun x hx => ?_).trans (Vector.map_id _)
  rw [owned hl hx]
  exact if_neg (by simp)

/-- A second MAINT slot is needed, as a context owns slots of the table (R387). -/
theorem fullPump_maintMissing : fullPump.maintMissing fullTable [] = 1 := by decide +kernel

/-- The table has no room for it. -/
theorem restoringState_addSlots (n : Nat) : restoringState.addSlots n 0 [] = none := by
  have pump : (restoringState.pump 0).switched restoringState.slot = fullPump := rfl
  have table : restoringState.freeSlots 0 (Option.getD (Option.map Slot.fnum ([] : List Slot).head?) 0) fullPump.coming = fullTable :=
    restoringState_freeSlots
  unfold State.addSlots
  dsimp only
  rw [pump, table, List.map_nil, fullPump_maintMissing, List.nil_append, List.replicate_one, fullPump_putSlots]
  rfl

/-- So the restore finds a pump, and then fails to give the field its slots there. -/
theorem crowdedState_restoreField : (crowdedState []).restoreField (evictedField [112]) 1 = none := by
  have pumps : (crowdedState []).choosePumps (evictedField [112]).pumps.length [] = some [0] := crowdedState_choosePumps
  have place : (crowdedState []).freePlace (evictedField [112]).rows (evictedField [112]).cols (evictedField [112]).copyAt true =
      some (0, { row := 0, col := 0, rows := 0, cols := 0 }) := crowdedState_freePlace
  have full : State.addAll restoringState (crowdedState []).free [] [0] = none :=
    congrArg (Option.bind · _) (restoringState_addSlots _)
  have saved : (evictedField [112]).saves.find? (fun x => x.kind = 1) = some { kind := 1, cores := [] } := rfl
  have want : slotsWanted (evictedField [112]).asid (evictedField [112]).fnum (evictedField [112]).slots.1 (evictedField [112]).slots.2.1
      (evictedField [112]).slots.2.2 = [] := rfl
  unfold State.restoreField
  simp only [saved, crowdedState_imageValid, want, List.all_nil, place, pumps]
  exact congrArg (Option.map _) full

/-- Placement leaves the machine as it was, with the restore at the head of the queue. -/
theorem crowdedState_placeHead : (crowdedState [.restore 1 1]).placeHead = crowdedState [.restore 1 1] := by
  have next : (crowdedState [.restore 1 1]).placeHead =
    ((crowdedState []).restoreField (evictedField [112]) 1).getD (crowdedState [.restore 1 1]) := rfl
  rw [next, crowdedState_restoreField]
  rfl

/-- Refutes O56: pump 0's table is full of slots of a descheduled field that another pump served. While they count as nobody's, pump 0 can be
chosen for the field; once it is chosen they are the field's, the table needs a second MAINT slot and has no room for it, and the
restore does not take place. -/
theorem not_resizeAndPlacement : ¬ Obligations.ResizeAndPlacement := by
  unfold Obligations.ResizeAndPlacement
  intro holds
  obtain ⟨-, -, -, -, -, -, -, -, -, -, -, -, -, -, -, -, -, -, -, -, -, -, -, -, -, -, -, -, -, -, -, -, -, -, restore⟩ :=
    holds (crowdedState [.restore 1 1]) [] 1 (evictedField [112]) { rows := 0, cols := 0, launchId := 0, micros := 0, cut := false } 0 (.restore 1 1)
      { rows := 0, cols := 0, flags := 0, sections := [], bytes := [] } 0 1 { row := 0, col := 0, rows := 0, cols := 0 } none [] [0] []
      { kind := 1, cores := [] } 0 0 [] false
  obtain ⟨-, placed⟩ := restore (by simp [crowdedState]) rfl rfl rfl rfl (crowdedState_imageValid []) rfl
  obtain ⟨t, moved, g, field, loaded, -⟩ := placed crowdedState_freePlace crowdedState_choosePumps rfl (by simp) (by simp)
  have stays : execPlacement (crowdedState [.restore 1 1]) = .next (crowdedState [.restore 1 1]) := congrArg _ crowdedState_placeHead
  obtain rfl : crowdedState [.restore 1 1] = t := Host.Outcome.next.inj (stays.symm.trans moved)
  obtain rfl : evictedField [112] = g := Option.some.inj field
  exact absurd loaded (by decide)

end Sys2Proof.Machine
end

section
/-! SUPPORT. The machine statements, part 1: a step of the machine, from the agenda, from what is due, and from the words at the pc
(R18, R37, R165, R265). -/

namespace Sys2Proof.Machine

/-! ## Whose turn it is -/

/-- A core that nothing has touched is the one of its site. -/
theorem State.untouched_site (s : State) (site : Site) : (s.untouched site).ident.site = site := by
  unfold State.untouched Wafer.ident
  dsimp only
  split <;> rfl

/-- So is the core that the machine has at a site. -/
theorem State.coreAt_site (s : State) (site : Site) : (s.coreAt site).ident.site = site := by
  unfold State.coreAt
  split
  next h => exact h
  next =>
    cases found : s.others.find? fun c => c.ident.site = site with
    | none => exact s.untouched_site site
    | some c => simpa using List.find?_some found

theorem State.focus_site (s : State) (site : Site) : (s.focus site).core.ident.site = site := by
  unfold State.focus
  split
  next h => exact h
  next => exact s.coreAt_site site

theorem State.focus_wafer (s : State) (site : Site) : (s.focus site).wafer = s.wafer := by
  unfold State.focus
  split <;> rfl

theorem State.focus_agenda (s : State) (site : Site) : (s.focus site).agenda = s.agenda := by
  unfold State.focus
  split <;> rfl

theorem Wafer.deaf_iff {w : Wafer} {site : Site} : w.deaf site = true ↔ site ∈ w.gradeX ∨ w.through site = true := by
  simp [Wafer.deaf]

theorem step_own {s : State} (h : s.agenda = []) : step s = turnStep none s := by
  simp only [step, h]

theorem step_turn {s : State} {t : Turn} {rest : List Turn} (h : s.agenda = t :: rest) : step s = turnStep t.act (s.begin t rest) := by
  simp only [step, h]

/-- A site that takes no part in a turn leaves the machine as it is. -/
theorem turnStep_deaf {act : Option Instr} {s : State} (h : s.deafTo act = true) : turnStep act s = .next s := if_pos h

theorem turnStep_event {i : Instr} {s : State} (h : ¬ s.deafTo (some i) = true) : turnStep (some i) s = exec i s := if_neg h

theorem turnStep_own {s : State} (h : ¬ s.wafer.deaf s.core.ident.site = true) : turnStep none s = coreStep s :=
  if_neg (by simpa [State.deafTo] using h)

/-- An event is nothing to a site that takes no part, if it is one of the core or its router (R11 to R13). -/
theorem State.deafTo_event {s : State} {i : Instr} :
    s.deafTo (some i) = true ↔ isLocal i = true ∧ (s.core.ident.site ∈ s.wafer.gradeX ∨ s.wafer.through s.core.ident.site = true) := by
  simp [State.deafTo, Wafer.deaf_iff]

/-! ## The acting core's own step -/

theorem coreStep_due {s : State} {i : Instr} (h : s.core.dueEvent = some i) : coreStep s = exec i s := by
  simp only [coreStep, h]

theorem coreStep_idle {s : State} (due : s.core.dueEvent = none) (h : (s.mapCore Core.tick).pick = none) :
    coreStep s = .next (s.mapCore Core.tick) := by
  simp only [coreStep, due, h]

theorem coreStep_issues {s u : State} (due : s.core.dueEvent = none) (h : (s.mapCore Core.tick).pick = some u) :
    coreStep s = issueNow u := by
  simp only [coreStep, due, h]

theorem issueNow_loop {u : State} {r : LoopRun} (h : u.heldLoop = some r) :
    issueNow u = exec (.bmloop r.f0 r.s0 0 0 0 r.tiles r.fmt r.sa r.sb) u := by
  simp only [issueNow, h]
  rfl

theorem issueNow_part {u : State} {p : Part} (loop : u.heldLoop = none) (h : u.st.part = some p) :
    issueNow u = .next (u.partAgain p) := by
  simp only [issueNow, loop, h]

/-- It goes on with the accesses that are named, or with all that are left. -/
theorem State.partAgain_eq (u : State) (p : Part) :
    u.partAgain p = { u with split := u.split.drop 1 }.partStep p (u.split.headD 0xFFFFFFFF) := by
  unfold State.partAgain
  cases h : u.split with
  | nil => rw [show ({ u with split := [].drop 1 } : State) = u by rw [List.drop_nil, ← h]]; rfl
  | cons m rest => rfl

theorem issueNow_decoded {u : State} {i : Instr} (loop : u.heldLoop = none) (part : u.st.part = none)
    (fetched : u.core.fetchFault u.pc = none) (h : decode (u.core.fetch u.pc).1 (u.core.fetch u.pc).2 = .ok i) :
    issueNow u = exec i (u.issued (isBmloop i) (isBarr i)) := by
  simp only [issueNow, loop, part, fetched, h]

/-! ## Words at a pc -/

/-- Bytes of an instruction by its first word (R37). -/
def wordsLen (w0 : IWord) : Nat := if 0x38 ≤ (w0.extractLsb' 26 6).toNat then 8 else 4

theorem twoWords_iff {w0 : IWord} : twoWords w0 = true ↔ wordsLen w0 = 8 := by
  simp [twoWords, wordsLen]

/-- The words at an aligned pc of the well, none of them uncorrectable, are fetched (R18, R59). -/
structure Core.Fetches (c : Core) (pc : Word) : Prop where
  aligned : pc.toNat % 4 = 0
  inside : pc.toNat + wordsLen (c.iword pc.toNat) ≤ 393216
  first : c.well.badIn pc.toNat 4 = false
  second : wordsLen (c.iword pc.toNat) = 8 → c.well.badIn (pc.toNat + 4) 4 = false

theorem Core.Fetches.firstInside {c : Core} {pc : Word} (h : c.Fetches pc) : inWell pc.toNat 4 = true := by
  have room := h.inside
  have one : 4 ≤ wordsLen (c.iword pc.toNat) := by unfold wordsLen; split <;> omega
  exact decide_eq_true (by unfold wellSize; omega)

theorem Core.Fetches.noFault {c : Core} {pc : Word} (h : c.Fetches pc) : c.fetchFault pc = none := by
  have room := h.inside
  unfold Core.fetchFault
  dsimp only
  rw [if_neg (by simp [h.aligned]), if_neg (by simp [h.firstInside]), if_neg (by simp [h.first])]
  split
  next two =>
    have len := twoWords_iff.mp two
    rw [len] at room
    rw [if_neg (by simp [inWell, wellSize]; omega), if_neg (by simp [h.second len])]
  next => rfl

theorem Core.Fetches.length {c : Core} {pc : Word} (h : c.Fetches pc) : c.fetchLen pc = wordsLen (c.iword pc.toNat) := by
  simp [Core.fetchLen, h.aligned, h.firstInside, h.first, twoWords, wordsLen]

/-- The second word of a fetch. -/
theorem Core.fetch_snd (c : Core) (pc : Word) :
    (c.fetch pc).2 = if wordsLen (c.iword pc.toNat) = 8 then c.iword (pc.toNat + 4) else 0 := by
  simp only [Core.fetch, twoWords_iff]

/-- Settles O4: each clause is an equation of the step for what the agenda, the core and the words at the pc hold. -/
theorem stepRunsDecoded : Obligations.StepRunsDecoded := by
  unfold Obligations.StepRunsDecoded
  intro s u i w0 live
  have own (h : live) : step s = coreStep s := by
    obtain ⟨none', hears⟩ := h
    exact (step_own none').trans (turnStep_own (mt Wafer.deaf_iff.mp hears))
  refine ⟨?decoded, ?loop, ?part, fun h due => (own h).trans (coreStep_due due),
    fun h due idle => (own h).trans (coreStep_idle due idle), ?deaf, ?event, ?cycle⟩
  case decoded =>
    intro h due pick loop part aligned n inside first second decoded
    have fetches : u.core.Fetches u.pc := ⟨aligned, inside, first, second⟩
    have issues := issueNow_decoded loop part fetches.noFault (by rw [Core.fetch_snd]; exact decoded)
    rw [own h, coreStep_issues due pick, issues, State.issued, State.fetched, fetches.length]
    rfl
  case loop =>
    intro r h due pick loop
    rw [own h, coreStep_issues due pick, issueNow_loop loop]
  case part =>
    intro p h due pick loop part
    rw [own h, coreStep_issues due pick, issueNow_part loop part, State.partAgain_eq]
  case deaf =>
    intro none' notLive
    refine (step_own none').trans (turnStep_deaf (Wafer.deaf_iff.mpr ?_))
    by_contra hears
    exact notLive ⟨none', hears⟩
  case event =>
    intro site rest turn v
    have deaf : v.deafTo (some i) = true ↔ isLocal i = true ∧ (site ∈ s.wafer.gradeX ∨ s.wafer.through site = true) := by
      rw [State.deafTo_event, State.focus_site, State.focus_wafer]
    exact ⟨fun h => (step_turn turn).trans (turnStep_deaf (deaf.mpr h)),
      fun h => (step_turn turn).trans (turnStep_event (mt deaf.mp h))⟩
  case cycle =>
    intro site turn
    exact (step_turn turn).trans (step_own (State.focus_agenda _ site)).symm

end Sys2Proof.Machine
end

section
/-! SUPPORT. The machine statements, part 2: the pumps after one of them changes, and what a next table and the lanes' training leave
(R216, R232). -/

namespace Sys2Proof.Machine

/-! ## One pump changed -/

@[simp] theorem State.pump_no (s : State) (no : BitVec 8) : (s.pump no).no = no := by
  unfold State.pump
  cases found : s.pumps.find? fun p => p.no = no with
  | none => rfl
  | some p => simpa using List.find?_some found

/-- A pump after a change of one that keeps its number. -/
theorem State.pump_setPump (s : State) (no k : BitVec 8) (f : Pump → Pump) (h : (f (s.pump no)).no = no) :
    (s.setPump no f).pump k = if k = no then f (s.pump no) else s.pump k := by
  unfold State.setPump
  generalize f (s.pump no) = p at h
  simp only [State.pump, List.find?_cons, h, List.find?_filter]
  by_cases hk : k = no
  · simp [hk]
  · have other : (fun p : Pump => decide (decide (p.no ≠ no) = true ∧ decide (p.no = k) = true)) = fun p => decide (p.no = k) := by
      funext p
      by_cases hp : p.no = k <;> simp [hp, hk]
    simp only [hk, Ne.symm hk, other, decide_false, if_false]

/-! ## Next tables -/

@[simp] theorem Pump.switched_no (p : Pump) (slot : Nat) : (p.switched slot).no = p.no := by
  unfold Pump.switched
  split
  · split <;> rfl
  · rfl

@[simp] theorem Pump.switched_lanes (p : Pump) (slot : Nat) : (p.switched slot).lanes = p.lanes := by
  unfold Pump.switched
  split
  · split <;> rfl
  · rfl

/-- A next table leaves the lanes of every pump, accepted or not (R216). -/
theorem State.installTable_lanes (s : State) (no k : BitVec 8) (t : Vector (Vector Slot 64) 8) :
    ((s.installTable no t).pump k).lanes = (s.pump k).lanes := by
  have kept (q : Pump) (hn : q.no = no) (hl : q.lanes = (s.pump no).lanes) :
      ((s.setPump no fun _ => q).pump k).lanes = (s.pump k).lanes := by
    rw [State.pump_setPump s no k _ hn]
    split
    next h => rw [h, hl]
    next => rfl
  unfold State.installTable
  dsimp only
  split
  · exact kept _ (by simp) (by simp)
  · exact kept _ (by simp) (by simp)

/-- The machine but for pumps, firmware's choices used up, and mail. -/
def State.SameButPumps (s t : State) : Prop :=
  ∃ pumps free mail, t = { s with pumps := pumps, free := free, sup := { s.sup with mail := mail } }

theorem State.SameButPumps.refl (s : State) : s.SameButPumps s := ⟨_, _, _, rfl⟩

theorem State.SameButPumps.trans {s t u : State} (h : s.SameButPumps t) (k : t.SameButPumps u) : s.SameButPumps u := by
  obtain ⟨_, _, _, rfl⟩ := h
  obtain ⟨_, _, _, rfl⟩ := k
  exact ⟨_, _, _, rfl⟩

/-- Slots added at a pump are none, or stand in its next table. -/
theorem State.addSlots_cases {s t : State} {n : Nat} {no : BitVec 8} {xs : List Slot} (h : s.addSlots n no xs = some t) :
    t = s ∨ ∃ ys table, t = (s.chosen n ys).installTable no table := by
  unfold State.addSlots at h
  obtain ⟨table, -, h⟩ := Option.bind_eq_some_iff.mp h
  split at h
  · exact .inl (Option.some.inj h).symm
  · split at h
    · exact .inr ⟨_, _, (Option.some.inj h).symm⟩
    · cases h

theorem State.addSlots_leaves {s t : State} {n : Nat} {no : BitVec 8} {xs : List Slot} (h : s.addSlots n no xs = some t) :
    s.SameButPumps t ∧ ∀ k, (t.pump k).lanes = (s.pump k).lanes := by
  rcases State.addSlots_cases h with rfl | ⟨ys, table, rfl⟩
  · exact ⟨.refl _, fun _ => rfl⟩
  · obtain ⟨pumps, mail, eq⟩ := (s.chosen n ys).installTable_eq no table
    exact ⟨⟨pumps, _, mail, eq⟩, fun k => (s.chosen n ys).installTable_lanes no k table⟩

/-! ## Lanes trained (R232 step 3) -/

/-- A lane trained against the domain's switches: live, unless it is dead. -/
def LaneState.trained (l : LaneState) : LaneState := if l = .dead then .dead else .live

theorem LaneState.trained_trained (l : LaneState) : l.trained.trained = l.trained := by cases l <;> rfl

/-- A pump's lanes trained. -/
def State.trainPump (s : State) (no : BitVec 8) : State := s.setPump no fun p => { p with lanes := p.lanes.map LaneState.trained }

/-- They are, with the MAINT slots that the pump then needs. -/
def State.trainAt (s : State) (no : BitVec 8) : State :=
  if laneNos.any ((s.trainPump no).pump no).laneLive then
    ((s.trainPump no).addSlots (s.trainPump no).free no []).getD (s.trainPump no)
  else s.trainPump no

theorem State.trainLanes_eq (s : State) : s.trainLanes = pumpNos.foldl State.trainAt s := rfl

theorem State.trainAt_cases (s : State) (no : BitVec 8) :
    s.trainAt no = s.trainPump no ∨ (s.trainPump no).addSlots (s.trainPump no).free no [] = some (s.trainAt no) := by
  unfold State.trainAt
  split
  · cases (s.trainPump no).addSlots (s.trainPump no).free no [] with
    | none => exact .inl rfl
    | some t => exact .inr rfl
  · exact .inl rfl

theorem State.trainAt_leaves (s : State) (no : BitVec 8) : s.SameButPumps (s.trainAt no) := by
  have pump : s.SameButPumps (s.trainPump no) := ⟨_, _, _, rfl⟩
  rcases s.trainAt_cases no with h | h
  · rwa [h]
  · exact pump.trans (State.addSlots_leaves h).1

theorem State.trainAt_lanes (s : State) (no k : BitVec 8) :
    ((s.trainAt no).pump k).lanes = if k = no then (s.pump k).lanes.map LaneState.trained else (s.pump k).lanes := by
  have pump : ((s.trainPump no).pump k).lanes = if k = no then (s.pump k).lanes.map LaneState.trained else (s.pump k).lanes := by
    unfold State.trainPump
    rw [State.pump_setPump s no k _ (by simp)]
    split
    next h => rw [h]
    next => rfl
  rcases s.trainAt_cases no with h | h
  · rw [h, pump]
  · rw [(State.addSlots_leaves h).2 k, pump]

theorem State.trainLanes_leaves (s : State) : s.SameButPumps s.trainLanes := by
  rw [State.trainLanes_eq]
  generalize pumpNos = nos
  induction nos generalizing s with
  | nil => exact .refl s
  | cons no nos ih => exact (s.trainAt_leaves no).trans (ih _)

theorem mem_pumpNos (no : BitVec 8) : no ∈ pumpNos :=
  List.mem_map.mpr ⟨no.toNat, List.mem_range.mpr no.isLt, by simp⟩

theorem State.trainLanes_lanes (s : State) (k : BitVec 8) : (s.trainLanes.pump k).lanes = (s.pump k).lanes.map LaneState.trained := by
  have some' (nos : List (BitVec 8)) : ∀ s : State, ((nos.foldl State.trainAt s).pump k).lanes =
      if k ∈ nos then (s.pump k).lanes.map LaneState.trained else (s.pump k).lanes := by
    induction nos with
    | nil => intro s; simp
    | cons no nos ih =>
      intro s
      rw [List.foldl_cons, ih, State.trainAt_lanes]
      by_cases same : k = no <;> by_cases later : k ∈ nos <;>
        simp [same, later, Function.comp_def, LaneState.trained_trained]
  rw [State.trainLanes_eq, some', if_pos (mem_pumpNos k)]

end Sys2Proof.Machine
end

section
/-! SUPPORT. The machine statements, part 3: reports, a wafer that joins and leaves a domain, and a core retired in service (R232, R233,
R319, R349). -/

namespace Sys2Proof.Machine

/-! ## Fields of a record of bytes -/

theorem length_leBytes (n v : Nat) : (leBytes n v).length = n := by
  induction n generalizing v with
  | zero => rfl
  | succ n ih => rw [leBytes, List.length_cons, ih]

theorem ofLeBytes_leBytes {n v : Nat} (h : v < 256 ^ n) : ofLeBytes (leBytes n v) = v := by
  induction n generalizing v with
  | zero => simp at h; simp [leBytes, ofLeBytes, h]
  | succ n ih =>
    rw [leBytes, ofLeBytes, ih (by rw [Nat.pow_succ] at h; omega)]
    simp only [BitVec.toNat_ofNat]
    omega

/-- Bytes that are as many as the place for them stand there as they are. -/
theorem padBytes_eq {n : Nat} {bs : List Byte} (h : bs.length = n) : padBytes n bs = bs := by
  rw [padBytes, List.take_append_of_le_length h.ge, List.take_of_length_le h.le]

/-- The part of a record between what stands before it and what stands behind it. -/
theorem slice_append {before x : List Byte} {off n : Nat} (ho : before.length = off) (hn : x.length = n) (behind : List Byte) :
    ((before ++ (x ++ behind)).drop off).take n = x := by
  subst ho hn
  simp

theorem fieldAt_append {before : List Byte} {off n v : Nat} (ho : before.length = off) (hv : v < 256 ^ n) (behind : List Byte) :
    fieldAt (before ++ (leBytes n v ++ behind)) off n = v := by
  rw [fieldAt, slice_append ho (length_leBytes n v), ofLeBytes_leBytes hv]

/-! ## Reports (R319) -/

/-- What a report measures: bundle, version, FIELDID and the field's two digests. -/
def State.measures (s : State) (f : Option Field) : List Byte :=
  padBytes 64 s.fwm ++ (leBytes 8 s.flash.version ++ (leBytes 8 ((f.map s.fieldIdOf).getD 0).toNat ++
    (padBytes 64 ((f.map (·.imgm)).getD []) ++ padBytes 64 ((f.map s.rtmOf).getD []))))

theorem State.length_measures (s : State) (f : Option Field) : (s.measures f).length = 208 := by
  simp only [State.measures, List.length_append, length_padBytes, length_leBytes]

/-- What a report's signature covers: magic, format, kind, serial number, nonce, and what it measures. -/
def State.signedPart (s : State) (nonce : List Word) (f : Option Field) : List Byte :=
  leBytes 4 0x41545354 ++ (leBytes 2 1 ++ (leBytes 2 (if f.isSome then 2 else 1) ++ (leBytes 8 Config.serial.toNat ++
    (padBytes 32 (bytesOf nonce) ++ s.measures f))))

/-- A report is that, a signature, and 14 zero bytes. -/
theorem State.report_eq (s : State) (nonce : List Word) (f : Option Field) : ∃ signature : List Byte, signature.length = 114 ∧
    s.report nonce f = leBytes 4 0x41545354 ++ (leBytes 2 1 ++ (leBytes 2 (if f.isSome then 2 else 1) ++ (leBytes 8 Config.serial.toNat ++
      (padBytes 32 (bytesOf nonce) ++ (s.measures f ++ (signature ++ List.replicate 14 0)))))) := by
  refine ⟨padBytes 114 (Config.ed448Sign Config.deviceSecret (Config.shake256 (s.signedPart nonce f))), length_padBytes .., ?_⟩
  simp only [State.report, State.signedPart, State.measures, List.append_assoc]

theorem State.report_length (s : State) (nonce : List Word) (f : Option Field) : (s.report nonce f).length = 384 := by
  obtain ⟨signature, len, eq⟩ := s.report_eq nonce f
  simp [eq, len, length_padBytes, length_leBytes, State.length_measures]

/-- A wafer report depends on the flash alone (R318). -/
theorem State.report_wafer {s t : State} (h : t.flash = s.flash) (nonce : List Word) : t.report nonce none = s.report nonce none := by
  simp [State.report, State.fwm, h]

/-- The head of a report stands where R319 puts it. -/
theorem State.report_fields (s : State) (nonce : List Word) (f : Option Field) :
    fieldAt (s.report nonce f) 0 4 = 0x41545354 ∧ fieldAt (s.report nonce f) 4 2 = 1 ∧
    fieldAt (s.report nonce f) 6 2 = (if f.isSome then 2 else 1) ∧ fieldAt (s.report nonce f) 8 8 = Config.serial.toNat ∧
    fieldAt (s.report nonce f) 370 14 = 0 := by
  obtain ⟨signature, len, eq⟩ := s.report_eq nonce f
  rw [eq]
  refine ⟨fieldAt_append (before := []) rfl (by omega) _, fieldAt_append (length_leBytes ..) (by omega) _, ?_, ?_, ?_⟩
  · rw [← List.append_assoc]
    exact fieldAt_append (by simp [length_leBytes]) (by split <;> omega) _
  · rw [← List.append_assoc, ← List.append_assoc]
    exact fieldAt_append (by simp [length_leBytes]) (by have := Config.serial.isLt; omega) _
  · simp only [← List.append_assoc]
    rw [fieldAt, List.drop_left' (by simp [length_leBytes, length_padBytes, State.length_measures, len]), List.take_of_length_le (by simp)]
    exact ofLeBytes_replicate_zero 14

/-- A nonce of 32 bytes stands in a report as it was given. -/
theorem State.report_nonce (s : State) {nonce : List Word} (f : Option Field) (h : nonce.length = 4) :
    ((s.report nonce f).drop 16).take 32 = bytesOf nonce := by
  obtain ⟨signature, -, eq⟩ := s.report_eq nonce f
  have size : (bytesOf nonce).length = 32 := by
    simp [bytesOf, List.length_flatMap, length_leBytes, h]
  rw [eq, padBytes_eq size, ← List.append_assoc, ← List.append_assoc, ← List.append_assoc]
  exact slice_append (by simp [length_leBytes]) size _

/-! ## Mailbox commands (R384) -/

theorem State.mailbox_ready {s : State} (h : s.boot.ready = true) (k : State → State) : s.mailbox k = k s := if_pos h

theorem State.mailbox_notReady {s : State} (h : s.boot.ready = false) (k : State → State) :
    s.mailbox k = { s with sup := { s.sup with notReady := s.sup.notReady + 1 } } := by
  rw [State.mailbox, h]
  rfl

theorem execAttest_wafer {s : State} (h : s.boot.fail = true ∨ s.boot.ready = true) (nonce : List Word) :
    execAttest nonce none s = .next (s.reply (s.report nonce none)) := by
  rcases h with h | h
  · simp only [execAttest, h, if_true]
  · simp only [execAttest, State.mailbox_ready h, ite_self]

theorem execAttest_early {s : State} (failed : s.boot.fail = false) (ready : s.boot.ready = false) (nonce : List Word) :
    execAttest nonce none s = .next { s with sup := { s.sup with notReady := s.sup.notReady + 1 } } := by
  simp only [execAttest, failed, State.mailbox_notReady ready, Bool.false_eq_true, if_false]

theorem execAttest_noField {s : State} {id : Word} (ready : s.boot.ready = true) (h : ∀ f ∈ s.sup.fields, s.fieldIdOf f ≠ id)
    (nonce : List Word) : execAttest nonce (some id) s = .next s := by
  have none' : (s.sup.fields.find? fun f => s.fieldIdOf f = id) = none := by simpa using h
  simp only [execAttest, State.mailbox_ready ready, none']

theorem execAttest_field {s : State} {id : Word} {f : Field} (ready : s.boot.ready = true)
    (h : (s.sup.fields.find? fun f => s.fieldIdOf f = id) = some f) (nonce : List Word) :
    execAttest nonce (some id) s = .next (s.reply (s.report nonce (some f))) := by
  simp only [execAttest, State.mailbox_ready ready, h]

/-! ## Joining a domain (R232) -/

/-- The machine with a domain's map, taken without devices that are too slow. -/
def State.withDomain (s : State) (cfg : DomainCfg) : State :=
  s.mapSup fun u => { u with domain := some { cfg with ranges := cfg.ranges.filter DomainRange.accepted } }

/-- The machine as it has joined a domain, before the launch ring is read: lanes trained, and the wafer report given. -/
def State.joined (s : State) (cfg : DomainCfg) : State :=
  (s.withDomain cfg).trainLanes.reply ((s.withDomain cfg).trainLanes.report cfg.nonce none)

/-- The machine with other records in its launch ring. -/
def State.withRing (s : State) (ring : List (List Word)) : State := s.mapSup fun u => { u with ring := ring }

theorem execDomainConfig_joins {s : State} (ready : s.boot.ready = true) (h : s.sup.domain = none) (cfg : DomainCfg) :
    execDomainConfig cfg s = .next ((s.joined cfg).sup.ring.foldl State.readRecord ((s.joined cfg).withRing [])) := by
  unfold execDomainConfig
  rw [State.mailbox_ready ready, if_neg (by rw [h]; exact Bool.false_ne_true)]
  unfold State.joined State.withRing State.withDomain
  with_reducible rfl

theorem execDomainConfig_again {s : State} (ready : s.boot.ready = true) (h : s.sup.domain.isSome = true) (cfg : DomainCfg) :
    execDomainConfig cfg s = .next s := by
  simp only [execDomainConfig, State.mailbox_ready ready, h, if_true]

/-- Joining changes the pumps, the domain, the replies and the mail. -/
theorem State.joined_eq (s : State) (cfg : DomainCfg) : ∃ pumps free mail, s.joined cfg = { s with
    pumps := pumps, free := free
    sup := { s.sup with
      mail := mail, domain := some { cfg with ranges := cfg.ranges.filter DomainRange.accepted }
      replies := s.sup.replies ++ [s.report cfg.nonce none] } } := by
  have trained := (s.withDomain cfg).trainLanes_leaves
  unfold State.joined
  generalize (s.withDomain cfg).trainLanes = t at trained
  have report : t.report cfg.nonce none = s.report cfg.nonce none := by
    obtain ⟨_, _, _, eq⟩ := trained
    have flash : t.flash = s.flash := by rw [eq]; rfl
    exact State.report_wafer flash _
  rw [report]
  obtain ⟨pumps, free, mail, rfl⟩ := trained
  exact ⟨pumps, free, mail, rfl⟩

theorem State.joined_lanes (s : State) (cfg : DomainCfg) (no : BitVec 8) :
    ((s.joined cfg).pump no).lanes = (s.pump no).lanes.map LaneState.trained := by
  have reply (t : State) (r : List Byte) : (t.reply r).pump no = t.pump no := rfl
  rw [State.joined, reply, State.trainLanes_lanes]
  rfl

/-! What trains the lanes does not read the launch ring. -/

theorem State.installTable_withRing (s : State) (ring : List (List Word)) (no : BitVec 8) (t : Vector (Vector Slot 64) 8) :
    (s.withRing ring).installTable no t = (s.installTable no t).withRing ring := by
  have accepted (p : Pump) : (s.withRing ring).tableAccepted p t = s.tableAccepted p t := rfl
  have pump : (s.withRing ring).pump no = s.pump no := rfl
  have slot : (s.withRing ring).slot = s.slot := rfl
  simp only [State.installTable, accepted, pump, slot]
  split <;> rfl

theorem State.addSlots_withRing (s : State) (ring : List (List Word)) (n : Nat) (no : BitVec 8) (xs : List Slot) :
    (s.withRing ring).addSlots n no xs = (s.addSlots n no xs).map fun u => u.withRing ring := by
  have free (fnum : BitVec 16) (t : Vector (Vector Slot 64) 8) : (s.withRing ring).freeSlots no fnum t = s.freeSlots no fnum t := rfl
  have pump : (s.withRing ring).pump no = s.pump no := rfl
  have slot : (s.withRing ring).slot = s.slot := rfl
  have chosen (ys : List Slot) : (s.withRing ring).chosen n ys = (s.chosen n ys).withRing ring := rfl
  simp only [State.addSlots, free, pump, slot, chosen, State.installTable_withRing, Option.map_bind]
  congr 1
  funext t
  simp only [Function.comp_apply]
  split
  · rfl
  · split <;> rfl

theorem State.trainAt_withRing (s : State) (ring : List (List Word)) (no : BitVec 8) :
    (s.withRing ring).trainAt no = (s.trainAt no).withRing ring := by
  have train : (s.withRing ring).trainPump no = (s.trainPump no).withRing ring := rfl
  have pump (t : State) : (t.withRing ring).pump no = t.pump no := rfl
  have free (t : State) : (t.withRing ring).free = t.free := rfl
  simp only [State.trainAt, train, pump, free, State.addSlots_withRing]
  split
  · cases (s.trainPump no).addSlots (s.trainPump no).free no [] <;> rfl
  · rfl

theorem State.joined_withRing (s : State) (ring : List (List Word)) (cfg : DomainCfg) :
    (s.withRing ring).joined cfg = (s.joined cfg).withRing ring := by
  have train (nos : List (BitVec 8)) : ∀ t : State, nos.foldl State.trainAt (t.withRing ring) = (nos.foldl State.trainAt t).withRing ring := by
    induction nos with
    | nil => intro t; rfl
    | cons no nos ih => intro t; rw [List.foldl_cons, List.foldl_cons, State.trainAt_withRing, ih]
  have trained : ((s.withRing ring).withDomain cfg).trainLanes = (s.withDomain cfg).trainLanes.withRing ring := by
    rw [State.trainLanes_eq, State.trainLanes_eq]
    exact train pumpNos (s.withDomain cfg)
  have report (t : State) : (t.withRing ring).report cfg.nonce none = t.report cfg.nonce none := State.report_wafer rfl _
  have reply (t : State) (r : List Byte) : (t.withRing ring).reply r = (t.reply r).withRing ring := rfl
  rw [State.joined, State.joined, trained, report, reply]

/-! ## Leaving a domain (R233) -/

/-- Nothing of the domain is in flight: no field holds cores, no pump has a request or a walk, and the controllers' records have aged
out. -/
def State.LeftDomain (s : State) : Prop :=
  (∀ f ∈ s.sup.fields, f.phase = .descheduled) ∧
  (∀ p ∈ s.pumps, p.queue = [] ∧ p.placed = [] ∧ p.stalled = [] ∧ p.walkq = [] ∧ p.walks = []) ∧ s.cis.outcomes = []

theorem State.leftDomain_iff {s : State} : ((s.sup.fields.all fun f => f.phase = .descheduled) &&
    (s.pumps.all fun p => p.queue.isEmpty && p.placed.isEmpty && p.stalled.isEmpty && p.walkq.isEmpty && p.walks.isEmpty) &&
    s.cis.outcomes.isEmpty) = true ↔ s.LeftDomain := by
  simp only [State.LeftDomain, Bool.and_eq_true, List.all_eq_true, decide_eq_true_eq, List.isEmpty_iff, and_assoc]

theorem execDomainLeave_stays {s : State} (ready : s.boot.ready = true) (h : ¬ s.LeftDomain ∨ s.sup.domain = none) :
    execDomainLeave s = .next s := by
  unfold execDomainLeave
  dsimp only
  rw [State.mailbox_ready ready, if_pos]
  refine h.imp (fun h => ?_) fun h => by rw [h]; rfl
  rwa [Bool.not_eq_true', Bool.eq_false_iff, ne_eq, State.leftDomain_iff]

theorem execDomainLeave_leaves {s : State} (ready : s.boot.ready = true) (h : s.LeftDomain) (joined : s.sup.domain.isSome = true) :
    execDomainLeave s = .next { s with
      pumps := s.pumps.map fun p => { p with table := (Pump.blank p.no).table, next := [], prev := none, cache := [] }
      sup := { s.sup with domain := none } } := by
  unfold execDomainLeave
  dsimp only
  rw [State.mailbox_ready ready, State.leftDomain_iff.mpr h, if_neg]
  simp [Option.isSome_iff_ne_none.mp joined]

/-! ## A core retired in service (R349) -/

@[simp] theorem State.setCoreAt_wafer (s : State) (t : Site) (f : Core → Core) : (s.setCoreAt t f).wafer = s.wafer := by
  unfold State.setCoreAt; split <;> rfl

theorem State.holder_eq (s : State) (site : Site) : s.holder site = s.sup.fields.find? fun f => decide (site ∈ s.coreSites f) := by
  simp only [State.holder, List.contains_eq_mem]

theorem State.closeSeams_wafer (s : State) (f : Field) : (s.closeSeams f).wafer = s.wafer :=
  State.foldl_leaves State.wafer _ (fun _ _ => State.setCoreAt_wafer _ _ _) _ _

theorem State.closeSeams_fields (s : State) (f : Field) : (s.closeSeams f).sup.fields = s.sup.fields :=
  State.foldl_leaves (fun s => s.sup.fields) _ (fun _ _ => by rw [State.setCoreAt_sup]) _ _

theorem State.quiesceSeams_wafer (s : State) (sites : List Site) : (s.quiesceSeams sites).wafer = s.wafer :=
  (State.foldl_leaves State.wafer _ (fun _ _ => State.setCoreAt_wafer _ _ _) _ _).trans
    (State.foldl_leaves State.wafer _ (fun _ _ => State.setCoreAt_wafer _ _ _) _ _)

theorem State.quiesceSeams_sup (s : State) (sites : List Site) : (s.quiesceSeams sites).sup = s.sup :=
  (State.foldl_leaves State.sup _ (fun _ _ => State.setCoreAt_sup _ _ _) _ _).trans
    (State.foldl_leaves State.sup _ (fun _ _ => State.setCoreAt_sup _ _ _) _ _)

theorem State.stopField_wafer (s : State) (f : Field) (why : BitVec 2) : (s.stopField f why).wafer = s.wafer := by
  simp only [State.stopField, State.mapSup, State.quiesceSeams_wafer, State.setField, State.closeSeams_wafer]

/-- A field that is stopped stops for that reason. -/
theorem State.stopField_phase {s : State} {f : Field} (h : s.field f.fnum = some f) (why : BitVec 2) :
    ((s.stopField f why).field f.fnum).map (·.phase) = some (.stopping why) := by
  let stopped (g : Field) : Field := { g with phase := .stopping why, doneAt := if why = 2 then some (s.cyclesOf f) else f.doneAt }
  have fields : (s.stopField f why).sup.fields = s.sup.fields.map fun g => if g.fnum = f.fnum then stopped g else g := by
    simp only [State.stopField, State.mapSup, State.quiesceSeams_sup, State.setField, State.closeSeams_fields, stopped]
  have number : (fun g : Field => decide (g.fnum = f.fnum)) ∘ (fun g => if g.fnum = f.fnum then stopped g else g) =
      fun g => decide (g.fnum = f.fnum) := by
    funext g
    by_cases hg : g.fnum = f.fnum <;> simp [hg, stopped]
  rw [State.field, fields, List.find?_map, number, show s.sup.fields.find? _ = some f from h]
  simp [stopped]

theorem State.withheld_not_free {s : State} {site : Site} (h : site ∈ s.wafer.withheld) : s.free? site = false := by
  simp [State.free?, h]

theorem execCoreRetire_stays {s : State} {site : Site} (h : ∀ f, s.holder site = some f → f.options.getLsbD 0 = false ∨ f.phase ≠ .loaded) :
    execCoreRetire site s =
      .next { s with wafer := { s.wafer with logX := s.wafer.logX ++ [site], withheld := s.wafer.withheld ++ [site] } } := by
  unfold execCoreRetire
  dsimp only
  cases holder : s.holder site with
  | none => rfl
  | some f => exact congrArg _ (if_neg fun ⟨pre, loaded⟩ => (h f holder).elim (by simp [pre]) (absurd loaded))

theorem execCoreRetire_stops {s : State} {site : Site} {f : Field} (h : s.holder site = some f) (pre : f.options.getLsbD 0 = true)
    (loaded : f.phase = .loaded) : execCoreRetire site s = .next (State.stopField
      { s with wafer := { s.wafer with logX := s.wafer.logX ++ [site], withheld := s.wafer.withheld ++ [site] } } f 0) := by
  simp only [execCoreRetire, h, pre, loaded, and_self, if_true]

/-- Settles O59: reports field by field, and an equation for each case of the mailbox commands and of a core retired in service. -/
theorem serviceEvents : Obligations.ServiceEvents := by
  unfold Obligations.ServiceEvents
  intro s nonce id cfg site f sup refused reports bs left w holder
  have held : s.holder site = holder := s.holder_eq site
  refine ⟨fun h => execAttest_wafer h nonce, fun failed ready => execAttest_early failed ready nonce, ?early,
    fun ready no => execAttest_noField ready no nonce, fun ready some' => execAttest_field ready some' nonce, ?report,
    fun ready h => execDomainConfig_again ready h cfg, ?joins, ?record, execDomainLeave_stays, execDomainLeave_leaves,
    fun none' => execCoreRetire_stays fun g hg => ?_, fun some' stays => execCoreRetire_stays fun g hg => ?_, ?stops⟩
  case early =>
    intro ready
    exact ⟨congrArg _ (State.mailbox_notReady ready _), congrArg _ (State.mailbox_notReady ready _),
      congrArg _ (State.mailbox_notReady ready _)⟩
  case report =>
    intro o
    obtain ⟨magic, format, kind, serial, zero⟩ := s.report_fields nonce o
    exact ⟨s.report_length nonce o, magic, format, kind, serial, zero, s.report_nonce o⟩
  case joins =>
    intro ready apart empty
    have joins := execDomainConfig_joins ready apart cfg
    have lanes := s.joined_lanes cfg
    obtain ⟨pumps, free, mail, eq⟩ := s.joined_eq cfg
    rw [eq] at joins lanes
    simp only [empty, List.foldl_nil] at joins
    refine ⟨_, joins, rfl, rfl, rfl, rfl, rfl, rfl, fun no l => ?_⟩
    exact (congrArg (fun v : Vector LaneState 8 => v[l.toNat]) (lanes no)).trans (Vector.getElem_map ..)
  case record =>
    intro ready apart ws one
    have joins := execDomainConfig_joins ready apart cfg
    have emptied := execDomainConfig_joins (s := s.withRing []) ready apart cfg
    obtain ⟨pumps, free, mail, eq⟩ := s.joined_eq cfg
    rw [State.joined_withRing, eq] at emptied
    rw [eq] at joins
    simp only [one] at joins
    exact ⟨_, emptied, joins⟩
  next => rw [held, none'] at hg; cases hg
  next => rw [held, some'] at hg; cases hg; exact stays
  case stops =>
    intro some' found pre loaded
    refine ⟨_, execCoreRetire_stops (held.trans some') pre loaded, State.stopField_wafer _ _ _,
      State.stopField_phase (s := { s with wafer := w }) found 0, State.withheld_not_free ?_⟩
    rw [State.stopField_wafer]
    exact List.mem_append_right _ (List.mem_singleton.mpr rfl)

end Sys2Proof.Machine
end

section
/-! SUPPORT. The machine statements, part 4: the rectangles and pairs that enumeration chooses (R380, R381). -/

namespace Sys2Proof.Machine

/-! ## Masks of columns -/

/-- A row's mask has the columns that the sites of the row name. -/
theorem testBit_rowMask {sites : List Site} {row c : Nat} : (rowMask sites row).testBit c = true ↔ ⟨row, c⟩ ∈ sites := by
  have from' (m : Nat) : (sites.foldl (fun m t => if t.row = row then m ||| 2 ^ t.col else m) m).testBit c = true ↔
      m.testBit c = true ∨ ⟨row, c⟩ ∈ sites := by
    induction sites generalizing m with
    | nil => simp
    | cons t sites ih =>
      have here : (⟨row, c⟩ : Site) = t ↔ t.row = row ∧ t.col = c := by
        cases t
        simp [eq_comm]
      rw [List.foldl_cons, ih, List.mem_cons, here]
      split
      next same => simp [Nat.testBit_or, Nat.testBit_two_pow, same, or_assoc]
      next other => simp [other]
  unfold rowMask
  simpa using from' 0

/-! ## Candidates of R380 -/

/-- The columns of every stretch are good ones. -/
theorem mem_stretches {bad taken n : Nat} {run cols : List Nat} (h : cols ∈ stretches bad taken n run) :
    ∀ c ∈ cols, c ∈ run ∨ bad.testBit c = false := by
  induction n generalizing run with
  | zero =>
    obtain rfl := List.mem_singleton.mp h
    exact fun c hc => .inl hc
  | succ n ih =>
    unfold stretches at h
    dsimp only at h
    split at h
    · rcases List.mem_cons.mp h with rfl | h
      · exact fun c hc => .inl hc
      · exact fun c hc => (ih h c hc).imp_left (absurd · List.not_mem_nil)
    · split at h
      · exact ih h
      next good =>
        intro c hc
        rcases ih h c hc with old | new
        · rcases List.mem_append.mp old with old | here
          · exact .inl old
          · rw [List.mem_singleton.mp here]
            exact .inr (Bool.eq_false_iff.mpr good)
        · exact .inr new

/-- A fold that keeps the better of what it has and the next keeps what all of them have in common. -/
theorem foldl_option_keeps {α β : Type} (p : α → Prop) (f : Option α → β → Option α) (xs : List β)
    (h : ∀ best, ∀ y ∈ xs, (∀ x ∈ best, p x) → ∀ x ∈ f best y, p x) (best : Option α) (hb : ∀ x ∈ best, p x) :
    ∀ x ∈ xs.foldl f best, p x := by
  induction xs generalizing best with
  | nil => exact hb
  | cons y ys ih =>
    exact ih (fun best y hy => h best y (List.mem_cons_of_mem _ hy)) _ (h best y (List.mem_cons_self ..) hb)

/-- A candidate of a row range: it has columns, and none of them is bad there. -/
def Candidate.Of (a b bad : Nat) (x : Candidate) : Prop := x.a = a ∧ x.b = b ∧ x.cols ≠ [] ∧ ∀ c ∈ x.cols, bad.testBit c = false

theorem bestOfRows_of {a b bad taken : Nat} : ∀ x ∈ bestOfRows a b bad taken, x.Of a b bad := by
  refine foldl_option_keeps (Candidate.Of a b bad) _ _ (fun best cols hcols kept x hx => ?_) none (by simp)
  have new (some' : ¬ cols.isEmpty = true) : Candidate.Of a b bad { a := a, b := b, cols := cols } :=
    ⟨rfl, rfl, by simpa using some', fun c hc => (mem_stretches hcols c hc).resolve_left List.not_mem_nil⟩
  dsimp only at hx
  split at hx
  · exact kept x hx
  next some' =>
    split at hx
    · exact Option.some.inj hx ▸ new some'
    next y =>
      split at hx
      · exact Option.some.inj hx ▸ new some'
      · exact kept x hx

theorem pickBetter_keeps {p : Candidate → Prop} {x y : Option Candidate} (hx : ∀ z ∈ x, p z) (hy : ∀ z ∈ y, p z) :
    ∀ z ∈ pickBetter x y, p z := by
  unfold pickBetter
  split
  · exact hy
  · exact hx
  · split
    · exact hy
    · exact hx

/-- A candidate on the mesh: rows in order, and columns of which none is bad in any of its rows. -/
structure Candidate.Good (bad : List Nat) (x : Candidate) : Prop where
  cols : x.cols ≠ []
  rows : x.a ≤ x.b
  mesh : x.b < meshRows
  good : ∀ row, x.a ≤ row → row ≤ x.b → ∀ c ∈ x.cols, (bad.getD row 0).testBit c = false

/-- The best of the row ranges from a row on: bm is the mask of the rows from there to the next one. -/
theorem bestFrom_good {bad taken : List Nat} {a n bm tm : Nat} {best : Option Candidate} (hn : a + n ≤ meshRows)
    (hbm : ∀ row, a ≤ row → row < meshRows - n → ∀ c, bm.testBit c = false → (bad.getD row 0).testBit c = false)
    (hb : ∀ x ∈ best, x.Good bad) : ∀ x ∈ bestFrom bad taken a n bm tm best, x.Good bad := by
  induction n generalizing bm tm best with
  | zero => exact hb
  | succ n ih =>
    have cover (row : Nat) (ha : a ≤ row) (hr : row ≤ meshRows - (n + 1)) (c : Nat)
        (hc : (bm ||| bad.getD (meshRows - (n + 1)) 0).testBit c = false) : (bad.getD row 0).testBit c = false := by
      rw [Nat.testBit_or, Bool.or_eq_false_iff] at hc
      rcases Nat.lt_or_eq_of_le hr with before | rfl
      · exact hbm row ha before c hc.1
      · exact hc.2
    refine ih (by omega) (fun row ha hr => cover row ha (by omega)) (pickBetter_keeps hb fun x hx => ?_)
    obtain ⟨rfl, hxb, cols, good⟩ := bestOfRows_of x hx
    exact ⟨cols, by omega, by omega, fun row ha hr c hc => cover row ha (by omega) c (good c hc)⟩

theorem bestRect_good {bad : List Nat} {rs : List Rect} : ∀ x ∈ bestRect bad rs, x.Good bad := by
  refine foldl_option_keeps (Candidate.Good bad) _ _ (fun best a ha kept => ?_) none (by simp)
  have := List.mem_range.mp ha
  exact pickBetter_keeps kept (bestFrom_good (by omega) (fun row ha hr => by omega) (by simp))

/-! ## The rectangles chosen -/

/-- A rectangle on the mesh with columns that are good in each of its rows. -/
def Rect.Good (bad : List Nat) (r : Rect) : Prop := Candidate.Good bad { a := r.a, b := r.b, cols := r.cols }

/-- The next rectangle is the best, if there is one. (The definition's own equation cannot be formed without evaluating bestRect, which is
therefore a variable in this proof.) -/
theorem chooseRects_succ (bad : List Nat) (n : Nat) (rs : List Rect) : chooseRects bad (n + 1) rs =
    ((bestRect bad rs).map fun x => chooseRects bad n (rs ++ [{ a := x.a, b := x.b, cols := x.cols }])).getD rs := by
  delta chooseRects chooseRects._f
  generalize bestRect = best
  dsimp only [Nat.brecOn]
  cases best bad rs <;> rfl

theorem chooseRects_good {bad : List Nat} {n : Nat} {rs : List Rect} (h : ∀ r ∈ rs, r.Good bad) :
    (chooseRects bad n rs).length ≤ n + rs.length ∧ ∀ r ∈ chooseRects bad n rs, r.Good bad := by
  induction n generalizing rs with
  | zero => exact ⟨Nat.le_add_left .., h⟩
  | succ n ih =>
    rw [chooseRects_succ]
    cases best : bestRect bad rs with
    | none => exact ⟨Nat.le_add_left .., h⟩
    | some x =>
      have more : ∀ r ∈ rs ++ [{ a := x.a, b := x.b, cols := x.cols }], Rect.Good bad r := by
        simp only [List.mem_append, List.mem_singleton]
        rintro r (old | rfl)
        · exact h r old
        · exact bestRect_good x best
      obtain ⟨len, good⟩ := ih more
      refine ⟨?_, good⟩
      simp only [List.length_append, List.length_singleton, Option.map_some, Option.getD_some] at len ⊢
      omega

theorem chooseRects_nil {bad : List Nat} {n : Nat} :
    (chooseRects bad n []).length ≤ n ∧ ∀ r ∈ chooseRects bad n [], r.Good bad := chooseRects_good (List.forall_mem_nil _)

theorem Wafer.enumerate_length (w : Wafer) : w.enumerate.length ≤ 64 := by
  unfold Wafer.enumerate
  exact chooseRects_nil.1

/-- A rectangle has rows and columns, and no site in it is graded X or M (R15, R380). -/
theorem Wafer.mem_enumerate {w : Wafer} {r : Rect} (h : r ∈ w.enumerate) : r.cols ≠ [] ∧ r.a ≤ r.b ∧ r.b < meshRows ∧
    ∀ site : Site, r.a ≤ site.row → site.row ≤ r.b → site.col ∈ r.cols → site ∉ w.gradeX ∧ site ∉ w.gradeM := by
  unfold Wafer.enumerate at h
  obtain ⟨cols, rows, mesh, good⟩ := chooseRects_nil.2 r h
  refine ⟨cols, rows, mesh, fun site above below hc => ?_⟩
  have clear := good site.row above below site.col hc
  have row : site.row < meshRows := Nat.lt_of_le_of_lt below mesh
  rw [List.getD_eq_getElem?_getD, List.getElem?_map, List.getElem?_range row, Option.map_some, Option.getD_some,
    Bool.eq_false_iff, ne_eq, testBit_rowMask, List.mem_append, not_or] at clear
  exact clear

/-! ## Pairs (R381) -/

theorem mem_insertSite {x y : Site} {l : List Site} : x ∈ insertSite y l ↔ x = y ∨ x ∈ l := by
  induction l with
  | nil => simp [insertSite]
  | cons z l ih =>
    unfold insertSite
    split
    · simp
    · simp only [List.mem_cons, ih]
      tauto

theorem mem_foldr_insertSite {x : Site} {l : List Site} : x ∈ l.foldr insertSite [] ↔ x ∈ l := by
  induction l with
  | nil => simp
  | cons y l ih => rw [List.foldr_cons, mem_insertSite, ih, List.mem_cons]

/-- The neighbours of a site share an edge with it. -/
theorem mem_around {t u : Site} (h : u ∈ around t) : (t.row = u.row ∧ (t.col = u.col + 1 ∨ u.col = t.col + 1)) ∨
    (t.col = u.col ∧ (t.row = u.row + 1 ∨ u.row = t.row + 1)) := by
  unfold around at h
  simp only [List.mem_append, List.mem_cons, List.not_mem_nil, or_false] at h
  rcases h with (north | rfl | rfl) | west
  · split at north
    · cases north
    · obtain rfl := List.mem_singleton.mp north
      exact .inr ⟨rfl, .inl (by dsimp only; omega)⟩
  · simp
  · simp
  · split at west
    · cases west
    · obtain rfl := List.mem_singleton.mp west
      exact .inl ⟨rfl, .inl (by dsimp only; omega)⟩

/-- A site that has a place lies in a rectangle. -/
theorem Wafer.place_inside {w : Wafer} {site : Site} (h : (w.place site).isSome = true) :
    ∃ r ∈ w.rects, r.a ≤ site.row ∧ site.row ≤ r.b ∧ site.col ∈ r.cols := by
  obtain ⟨x, place⟩ := Option.isSome_iff_exists.mp h
  obtain ⟨⟨r, i⟩, hr, found⟩ := List.exists_of_findSome?_eq_some place
  dsimp only at found
  split at found
  next inside =>
    obtain ⟨above, below, col⟩ := inside
    refine ⟨r, (List.mem_zipIdx' hr).2 ▸ List.getElem_mem _, above, below, ?_⟩
    obtain ⟨c, hc, same⟩ := List.findIdx_lt_length.mp col
    exact of_decide_eq_true same ▸ hc
  next => cases found

/-- A checker is paired with the first of its neighbours that is in a rectangle and in no pair. -/
def Wafer.pairOf (w : Wafer) (ps : List (Site × Site)) (m : Site) : List (Site × Site) :=
  match (around m).find? fun t => (w.place t).isSome && !ps.any fun p => p.2 = t with
  | some t => ps ++ [(m, t)]
  | none => ps

theorem Wafer.pairing_eq (w : Wafer) : w.pairing = (w.gradeM.foldr insertSite []).foldl w.pairOf [] := rfl

/-- A site graded M and a neighbour in a rectangle. -/
def Wafer.Pairs (w : Wafer) (x : Site × Site) : Prop := x.1 ∈ w.gradeM ∧ x.2 ∈ around x.1 ∧ (w.place x.2).isSome = true

theorem Wafer.pairOf_pairs {w : Wafer} {ps : List (Site × Site)} {m : Site} (hm : m ∈ w.gradeM) (h : ∀ x ∈ ps, w.Pairs x) :
    ∀ x ∈ w.pairOf ps m, w.Pairs x := by
  unfold Wafer.pairOf
  split
  next t found =>
    have placed := List.find?_some found
    rw [Bool.and_eq_true] at placed
    simp only [List.mem_append, List.mem_singleton]
    rintro x (old | rfl)
    · exact h x old
    · exact ⟨hm, List.mem_of_find?_eq_some found, placed.1⟩
  next => exact h

theorem Wafer.mem_pairing {w : Wafer} : ∀ x ∈ w.pairing, w.Pairs x := by
  rw [w.pairing_eq]
  have graded : ∀ m ∈ w.gradeM.foldr insertSite [], m ∈ w.gradeM := fun m hm => mem_foldr_insertSite.mp hm
  exact List.foldlRecOn (motive := fun ps => ∀ x ∈ ps, w.Pairs x) _ _ (List.forall_mem_nil _) fun ps h m hm => Wafer.pairOf_pairs (graded m hm) h

end Sys2Proof.Machine
end

section
/-! SUPPORT. The machine statements, part 5: secure boot, by what the supervisors accept (R316, R383). -/

namespace Sys2Proof.Machine

/-! ## Phases of bring-up (R378) -/

/-- Bring-up has come to a phase and has not failed. -/
def Boot.At (b : Boot) (n : Nat) : Prop := b.phase = n ∧ b.fail = false

theorem State.inPhase_at {s : State} {n : Nat} (h : s.boot.At n) (k : State → State) : s.inPhase n k = k s := by
  obtain ⟨phase, fail⟩ := h
  exact if_pos ⟨phase, by rw [fail]; rfl⟩

theorem State.inPhase_not {s : State} {n : Nat} (h : ¬ s.boot.At n) (k : State → State) : s.inPhase n k = s :=
  if_neg fun ⟨phase, ok⟩ => h ⟨phase, by simpa using ok⟩

/-! ## Bundles -/

/-- Steps 1 to 4 of R316. -/
theorem Flash.accepts_iff {f : Flash} {b : Bundle} : f.accepts b = true ↔ b.key.length = 57 ∧
    Config.ed448Verify b.key (Config.shake256 b.body) b.sig = true ∧ Config.shake256 b.key = Config.rootDigest ∧ f.version ≤ b.version := by
  simp only [Flash.accepts, Bool.and_eq_true, decide_eq_true_eq, and_assoc]

/-- The bundle of the active bank, and that of the other. -/
def Flash.first (f : Flash) : Bundle := f.bank f.active
def Flash.second (f : Flash) : Bundle := f.bank f.other

theorem Flash.choice_first {f : Flash} (h : f.accepts f.first = true) : f.choice false = some f.first.body :=
  if_pos (by rw [Bool.not_false, Bool.true_and]; exact h)

theorem Flash.choice_second {f : Flash} (h : f.accepts f.second = true) : f.choice true = some f.second.body :=
  (if_neg (by simp)).trans (if_pos h)

theorem Flash.choice_none {f : Flash} (h : ¬ f.accepts f.second = true) : f.choice true = none :=
  (if_neg (by simp)).trans (if_neg h)

/-- Without a good first bundle a supervisor goes on to the second, as one does that rejects the first. -/
theorem Flash.choice_other {f : Flash} (h : ¬ f.accepts f.first = true) (rejects : Bool) : f.choice rejects = f.choice true := by
  cases rejects with
  | false => exact (if_neg (by rw [Bool.not_false, Bool.true_and]; exact h)).trans (if_neg (by simp)).symm
  | true => rfl

/-! ## What the supervisors pick -/

/-- The body that a supervisor accepts. -/
def Flash.pick (f : Flash) (rejecting : List (BitVec 5)) (i : BitVec 5) : Option (List Byte) := f.choice (rejecting.contains i)

/-- The bodies that they accept, by number. -/
def Flash.picks (f : Flash) (rejecting : List (BitVec 5)) : List (Option (List Byte)) :=
  (List.range 32).map fun i => f.pick rejecting (BitVec.ofNat 5 i)

theorem Flash.pick_rejects {f : Flash} {rejecting : List (BitVec 5)} {i : BitVec 5} (h : i ∈ rejecting) :
    f.pick rejecting i = f.choice true := by
  rw [Flash.pick, List.contains_iff_mem.mpr h]

theorem Flash.pick_keeps {f : Flash} {rejecting : List (BitVec 5)} {i : BitVec 5} (h : i ∉ rejecting) :
    f.pick rejecting i = f.choice false := by
  rw [Flash.pick, Bool.eq_false_iff.mpr fun c => h (List.contains_iff_mem.mp c)]

theorem Flash.mem_picks {f : Flash} {rejecting : List (BitVec 5)} {x : Option (List Byte)} :
    x ∈ f.picks rejecting ↔ ∃ i, f.pick rejecting i = x := by
  refine List.mem_map.trans ⟨fun ⟨i, _, h⟩ => ⟨_, h⟩, fun ⟨i, h⟩ => ⟨i.toNat, List.mem_range.mpr i.isLt, ?_⟩⟩
  rwa [BitVec.ofNat_toNat, BitVec.setWidth_eq]

/-- The first that accepts one is supervisor 0, where it does. -/
theorem Flash.picks_zero {f : Flash} {rejecting : List (BitVec 5)} {b : List Byte} (h : f.pick rejecting 0 = some b) :
    (f.picks rejecting).findSome? id = some b := by
  rw [Flash.picks, List.range_succ_eq_map, List.map_cons, List.findSome?_cons]
  simp only [id_eq, show f.pick rejecting (BitVec.ofNat 5 0) = some b from h]

/-- Where they accept one body or none, that body is the first. -/
theorem Flash.picks_only {f : Flash} {rejecting : List (BitVec 5)} {b : List Byte} {i : BitVec 5} (h : f.pick rejecting i = some b)
    (only : ∀ i, f.pick rejecting i = none ∨ f.pick rejecting i = some b) : (f.picks rejecting).findSome? id = some b := by
  cases first : (f.picks rejecting).findSome? id with
  | none =>
    have := List.findSome?_eq_none_iff.mp first _ (Flash.mem_picks.mpr ⟨i, h⟩)
    cases this
  | some c =>
    obtain ⟨x, hx, rfl⟩ := List.exists_of_findSome?_eq_some first
    obtain ⟨j, hj⟩ := Flash.mem_picks.mp hx
    rcases only j with no | yes
    · cases hj.symm.trans no
    · exact hj.symm.trans yes

/-! ## SECURE_BOOT -/

/-- The machine with the bundle that was accepted, if one was. -/
def State.accepted (s : State) (body : Option (List Byte)) : State := { s with flash := { s.flash with accepted := body } }

/-- Every supervisor accepts one digest. -/
theorem execSecureBoot_agreed {s : State} {rejecting : List (BitVec 5)} {b : List Byte} (h : s.boot.At 1)
    (first : (s.flash.picks rejecting).findSome? id = some b)
    (same : ∀ i, (s.flash.pick rejecting i).map Config.shake256 = some (Config.shake256 b)) :
    execSecureBoot rejecting s = .next ((s.accepted (some b)).toPhase 2) := by
  have all : (((s.flash.picks rejecting).map fun p => p.map Config.shake256).all fun d => d = some (Config.shake256 b)) = true := by
    simp only [List.all_map, List.all_eq_true, Function.comp_apply, decide_eq_true_eq]
    intro x hx
    obtain ⟨i, rfl⟩ := Flash.mem_picks.mp hx
    exact same i
  unfold Flash.picks Flash.pick at first all
  simp only [execSecureBoot, State.inPhase_at h, first, all, if_true, State.accepted]

/-- Some supervisor does not accept the digest that the first of them accepts. -/
theorem execSecureBoot_split {s : State} {rejecting : List (BitVec 5)} {b : List Byte} (h : s.boot.At 1)
    (first : (s.flash.picks rejecting).findSome? id = some b) {i : BitVec 5}
    (other : (s.flash.pick rejecting i).map Config.shake256 ≠ some (Config.shake256 b)) :
    execSecureBoot rejecting s = .next ((s.accepted (some b)).bootFail 2) := by
  have all : (((s.flash.picks rejecting).map fun p => p.map Config.shake256).all fun d => d = some (Config.shake256 b)) = false := by
    simp only [List.all_map, List.all_eq_false, Function.comp_apply, decide_eq_true_eq]
    exact ⟨_, Flash.mem_picks.mpr ⟨i, rfl⟩, other⟩
  unfold Flash.picks Flash.pick at first all
  simp only [execSecureBoot, State.inPhase_at h, first, all, Bool.false_eq_true, if_false, State.accepted]

/-- No supervisor accepts a bundle. -/
theorem execSecureBoot_none {s : State} {rejecting : List (BitVec 5)} (h : s.boot.At 1) (no : ∀ i, s.flash.pick rejecting i = none) :
    execSecureBoot rejecting s = .next ((s.accepted none).bootFail 1) := by
  have first : (s.flash.picks rejecting).findSome? id = none := by
    refine List.findSome?_eq_none_iff.mpr fun x hx => ?_
    obtain ⟨i, rfl⟩ := Flash.mem_picks.mp hx
    exact no i
  unfold Flash.picks Flash.pick at first
  simp only [execSecureBoot, State.inPhase_at h, first, State.accepted]

/-- All of them accept the same body. -/
theorem execSecureBoot_one {s : State} {rejecting : List (BitVec 5)} {b : List Byte} (h : s.boot.At 1)
    (same : ∀ i, s.flash.pick rejecting i = some b) : execSecureBoot rejecting s = .next ((s.accepted (some b)).toPhase 2) :=
  execSecureBoot_agreed h (Flash.picks_zero (same 0)) fun i => by rw [same i]; rfl

/-- Where the first bundle is bad the second decides, whatever is rejected. -/
theorem Flash.pick_second {f : Flash} {rejecting : List (BitVec 5)} (bad : ¬ f.accepts f.first = true) (i : BitVec 5) :
    f.pick rejecting i = f.choice true := Flash.choice_other bad _

/-- Where both bundles are good, one that rejects the first accepts the second. -/
theorem Flash.pick_both {f : Flash} {rejecting : List (BitVec 5)} (good : f.accepts f.first = true) (good2 : f.accepts f.second = true)
    (i : BitVec 5) : f.pick rejecting i = some (if i ∈ rejecting then f.second.body else f.first.body) := by
  split
  next h => rw [Flash.pick_rejects h, Flash.choice_second good2]
  next h => rw [Flash.pick_keeps h, Flash.choice_first good]

/-- Both bundles are good and some supervisors reject the first: they accept one digest where the two have the same. -/
theorem execSecureBoot_both_same {s : State} {rejecting : List (BitVec 5)} (h : s.boot.At 1) (good : s.flash.accepts s.flash.first = true)
    (good2 : s.flash.accepts s.flash.second = true) (same : Config.shake256 s.flash.second.body = Config.shake256 s.flash.first.body) :
    execSecureBoot rejecting s = .next ((s.accepted (some (if 0 ∈ rejecting then s.flash.second.body else s.flash.first.body))).toPhase 2) := by
  refine execSecureBoot_agreed h (Flash.picks_zero (Flash.pick_both good good2 0)) fun i => ?_
  rw [Flash.pick_both good good2 i, Option.map_some]
  split <;> split <;> simp only [same]

theorem execSecureBoot_both_differ {s : State} {rejecting : List (BitVec 5)} (h : s.boot.At 1) (good : s.flash.accepts s.flash.first = true)
    (good2 : s.flash.accepts s.flash.second = true) (differ : Config.shake256 s.flash.second.body ≠ Config.shake256 s.flash.first.body)
    (keeps : ∃ i, i ∉ rejecting) (rejects : ∃ i, i ∈ rejecting) : execSecureBoot rejecting s =
      .next ((s.accepted (some (if 0 ∈ rejecting then s.flash.second.body else s.flash.first.body))).bootFail 2) := by
  have picks := Flash.pick_both (rejecting := rejecting) good good2
  have splits (i : BitVec 5) := execSecureBoot_split h (Flash.picks_zero (picks 0)) (i := i)
  by_cases zero : (0 : BitVec 5) ∈ rejecting
  · obtain ⟨i, hi⟩ := keeps
    refine splits i ?_
    rw [picks i, if_neg hi, if_pos zero, Option.map_some]
    exact fun e => differ (Option.some.inj e).symm
  · obtain ⟨i, hi⟩ := rejects
    refine splits i ?_
    rw [picks i, if_pos hi, if_neg zero, Option.map_some]
    exact fun e => differ (Option.some.inj e)

/-- The first bundle alone is good, and some supervisors reject it. -/
theorem execSecureBoot_first_split {s : State} {rejecting : List (BitVec 5)} (h : s.boot.At 1) (good : s.flash.accepts s.flash.first = true)
    (bad : ¬ s.flash.accepts s.flash.second = true) (keeps : ∃ i, i ∉ rejecting) (rejects : ∃ i, i ∈ rejecting) :
    execSecureBoot rejecting s = .next ((s.accepted (some s.flash.first.body)).bootFail 2) := by
  obtain ⟨i, hi⟩ := keeps
  obtain ⟨j, hj⟩ := rejects
  have kept {i : BitVec 5} (hi : i ∉ rejecting) : s.flash.pick rejecting i = some s.flash.first.body :=
    (Flash.pick_keeps hi).trans (Flash.choice_first good)
  have none' {i : BitVec 5} (hi : i ∈ rejecting) : s.flash.pick rejecting i = none :=
    (Flash.pick_rejects hi).trans (Flash.choice_none bad)
  have only (i : BitVec 5) : s.flash.pick rejecting i = none ∨ s.flash.pick rejecting i = some s.flash.first.body :=
    (em (i ∈ rejecting)).imp none' kept
  exact execSecureBoot_split h (Flash.picks_only (kept hi) only) (i := j) (by rw [none' hj]; exact nofun)

end Sys2Proof.Machine
end

section
/-! SUPPORT. The machine statements, part 6: calibration, grading, enumeration, photonics, resets and firmware (R378 to R385). -/

namespace Sys2Proof.Machine

/-! ## Calibration (R378, R379) -/

/-- The lowest level that passes, of the 33. -/
theorem lowestPass_eq_some {ks : List Nat} {k : Nat} : lowestPass ks = some k ↔ k ∈ ks ∧ k < 33 ∧ ∀ j < k, j ∉ ks := by
  simp [lowestPass, supplySteps, List.find?_range_eq_some]

theorem lowestPass_isNone {ks : List Nat} : (lowestPass ks).isNone = true ↔ ∀ k ∈ ks, 33 ≤ k := by
  rw [Option.isNone_iff_eq_none, lowestPass, List.find?_range_eq_none]
  simp only [supplySteps, List.contains_eq_mem, Bool.not_eq_true', decide_eq_false_iff_not]
  exact ⟨fun h k hk => Nat.le_of_not_lt fun small => h k small hk, fun h k small hk => absurd (h k hk) (Nat.not_le_of_lt small)⟩

/-- A site lies in a clock region (R3). -/
def InRegion (r : Region) (t : Site) : Prop := 16 * r.row ≤ t.row ∧ t.row < 16 * r.row + 16 ∧ 16 * r.col ≤ t.col ∧ t.col < 16 * r.col + 16

theorem mem_regionSites {r : Region} {t : Site} : t ∈ regionSites r ↔ InRegion r t := by
  simp only [regionSites, List.mem_flatMap, List.mem_map, List.mem_range, InRegion]
  constructor
  · rintro ⟨i, hi, j, hj, rfl⟩
    dsimp only
    omega
  · rintro ⟨h1, h2, h3, h4⟩
    refine ⟨t.row - 16 * r.row, by omega, t.col - 16 * r.col, by omega, ?_⟩
    rw [Nat.add_sub_cancel' h1, Nat.add_sub_cancel' h3]

/-- What SUPPLY gives the regions, and the regions where no level passes. -/
def supplyLevels (passes : List (Region × List Nat)) : List (Region × Nat) :=
  passes.filterMap fun (r, ks) => (lowestPass ks).map fun k => (r, k)
def supplyDead (passes : List (Region × List Nat)) : List Region := (passes.filter fun x => (lowestPass x.2).isNone).map (·.1)

theorem mem_supplyLevels {passes : List (Region × List Nat)} {r : Region} {k : Nat} :
    (r, k) ∈ supplyLevels passes ↔ ∃ ks, (r, ks) ∈ passes ∧ k ∈ ks ∧ k < 33 ∧ ∀ j < k, j ∉ ks := by
  simp only [supplyLevels, List.mem_filterMap, Prod.exists, Option.map_eq_some_iff, Prod.mk.injEq, lowestPass_eq_some]
  constructor
  · rintro ⟨r', ks, hks, k', hk, rfl, rfl⟩
    exact ⟨ks, hks, hk⟩
  · rintro ⟨ks, hks, hk⟩
    exact ⟨r, ks, hks, k, hk, rfl, rfl⟩

theorem mem_supplyDead {passes : List (Region × List Nat)} {t : Site} :
    t ∈ (supplyDead passes).flatMap regionSites ↔ ∃ x ∈ passes, (∀ k ∈ x.2, 33 ≤ k) ∧ InRegion x.1 t := by
  simp only [supplyDead, List.mem_flatMap, List.mem_map, List.mem_filter, lowestPass_isNone, mem_regionSites]
  constructor
  · rintro ⟨_, ⟨x, ⟨hx, dead⟩, rfl⟩, ht⟩
    exact ⟨x, hx, dead, ht⟩
  · rintro ⟨x, hx, dead, ht⟩
    exact ⟨_, ⟨x, ⟨hx, dead⟩, rfl⟩, ht⟩

/-- The machine with its regions' supplies, and with the sites of dead ones logged. -/
def State.supplied (s : State) (passes : List (Region × List Nat)) : State :=
  { s with wafer := { s.wafer with supply := supplyLevels passes, logX := s.wafer.logX ++ (supplyDead passes).flatMap regionSites } }

theorem execSupply_at {s : State} (h : s.boot.At 2) (passes : List (Region × List Nat)) (ok : Bool) :
    execSupply ⟨passes, ok⟩ s = .next (if ok then (s.supplied passes).toPhase 3 else (s.supplied passes).bootFail 3) :=
  congrArg _ (State.inPhase_at h _)

/-- The machine with clock regions logged, and every core's cycles counting from 0. -/
def State.clocked (s : State) (slow dead : List Region) : State :=
  let w := { s.wafer with logB := s.wafer.logB ++ slow, logX := s.wafer.logX ++ dead.flatMap regionSites }
  { s with wafer := w }.mapCores fun c => { c with csr := { c.csr with cycle := 0 } }

theorem execClocks_at {s : State} (h : s.boot.At 3) (slow dead : List Region) :
    execClocks slow dead s = .next ((s.clocked slow dead).toPhase 4) := congrArg _ (State.inPhase_at h _)

/-- The machine with sites logged, and every well zero. -/
def State.zeroed (s : State) (bad : List Site) : State :=
  { s with wafer := { s.wafer with logX := s.wafer.logX ++ bad } }.mapCores fun c => { c with well := Well.reset }

theorem execWellInit_at {s : State} (h : s.boot.At 4) (bad : List Site) : execWellInit bad s = .next ((s.zeroed bad).toPhase 5) :=
  congrArg _ (State.inPhase_at h _)

/-! ## Grading (R12, R379) -/

/-- The more restrictive of fuse map and log. -/
def Wafer.graded (w : Wafer) : Wafer :=
  let x := (w.fuseX ++ w.logX).eraseDups
  { w with
    gradeX := x, gradeM := ((w.fuseM ++ w.logM).eraseDups).filter fun t => !x.contains t, gradeB := (w.fuseB ++ w.logB).eraseDups
    withheld := [] }

theorem execGrading_at {s : State} (h : s.boot.At 5) : execGrading s = .next ({ s with wafer := s.wafer.graded }.toPhase 6) :=
  congrArg _ (State.inPhase_at h _)

theorem Wafer.mem_gradeX {w : Wafer} {x : Site} : x ∈ w.graded.gradeX ↔ x ∈ w.fuseX ∨ x ∈ w.logX :=
  List.mem_eraseDups.trans List.mem_append

theorem Wafer.mem_gradeB {w : Wafer} {x : Region} : x ∈ w.graded.gradeB ↔ x ∈ w.fuseB ∨ x ∈ w.logB :=
  List.mem_eraseDups.trans List.mem_append

theorem Wafer.mem_gradeM {w : Wafer} {x : Site} : x ∈ w.graded.gradeM ↔ (x ∈ w.fuseM ∨ x ∈ w.logM) ∧ x ∉ w.graded.gradeX := by
  refine List.mem_filter.trans (and_congr (List.mem_eraseDups.trans List.mem_append) ?_)
  rw [List.contains_eq_mem, Bool.not_eq_true', decide_eq_false_iff_not]
  rfl

/-! ## Enumeration (R380 to R382) -/

/-- The machine as enumeration has chosen rectangles, with every core that has been touched cleared. -/
def State.enumeratedAs (s : State) (rs : List Rect) : State :=
  let w := { s.wafer with rects := rs, lowered := [] }
  let s1 := { s with wafer := { w with pairs := w.pairing }, boot := { s.boot with below := Wafer.below { w with pairs := w.pairing } } }
  s1.mapCores s1.enumerated

theorem execEnumeration_at {s : State} (h : s.boot.At 6) : execEnumeration s = .next
    (if s.wafer.enumerate.isEmpty then (s.enumeratedAs s.wafer.enumerate).bootFail 4 else (s.enumeratedAs s.wafer.enumerate).toPhase 7) := by
  unfold execEnumeration
  rw [State.inPhase_at h]
  generalize s.wafer.enumerate = rs
  rfl

/-- A cleared core is still the one of its site. -/
theorem State.enumerated_site (s : State) (c : Core) : (s.enumerated c).ident.site = c.ident.site := s.untouched_site c.ident.site

theorem State.enumerated_strand (s : State) (c : Core) (n : StrandNo) : (s.enumerated c).strand n = Strand.blank :=
  Vector.getElem_replicate ..

theorem State.enumeratedAs_others (s : State) (rs : List Rect) : (s.enumeratedAs rs).others.map (fun c => (c.ident.site, c.csr.cycle)) =
    s.others.map fun c => (c.ident.site, c.csr.cycle) := by
  refine (List.map_map ..).trans (List.map_congr_left fun c _ => ?_)
  exact congrArg (·, c.csr.cycle) (State.enumerated_site _ c)

theorem State.enumeratedAs_strand (s : State) (rs : List Rect) :
    ∀ c ∈ (s.enumeratedAs rs).others, ∀ n : StrandNo, c.strand n = Strand.blank := by
  intro c hc n
  obtain ⟨d, -, rfl⟩ := List.mem_map.mp hc
  exact State.enumerated_strand _ d n

theorem State.enumeratedAs_core (s : State) (rs : List Rect) : (s.enumeratedAs rs).core.ident.site = s.core.ident.site ∧
    ∀ n : StrandNo, (s.enumeratedAs rs).core.strand n = Strand.blank :=
  ⟨State.enumerated_site _ s.core, State.enumerated_strand _ s.core⟩

/-- A pair is a site graded M and a neighbour in one of the rectangles. -/
theorem State.enumeratedAs_pairs {s : State} {rs : List Rect} {p q : Site} (h : (p, q) ∈ (s.enumeratedAs rs).wafer.pairs) :
    p ∈ s.wafer.gradeM ∧ ((p.row = q.row ∧ (p.col = q.col + 1 ∨ q.col = p.col + 1)) ∨
      (p.col = q.col ∧ (p.row = q.row + 1 ∨ q.row = p.row + 1))) ∧ ∃ r ∈ rs, r.a ≤ q.row ∧ q.row ≤ r.b ∧ q.col ∈ r.cols := by
  obtain ⟨graded, near, placed⟩ := Wafer.mem_pairing _ h
  exact ⟨graded, mem_around near, Wafer.place_inside placed⟩

/-! ## Photonics (R378, R379) -/

/-- A lane marked dead. -/
def State.killLane (s : State) (x : BitVec 8 × BitVec 3) : State := s.setPump x.1 fun p => { p with lanes := p.lanes.set x.2.toNat .dead }

theorem State.killLane_lane (s : State) (x : BitVec 8 × BitVec 3) (no : BitVec 8) (l : BitVec 3) :
    ((s.killLane x).pump no).lanes[l.toNat] = if (no, l) = x then .dead else (s.pump no).lanes[l.toNat] := by
  obtain ⟨no', l'⟩ := x
  unfold State.killLane
  rw [State.pump_setPump s no' no _ (by simp)]
  by_cases hn : no = no'
  · subst hn
    rw [if_pos rfl]
    by_cases hl : l = l'
    · subst hl
      simp
    · have apart : l'.toNat ≠ l.toNat := fun e => hl (BitVec.eq_of_toNat_eq e.symm)
      rw [if_neg fun h => hl (Prod.mk.inj h).2]
      exact Vector.getElem_set_ne l'.isLt l.isLt apart
  · rw [if_neg hn, if_neg fun h => hn (Prod.mk.inj h).1]

theorem State.killLanes_lane (xs : List (BitVec 8 × BitVec 3)) (s : State) (no : BitVec 8) (l : BitVec 3) :
    ((xs.foldl State.killLane s).pump no).lanes[l.toNat] = if (no, l) ∈ xs then .dead else (s.pump no).lanes[l.toNat] := by
  induction xs generalizing s with
  | nil => simp
  | cons x xs ih =>
    rw [List.foldl_cons, ih, State.killLane_lane]
    by_cases here : (no, l) = x <;> by_cases later : (no, l) ∈ xs <;> simp [here, later]

/-- The machine with lanes marked dead. -/
def State.withDead (s : State) (lanes : List (BitVec 8 × BitVec 3)) : State :=
  lanes.foldl State.killLane { s with wafer := { s.wafer with deadLanes := lanes.eraseDups } }

theorem execPhotonics_at {s : State} (h : s.boot.At 7) (lanes : List (BitVec 8 × BitVec 3)) :
    execPhotonics lanes s = .next { s.withDead lanes with boot := { (s.withDead lanes).boot with phase := 8, ready := true } } :=
  congrArg _ (State.inPhase_at h _)

/-- Marking lanes changes the pumps, and the wafer's list of dead lanes. -/
theorem State.withDead_eq (s : State) (lanes : List (BitVec 8 × BitVec 3)) : ∃ pumps,
    s.withDead lanes = { s with pumps := pumps, wafer := { s.wafer with deadLanes := lanes.eraseDups } } := by
  have pumps (xs : List (BitVec 8 × BitVec 3)) : ∀ t : State, ∃ pumps, xs.foldl State.killLane t = { t with pumps := pumps } := by
    induction xs with
    | nil => exact fun t => ⟨_, rfl⟩
    | cons x xs ih =>
      intro t
      obtain ⟨pumps, eq⟩ := ih (t.killLane x)
      exact ⟨pumps, eq⟩
  exact pumps lanes _

/-! ## Attachments (R13, R24) -/

theorem Wafer.reach_here {w : Wafer} {site : Site} (h : w.through site = false) : w.reach site = [site] := by
  simp [Wafer.reach, h]

theorem Wafer.reach_ends {w : Wafer} {site : Site} (h : w.through site = true) :
    w.reach site = (w.neighbour site .w).toList ++ (w.neighbour site .e).toList := by
  simp [Wafer.reach, h]

theorem pumpAt_west {no : BitVec 8} (h : no.toNat < 112) : pumpAt no = (⟨3 * no.toNat + 1, 0⟩, .w) := if_pos h

theorem pumpAt_east {no : BitVec 8} (h : 112 ≤ no.toNat) (h' : no.toNat < 224) : pumpAt no = (⟨3 * (no.toNat - 112) + 1, 463⟩, .e) :=
  (if_neg (by omega)).trans (if_pos h')

theorem pumpAt_south {no : BitVec 8} (h : 224 ≤ no.toNat) (h' : no.toNat < 240) :
    pumpAt no = (⟨335, 29 * (no.toNat - 224) + 14⟩, .s) :=
  (if_neg (by omega)).trans ((if_neg (by omega)).trans (if_pos h'))

theorem pumpAt_north {no : BitVec 8} (h : 240 ≤ no.toNat) : pumpAt no = (⟨0, 29 * (no.toNat - 240) + 14⟩, .n) :=
  (if_neg (by omega)).trans ((if_neg (by omega)).trans (if_neg (by omega)))

theorem hostPort_toNat {k : Nat} (h : k < 32) : (hostPort k).toNat = k / 8 := by
  rw [hostPort, BitVec.toNat_ofNat]
  omega

/-! ## Firmware (R316) -/

/-- The banks with a bundle written into the one that is not active. -/
def Flash.written (f : Flash) (b : Bundle) : List Bundle := if f.active = 0 then [f.bank 0, b] else [b, f.bank 1]

/-- That bank then holds the bundle, and the active one what it held. -/
theorem Flash.written_banks {f : Flash} (two : f.active = 0 ∨ f.active = 1) (b : Bundle) :
    Flash.bank { f with banks := f.written b } f.other = b ∧ Flash.bank { f with banks := f.written b } f.active = f.first := by
  unfold Flash.written Flash.first Flash.other
  rcases two with zero | one
  · rw [zero]
    exact ⟨rfl, rfl⟩
  · rw [one]
    exact ⟨rfl, rfl⟩

/-- The written bank becomes active where its bundle passes. -/
theorem execBundleUpdate_ready {s : State} (ready : s.boot.ready = true) (b : Bundle) : execBundleUpdate b s = .next { s with
    flash := { s.flash with banks := s.flash.written b, active := if s.flash.accepts b then s.flash.other else s.flash.active } } := by
  unfold execBundleUpdate
  dsimp only
  rw [State.mailbox_ready ready]
  split <;> rfl

theorem execVersionAdvance_steps {s : State} (accepted : s.flash.accepted.isSome = true) (left : s.flash.version < 64) :
    execVersionAdvance s = .next { s with flash := { s.flash with version := s.flash.version + 1 } } := congrArg _ (if_pos ⟨accepted, left⟩)

theorem execVersionAdvance_stays {s : State} (h : s.flash.accepted = none ∨ 64 ≤ s.flash.version) : execVersionAdvance s = .next s := by
  refine congrArg _ (if_neg fun ⟨accepted, left⟩ => h.elim (fun none' => ?_) (Nat.not_le_of_lt left))
  rw [none'] at accepted
  cases accepted

end Sys2Proof.Machine
end

section
/-! SUPPORT. The machine statements, part 7: bring-up, phase by phase (R378 to R385). -/

namespace Sys2Proof.Machine

/-- An event with a next state runs to it. -/
theorem Runs.intro {i : Instr} {s t : State} {P : State → Prop} (h : exec i s = .next t) (hP : P t) : Runs i s P := ⟨t, h, hP⟩

/-- An event with a next state runs with P where every state that it may be shown to give has P. -/
theorem Runs.of_next {i : Instr} {s : State} {P : State → Prop} (next : ∃ t, exec i s = .next t)
    (h : ∀ t, (∀ u, exec i s = .next u → t = u) → P t) : Runs i s P := by
  obtain ⟨t, ht⟩ := next
  exact ⟨t, ht, h t fun u hu => Host.Outcome.next.inj (ht.symm.trans hu)⟩

/-- Settles O60: secure boot by what the supervisors accept, and an equation of the model for each other step. -/
theorem bringupEvents : Obligations.BringupEvents := by
  unfold Obligations.BringupEvents
  intro s reject passes ok slow dead bad lanes port bundle site no k r at' phase fails w log fl accepts bank first second again graded rects inside
  have good (x : Bundle) : fl.accepts x = true ↔ accepts x := Flash.accepts_iff
  have runs (reject : List (BitVec 5)) : ∃ t, exec (.secureBoot reject) s = .next t := ⟨_, rfl⟩
  -- a first bundle that is bad: the second decides, whatever is rejected
  have neither {reject} (h : at' 1) (a : ¬ accepts first) (b : ¬ accepts second) :
      exec (.secureBoot reject) s = .next (fails (s.accepted none) 1) :=
    execSecureBoot_none h fun i => (Flash.pick_second (mt (good _).mp a) i).trans (Flash.choice_none (mt (good _).mp b))
  have onlySecond {reject} (h : at' 1) (a : ¬ accepts first) (b : accepts second) :
      exec (.secureBoot reject) s = .next (phase (s.accepted (some second.body)) 2) :=
    execSecureBoot_one h fun i => (Flash.pick_second (mt (good _).mp a) i).trans (Flash.choice_second ((good _).mpr b))
  have restarted : again s.restart := ⟨rfl, rfl, rfl, rfl, rfl, rfl, rfl, rfl, rfl, rfl, rfl, rfl, rfl, rfl, rfl, rfl, rfl⟩
  refine ⟨fun h => congrArg _ (if_pos h), fun h => congrArg _ (if_neg h),
    ⟨fun h => congrArg _ (State.inPhase_not h _), fun h => congrArg _ (State.inPhase_not h _), fun h => congrArg _ (State.inPhase_not h _),
      fun h => congrArg _ (State.inPhase_not h _), fun h => congrArg _ (State.inPhase_not h _), fun h => congrArg _ (State.inPhase_not h _),
      fun h => congrArg _ (State.inPhase_not h _)⟩,
    ?allKeep, ?allReject, ?someReject, ?supply, ?clocks, ?wells, ?grading, ?enumeration, ?rects, ?below, ?photonics,
    ⟨pumpAt_west, pumpAt_east, pumpAt_south, pumpAt_north⟩, rfl, hostPort_toNat, Wafer.reach_here, Wafer.reach_ends, rfl,
    ⟨_, rfl, restarted, rfl⟩, ⟨_, rfl, restarted, rfl⟩, rfl,
    fun early => congrArg _ (State.mailbox_notReady early _), ?bundle, fun h => execVersionAdvance_steps h.1 h.2, execVersionAdvance_stays⟩
  case allKeep =>
    rintro h rfl
    refine Runs.of_next (runs _) fun t next => ⟨fun a => next _ ?_, fun a b => next _ (onlySecond h a b), fun a b => next _ (neither h a b)⟩
    exact execSecureBoot_one h fun i => (Flash.pick_keeps List.not_mem_nil).trans (Flash.choice_first ((good _).mpr a))
  case allReject =>
    intro h all
    refine Runs.of_next (runs _) fun t next => ⟨fun b => next _ ?_, fun b => next _ ?_⟩
    · exact execSecureBoot_one h fun i => (Flash.pick_rejects (all i)).trans (Flash.choice_second ((good _).mpr b))
    · exact execSecureBoot_none h fun i => (Flash.pick_rejects (all i)).trans (Flash.choice_none (mt (good _).mp b))
  case someReject =>
    intro h keeps rejects
    refine Runs.of_next (runs _) fun t next => ⟨fun a b => next _ (neither h a b), fun a b => next _ (onlySecond h a b),
      fun a b same => next _ (execSecureBoot_both_same h ((good _).mpr a) ((good _).mpr b) same), fun a differ => ?_⟩
    by_cases b : accepts second
    · exact ⟨_, next _ (execSecureBoot_both_differ h ((good _).mpr a) ((good _).mpr b) (differ b) keeps rejects), absurd b, fun _ => rfl⟩
    · exact ⟨_, next _ (execSecureBoot_first_split h ((good _).mpr a) (mt (good _).mp b) keeps rejects), fun _ => rfl, (absurd · b)⟩
  case supply =>
    intro h
    have levels : (r, k) ∈ (s.supplied passes).wafer.supply ↔ _ := mem_supplyLevels
    have logged (t : Site) : t ∈ (s.supplied passes).wafer.logX ↔ _ := List.mem_append.trans (or_congr_right mem_supplyDead)
    refine Runs.intro (execSupply_at h passes ok) ?_
    cases ok with
    | true => exact ⟨rfl, rfl, rfl, levels, logged, rfl, rfl⟩
    | false => exact ⟨rfl, rfl, rfl, levels, logged, rfl, rfl⟩
  case clocks =>
    intro h
    refine Runs.intro (execClocks_at h slow dead) ⟨rfl, rfl, rfl, fun t => ?_, rfl, rfl⟩
    refine List.mem_append.trans (or_congr_right (List.mem_flatMap.trans ?_))
    simp only [mem_regionSites, InRegion]
  case wells =>
    intro h
    exact Runs.intro (execWellInit_at h bad) ⟨rfl, rfl, rfl, rfl, rfl, fun _ => rfl⟩
  case grading =>
    intro h
    exact Runs.intro (execGrading_at h)
      ⟨rfl, ⟨fun x => Wafer.mem_gradeX, fun x => Wafer.mem_gradeM, fun x => Wafer.mem_gradeB, rfl, rfl⟩, rfl, rfl⟩
  case enumeration =>
    intro h
    have pairs (p q : Site) := State.enumeratedAs_pairs (s := s) (rs := rects) (p := p) (q := q)
    have others := s.enumeratedAs_others rects
    have strands := s.enumeratedAs_strand rects
    obtain ⟨named, blank⟩ := s.enumeratedAs_core rects
    have chosen : rects = s.wafer.enumerate := rfl
    clear_value rects
    refine Runs.intro (execEnumeration_at h) ?_
    rw [← chosen]
    cases rects with
    | nil =>
      exact ⟨rfl, rfl, others, rfl, strands, rfl, named, rfl, blank, pairs, (absurd rfl ·), fun _ => ⟨h.1, rfl, rfl⟩⟩
    | cons r rs =>
      exact ⟨rfl, rfl, others, rfl, strands, rfl, named, rfl, blank, pairs, fun _ => ⟨rfl, h.2⟩, nofun⟩
  case rects =>
    refine ⟨w.enumerate_length, fun r hr => ?_⟩
    obtain ⟨cols, rows, mesh, clear⟩ := Wafer.mem_enumerate hr
    exact ⟨cols, rows, mesh, fun ⟨above, below, col⟩ => clear site above below col⟩
  case below => simp only [Wafer.below, Bool.or_eq_true, decide_eq_true_eq]
  case photonics =>
    intro h
    obtain ⟨pumps, eq⟩ := s.withDead_eq lanes
    refine Runs.intro (execPhotonics_at h lanes) ⟨?_, ?_, ?_, fun x => ?_, fun no l => State.killLanes_lane lanes _ no l⟩
    · rw [eq]
    · rw [eq]
    · rw [eq]
    · rw [eq]
      exact List.mem_eraseDups
  case bundle =>
    intro ready two
    obtain ⟨other, active⟩ := Flash.written_banks two bundle
    exact Runs.intro (execBundleUpdate_ready ready bundle)
      ⟨_, _, rfl, other, active, fun a => if_pos ((good _).mpr a), fun a => if_neg (mt (good _).mp a)⟩

end Sys2Proof.Machine
end

section
/-! SUPPORT. The words, part 1: codes and fields, read both ways (R34 to R47). -/

namespace Sys2Proof

/-! ## Codes -/

@[simp] theorem unbit_bit (b : Bool) : unbit (bit b) = b := by cases b <;> rfl

@[simp] theorem bit_unbit (x : BitVec 1) : bit (unbit x) = x := by decide +revert

theorem exists_bit (x : BitVec 1) : ∃ b, x = bit b := ⟨unbit x, (bit_unbit x).symm⟩

@[simp] theorem Sz.ofCode_code (z : Sz) : Sz.ofCode z.code = z := by cases z <;> rfl

@[simp] theorem Sz.code_ofCode (x : BitVec 2) : (Sz.ofCode x).code = x := by decide +revert

theorem Sz.exists_code (x : BitVec 2) : ∃ z : Sz, x = z.code := ⟨Sz.ofCode x, (Sz.code_ofCode x).symm⟩

@[simp] theorem Prec.ofCode_code (p : Prec) : Prec.ofCode p.code = p := by cases p <;> rfl

theorem Prec.exists_code (x : BitVec 1) : ∃ p : Prec, x = p.code := ⟨Prec.ofCode x, by decide +revert⟩

theorem Rm.ofCode_eq_some {x : BitVec 3} {r : Rm} : Rm.ofCode x = some r ↔ x = r.code := by
  cases r <;> decide +revert

theorem Ty.ofCode_eq_some {x : BitVec 4} {t : Ty} : Ty.ofCode x = some t ↔ x = t.code := by
  cases t <;> decide +revert

theorem Bfmt.ofCode_eq_some {x : BitVec 2} {f : Bfmt} : Bfmt.ofCode x = some f ↔ x = f.code := by
  cases f <;> decide +revert

theorem Scope.ofCode_eq_some {x : BitVec 3} {s : Scope} : Scope.ofCode x = some s ↔ x = s.code := by
  cases s <;> decide +revert

theorem MxTy.ofCode_eq_some {x : BitVec 3} {t : MxTy} : MxTy.ofCode x = some t ↔ x = t.code := by
  cases t <;> decide +revert

theorem Tiles.ofCode_eq_some {x : BitVec 2} {t : Tiles} : Tiles.ofCode x = some t ↔ x = t.code := by
  cases t <;> decide +revert

theorem Marker.ofCode_eq_some {x : BitVec 5} {m : Marker} : Marker.ofCode x = some m ↔ x = m.code := by
  cases m with
  | drain => decide +revert
  | barrier n => decide +revert

@[simp] theorem Rm.ofCode_code (r : Rm) : Rm.ofCode r.code = some r := Rm.ofCode_eq_some.mpr rfl
@[simp] theorem Ty.ofCode_code (t : Ty) : Ty.ofCode t.code = some t := Ty.ofCode_eq_some.mpr rfl
@[simp] theorem Bfmt.ofCode_code (f : Bfmt) : Bfmt.ofCode f.code = some f := Bfmt.ofCode_eq_some.mpr rfl
@[simp] theorem MxTy.ofCode_code (t : MxTy) : MxTy.ofCode t.code = some t := MxTy.ofCode_eq_some.mpr rfl
@[simp] theorem Tiles.ofCode_code (t : Tiles) : Tiles.ofCode t.code = some t := Tiles.ofCode_eq_some.mpr rfl
@[simp] theorem Marker.ofCode_code (m : Marker) : Marker.ofCode m.code = some m := Marker.ofCode_eq_some.mpr rfl

/-! ## Fields -/

theorem eq_ofNat_of_toNat {n k : ℕ} {x : BitVec n} (h : x.toNat = k) : x = BitVec.ofNat n k := by
  rw [← h, BitVec.ofNat_toNat, BitVec.setWidth_eq]

/-- A field of two joined ones lies in the high one or in the low one. -/
theorem extract_append {v w s l : ℕ} (hi : BitVec v) (lo : BitVec w) :
    (w ≤ s → (hi ++ lo).extractLsb' s l = hi.extractLsb' (s - w) l) ∧ (s + l ≤ w → (hi ++ lo).extractLsb' s l = lo.extractLsb' s l) :=
  ⟨BitVec.extractLsb'_append_eq_of_le, BitVec.extractLsb'_append_eq_of_add_le⟩

/-- A field is its high and its low part. -/
theorem exists_append (m n : ℕ) (x : BitVec (m + n)) : ∃ (a : BitVec m) (b : BitVec n), x = a ++ b :=
  ⟨_, _, BitVec.extractLsb'_append_extractLsb'.symm⟩

/-- A field whose high part is given. -/
theorem extract_high_eq {m n : ℕ} {x : BitVec (m + n)} {a : BitVec m} : x.extractLsb' n m = a ↔ ∃ b : BitVec n, x = a ++ b := by
  constructor
  · rintro rfl
    exact ⟨_, BitVec.extractLsb'_append_extractLsb'.symm⟩
  · rintro ⟨b, rfl⟩
    exact BitVec.extractLsb'_append_eq_left

/-! ## A word of a major is packed from its own fields, format by format (R34) -/

section
variable {w : IWord} {k : ℕ}

theorem packA_unpackA (h : (w.extractLsb' 26 6).toNat = k) :
    packA (BitVec.ofNat 6 k) (unpackA w).d (unpackA w).a (unpackA w).b (unpackA w).fn = w := by
  rw [← eq_ofNat_of_toNat h]
  simp (disch := decide) only [packA, unpackA, BitVec.extractLsb'_append_extractLsb'_eq_extractLsb']
  exact BitVec.extractLsb'_eq_self

theorem packI_unpackI (h : (w.extractLsb' 26 6).toNat = k) :
    packI (BitVec.ofNat 6 k) (unpackI w).d (unpackI w).a (unpackI w).imm = w := by
  rw [← eq_ofNat_of_toNat h]
  simp (disch := decide) only [packI, unpackI, BitVec.extractLsb'_append_extractLsb'_eq_extractLsb']
  exact BitVec.extractLsb'_eq_self

theorem packM_unpackM (h : (w.extractLsb' 26 6).toNat = k) :
    packM (BitVec.ofNat 6 k) (unpackM w).d (unpackM w).a (unpackM w).sz (unpackM w).sx (unpackM w).off = w := by
  rw [← eq_ofNat_of_toNat h]
  simp (disch := decide) only [packM, unpackM, BitVec.extractLsb'_append_extractLsb'_eq_extractLsb']
  exact BitVec.extractLsb'_eq_self

theorem packV_unpackV (h : (w.extractLsb' 26 6).toNat = k) :
    packV (BitVec.ofNat 6 k) (unpackV w).d (unpackV w).a (unpackV w).b (unpackV w).c (unpackV w).k (unpackV w).fn = w := by
  rw [← eq_ofNat_of_toNat h]
  simp (disch := decide) only [packV, unpackV, BitVec.extractLsb'_append_extractLsb'_eq_extractLsb']
  exact BitVec.extractLsb'_eq_self

theorem packVM_unpackVM (h : (w.extractLsb' 26 6).toNat = k) :
    packVM (BitVec.ofNat 6 k) (unpackVM w).v (unpackVM w).g (unpackVM w).s (unpackVM w).esz (unpackVM w).k (unpackVM w).off = w := by
  rw [← eq_ofNat_of_toNat h]
  simp (disch := decide) only [packVM, unpackVM, BitVec.extractLsb'_append_extractLsb'_eq_extractLsb']
  exact BitVec.extractLsb'_eq_self

theorem packVG_unpackVG (h : (w.extractLsb' 26 6).toNat = k) :
    packVG (BitVec.ofNat 6 k) (unpackVG w).v (unpackVG w).g (unpackVG w).x (unpackVG w).k (unpackVG w).fn = w := by
  rw [← eq_ofNat_of_toNat h]
  simp (disch := decide) only [packVG, unpackVG, BitVec.extractLsb'_append_extractLsb'_eq_extractLsb']
  exact BitVec.extractLsb'_eq_self

theorem packVE_unpackVE (h : (w.extractLsb' 26 6).toNat = k) :
    packVE (BitVec.ofNat 6 k) (unpackVE w).g (unpackVE w).v (unpackVE w).x (unpackVE w).k (unpackVE w).fn = w := by
  rw [← eq_ofNat_of_toNat h]
  simp (disch := decide) only [packVE, unpackVE, BitVec.extractLsb'_append_extractLsb'_eq_extractLsb']
  exact BitVec.extractLsb'_eq_self

theorem packVC_unpackVC (h : (w.extractLsb' 26 6).toNat = k) :
    packVC (BitVec.ofNat 6 k) (unpackVC w).d (unpackVC w).a (unpackVC w).c (unpackVC w).k (unpackVC w).fn = w := by
  rw [← eq_ofNat_of_toNat h]
  simp (disch := decide) only [packVC, unpackVC, BitVec.extractLsb'_append_extractLsb'_eq_extractLsb']
  exact BitVec.extractLsb'_eq_self

theorem packK_unpackK (h : (w.extractLsb' 26 6).toNat = k) :
    packK (BitVec.ofNat 6 k) (unpackK w).m (unpackK w).ba (unpackK w).bb (unpackK w).aux (unpackK w).gx (unpackK w).mem = w := by
  rw [← eq_ofNat_of_toNat h]
  simp (disch := decide) only [packK, unpackK, BitVec.extractLsb'_append_extractLsb'_eq_extractLsb']
  exact BitVec.extractLsb'_eq_self

theorem packKM_unpackKM (h : (w.extractLsb' 26 6).toNat = k) :
    packKM (BitVec.ofNat 6 k) (unpackKM w).b (unpackKM w).g (unpackKM w).fmt (unpackKM w).off = w := by
  rw [← eq_ofNat_of_toNat h]
  simp (disch := decide) only [packKM, unpackKM, BitVec.extractLsb'_append_extractLsb'_eq_extractLsb']
  exact BitVec.extractLsb'_eq_self

theorem packC_unpackC (h : (w.extractLsb' 26 6).toNat = k) :
    packC (BitVec.ofNat 6 k) (unpackC w).d (unpackC w).a (unpackC w).ch (unpackC w).fn (unpackC w).z (unpackC w).cls = w := by
  rw [← eq_ofNat_of_toNat h]
  simp (disch := decide) only [packC, unpackC, BitVec.extractLsb'_append_extractLsb'_eq_extractLsb']
  exact BitVec.extractLsb'_eq_self

theorem packS_unpackS (h : (w.extractLsb' 26 6).toNat = k) :
    packS (BitVec.ofNat 6 k) (unpackS w).d (unpackS w).a (unpackS w).csr (unpackS w).fn = w := by
  rw [← eq_ofNat_of_toNat h]
  simp (disch := decide) only [packS, unpackS, BitVec.extractLsb'_append_extractLsb'_eq_extractLsb']
  exact BitVec.extractLsb'_eq_self

theorem packJ_unpackJ (h : (w.extractLsb' 26 6).toNat = k) : packJ (BitVec.ofNat 6 k) (unpackJ w) = w := by
  rw [← eq_ofNat_of_toNat h]
  exact BitVec.extractLsb'_append_extractLsb'

end

theorem packCL_unpackCL (w : IWord) : packCL (unpackCL w).ch (unpackCL w).z (unpackCL w).len = w := by
  simp (disch := decide) only [packCL, unpackCL, BitVec.extractLsb'_append_extractLsb'_eq_extractLsb']
  exact BitVec.extractLsb'_eq_self

end Sys2Proof
end

section
/-! SUPPORT. The words, part 2: whatever the decoder of a major answers, its words are those that were decoded (R49 to R51). -/

namespace Sys2Proof

/-! ## What a decoder answers -/

/-- Whatever this answer of a decoder is, its words are `ws`. -/
def Reads {α : Type} (words : α → List IWord) (r : Except DecodeError α) (ws : List IWord) : Prop := ∀ i, r = .ok i → words i = ws

section
variable {α : Type} {words : α → List IWord} {ws : List IWord} {r : Except DecodeError α} {e : DecodeError} {i : α} {c : Prop} [Decidable c]

theorem reads_ok : Reads words (.ok i) ws ↔ words i = ws :=
  ⟨fun h => h i rfl, fun h _ eq => Except.ok.inj eq ▸ h⟩

theorem reads_error : Reads words (.error e) ws ↔ True := iff_true_intro nofun

theorem reads_refuse : Reads words (if c then .error e else r) ws ↔ (¬ c → Reads words r ws) := by
  by_cases h : c <;> simp [h, reads_error]

theorem reads_guard : Reads words (if c then r else .error e) ws ↔ (c → Reads words r ws) := by
  by_cases h : c <;> simp [h, reads_error]

theorem reads_ifZero {n : ℕ} {x : BitVec n} {i : Instr} : Reads encode (ifZero x i) ws ↔ (x = 0 → encode i = ws) := by
  rw [ifZero, reads_guard, reads_ok]

theorem reads_noRm {rm : Rm} {r : Except DecodeError Instr} : Reads encode (noRm rm r) ws ↔ (rm = .rne → Reads encode r ws) := by
  rw [noRm, reads_guard]

theorem toK_append (y : BitVec 3) (f : KReg → Instr) : toK (0#1 ++ y) f = .ok (f y) := by
  simp (disch := decide) only [toK, extract_append, BitVec.extractLsb'_eq_self, Nat.reduceSub]
  rfl

theorem toKs_append (x y z : BitVec 3) (f : KReg → KReg → KReg → Instr) : toKs (0#1 ++ x) (0#1 ++ y) (0#1 ++ z) f = .ok (f x y z) := by
  simp (disch := decide) only [toKs, extract_append, BitVec.extractLsb'_eq_self, Nat.reduceSub]
  rfl

theorem to32_ofCode (b : Bool) (f : Bool → Except DecodeError α) : to32 (Sz.ofCode (1#1 ++ bit b)) f = f b := by cases b <;> rfl

theorem reads_toK {x : BitVec 4} {f : KReg → Instr} : Reads encode (toK x f) ws ↔ ∀ y, x = 0#1 ++ y → encode (f y) = ws := by
  constructor
  · rintro h y rfl
    exact h _ (toK_append y f)
  · intro h
    refine reads_guard.mpr fun high => reads_ok.mpr ?_
    obtain ⟨y, rfl⟩ := extract_high_eq.mp high
    rw [BitVec.extractLsb'_append_eq_right]
    exact h y rfl

theorem reads_toKs {x y z : BitVec 4} {f : KReg → KReg → KReg → Instr} :
    Reads encode (toKs x y z f) ws ↔ ∀ a b c, x = 0#1 ++ a → y = 0#1 ++ b → z = 0#1 ++ c → encode (f a b c) = ws := by
  constructor
  · rintro h a b c rfl rfl rfl
    exact h _ (toKs_append a b c f)
  · intro h
    refine reads_guard.mpr fun ⟨hx, hy, hz⟩ => reads_ok.mpr ?_
    obtain ⟨a, rfl⟩ := extract_high_eq.mp hx
    obtain ⟨b, rfl⟩ := extract_high_eq.mp hy
    obtain ⟨c, rfl⟩ := extract_high_eq.mp hz
    simp only [BitVec.extractLsb'_append_eq_right]
    exact h a b c rfl rfl rfl

theorem reads_to32 {e : Sz} {f : Bool → Except DecodeError α} :
    Reads words (to32 e f) ws ↔ ∀ b, e.code = 1#1 ++ bit b → Reads words (f b) ws := by
  constructor
  · intro h b code
    rwa [← Sz.ofCode_code e, code, to32_ofCode] at h
  · intro h
    cases e with
    | w8 => exact reads_error.mpr trivial
    | w16 => exact reads_error.mpr trivial
    | w32 => exact h false rfl
    | w64 => exact h true rfl

end

/-! ## Integers, memory and scalars -/

theorem decodeAlu_reads {d a b : GReg} {fn : BitVec 11} : Reads encode (decodeAlu d a b fn) [packA 0x01 d a b fn] := by
  unfold decodeAlu
  split <;> simp only [reads_ok, reads_error, reads_ifZero]
  all_goals
    rename_i member
    obtain rfl := eq_ofNat_of_toNat member
    intros
    subst_vars
    rfl

theorem decodeShi_reads {d a : GReg} {imm : BitVec 16} : Reads encode (decodeShi d a imm) [packI 0x07 d a imm] := by
  obtain ⟨x, n, rfl⟩ := exists_append 10 6 imm
  obtain ⟨kind, z, rfl⟩ := exists_append 2 8 x
  simp (disch := decide) only [decodeShi, extract_append, BitVec.extractLsb'_eq_self, Nat.reduceSub, reads_refuse, not_not]
  rintro rfl
  split <;> simp only [reads_ok, reads_error]
  all_goals
    rename_i member
    obtain rfl := eq_ofNat_of_toNat member
    rfl

theorem decodeCoord_reads {d a b : GReg} {fn : BitVec 11} : Reads encode (decodeCoord d a b fn) [packA 0x13 d a b fn] := by
  unfold decodeCoord
  split <;> simp only [reads_ok, reads_error, reads_ifZero]
  all_goals
    rename_i member
    obtain rfl := eq_ofNat_of_toNat member
    intros
    subst_vars
    rfl

theorem decodeAmo_reads {d a b : GReg} {fn : BitVec 11} : Reads encode (decodeAmo d a b fn) [packA 0x18 d a b fn] := by
  obtain ⟨x, m, rfl⟩ := exists_append 7 4 fn
  obtain ⟨z, w, rfl⟩ := exists_append 6 1 x
  obtain ⟨w, rfl⟩ := exists_bit w
  simp (disch := decide) only [decodeAmo, extract_append, BitVec.extractLsb'_eq_self, Nat.reduceSub, reads_refuse, not_not, unbit_bit]
  rintro rfl
  split <;> simp only [reads_ok, reads_error]
  all_goals
    rename_i member
    obtain rfl := eq_ofNat_of_toNat member
    rfl

theorem decodeFence_reads {d a b : GReg} {fn : BitVec 11} : Reads encode (decodeFence d a b fn) [packA 0x19 d a b fn] := by
  obtain ⟨x, s, rfl⟩ := exists_append 8 3 fn
  obtain ⟨z, k, rfl⟩ := exists_append 6 2 x
  simp (disch := decide) only [decodeFence, extract_append, BitVec.extractLsb'_eq_self, Nat.reduceSub, reads_refuse, not_or, not_not]
  rintro ⟨rfl, rfl, rfl, rfl⟩
  split <;> simp only [reads_ok, reads_error]
  all_goals
    rename_i kind scope
    obtain rfl := eq_ofNat_of_toNat kind
    obtain rfl := Scope.ofCode_eq_some.mp scope
    rfl

theorem decodeFp_reads {d a b : GReg} {fn : BitVec 11} : Reads encode (decodeFp d a b fn) [packA 0x1A d a b fn] := by
  obtain ⟨x, m, rfl⟩ := exists_append 5 6 fn
  obtain ⟨x, p, rfl⟩ := exists_append 4 1 x
  obtain ⟨z, rm, rfl⟩ := exists_append 1 3 x
  obtain ⟨p, rfl⟩ := Prec.exists_code p
  simp (disch := decide) only [decodeFp, extract_append, BitVec.extractLsb'_eq_self, Nat.reduceSub, Prec.ofCode_code, reads_refuse, not_not]
  rintro rfl
  split
  next => exact reads_error.mpr trivial
  next code =>
    obtain rfl := Rm.ofCode_eq_some.mp code
    split <;> simp only [reads_ok, reads_error, reads_ifZero, reads_noRm]
    all_goals
      rename_i member
      obtain rfl := eq_ofNat_of_toNat member
      intros
      subst_vars
      rfl

theorem decodeFma_reads {d a b : GReg} {fn : BitVec 11} : Reads encode (decodeFma d a b fn) [packA 0x1B d a b fn] := by
  obtain ⟨x, rm, rfl⟩ := exists_append 8 3 fn
  obtain ⟨x, p, rfl⟩ := exists_append 7 1 x
  obtain ⟨c, m, rfl⟩ := exists_append 5 2 x
  obtain ⟨p, rfl⟩ := Prec.exists_code p
  simp (disch := decide) only [decodeFma, extract_append, BitVec.extractLsb'_eq_self, Nat.reduceSub, Prec.ofCode_code]
  split
  next => exact reads_error.mpr trivial
  next code =>
    obtain rfl := Rm.ofCode_eq_some.mp code
    match m with
    | 0 | 1 | 2 | 3 => exact reads_ok.mpr rfl

theorem decodeFcvt_reads {d a b : GReg} {fn : BitVec 11} : Reads encode (decodeFcvt d a b fn) [packA 0x1C d a b fn] := by
  obtain ⟨z, sat, rfl⟩ := exists_append 4 1 b
  obtain ⟨sat, rfl⟩ := exists_bit sat
  obtain ⟨x, dst, rfl⟩ := exists_append 7 4 fn
  obtain ⟨rm, src, rfl⟩ := exists_append 3 4 x
  simp (disch := decide) only [decodeFcvt, extract_append, BitVec.extractLsb'_eq_self, Nat.reduceSub, reads_refuse, not_not, unbit_bit]
  rintro rfl
  split
  next rm' src' dst' =>
    obtain rfl := Rm.ofCode_eq_some.mp rm'
    obtain rfl := Ty.ofCode_eq_some.mp src'
    obtain rfl := Ty.ofCode_eq_some.mp dst'
    exact reads_ok.mpr rfl
  next => exact reads_error.mpr trivial

/-! ## Vectors -/

theorem decodeGath_reads {op : BitVec 6} {v : VReg} {g s : GReg} {esz : BitVec 2} {k : KReg} {off : BitVec 7} {mk : VReg → Bool → Instr}
    (h : ∀ vi e, encode (mk vi e) = [packVM op v g (0#1 ++ vi) (1#1 ++ bit e) k off]) :
    Reads encode (decodeGath mk s esz) [packVM op v g s esz k off] := by
  obtain ⟨z, vi, rfl⟩ := exists_append 1 4 s
  obtain ⟨one, e, rfl⟩ := exists_append 1 1 esz
  obtain ⟨e, rfl⟩ := exists_bit e
  obtain ⟨one, rfl⟩ := exists_bit one
  simp (disch := decide) only [decodeGath, extract_append, BitVec.extractLsb'_eq_self, Nat.reduceSub, reads_refuse, reads_ok, not_or, not_not,
    unbit_bit]
  rintro ⟨rfl, wide⟩
  cases one with
  | false => exact absurd rfl wide
  | true => exact h vi e

theorem decodeVfp_reads {d a b c : VReg} {k : KReg} {fn : BitVec 7} : Reads encode (decodeVfp d a b c k fn) [packV 0x24 d a b c k fn] := by
  obtain ⟨x, m, rfl⟩ := exists_append 2 5 fn
  obtain ⟨z, p, rfl⟩ := exists_append 1 1 x
  obtain ⟨p, rfl⟩ := Prec.exists_code p
  simp (disch := decide) only [decodeVfp, extract_append, BitVec.extractLsb'_eq_self, Nat.reduceSub, Prec.ofCode_code, reads_refuse, not_or,
    not_not]
  rintro ⟨rfl, rfl⟩
  split <;> simp only [reads_ok, reads_error, reads_ifZero, reads_guard, reads_toK]
  all_goals
    rename_i member
    obtain rfl := eq_ofNat_of_toNat member
    intros
    subst_vars
    rfl

theorem decodeVfma_reads {d a b c : VReg} {k : KReg} {fn : BitVec 7} : Reads encode (decodeVfma d a b c k fn) [packV 0x25 d a b c k fn] := by
  obtain ⟨x, m, rfl⟩ := exists_append 5 2 fn
  obtain ⟨z, p, rfl⟩ := exists_append 4 1 x
  obtain ⟨p, rfl⟩ := Prec.exists_code p
  simp (disch := decide) only [decodeVfma, extract_append, BitVec.extractLsb'_eq_self, Nat.reduceSub, Prec.ofCode_code, reads_refuse, not_not]
  rintro rfl
  match m with
  | 0 | 1 | 2 | 3 => exact reads_ok.mpr rfl

theorem decodeVint_reads {d a b c : VReg} {k : KReg} {fn : BitVec 7} : Reads encode (decodeVint d a b c k fn) [packV 0x26 d a b c k fn] := by
  obtain ⟨e, m, rfl⟩ := exists_append 2 5 fn
  obtain ⟨e, rfl⟩ := Sz.exists_code e
  simp (disch := decide) only [decodeVint, extract_append, BitVec.extractLsb'_eq_self, Nat.reduceSub, Sz.ofCode_code, reads_refuse, not_not]
  rintro rfl
  split <;> simp only [reads_ok, reads_error, reads_ifZero, reads_toK, reads_to32]
  all_goals
    rename_i member
    obtain rfl := eq_ofNat_of_toNat member
  case h_20 | h_21 | h_22 => -- VEQ, VLT, VLTN
    intro e64 size kd field
    rw [size, field]
    rfl
  all_goals
    intros
    subst_vars
    rfl

theorem decodeVcvt_reads {d a b c : VReg} {k : KReg} {fn : BitVec 7} : Reads encode (decodeVcvt d a b c k fn) [packV 0x28 d a b c k fn] := by
  obtain ⟨rm, src, rfl⟩ := exists_append 3 4 fn
  obtain ⟨sat, vr, rfl⟩ := exists_append 1 3 c
  obtain ⟨sat, rfl⟩ := exists_bit sat
  simp (disch := decide) only [decodeVcvt, extract_append, BitVec.extractLsb'_eq_self, Nat.reduceSub, unbit_bit]
  split
  next rm' src' dst' =>
    obtain rfl := Rm.ofCode_eq_some.mp rm'
    obtain rfl := Ty.ofCode_eq_some.mp src'
    obtain rfl := Ty.ofCode_eq_some.mp dst'
    exact reads_ok.mpr rfl
  next => exact reads_error.mpr trivial

end Sys2Proof
end

section
/-! SUPPORT. The words, part 3: the same of permutes, blocks, messages, strands, the system and two-word forms (R51 to R56). -/

namespace Sys2Proof

/-! ## Permutes and VRNG, whose layouts differ by member -/

theorem decodePerm_reads {w : IWord} (h : (w.extractLsb' 26 6).toNat = 0x27) : Reads encode (decodePerm w) [w] := by
  -- the layouts share k and fn
  have packedV := packV_unpackV h
  have packedG : packVG 0x27 (unpackVG w).v (unpackVG w).g (unpackVG w).x (unpackV w).k (unpackV w).fn = w := packVG_unpackVG h
  have packedE : packVE 0x27 (unpackVE w).g (unpackVE w).v (unpackVE w).x (unpackV w).k (unpackV w).fn = w := packVE_unpackVE h
  have packedC : packVC 0x27 (unpackVC w).d (unpackVC w).a (unpackVC w).c (unpackV w).k (unpackV w).fn = w := packVC_unpackVC h
  have kG : (unpackVG w).k = (unpackV w).k := rfl
  have kE : (unpackVE w).k = (unpackV w).k := rfl
  have kC : (unpackVC w).k = (unpackV w).k := rfl
  simp only [decodePerm, kG, kE, kC]
  generalize unpackV w = v at *
  obtain ⟨d, a, b, c, k, fn⟩ := v
  generalize unpackVG w = g at *
  obtain ⟨gv, gg, gx, gk, gfn⟩ := g
  generalize unpackVE w = x at *
  obtain ⟨xg, xv, xx, xk, xfn⟩ := x
  generalize unpackVC w = r at *
  obtain ⟨e, m, rfl⟩ := exists_append 2 5 fn
  obtain ⟨e, rfl⟩ := Sz.exists_code e
  simp (disch := decide) only [extract_append, BitVec.extractLsb'_eq_self, Nat.reduceSub, Sz.ofCode_code]
  split <;> simp only [reads_ok, reads_error, reads_ifZero, reads_refuse, reads_toKs, reads_to32, not_or, not_not, and_imp]
  all_goals
    rename_i member
    obtain rfl := eq_ofNat_of_toNat member
  case h_1 | h_2 | h_3 | h_4 => -- VPERM, VSEL, VZIP, VUNZIP
    rintro rfl
    exact congrArg ([·]) packedV
  case h_5 | h_7 => -- VBCAST, VINS
    rintro rfl
    exact congrArg ([·]) packedG
  case h_6 => -- VEXT
    rintro rfl
    exact congrArg ([·]) packedE
  case h_8 | h_9 | h_10 | h_11 | h_12 => -- VREDADD, VREDMAX, VREDMIN, VMAXX, VMINX
    rintro rfl rfl e64 size
    rw [size] at packedV
    cases e64 with
    | false => exact congrArg ([·]) packedV
    | true => exact congrArg ([·]) packedV
  case h_13 => -- VMOV
    rintro rfl rfl
    exact congrArg ([·]) packedV
  case h_14 => -- VROT
    exact congrArg ([·]) packedC
  case h_15 | h_16 => -- KAND, KOR
    rintro rfl rfl rfl kd ka kb rfl rfl rfl
    exact congrArg ([·]) packedV
  case h_17 => -- KNOT
    rintro rfl rfl rfl rfl kd ka - rfl rfl -
    exact congrArg ([·]) packedV
  case h_18 => -- KMOV
    rintro rfl
    cases e with
    | w8 =>
      simp only [reads_refuse, reads_toKs, not_or, not_not, and_imp]
      rintro rfl rfl kd ka - rfl rfl -
      exact congrArg ([·]) packedV
    | w16 =>
      simp only [reads_refuse, reads_toK, not_not]
      rintro rfl kd rfl
      exact congrArg ([·]) packedG
    | w32 =>
      obtain ⟨ka, z, rfl⟩ := exists_append 3 1 xv
      simp (disch := decide) only [extract_append, BitVec.extractLsb'_eq_self, Nat.reduceSub, reads_refuse, reads_ok, not_or, not_not, and_imp]
      rintro rfl rfl
      exact congrArg ([·]) packedE
    | w64 => exact reads_error.mpr trivial

theorem decodeVrng_reads {w : IWord} (h : (w.extractLsb' 26 6).toNat = 0x29) : Reads encode (decodeVrng w) [w] := by
  have packedV := packV_unpackV h
  have packedC := packVC_unpackVC h
  dsimp only [decodeVrng]
  split <;> simp only [reads_ok, reads_error, reads_ifZero]
  next member =>
    intro zero
    rw [zero, eq_ofNat_of_toNat member] at packedV
    exact congrArg ([·]) packedV
  next member =>
    rw [show (unpackVC w).fn = 1#7 from eq_ofNat_of_toNat member] at packedC
    exact congrArg ([·]) packedC

/-! ## Blocks -/

theorem decodeBmem_reads {b : BReg} {a : GReg} {fmt : BitVec 4} {off : BitVec 13} :
    Reads encode (decodeBmem b a fmt off) [packKM 0x2C b a fmt off] := by
  obtain ⟨m, f, rfl⟩ := exists_append 2 2 fmt
  simp (disch := decide) only [decodeBmem, extract_append, BitVec.extractLsb'_eq_self, Nat.reduceSub]
  split <;> simp only [reads_ok, reads_error]
  all_goals
    rename_i code member
    obtain rfl := Bfmt.ofCode_eq_some.mp code
    obtain rfl := eq_ofNat_of_toNat member
    rfl

/-- The word of format K with these fields. -/
def FieldsK.pack (k : FieldsK) (op : BitVec 6) : IWord := packK op k.m k.ba k.bb k.aux k.gx k.mem

theorem decodeBmma_reads {k : FieldsK} : Reads encode (decodeBmma k) [k.pack 0x2D] := by
  obtain ⟨m, ba, bb, aux, gx, mem⟩ := k
  simp only [decodeBmma, reads_refuse, not_or, not_not]
  rintro ⟨rfl, rfl⟩
  split <;> simp only [reads_ok, reads_error]
  all_goals
    rename_i member
    obtain rfl := eq_ofNat_of_toNat member
    rfl

theorem decodeBlk_reads {k : FieldsK} : Reads encode (decodeBlk k) [k.pack 0x2E] := by
  obtain ⟨m, ba, bb, aux, gx, mem⟩ := k
  dsimp only [decodeBlk]
  split <;> simp only [reads_error, decide_eq_true_eq, reads_guard, reads_ok, and_imp]
  all_goals
    rename_i member
    obtain rfl := eq_ofNat_of_toNat member
  case h_11 => -- BCLR
    obtain ⟨z, f, rfl⟩ := exists_append 2 2 bb
    simp (disch := decide) only [extract_append, BitVec.extractLsb'_eq_self, Nat.reduceSub]
    split <;> simp only [reads_error, reads_guard, reads_ok, and_imp]
    rename_i code
    obtain rfl := Bfmt.ofCode_eq_some.mp code
    rintro rfl rfl rfl rfl
    rfl
  case h_13 => -- BLSFT
    obtain ⟨z, kd, rfl⟩ := exists_append 1 3 aux
    simp (disch := decide) only [extract_append, BitVec.extractLsb'_eq_self, Nat.reduceSub]
    rintro rfl rfl rfl rfl
    rfl
  all_goals
    intros
    subst_vars
    rfl

theorem decodeBcv_reads {k : FieldsK} : Reads encode (decodeBcv k) [k.pack 0x2F] := by
  obtain ⟨m, ba, bb, aux, gx, mem⟩ := k
  dsimp only [decodeBcv]
  split <;> simp only [reads_error, decide_eq_true_eq, reads_guard, reads_ok, and_imp]
  all_goals
    rename_i member
    obtain rfl := eq_ofNat_of_toNat member
  case h_1 => -- BENC
    obtain ⟨hi, z, rfl⟩ := exists_append 1 3 ba
    obtain ⟨hi, rfl⟩ := exists_bit hi
    obtain ⟨y, f, rfl⟩ := exists_append 2 2 bb
    simp (disch := decide) only [extract_append, BitVec.extractLsb'_eq_self, Nat.reduceSub, unbit_bit]
    split <;> simp only [reads_error, reads_guard, reads_ok, and_imp]
    rename_i code
    obtain rfl := Bfmt.ofCode_eq_some.mp code
    rintro rfl rfl rfl rfl
    rfl
  case h_2 => -- BDEC
    obtain ⟨hi, z, rfl⟩ := exists_append 1 3 ba
    obtain ⟨hi, rfl⟩ := exists_bit hi
    simp (disch := decide) only [extract_append, BitVec.extractLsb'_eq_self, Nat.reduceSub, unbit_bit]
    rintro rfl rfl rfl rfl
    rfl
  case h_3 => -- BMRD
    obtain ⟨v, z, rfl⟩ := exists_append 3 1 ba
    simp (disch := decide) only [extract_append, BitVec.extractLsb'_eq_self, Nat.reduceSub]
    rintro rfl rfl rfl rfl
    rfl
  case h_4 => -- BMRB
    obtain ⟨j, f, rfl⟩ := exists_append 2 2 bb
    simp (disch := decide) only [extract_append, BitVec.extractLsb'_eq_self, Nat.reduceSub]
    split <;> simp only [reads_error, reads_guard, reads_ok, and_imp]
    rename_i code
    obtain rfl := Bfmt.ofCode_eq_some.mp code
    rintro rfl rfl
    rfl
  case h_5 | h_6 => -- BMSV, BMRS
    rintro rfl rfl rfl
    rfl
  case h_7 => -- MXIN
    obtain ⟨v, z, rfl⟩ := exists_append 3 1 ba
    obtain ⟨y, f, rfl⟩ := exists_append 2 2 bb
    simp (disch := decide) only [extract_append, BitVec.extractLsb'_eq_self, Nat.reduceSub]
    split <;> simp only [reads_error, reads_guard, reads_ok, and_imp]
    rename_i code type
    obtain rfl := Bfmt.ofCode_eq_some.mp code
    obtain rfl := MxTy.ofCode_eq_some.mp type
    rintro rfl rfl
    rfl
  case h_8 => -- MXOUT
    obtain ⟨v, z, rfl⟩ := exists_append 3 1 ba
    simp (disch := decide) only [extract_append, BitVec.extractLsb'_eq_self, Nat.reduceSub]
    split <;> simp only [reads_error, reads_guard, reads_ok, and_imp]
    rename_i type
    obtain rfl := MxTy.ofCode_eq_some.mp type
    rintro rfl rfl
    rfl

/-! ## Messages, strands, system -/

theorem decodeMsg_reads {c : FieldsC} : Reads encode (decodeMsg c) [packC 0x34 c.d c.a c.ch c.fn c.z c.cls] := by
  obtain ⟨d, a, ch, fn, z, cls⟩ := c
  dsimp only [decodeMsg]
  simp only [reads_refuse, not_not]
  rintro rfl
  split <;> simp only [reads_error, decide_eq_true_eq, reads_guard, reads_ok, and_imp]
  all_goals
    rename_i member
    obtain rfl := eq_ofNat_of_toNat member
  case h_1 | h_4 | h_7 | h_8 => -- SEND, RECV, POLL, QFLUSH
    intros
    subst_vars
    rfl
  case h_2 | h_3 | h_5 | h_6 => -- SENDV, SENDB, RECVV, RECVB
    obtain ⟨v, z, rfl⟩ := exists_append 4 1 d
    simp (disch := decide) only [extract_append, BitVec.extractLsb'_eq_self, Nat.reduceSub]
    intros
    subst_vars
    rfl
  case h_9 => -- MARK
    split <;> simp only [reads_error, reads_guard, reads_ok]
    rename_i code
    obtain rfl := Marker.ofCode_eq_some.mp code
    rintro rfl
    rfl

theorem decodeStrand_reads {d a b : GReg} {fn : BitVec 11} : Reads encode (decodeStrand d a b fn) [packA 0x35 d a b fn] := by
  dsimp only [decodeStrand]
  split <;> simp only [reads_error, decide_eq_true_eq, reads_guard, reads_ok, and_imp]
  all_goals
    rename_i member
    obtain rfl := eq_ofNat_of_toNat member
  case h_6 => -- WAITM
    split <;> simp only [reads_error, reads_guard, reads_ok]
    rename_i code
    obtain rfl := Marker.ofCode_eq_some.mp code
    rintro rfl
    rfl
  case h_7 => -- BARR
    obtain ⟨z, n, rfl⟩ := exists_append 1 4 b
    simp (disch := decide) only [extract_append, BitVec.extractLsb'_eq_self, Nat.reduceSub]
    rintro rfl rfl
    rfl
  all_goals
    intros
    subst_vars
    rfl

theorem decodeSys_reads {d a : GReg} {n : BitVec 12} {fn : BitVec 4} : Reads encode (decodeSys d a n fn) [packS 0x36 d a n fn] := by
  dsimp only [decodeSys]
  split <;> simp only [reads_error, decide_eq_true_eq, reads_guard, reads_refuse, reads_ok, and_imp, not_or, not_not]
  all_goals
    rename_i member
    obtain rfl := eq_ofNat_of_toNat member
  case h_6 => -- SUPV
    rintro rfl high
    split <;> simp only [reads_ok]
    case h_7 =>
      obtain ⟨c, rfl⟩ := extract_high_eq.mp high
      rw [BitVec.extractLsb'_append_eq_right]
      rfl
    all_goals
      rename_i code
      rw [eq_ofNat_of_toNat code]
      rfl
  all_goals
    intros
    subst_vars
    rfl

/-! ## Two-word forms -/

theorem decodeStrm_reads {d a b : GReg} {fn : BitVec 11} {w1 : IWord} :
    Reads encode (decodeStrm d a b fn w1) [packA 0x39 d a b fn, w1] := by
  rw [← packCL_unpackCL w1]
  dsimp only [decodeStrm]
  simp only [unpackCL_packCL, reads_refuse, not_not]
  intro zero
  rw [zero]
  split <;> simp only [reads_error, decide_eq_true_eq, reads_guard, reads_ok]
  all_goals
    rename_i member
    obtain rfl := eq_ofNat_of_toNat member
    intro unused
    rw [unused]
    rfl

theorem decodeFgp_reads {d a b : GReg} {fn : BitVec 11} {w1 : IWord} :
    Reads encode (decodeFgp d a b fn w1) [packA 0x3A d a b fn, w1] := by
  rw [← packCL_unpackCL w1]
  dsimp only [decodeFgp]
  simp only [unpackCL_packCL, reads_refuse, not_or, not_not]
  rintro ⟨zero, channel⟩
  rw [zero, channel]
  split <;> simp only [reads_error, reads_ok]
  all_goals
    rename_i member
    obtain rfl := eq_ofNat_of_toNat member
    rfl

/-- The words of an instruction of majors 0x3B to 0x3E. -/
noncomputable def Upper.words (u : Upper) : List IWord := encode u.instr

theorem decodeFar_reads {d a b : GReg} {fn : BitVec 11} {off : IWord} :
    Reads Upper.words (decodeFar d a b fn off) [packA 0x3B d a b fn, off] := by
  obtain ⟨x, m, rfl⟩ := exists_append 9 2 fn
  obtain ⟨x, sz, rfl⟩ := exists_append 7 2 x
  obtain ⟨x, sx, rfl⟩ := exists_append 6 1 x
  obtain ⟨z, op, rfl⟩ := exists_append 2 4 x
  obtain ⟨sz, rfl⟩ := Sz.exists_code sz
  obtain ⟨sx, rfl⟩ := exists_bit sx
  dsimp only [decodeFar]
  simp (disch := decide) only [extract_append, BitVec.extractLsb'_eq_self, Nat.reduceSub, Sz.ofCode_code, unbit_bit, reads_refuse, not_not]
  rintro rfl
  split <;> simp only [reads_error, decide_eq_true_eq, reads_guard, reads_refuse, reads_to32, reads_ok, and_imp, Bool.not_eq_true]
  all_goals
    rename_i member
    obtain rfl := eq_ofNat_of_toNat member
  case h_1 => -- FLD
    rintro rfl rfl
    rfl
  case h_2 => -- FST
    rintro rfl rfl rfl
    rfl
  case h_3 => -- FAMO
    rintro rfl w size assigned
    rw [size]
    match op with
    | 0 | 1 | 2 | 3 | 4 | 5 | 6 | 7 | 8 | 9 => rfl

theorem decodeFtb_reads {d a b : GReg} {fn : BitVec 11} {w1 : IWord} :
    Reads Upper.words (decodeFtb d a b fn w1) [packA 0x3C d a b fn, w1] := by
  obtain ⟨z, c, rfl⟩ := exists_append 16 16 w1
  dsimp only [decodeFtb]
  simp (disch := decide) only [extract_append, BitVec.extractLsb'_eq_self, Nat.reduceSub, reads_refuse, reads_guard, reads_ok, not_or, not_not]
  rintro ⟨rfl, rfl, rfl⟩ assigned
  match fn with
  | 0 | 1 | 2 => rfl

theorem decodeBmloop_reads {d a b : GReg} {fn : BitVec 11} {w1 : IWord} :
    Reads Upper.words (decodeBmloop d a b fn w1) [packA 0x3D d a b fn, w1] := by
  obtain ⟨x, f, rfl⟩ := exists_append 8 3 fn
  obtain ⟨x, fmt, rfl⟩ := exists_append 6 2 x
  obtain ⟨s, t, rfl⟩ := exists_append 4 2 x
  obtain ⟨sa, sb, rfl⟩ := exists_append 16 16 w1
  simp (disch := decide) only [decodeBmloop, extract_append, BitVec.extractLsb'_eq_self, Nat.reduceSub]
  split
  next tiles code =>
    obtain rfl := Tiles.ofCode_eq_some.mp tiles
    obtain rfl := Bfmt.ofCode_eq_some.mp code
    exact reads_ok.mpr rfl
  next => exact reads_error.mpr trivial

theorem decodeChbind_reads {d a b : GReg} {fn : BitVec 11} {w1 : IWord} :
    Reads Upper.words (decodeChbind d a b fn w1) [packA 0x3E d a b fn, w1] := by
  obtain ⟨z, ch, rfl⟩ := exists_append 6 5 fn
  obtain ⟨base, len, rfl⟩ := exists_append 16 16 w1
  simp (disch := decide) only [decodeChbind, extract_append, BitVec.extractLsb'_eq_self, Nat.reduceSub, reads_refuse, reads_ok, not_or, not_not]
  rintro ⟨rfl, rfl, rfl⟩
  rfl

end Sys2Proof
end

section
/-! SUPPORT. The words, part 4: whatever a word decodes to encodes to it (R37, R48, R57). -/

namespace Sys2Proof

/-- The words of a two-word form, or the first alone (R37). -/
def formWords (w0 w1 : IWord) : List IWord := if 0x38 ≤ (w0.extractLsb' 26 6).toNat then [w0, w1] else [w0]

section
variable {α : Type} {words : α → List IWord} {r : Except DecodeError α} {w0 w1 x : IWord} {k : ℕ}

/-- A decoder that reads the fields of a one-word form reads its word. -/
theorem reads_oneWord (major : (w0.extractLsb' 26 6).toNat = k) (packed : x = w0) (h : Reads words r [x]) (one : k < 0x38 := by decide) :
    Reads words r (formWords w0 w1) := by
  rw [formWords, major, if_neg (Nat.not_le.mpr one), ← packed]
  exact h

/-- A decoder that reads the fields of the first word of a two-word form, and the second, reads both words. -/
theorem reads_twoWords (major : (w0.extractLsb' 26 6).toNat = k) (packed : x = w0) (h : Reads words r [x, w1]) (two : 0x38 ≤ k := by decide) :
    Reads words r (formWords w0 w1) := by
  rw [formWords, major, if_pos two, ← packed]
  exact h

end

/-! ## Members that are their major's only one -/

theorem ld_reads {d a : GReg} {sz : BitVec 2} {sx : BitVec 1} {off : BitVec 13} :
    Reads encode (.ok (.ld d a (Sz.ofCode sz) (unbit sx) off)) [packM 0x14 d a sz sx off] := by
  obtain ⟨sz, rfl⟩ := Sz.exists_code sz
  obtain ⟨sx, rfl⟩ := exists_bit sx
  rw [Sz.ofCode_code, unbit_bit]
  exact reads_ok.mpr rfl

theorem st_reads {s a : GReg} {sz : BitVec 2} {sx : BitVec 1} {off : BitVec 13} :
    Reads encode (ifZero sx (.st s a (Sz.ofCode sz) off)) [packM 0x15 s a sz sx off] := by
  obtain ⟨sz, rfl⟩ := Sz.exists_code sz
  rw [Sz.ofCode_code, reads_ifZero]
  rintro rfl
  rfl

theorem ldx_reads {d a b : GReg} {fn : BitVec 11} : Reads encode
    (if fn.extractLsb' 6 5 ≠ 0 ∨ fn.extractLsb' 2 1 ≠ 0 then .error .reservedValue
      else .ok (.ldx d a b (fn.extractLsb' 4 2) (unbit (fn.extractLsb' 3 1)) (Sz.ofCode (fn.extractLsb' 0 2)))) [packA 0x16 d a b fn] := by
  obtain ⟨x, sz, rfl⟩ := exists_append 9 2 fn
  obtain ⟨x, y, rfl⟩ := exists_append 8 1 x
  obtain ⟨x, sx, rfl⟩ := exists_append 7 1 x
  obtain ⟨z, sh, rfl⟩ := exists_append 5 2 x
  obtain ⟨sz, rfl⟩ := Sz.exists_code sz
  obtain ⟨sx, rfl⟩ := exists_bit sx
  simp (disch := decide) only [extract_append, BitVec.extractLsb'_eq_self, Nat.reduceSub, Sz.ofCode_code, unbit_bit, reads_refuse, reads_ok,
    not_or, not_not]
  rintro ⟨rfl, rfl⟩
  rfl

theorem stx_reads {s a b : GReg} {fn : BitVec 11} : Reads encode
    (if fn.extractLsb' 6 5 ≠ 0 ∨ fn.extractLsb' 2 1 ≠ 0 ∨ fn.extractLsb' 3 1 ≠ 0 then .error .reservedValue
      else .ok (.stx s a b (fn.extractLsb' 4 2) (Sz.ofCode (fn.extractLsb' 0 2)))) [packA 0x17 s a b fn] := by
  obtain ⟨x, sz, rfl⟩ := exists_append 9 2 fn
  obtain ⟨x, y, rfl⟩ := exists_append 8 1 x
  obtain ⟨x, sx, rfl⟩ := exists_append 7 1 x
  obtain ⟨z, sh, rfl⟩ := exists_append 5 2 x
  obtain ⟨sz, rfl⟩ := Sz.exists_code sz
  simp (disch := decide) only [extract_append, BitVec.extractLsb'_eq_self, Nat.reduceSub, Sz.ofCode_code, reads_refuse, reads_ok, not_or,
    not_not]
  rintro ⟨rfl, rfl, rfl⟩
  rfl

theorem vld_reads {v : VReg} {a s : GReg} {esz : BitVec 2} {k : KReg} {off : BitVec 7} :
    Reads encode (.ok (.vld v a s (Sz.ofCode esz) k off)) [packVM 0x20 v a s esz k off] := by
  obtain ⟨z, rfl⟩ := Sz.exists_code esz
  rw [Sz.ofCode_code]
  exact reads_ok.mpr rfl

theorem vst_reads {v : VReg} {a s : GReg} {esz : BitVec 2} {k : KReg} {off : BitVec 7} :
    Reads encode (.ok (.vst v a s (Sz.ofCode esz) k off)) [packVM 0x21 v a s esz k off] := by
  obtain ⟨z, rfl⟩ := Sz.exists_code esz
  rw [Sz.ofCode_code]
  exact reads_ok.mpr rfl

theorem dbnz_reads {a z : GReg} {disp : BitVec 16} : Reads encode (ifZero z (.dbnz a disp)) [packI 0x12 a z disp] := by
  rw [reads_ifZero]
  rintro rfl
  rfl

theorem li48_reads {d z : GReg} {imm : BitVec 16} {w1 : IWord} : Reads encode (ifZero z (.li48 d (imm ++ w1))) [packI 0x38 d z imm, w1] := by
  rw [reads_ifZero]
  rintro rfl
  change [packI 0x38 d 0 ((imm ++ w1).extractLsb' 32 16), (imm ++ w1).extractLsb' 0 32] = _
  rw [BitVec.extractLsb'_append_eq_left, BitVec.extractLsb'_append_eq_right]

theorem dmma_reads {d a b c : VReg} {k : KReg} {fn : BitVec 7} :
    Reads encode (if c ≠ 0 ∨ k ≠ 0 then .error .reservedValue else ifZero fn (.dmma d a b)) [packV 0x30 d a b c k fn] := by
  simp only [reads_refuse, reads_ifZero, not_or, not_not]
  rintro ⟨rfl, rfl⟩ rfl
  rfl

/-! ## Every word -/

/-- In the order of the majors, each by its decoder and its format. -/
theorem decodeLow_reads (w0 w1 : IWord) : Reads encode (decodeLow w0 w1) (formWords w0 w1) := by
  dsimp only [decodeLow]
  split
  next major => exact reads_oneWord major (packA_unpackA major) decodeAlu_reads
  iterate 5 next major => exact reads_oneWord major (packI_unpackI major) (reads_ok.mpr rfl) -- ADDI to SLTI
  next major => exact reads_oneWord major (packI_unpackI major) decodeShi_reads
  iterate 7 next major => exact reads_oneWord major (packI_unpackI major) (reads_ok.mpr rfl) -- LIH, BEQ to BGEN
  next major => exact reads_oneWord major (packJ_unpackJ major) (reads_ok.mpr rfl)
  next major => exact reads_oneWord major (packI_unpackI major) (reads_ok.mpr rfl)
  next major => exact reads_oneWord major (packI_unpackI major) dbnz_reads
  next major => exact reads_oneWord major (packA_unpackA major) decodeCoord_reads
  next major => exact reads_oneWord major (packM_unpackM major) ld_reads
  next major => exact reads_oneWord major (packM_unpackM major) st_reads
  next major => exact reads_oneWord major (packA_unpackA major) ldx_reads
  next major => exact reads_oneWord major (packA_unpackA major) stx_reads
  next major => exact reads_oneWord major (packA_unpackA major) decodeAmo_reads
  next major => exact reads_oneWord major (packA_unpackA major) decodeFence_reads
  next major => exact reads_oneWord major (packA_unpackA major) decodeFp_reads
  next major => exact reads_oneWord major (packA_unpackA major) decodeFma_reads
  next major => exact reads_oneWord major (packA_unpackA major) decodeFcvt_reads
  next major => exact reads_oneWord major (packVM_unpackVM major) vld_reads
  next major => exact reads_oneWord major (packVM_unpackVM major) vst_reads
  iterate 2 next major => exact reads_oneWord major (packVM_unpackVM major) (decodeGath_reads fun _ _ => rfl)
  next major => exact reads_oneWord major (packV_unpackV major) decodeVfp_reads
  next major => exact reads_oneWord major (packV_unpackV major) decodeVfma_reads
  next major => exact reads_oneWord major (packV_unpackV major) decodeVint_reads
  next major => exact reads_oneWord major rfl (decodePerm_reads major)
  next major => exact reads_oneWord major (packV_unpackV major) decodeVcvt_reads
  next major => exact reads_oneWord major rfl (decodeVrng_reads major)
  next major => exact reads_oneWord major (packKM_unpackKM major) decodeBmem_reads
  next major => exact reads_oneWord major (packK_unpackK major) decodeBmma_reads
  next major => exact reads_oneWord major (packK_unpackK major) decodeBlk_reads
  next major => exact reads_oneWord major (packK_unpackK major) decodeBcv_reads
  next major => exact reads_oneWord major (packV_unpackV major) dmma_reads
  next major => exact reads_oneWord major (packC_unpackC major) decodeMsg_reads
  next major => exact reads_oneWord major (packA_unpackA major) decodeStrand_reads
  next major => exact reads_oneWord major (packS_unpackS major) decodeSys_reads
  next major => exact reads_twoWords major (packI_unpackI major) li48_reads
  next major => exact reads_twoWords major (packA_unpackA major) decodeStrm_reads
  next major => exact reads_twoWords major (packA_unpackA major) decodeFgp_reads
  next => exact reads_error.mpr trivial

theorem decodeUpper_reads (w0 w1 : IWord) : Reads Upper.words (decodeUpper w0 w1) (formWords w0 w1) := by
  dsimp only [decodeUpper]
  split
  next major => exact reads_twoWords major (packA_unpackA major) decodeFar_reads
  next major => exact reads_twoWords major (packA_unpackA major) decodeFtb_reads
  next major => exact reads_twoWords major (packA_unpackA major) decodeBmloop_reads
  next major => exact reads_twoWords major (packA_unpackA major) decodeChbind_reads
  next => exact reads_error.mpr trivial

/-! ## What a form decodes to -/

/-- The checks of R57 on the instructions of majors 0x3B to 0x3E are those of the instructions. -/
theorem Upper.instr_wellFormed (u : Upper) : u.instr.wellFormed = u.wellFormed := by
  cases u with
  | fld | fst | bmloop | chbind => rfl
  | famo op => dsimp only [Upper.instr]; split <;> rfl
  | ftb fn => dsimp only [Upper.instr]; split <;> rfl

theorem Decoded.instr_wellFormed (f : Decoded) : f.instr.wellFormed = f.wellFormed := by
  cases f with
  | low i => rfl
  | upper u => exact u.instr_wellFormed

theorem decodeRaw_reads {w0 w1 : IWord} : Reads (fun f => encode f.instr) (decodeRaw w0 w1) (formWords w0 w1) := by
  unfold decodeRaw
  split
  · cases h : decodeUpper w0 w1 with
    | error e => exact reads_error.mpr trivial
    | ok u => exact reads_ok.mpr (decodeUpper_reads w0 w1 u h)
  · cases h : decodeLow w0 w1 with
    | error e => exact reads_error.mpr trivial
    | ok i => exact reads_ok.mpr (decodeLow_reads w0 w1 i h)

/-- Words decode to an instruction where their fields are read so and pass the checks of R57. -/
theorem decode_eq_ok {w0 w1 : IWord} {i : Instr} :
    decode w0 w1 = .ok i ↔ ∃ f, decodeRaw w0 w1 = .ok f ∧ f.instr = i ∧ i.wellFormed = true := by
  unfold decode decodeForm
  cases decodeRaw w0 w1 with
  | error e =>
    constructor
    · exact fun h => nomatch h
    · rintro ⟨f, raw, -⟩
      cases raw
  | ok f =>
    by_cases checked : f.wellFormed = true
    · simp only [checked, if_true, Except.map, Except.ok.injEq, exists_eq_left']
      exact ⟨fun h => ⟨h, h ▸ f.instr_wellFormed.trans checked⟩, And.left⟩
    · simp only [checked, if_false, Except.map, Except.ok.injEq, exists_eq_left', reduceCtorEq, false_iff, not_and, Bool.false_eq_true]
      rintro rfl
      rwa [f.instr_wellFormed]

/-- Settles O2: each major's decoder reads the fields of its format, and every bit of a word is in one of them. -/
theorem decodeEncode : Obligations.DecodeEncode := by
  unfold Obligations.DecodeEncode
  intro w0 w1 i h
  obtain ⟨f, raw, rfl, checked⟩ := decode_eq_ok.mp h
  exact ⟨checked, decodeRaw_reads f raw⟩

end Sys2Proof
end

section
/-! SUPPORT. The words, part 5: a word packed for a major decodes to what the major's decoder answers (R37, R48). -/

namespace Sys2Proof

/-- Words that decode to this instruction, as many as the major of the first one says (R37). -/
def DecodesTo (ws : List IWord) (i : Instr) : Prop := ∀ w0 rest, ws = w0 :: rest →
  decode w0 (rest.getD 0 0) = .ok i ∧ rest.length = if 0x38 ≤ (w0.extractLsb' 26 6).toNat then 1 else 0

section
variable {w0 w1 : IWord} {i : Instr} {op : BitVec 6}

theorem decodeRaw_low (major : w0.extractLsb' 26 6 = op) (low : op.toNat < 0x3B) :
    decodeRaw w0 w1 = (decodeLow w0 w1).map .low := by
  unfold decodeRaw isUpper
  rw [major, decide_eq_false (Nat.not_le.mpr low)]
  rfl

theorem decodeRaw_upper (major : w0.extractLsb' 26 6 = op) (upper : 0x3B ≤ op.toNat ∧ op.toNat ≤ 0x3E) :
    decodeRaw w0 w1 = (decodeUpper w0 w1).map .upper := by
  unfold decodeRaw isUpper
  rw [major, decide_eq_true upper.1, decide_eq_true upper.2]
  rfl

theorem decodesTo_one (wf : i.wellFormed = true) (major : w0.extractLsb' 26 6 = op) (one : op.toNat < 0x38)
    (h : decodeLow w0 0 = .ok i) : DecodesTo [w0] i := by
  rintro _ _ ⟨⟩
  refine ⟨decode_eq_ok.mpr ⟨.low i, ?_, rfl, wf⟩, ?_⟩
  · rw [decodeRaw_low major (by omega)]
    exact congrArg _ h
  · rw [major, if_neg (Nat.not_le.mpr one)]
    rfl

theorem decodesTo_two (wf : i.wellFormed = true) (major : w0.extractLsb' 26 6 = op)
    (two : 0x38 ≤ op.toNat ∧ op.toNat < 0x3B) (h : decodeLow w0 w1 = .ok i) : DecodesTo [w0, w1] i := by
  rintro _ _ ⟨⟩
  refine ⟨decode_eq_ok.mpr ⟨.low i, ?_, rfl, wf⟩, ?_⟩
  · rw [decodeRaw_low major two.2]
    exact congrArg _ h
  · rw [major, if_pos two.1]
    rfl

theorem decodesTo_upper {u : Upper} (wf : i.wellFormed = true) (major : w0.extractLsb' 26 6 = op)
    (two : 0x3B ≤ op.toNat ∧ op.toNat ≤ 0x3E) (same : u.instr = i) (h : decodeUpper w0 w1 = .ok u) : DecodesTo [w0, w1] i := by
  rintro _ _ ⟨⟩
  refine ⟨decode_eq_ok.mpr ⟨.upper u, ?_, same, wf⟩, ?_⟩
  · rw [decodeRaw_upper major two]
    exact congrArg _ h
  · rw [major, if_pos (by omega)]
    rfl

end

/-! ## Where the parts of a joined field stand -/

section
variable {s t u v w : ℕ}

theorem fields2 (a : BitVec v) (b : BitVec w) : (a ++ b).extractLsb' w v = a ∧ (a ++ b).extractLsb' 0 w = b :=
  ⟨BitVec.extractLsb'_append_eq_left, BitVec.extractLsb'_append_eq_right⟩

theorem fields3 (a : BitVec u) (b : BitVec v) (c : BitVec w) :
    (a ++ b ++ c).extractLsb' (v + w) u = a ∧ (a ++ b ++ c).extractLsb' w v = b ∧ (a ++ b ++ c).extractLsb' 0 w = c := by
  obtain ⟨high, low⟩ := fields2 a b
  refine ⟨?_, ?_, BitVec.extractLsb'_append_eq_right⟩
  · rwa [BitVec.extractLsb'_append_eq_of_le (by omega), Nat.add_sub_cancel]
  · rwa [BitVec.extractLsb'_append_eq_of_le le_rfl, Nat.sub_self]

theorem fields4 (a : BitVec t) (b : BitVec u) (c : BitVec v) (d : BitVec w) :
    (a ++ b ++ c ++ d).extractLsb' (u + v + w) t = a ∧ (a ++ b ++ c ++ d).extractLsb' (v + w) u = b ∧
      (a ++ b ++ c ++ d).extractLsb' w v = c ∧ (a ++ b ++ c ++ d).extractLsb' 0 w = d := by
  obtain ⟨high, mid, low⟩ := fields3 a b c
  refine ⟨?_, ?_, ?_, BitVec.extractLsb'_append_eq_right⟩
  · rwa [BitVec.extractLsb'_append_eq_of_le (by omega), Nat.add_sub_cancel]
  · rwa [BitVec.extractLsb'_append_eq_of_le (by omega), Nat.add_sub_cancel]
  · rwa [BitVec.extractLsb'_append_eq_of_le le_rfl, Nat.sub_self]

theorem fields5 (a : BitVec s) (b : BitVec t) (c : BitVec u) (d : BitVec v) (e : BitVec w) :
    (a ++ b ++ c ++ d ++ e).extractLsb' (t + u + v + w) s = a ∧ (a ++ b ++ c ++ d ++ e).extractLsb' (u + v + w) t = b ∧
      (a ++ b ++ c ++ d ++ e).extractLsb' (v + w) u = c ∧ (a ++ b ++ c ++ d ++ e).extractLsb' w v = d ∧
      (a ++ b ++ c ++ d ++ e).extractLsb' 0 w = e := by
  obtain ⟨high, third, second, low⟩ := fields4 a b c d
  refine ⟨?_, ?_, ?_, ?_, BitVec.extractLsb'_append_eq_right⟩
  · rwa [BitVec.extractLsb'_append_eq_of_le (by omega), Nat.add_sub_cancel]
  · rwa [BitVec.extractLsb'_append_eq_of_le (by omega), Nat.add_sub_cancel]
  · rwa [BitVec.extractLsb'_append_eq_of_le (by omega), Nat.add_sub_cancel]
  · rwa [BitVec.extractLsb'_append_eq_of_le le_rfl, Nat.sub_self]

end

/-! ## Major by major

Where a decoder reads parts of a field and nothing else of it, its answer is asked for only of a field with these parts. -/

section
variable {i : Instr}

theorem alu_decodesTo {d a b : GReg} {fn : BitVec 11} (wf : i.wellFormed = true)
    (h : decodeAlu d a b fn = .ok i) : DecodesTo [packA 0x01 d a b fn] i :=
  decodesTo_one wf (major_packA ..) (by decide) (by unfold decodeLow; rw [major_packA, unpackA_packA]; exact h)

theorem coord_decodesTo {d a b : GReg} {fn : BitVec 11} (wf : i.wellFormed = true)
    (h : decodeCoord d a b fn = .ok i) : DecodesTo [packA 0x13 d a b fn] i :=
  decodesTo_one wf (major_packA ..) (by decide) (by unfold decodeLow; rw [major_packA, unpackA_packA]; exact h)

theorem amo_decodesTo {d a b : GReg} {z : BitVec 6} {w : BitVec 1} {m : BitVec 4} (wf : i.wellFormed = true)
    (h : ∀ {fn : BitVec 11}, fn.extractLsb' 5 6 = z → fn.extractLsb' 4 1 = w → fn.extractLsb' 0 4 = m → decodeAmo d a b fn = .ok i) :
    DecodesTo [packA 0x18 d a b (z ++ w ++ m)] i := by
  obtain ⟨hz, hw, hm⟩ := fields3 z w m
  exact decodesTo_one wf (major_packA ..) (by decide) (by unfold decodeLow; rw [major_packA, unpackA_packA]; exact h hz hw hm)

theorem fp_decodesTo {d a b : GReg} {z : BitVec 1} {r : BitVec 3} {p : BitVec 1} {m : BitVec 6} (wf : i.wellFormed = true)
    (h : ∀ {fn : BitVec 11}, fn.extractLsb' 10 1 = z → fn.extractLsb' 7 3 = r → fn.extractLsb' 6 1 = p → fn.extractLsb' 0 6 = m →
      decodeFp d a b fn = .ok i) :
    DecodesTo [packA 0x1A d a b (z ++ r ++ p ++ m)] i := by
  obtain ⟨hz, hr, hp, hm⟩ := fields4 z r p m
  exact decodesTo_one wf (major_packA ..) (by decide) (by unfold decodeLow; rw [major_packA, unpackA_packA]; exact h hz hr hp hm)

theorem fma_decodesTo {d a b : GReg} {c : BitVec 5} {m : BitVec 2} {p : BitVec 1} {r : BitVec 3} (wf : i.wellFormed = true)
    (h : ∀ {fn : BitVec 11}, fn.extractLsb' 6 5 = c → fn.extractLsb' 4 2 = m → fn.extractLsb' 3 1 = p → fn.extractLsb' 0 3 = r →
      decodeFma d a b fn = .ok i) :
    DecodesTo [packA 0x1B d a b (c ++ m ++ p ++ r)] i := by
  obtain ⟨hc, hm, hp, hr⟩ := fields4 c m p r
  exact decodesTo_one wf (major_packA ..) (by decide) (by unfold decodeLow; rw [major_packA, unpackA_packA]; exact h hc hm hp hr)

theorem fcvt_decodesTo {d a b : GReg} {fn : BitVec 11} (wf : i.wellFormed = true)
    (h : decodeFcvt d a b fn = .ok i) : DecodesTo [packA 0x1C d a b fn] i :=
  decodesTo_one wf (major_packA ..) (by decide) (by unfold decodeLow; rw [major_packA, unpackA_packA]; exact h)

theorem strand_decodesTo {d a b : GReg} {fn : BitVec 11} (wf : i.wellFormed = true)
    (h : decodeStrand d a b fn = .ok i) : DecodesTo [packA 0x35 d a b fn] i :=
  decodesTo_one wf (major_packA ..) (by decide) (by unfold decodeLow; rw [major_packA, unpackA_packA]; exact h)

theorem shi_decodesTo {d a : GReg} {m : BitVec 2} {z : BitVec 8} {n : BitVec 6} (wf : i.wellFormed = true)
    (h : ∀ {imm : BitVec 16}, imm.extractLsb' 14 2 = m → imm.extractLsb' 6 8 = z → imm.extractLsb' 0 6 = n → decodeShi d a imm = .ok i) :
    DecodesTo [packI 0x07 d a (m ++ z ++ n)] i := by
  obtain ⟨hm, hz, hn⟩ := fields3 m z n
  exact decodesTo_one wf (major_packI ..) (by decide) (by unfold decodeLow; rw [major_packI, unpackI_packI]; exact h hm hz hn)

theorem vfp_decodesTo {d a b c : VReg} {k : KReg} {z : BitVec 1} {p : BitVec 1} {m : BitVec 5} (wf : i.wellFormed = true)
    (h : ∀ {fn : BitVec 7}, fn.extractLsb' 6 1 = z → fn.extractLsb' 5 1 = p → fn.extractLsb' 0 5 = m → decodeVfp d a b c k fn = .ok i) :
    DecodesTo [packV 0x24 d a b c k (z ++ p ++ m)] i := by
  obtain ⟨hz, hp, hm⟩ := fields3 z p m
  exact decodesTo_one wf (major_packV ..) (by decide) (by unfold decodeLow; rw [major_packV, unpackV_packV]; exact h hz hp hm)

theorem vfma_decodesTo {d a b c : VReg} {k : KReg} {z : BitVec 4} {p : BitVec 1} {m : BitVec 2} (wf : i.wellFormed = true)
    (h : ∀ {fn : BitVec 7}, fn.extractLsb' 3 4 = z → fn.extractLsb' 2 1 = p → fn.extractLsb' 0 2 = m → decodeVfma d a b c k fn = .ok i) :
    DecodesTo [packV 0x25 d a b c k (z ++ p ++ m)] i := by
  obtain ⟨hz, hp, hm⟩ := fields3 z p m
  exact decodesTo_one wf (major_packV ..) (by decide) (by unfold decodeLow; rw [major_packV, unpackV_packV]; exact h hz hp hm)

theorem vint_decodesTo {d a b c : VReg} {k : KReg} {e : BitVec 2} {m : BitVec 5} (wf : i.wellFormed = true)
    (h : ∀ {fn : BitVec 7}, fn.extractLsb' 5 2 = e → fn.extractLsb' 0 5 = m → decodeVint d a b c k fn = .ok i) :
    DecodesTo [packV 0x26 d a b c k (e ++ m)] i := by
  obtain ⟨he, hm⟩ := fields2 e m
  exact decodesTo_one wf (major_packV ..) (by decide) (by unfold decodeLow; rw [major_packV, unpackV_packV]; exact h he hm)

theorem vcvt_decodesTo {d a b c : VReg} {k : KReg} {fn : BitVec 7} (wf : i.wellFormed = true)
    (h : decodeVcvt d a b c k fn = .ok i) : DecodesTo [packV 0x28 d a b c k fn] i :=
  decodesTo_one wf (major_packV ..) (by decide) (by unfold decodeLow; rw [major_packV, unpackV_packV]; exact h)

theorem bmem_decodesTo {b : BReg} {a : GReg} {off : BitVec 13} {m : BitVec 2} {f : BitVec 2} (wf : i.wellFormed = true)
    (h : ∀ {fmt : BitVec 4}, fmt.extractLsb' 2 2 = m → fmt.extractLsb' 0 2 = f → decodeBmem b a fmt off = .ok i) :
    DecodesTo [packKM 0x2C b a (m ++ f) off] i := by
  obtain ⟨hm, hf⟩ := fields2 m f
  exact decodesTo_one wf (major_packKM ..) (by decide) (by unfold decodeLow; rw [major_packKM, unpackKM_packKM]; exact h hm hf)

theorem blk_decodesTo {m : MReg} {ba bb aux : BReg} {gx : GReg} {mem : BitVec 6} (wf : i.wellFormed = true)
    (h : decodeBlk ⟨m, ba, bb, aux, gx, mem⟩ = .ok i) : DecodesTo [packK 0x2E m ba bb aux gx mem] i :=
  decodesTo_one wf (major_packK ..) (by decide) (by unfold decodeLow; rw [major_packK, unpackK_packK]; exact h)

theorem bcv_decodesTo {m : MReg} {ba bb aux : BReg} {gx : GReg} {mem : BitVec 6} (wf : i.wellFormed = true)
    (h : decodeBcv ⟨m, ba, bb, aux, gx, mem⟩ = .ok i) : DecodesTo [packK 0x2F m ba bb aux gx mem] i :=
  decodesTo_one wf (major_packK ..) (by decide) (by unfold decodeLow; rw [major_packK, unpackK_packK]; exact h)

theorem msg_decodesTo {d a : GReg} {ch : Chan} {fn : BitVec 8} {z : BitVec 1} {cls : BitVec 2} (wf : i.wellFormed = true)
    (h : decodeMsg ⟨d, a, ch, fn, z, cls⟩ = .ok i) : DecodesTo [packC 0x34 d a ch fn z cls] i :=
  decodesTo_one wf (major_packC ..) (by decide) (by unfold decodeLow; rw [major_packC, unpackC_packC]; exact h)

theorem sys_decodesTo {d a : GReg} {n : BitVec 12} {fn : BitVec 4} (wf : i.wellFormed = true)
    (h : decodeSys d a n fn = .ok i) : DecodesTo [packS 0x36 d a n fn] i :=
  decodesTo_one wf (major_packS ..) (by decide) (by unfold decodeLow; rw [major_packS, unpackS_packS]; exact h)

theorem strm_decodesTo {d a b : GReg} {fn : BitVec 11} {ch : Chan} {z : BitVec 3} {len : BitVec 24} (wf : i.wellFormed = true)
    (h : ∀ {w1 : IWord}, unpackCL w1 = ⟨ch, z, len⟩ → decodeStrm d a b fn w1 = .ok i) :
    DecodesTo [packA 0x39 d a b fn, packCL ch z len] i :=
  decodesTo_two wf (major_packA ..) (by decide) (by unfold decodeLow; rw [major_packA, unpackA_packA]; exact h (unpackCL_packCL ..))

theorem fgp_decodesTo {d a b : GReg} {fn : BitVec 11} {ch : Chan} {z : BitVec 3} {len : BitVec 24} (wf : i.wellFormed = true)
    (h : ∀ {w1 : IWord}, unpackCL w1 = ⟨ch, z, len⟩ → decodeFgp d a b fn w1 = .ok i) :
    DecodesTo [packA 0x3A d a b fn, packCL ch z len] i :=
  decodesTo_two wf (major_packA ..) (by decide) (by unfold decodeLow; rw [major_packA, unpackA_packA]; exact h (unpackCL_packCL ..))

theorem far_decodesTo {d a b : GReg} {fn : BitVec 11} {w1 : IWord} {u : Upper} (wf : i.wellFormed = true) (same : u.instr = i)
    (h : decodeFar d a b fn w1 = .ok u) : DecodesTo [packA 0x3B d a b fn, w1] i :=
  decodesTo_upper wf (major_packA ..) (by decide) same (by unfold decodeUpper; rw [major_packA, unpackA_packA]; exact h)

theorem ftb_decodesTo {d a b : GReg} {fn : BitVec 11} {w1 : IWord} {u : Upper} (wf : i.wellFormed = true) (same : u.instr = i)
    (h : decodeFtb d a b fn w1 = .ok u) : DecodesTo [packA 0x3C d a b fn, w1] i :=
  decodesTo_upper wf (major_packA ..) (by decide) same (by unfold decodeUpper; rw [major_packA, unpackA_packA]; exact h)

theorem bmloop_decodesTo {d a b : GReg} {fn : BitVec 11} {w1 : IWord} {u : Upper} (wf : i.wellFormed = true) (same : u.instr = i)
    (h : decodeBmloop d a b fn w1 = .ok u) : DecodesTo [packA 0x3D d a b fn, w1] i :=
  decodesTo_upper wf (major_packA ..) (by decide) same (by unfold decodeUpper; rw [major_packA, unpackA_packA]; exact h)

theorem chbind_decodesTo {d a b : GReg} {fn : BitVec 11} {w1 : IWord} {u : Upper} (wf : i.wellFormed = true) (same : u.instr = i)
    (h : decodeChbind d a b fn w1 = .ok u) : DecodesTo [packA 0x3E d a b fn, w1] i :=
  decodesTo_upper wf (major_packA ..) (by decide) same (by unfold decodeUpper; rw [major_packA, unpackA_packA]; exact h)

end

end Sys2Proof
end

section
/-! SUPPORT. The words, part 6: what the encoder writes decodes to the instruction (R34 to R57). -/

namespace Sys2Proof

/-! ## Permutes and VRNG: the decoder reads k and fn where every layout has them -/

theorem unpackV_packVG {op : BitVec 6} {v : VReg} {g : GReg} {x : BitVec 7} {k : KReg} {fn : BitVec 7} :
    (unpackV (packVG op v g x k fn)).fn = fn ∧ (unpackV (packVG op v g x k fn)).k = k :=
  ⟨congrArg FieldsVG.fn (unpackVG_packVG ..), congrArg FieldsVG.k (unpackVG_packVG ..)⟩

theorem unpackV_packVE {op : BitVec 6} {g : GReg} {v : VReg} {x : BitVec 7} {k : KReg} {fn : BitVec 7} :
    (unpackV (packVE op g v x k fn)).fn = fn ∧ (unpackV (packVE op g v x k fn)).k = k :=
  ⟨congrArg FieldsVE.fn (unpackVE_packVE ..), congrArg FieldsVE.k (unpackVE_packVE ..)⟩

theorem unpackV_packVC {op : BitVec 6} {d a : VReg} {c : BitVec 8} {k : KReg} {fn : BitVec 7} :
    (unpackV (packVC op d a c k fn)).fn = fn :=
  congrArg FieldsVC.fn (unpackVC_packVC ..)

theorem perm_decodesTo {w : IWord} {i : Instr} {e : BitVec 2} {m : BitVec 5} (wf : i.wellFormed = true) (major : w.extractLsb' 26 6 = 0x27)
    (fn : (unpackV w).fn = e ++ m)
    (h : (unpackV w).fn.extractLsb' 5 2 = e → (unpackV w).fn.extractLsb' 0 5 = m → decodePerm w = .ok i) : DecodesTo [w] i := by
  obtain ⟨he, hm⟩ := fields2 e m
  exact decodesTo_one wf major (by decide) (by unfold decodeLow; rw [major]; exact h (fn ▸ he) (fn ▸ hm))

theorem vrng_decodesTo {w : IWord} {i : Instr} (wf : i.wellFormed = true) (major : w.extractLsb' 26 6 = 0x29)
    (h : decodeVrng w = .ok i) : DecodesTo [w] i :=
  decodesTo_one wf major (by decide) (by unfold decodeLow; rw [major]; exact h)

theorem decodeGath_append (mk : VReg → Bool → Instr) (vi : VReg) (e : Bool) : decodeGath mk (0#1 ++ vi) (1#1 ++ bit e) = .ok (mk vi e) := by
  simp (disch := decide) only [decodeGath, extract_append, BitVec.extractLsb'_eq_self, Nat.reduceSub, unbit_bit]
  rfl

/-! ## Majors of one member -/

section
variable {d a b : GReg} {sz : Sz} {sx : Bool}

theorem ld_decodesTo {off : BitVec 13} (wf : (Instr.ld d a sz sx off).wellFormed = true) :
    DecodesTo [packM 0x14 d a sz.code (bit sx) off] (.ld d a sz sx off) := by
  refine decodesTo_one wf (major_packM ..) (by decide) ?_
  unfold decodeLow
  rw [major_packM, unpackM_packM]
  exact congrArg₂ (fun z x => Except.ok (Instr.ld d a z x off)) (Sz.ofCode_code sz) (unbit_bit sx)

theorem st_decodesTo {off : BitVec 13} (wf : (Instr.st d a sz off).wellFormed = true) :
    DecodesTo [packM 0x15 d a sz.code 0 off] (.st d a sz off) := by
  refine decodesTo_one wf (major_packM ..) (by decide) ?_
  unfold decodeLow
  rw [major_packM, unpackM_packM]
  exact congrArg (fun z => Except.ok (Instr.st d a z off)) (Sz.ofCode_code sz)

theorem ldx_decodesTo {sh : BitVec 2} (wf : (Instr.ldx d a b sh sx sz).wellFormed = true) :
    DecodesTo [packA 0x16 d a b (0#5 ++ sh ++ bit sx ++ 0#1 ++ sz.code)] (.ldx d a b sh sx sz) := by
  obtain ⟨zero, shift, signed, unused, size⟩ := fields5 0#5 sh (bit sx) 0#1 sz.code
  refine decodesTo_one wf (major_packA ..) (by decide) ?_
  unfold decodeLow
  rw [major_packA, unpackA_packA]
  dsimp only
  rw [zero, shift, signed, unused, size, unbit_bit, Sz.ofCode_code]
  rfl

theorem stx_decodesTo {sh : BitVec 2} (wf : (Instr.stx d a b sh sz).wellFormed = true) :
    DecodesTo [packA 0x17 d a b (0#5 ++ sh ++ 0#1 ++ 0#1 ++ sz.code)] (.stx d a b sh sz) := by
  obtain ⟨zero, shift, signed, unused, size⟩ := fields5 0#5 sh 0#1 0#1 sz.code
  refine decodesTo_one wf (major_packA ..) (by decide) ?_
  unfold decodeLow
  rw [major_packA, unpackA_packA]
  dsimp only
  rw [zero, shift, signed, unused, size, Sz.ofCode_code]
  rfl

theorem vld_decodesTo {v : VReg} {k : KReg} {off : BitVec 7} (wf : (Instr.vld v a b sz k off).wellFormed = true) :
    DecodesTo [packVM 0x20 v a b sz.code k off] (.vld v a b sz k off) := by
  refine decodesTo_one wf (major_packVM ..) (by decide) ?_
  unfold decodeLow
  rw [major_packVM, unpackVM_packVM]
  exact congrArg (fun z => Except.ok (Instr.vld v a b z k off)) (Sz.ofCode_code sz)

theorem vst_decodesTo {v : VReg} {k : KReg} {off : BitVec 7} (wf : (Instr.vst v a b sz k off).wellFormed = true) :
    DecodesTo [packVM 0x21 v a b sz.code k off] (.vst v a b sz k off) := by
  refine decodesTo_one wf (major_packVM ..) (by decide) ?_
  unfold decodeLow
  rw [major_packVM, unpackVM_packVM]
  exact congrArg (fun z => Except.ok (Instr.vst v a b z k off)) (Sz.ofCode_code sz)

theorem li48_decodesTo {imm : BitVec 48} (wf : (Instr.li48 d imm).wellFormed = true) :
    DecodesTo [packI 0x38 d 0 (imm.extractLsb' 32 16), imm.extractLsb' 0 32] (.li48 d imm) := by
  refine decodesTo_two wf (major_packI ..) (by decide) ?_
  unfold decodeLow
  rw [major_packI, unpackI_packI]
  exact congrArg (fun x => Except.ok (Instr.li48 d x)) BitVec.extractLsb'_append_extractLsb'

theorem decodeFcvt_append {sat : Bool} {rm : Rm} {src dst : Ty} :
    decodeFcvt d a (0#4 ++ bit sat) (rm.code ++ src.code ++ dst.code) = .ok (.fcvt d a sat rm src dst) := by
  simp (disch := decide) only [decodeFcvt, extract_append, BitVec.extractLsb'_eq_self, Nat.reduceSub, Rm.ofCode_code, Ty.ofCode_code, unbit_bit]
  rfl

theorem decodeVcvt_append {d a : VReg} {dst src : Ty} {sat : Bool} {vr : BitVec 3} {k : KReg} {rm : Rm} :
    decodeVcvt d a dst.code (bit sat ++ vr) k (rm.code ++ src.code) = .ok (.vcvt d a dst sat vr k rm src) := by
  simp (disch := decide) only [decodeVcvt, extract_append, BitVec.extractLsb'_eq_self, Nat.reduceSub, Rm.ofCode_code, Ty.ofCode_code, unbit_bit]

end

/-! ## Block members with fields of their own -/

section
variable {d b : BReg} {x : GReg} {m : MReg} {v : BitVec 3} {hi : Bool} {f : Bfmt} {ty : MxTy}

theorem decodeBlk_bclr : decodeBlk ⟨0, 0, 0#2 ++ f.code, d, 0, 0x9⟩ = .ok (.bclr d f) := by
  obtain ⟨zero, format⟩ := fields2 0#2 f.code
  dsimp only [decodeBlk]
  rw [zero, format, Bfmt.ofCode_code]
  rfl

theorem decodeBlk_blsft {k : KReg} : decodeBlk ⟨m, 0, 0, 0#1 ++ k, 0, 0xC⟩ = .ok (.blsft k m) := by
  obtain ⟨zero, number⟩ := fields2 0#1 k
  dsimp only [decodeBlk]
  rw [zero, number]
  rfl

theorem decodeBcv_benc : decodeBcv ⟨0, bit hi ++ 0#3, 0#2 ++ f.code, d, 0, 0⟩ = .ok (.benc d hi f) := by
  obtain ⟨half, unused⟩ := fields2 (bit hi) 0#3
  obtain ⟨zero, format⟩ := fields2 0#2 f.code
  dsimp only [decodeBcv]
  rw [half, unused, zero, format, unbit_bit, Bfmt.ofCode_code]
  rfl

theorem decodeBcv_bdec : decodeBcv ⟨0, bit hi ++ 0#3, b, 0, 0, 1⟩ = .ok (.bdec hi b) := by
  obtain ⟨half, unused⟩ := fields2 (bit hi) 0#3
  dsimp only [decodeBcv]
  rw [half, unused, unbit_bit]
  rfl

theorem decodeBcv_bmrd : decodeBcv ⟨m, v ++ 0#1, 0, 0, 0, 2⟩ = .ok (.bmrd v m) := by
  obtain ⟨number, zero⟩ := fields2 v 0#1
  dsimp only [decodeBcv]
  rw [number, zero]
  rfl

theorem decodeBcv_bmrb {j : BitVec 2} : decodeBcv ⟨m, 0, j ++ f.code, d, 0, 3⟩ = .ok (.bmrb d m j f) := by
  obtain ⟨quarter, format⟩ := fields2 j f.code
  dsimp only [decodeBcv]
  rw [quarter, format, Bfmt.ofCode_code]
  rfl

theorem decodeBcv_mxin : decodeBcv ⟨ty.code, v ++ 0#1, 0#2 ++ f.code, d, x, 6⟩ = .ok (.mxin d ty v x f) := by
  obtain ⟨number, unused⟩ := fields2 v 0#1
  obtain ⟨zero, format⟩ := fields2 0#2 f.code
  dsimp only [decodeBcv]
  rw [number, unused, zero, format, Bfmt.ofCode_code, MxTy.ofCode_code]
  rfl

theorem decodeBcv_mxout : decodeBcv ⟨ty.code, v ++ 0#1, 0, b, x, 7⟩ = .ok (.mxout v ty x b) := by
  obtain ⟨number, zero⟩ := fields2 v 0#1
  dsimp only [decodeBcv]
  rw [number, zero, MxTy.ofCode_code]
  rfl

end

/-! ## Two-word forms -/

section
variable {d a b : GReg} {sz : Sz} {sx w : Bool} {off : IWord}

theorem decodeFar_fld : decodeFar d a 0 (0#2 ++ 0#4 ++ bit sx ++ sz.code ++ 0#2) off = .ok (.fld d a sz sx off) := by
  simp (disch := decide) only [decodeFar, extract_append, BitVec.extractLsb'_eq_self, Nat.reduceSub, Sz.ofCode_code, unbit_bit]
  rfl

theorem decodeFar_fst : decodeFar d a 0 (0#2 ++ 0#4 ++ 0#1 ++ sz.code ++ 1#2) off = .ok (.fst d a sz off) := by
  simp (disch := decide) only [decodeFar, extract_append, BitVec.extractLsb'_eq_self, Nat.reduceSub, Sz.ofCode_code]
  rfl

theorem decodeFar_famo {op : BitVec 4} (assigned : op.toNat ≤ 9) :
    decodeFar d a b (0#2 ++ op ++ 0#1 ++ (1#1 ++ bit w) ++ 2#2) off = .ok (.famo op d a b w off) := by
  obtain ⟨zero, member, unused, size, kind⟩ := fields5 0#2 op 0#1 (1#1 ++ bit w) 2#2
  dsimp only [decodeFar]
  rw [zero, member, unused, size, kind]
  exact (to32_ofCode w fun w => if op.toNat ≤ 9 then .ok (Upper.famo op d a b w off) else .error .unassigned).trans (if_pos assigned)

theorem decodeFtb_count {fn : BitVec 11} {count : BitVec 16} (assigned : fn.toNat ≤ 2) :
    decodeFtb 0 a 0 fn (0#16 ++ count) = .ok (.ftb (fn.extractLsb' 0 2) a count) := by
  simp (disch := decide) only [decodeFtb, extract_append, BitVec.extractLsb'_eq_self, Nat.reduceSub]
  exact if_pos assigned

theorem decodeBmloop_append {f : MReg} {s : BReg} {n : GReg} {t : Tiles} {fmt : Bfmt} {sa sb : BitVec 16} :
    decodeBmloop a b n (s ++ t.code ++ fmt.code ++ f) (sa ++ sb) = .ok (.bmloop f s a b n t fmt sa sb) := by
  simp (disch := decide) only [decodeBmloop, extract_append, BitVec.extractLsb'_eq_self, Nat.reduceSub, Tiles.ofCode_code, Bfmt.ofCode_code]

theorem decodeChbind_append {ch : Chan} {base len : BitVec 16} : decodeChbind 0 a 0 (0#6 ++ ch) (base ++ len) = .ok (.chbind ch a base len) := by
  simp (disch := decide) only [decodeChbind, extract_append, BitVec.extractLsb'_eq_self, Nat.reduceSub]
  rfl

end

/-- A service code from 6 on is one that R355 does not assign. -/
theorem decodeSys_unassigned {a : GReg} {c : BitVec 6} (h : 6 ≤ c.toNat) : decodeSys 0 a (0#6 ++ c) 5 = .ok (.supvUnassigned c a) := by
  obtain ⟨zero, code⟩ := fields2 0#6 c
  obtain ⟨k, large⟩ := Nat.exists_eq_add_of_le' h
  have value : (0#6 ++ c).toNat = k + 6 := by rw [BitVec.toNat_append, large]; simp
  dsimp only [decodeSys]
  rw [zero, code, value]
  rfl

/-! ## Every instruction -/

/-- The words that encode writes decode to the instruction: each row names its major, and the fields that the member's arm reads. -/
theorem encode_decodesTo (i : Instr) (wf : i.wellFormed = true) : DecodesTo (encode i) i := by
  cases i with
  -- integers
  | add | sub | and | or | xor | sll | srl | sra | slt | sltn | min | max | minn | maxn | mul | mulh | mulhn | div | divn | rem | remn
  | cmovnz | cmovz | addsh1 | addsh2 | addsh3 | qshift | clz | ctz | popc | brev | bswap | sextB | sextH | sextW | zextB | zextH | zextW =>
    exact alu_decodesTo wf rfl
  | addi | andi | ori | xori | slti | lih | beq | bne | blt | bge | bltn | bgen | jalr | dbnz =>
    exact decodesTo_one wf (major_packI ..) (by decide) (by unfold decodeLow; rw [major_packI, unpackI_packI]; rfl)
  | shiSll | shiSrl | shiSra => exact shi_decodesTo wf fun m z n => by unfold decodeShi; rw [m, z, n]; rfl
  | jal => exact decodesTo_one wf (major_packJ ..) (by decide) (by unfold decodeLow; rw [major_packJ, unpackJ_packJ]; rfl)
  | cmk | cgx | cgy | cgr | cadd | cdist => exact coord_decodesTo wf rfl
  -- the well
  | ld => exact ld_decodesTo wf
  | st => exact st_decodesTo wf
  | ldx => exact ldx_decodesTo wf
  | stx => exact stx_decodesTo wf
  | amoadd | amoand | amoor | amoxor | amomin | amomax | amominn | amomaxn | amoswap | amocas =>
    exact amo_decodesTo wf fun z w m => by unfold decodeAmo; rw [z, w, m, unbit_bit]; rfl
  | fence core =>
    cases core with
    | false => exact decodesTo_one wf rfl (by decide) rfl
    | true => exact decodesTo_one wf rfl (by decide) rfl
  | ffence s =>
    cases s with
    | strand | core | field | wafer | domain => exact decodesTo_one wf rfl (by decide) rfl
  -- scalar floating point
  | fadd | fsub | fmul | fdiv | fsqrt =>
    exact fp_decodesTo wf fun z r p m => by unfold decodeFp; rw [z, r, p, m, Rm.ofCode_code, Prec.ofCode_code]; rfl
  | fmin | fmax | feq | flt | fle | fclass | fsgcp | fsgcn | fsgxr =>
    exact fp_decodesTo wf fun z r p m => by unfold decodeFp; rw [z, r, p, m, Prec.ofCode_code]; rfl
  | fma | fms | fnma | fnms =>
    exact fma_decodesTo wf fun c m p r => by unfold decodeFma; rw [c, m, p, r, Rm.ofCode_code, Prec.ofCode_code]; rfl
  | fcvt => exact fcvt_decodesTo wf decodeFcvt_append
  -- vectors
  | vld => exact vld_decodesTo wf
  | vst => exact vst_decodesTo wf
  | vgath | vscat =>
    exact decodesTo_one wf (major_packVM ..) (by decide) (by unfold decodeLow; rw [major_packVM, unpackVM_packVM]; exact decodeGath_append ..)
  | vfadd | vfsub | vfmul | vfdiv | vfsqrt | vfmin | vfmax | vfabs | vfneg =>
    exact vfp_decodesTo wf fun z p m => by unfold decodeVfp; rw [z, p, m, Prec.ofCode_code]; rfl
  | vfeq d a b k p =>
    exact vfp_decodesTo wf fun z p' m => by unfold decodeVfp; rw [z, p', m, Prec.ofCode_code]; exact toK_append d (.vfeq · a b k p)
  | vflt d a b k p =>
    exact vfp_decodesTo wf fun z p' m => by unfold decodeVfp; rw [z, p', m, Prec.ofCode_code]; exact toK_append d (.vflt · a b k p)
  | vfle d a b k p =>
    exact vfp_decodesTo wf fun z p' m => by unfold decodeVfp; rw [z, p', m, Prec.ofCode_code]; exact toK_append d (.vfle · a b k p)
  | vfrcp | vfrsq | vfex2 | vflg2 | vftanh => exact vfp_decodesTo wf fun z p m => by unfold decodeVfp; rw [z, p, m]; rfl
  | vfma | vfms | vfnma | vfnms => exact vfma_decodesTo wf fun z p m => by unfold decodeVfma; rw [z, p, m, Prec.ofCode_code]; rfl
  | vadd | vsub | vmul | vmulh | vmulhn | vand | vor | vxor | vsll | vsrl | vsra | vmin | vmax | vminn | vmaxn | vadds | vsubs | vaddsn
  | vsubsn | vabs =>
    exact vint_decodesTo wf fun e m => by unfold decodeVint; rw [e, m, Sz.ofCode_code]; rfl
  | veq d a b k e =>
    exact vint_decodesTo wf fun e' m => by
      unfold decodeVint; rw [e', m]; exact (to32_ofCode e fun e => toK (0#1 ++ d) (.veq · a b k e)).trans (toK_append ..)
  | vlt d a b k e =>
    exact vint_decodesTo wf fun e' m => by
      unfold decodeVint; rw [e', m]; exact (to32_ofCode e fun e => toK (0#1 ++ d) (.vlt · a b k e)).trans (toK_append ..)
  | vltn d a b k e =>
    exact vint_decodesTo wf fun e' m => by
      unfold decodeVint; rw [e', m]; exact (to32_ofCode e fun e => toK (0#1 ++ d) (.vltn · a b k e)).trans (toK_append ..)
  | dmma => exact decodesTo_one wf (major_packV ..) (by decide) (by unfold decodeLow; rw [major_packV, unpackV_packV]; rfl)
  | vcvt => exact vcvt_decodesTo wf decodeVcvt_append
  | vperm | vsel | vzip | vunzip | vmov =>
    exact perm_decodesTo wf (major_packV ..) (by rw [unpackV_packV]) fun e m => by
      dsimp only [decodePerm]; rw [e, m, unpackV_packV, Sz.ofCode_code]; rfl
  | vbcast | vins =>
    exact perm_decodesTo wf (major_packVG ..) unpackV_packVG.1 fun e m => by
      dsimp only [decodePerm]; rw [e, m, unpackVG_packVG, Sz.ofCode_code]; rfl
  | vext =>
    exact perm_decodesTo wf (major_packVE ..) unpackV_packVE.1 fun e m => by
      dsimp only [decodePerm]; rw [e, m, unpackVE_packVE, Sz.ofCode_code]; rfl
  | vrot =>
    exact perm_decodesTo wf (major_packVC ..) unpackV_packVC fun e m => by
      dsimp only [decodePerm]; rw [e, m, unpackVC_packVC, Sz.ofCode_code]; rfl
  | vredadd _ _ _ p | vredmax _ _ _ p | vredmin _ _ _ p | vmaxx _ _ _ p | vminx _ _ _ p =>
    exact perm_decodesTo wf (major_packV ..) (by rw [unpackV_packV]) fun e m => by
      dsimp only [decodePerm]; rw [e, m, unpackV_packV]; cases p <;> rfl
  | knot d a =>
    exact perm_decodesTo wf (major_packV ..) (by rw [unpackV_packV]) fun e m => by
      dsimp only [decodePerm]; rw [e, m, unpackV_packV]; exact toKs_append d a 0 fun d a _ => .knot d a
  | kmovKk d a =>
    exact perm_decodesTo wf (major_packV ..) (by rw [unpackV_packV]) fun e m => by
      dsimp only [decodePerm]; rw [e, m, unpackV_packV]; exact toKs_append d a 0 fun d a _ => .kmovKk d a
  | kand | kor =>
    exact perm_decodesTo wf (major_packV ..) (by rw [unpackV_packV]) fun e m => by
      dsimp only [decodePerm]; rw [e, m, unpackV_packV]; exact toKs_append ..
  | kmovKg d a =>
    exact perm_decodesTo wf (major_packVG ..) unpackV_packVG.1 fun e m => by
      dsimp only [decodePerm]; rw [e, m, unpackVG_packVG, unpackV_packVG.2]; exact toK_append d (.kmovKg · a)
  | kmovGk d a =>
    exact perm_decodesTo wf (major_packVE ..) unpackV_packVE.1 fun e m => by
      obtain ⟨high, low⟩ := fields2 a 0#1
      dsimp only [decodePerm]; rw [e, m, unpackVE_packVE, unpackV_packVE.2, high, low]; rfl
  | vrng => exact vrng_decodesTo wf (major_packV ..) (by unfold decodeVrng; rw [unpackV_packV]; rfl)
  | vrngi => exact vrng_decodesTo wf (major_packVC ..) (by dsimp only [decodeVrng]; rw [unpackVC_packVC, unpackV_packVC]; rfl)
  -- blocks
  | bld | bst | blds => exact bmem_decodesTo wf fun m f => by unfold decodeBmem; rw [m, f, Bfmt.ofCode_code]; rfl
  | bmma | bmmz => exact decodesTo_one wf (major_packK ..) (by decide) (by unfold decodeLow; rw [major_packK, unpackK_packK]; rfl)
  | badd | bsub | bmul | bmaxe | bneg | bnorm | bmov | bscl | bexp | bmaxi | blsf | blsfc => exact blk_decodesTo wf rfl
  | bclr => exact blk_decodesTo wf decodeBlk_bclr
  | blsft => exact blk_decodesTo wf decodeBlk_blsft
  | benc => exact bcv_decodesTo wf decodeBcv_benc
  | bdec => exact bcv_decodesTo wf decodeBcv_bdec
  | bmrd => exact bcv_decodesTo wf decodeBcv_bmrd
  | bmrb => exact bcv_decodesTo wf decodeBcv_bmrb
  | mxin => exact bcv_decodesTo wf decodeBcv_mxin
  | mxout => exact bcv_decodesTo wf decodeBcv_mxout
  | bmsv | bmrs => exact bcv_decodesTo wf rfl
  -- messages, strands, system
  | send | recv | poll | qflush => exact msg_decodesTo wf rfl
  | sendv r | sendb r | recvv r | recvb r =>
    obtain ⟨number, zero⟩ := fields2 r 0#1
    exact msg_decodesTo wf (by dsimp only [decodeMsg]; rw [number, zero]; rfl)
  | mark => exact msg_decodesTo wf (by dsimp only [decodeMsg]; rw [Marker.ofCode_code]; rfl)
  | waitm => exact strand_decodesTo wf (by dsimp only [decodeStrand]; rw [Marker.ofCode_code]; rfl)
  | barr ch n =>
    obtain ⟨zero, number⟩ := fields2 0#1 n
    exact strand_decodesTo wf (by dsimp only [decodeStrand]; rw [zero, number]; rfl)
  | spawn | exit | yield | waitq | waite | sleep | wake | slotw | stid => exact strand_decodesTo wf rfl
  | csrr | csrw | csrs | csrc | csrrw | supvDone | supvCheckpoint | supvSlotmove | supvPumpswap | supvHostnote | supvSlottime | brk | idle
  | fltres | fltskp | fltkil | chksig => exact sys_decodesTo wf rfl
  | supvUnassigned => exact sys_decodesTo wf (decodeSys_unassigned (of_decide_eq_true wf))
  -- two-word forms
  | li48 => exact li48_decodesTo wf
  | strmOut | strmIn | strmCopy => exact strm_decodesTo wf fun second => by unfold decodeStrm; rw [second]; rfl
  | fget | fput => exact fgp_decodesTo wf fun second => by unfold decodeFgp; rw [second]; rfl
  | fld d a sz sx off => exact far_decodesTo (u := .fld d a sz sx off) wf rfl decodeFar_fld
  | fst s a sz off => exact far_decodesTo (u := .fst s a sz off) wf rfl decodeFar_fst
  | famoadd | famoand | famoor | famoxor | famomin | famomax | famominn | famomaxn | famoswap | famocas =>
    exact far_decodesTo wf rfl (decodeFar_famo (by decide))
  | ftbl | ftbu | ftbp => exact ftb_decodesTo wf rfl (decodeFtb_count (by decide))
  | bmloop f s a b n t fmt sa sb => exact bmloop_decodesTo (u := .bmloop f s a b n t fmt sa sb) wf rfl decodeBmloop_append
  | chbind ch a base len => exact chbind_decodesTo (u := .chbind ch a base len) wf rfl decodeChbind_append
  -- the steps of the hardware have no words
  | _ => exact nofun

/-- Settles O1: by what each instruction's words decode to. -/
theorem encodeDecode : Obligations.EncodeDecode := by
  unfold Obligations.EncodeDecode
  intro i w0 rest wf words
  exact encode_decodesTo i wf w0 rest words

/-- Settles O3: each word is what the encoder writes for its instruction, or is refused. -/
theorem decodeWords : Obligations.DecodeWords := by
  unfold Obligations.DecodeWords
  have reads {i : Instr} {w : IWord} (wf : i.wellFormed = true) (words : encode i = [w]) : decode w 0 = .ok i :=
    (encode_decodesTo i wf w [] words).1
  exact ⟨reads rfl rfl, reads rfl rfl, reads rfl rfl, reads rfl rfl, reads rfl rfl, reads rfl rfl, reads rfl rfl, reads rfl rfl,
    reads rfl rfl, reads rfl rfl, ⟨_, rfl⟩, _, rfl⟩

end Sys2Proof
end

section
/-! SUPPORT. Words at a pc that cannot be fetched, or are no instruction (R18, R37, R58, R59). -/

namespace Sys2Proof.Machine

/-! ## What a fetch raises -/

section
variable {c : Core} {pc : Word}

theorem inWell_iff {a n : ℕ} : inWell a n = true ↔ a + n ≤ 393216 := decide_eq_true_iff

theorem Core.fetchFault_misaligned (h : pc.toNat % 4 ≠ 0) : c.fetchFault pc = some (Code.misalign, none) ∧ c.fetchLen pc = 4 :=
  ⟨if_pos h, by simp [Core.fetchLen, h]⟩

theorem Core.fetchFault_outside (aligned : pc.toNat % 4 = 0) (h : 393216 < pc.toNat + 4) :
    c.fetchFault pc = some (Code.wellrange, none) ∧ c.fetchLen pc = 4 := by
  have outside : inWell pc.toNat 4 = false := decide_eq_false (Nat.not_le.mpr h)
  simp [Core.fetchFault, Core.fetchLen, aligned, outside]

theorem Core.fetchFault_first (aligned : pc.toNat % 4 = 0) (inside : pc.toNat + 4 ≤ 393216) (h : c.well.badIn pc.toNat 4 = true) :
    c.fetchFault pc = some (Code.ueWell, some pc) ∧ c.fetchLen pc = 4 := by
  simp [Core.fetchFault, Core.fetchLen, aligned, inWell_iff.mpr inside, h]

theorem Core.fetchFault_secondOutside (aligned : pc.toNat % 4 = 0) (inside : pc.toNat + 4 ≤ 393216)
    (good : c.well.badIn pc.toNat 4 = false) (two : wordsLen (c.iword pc.toNat) = 8) (h : 393216 < pc.toNat + 8) :
    c.fetchFault pc = some (Code.wellrange, none) ∧ c.fetchLen pc = 8 := by
  have outside : inWell (pc.toNat + 4) 4 = false := decide_eq_false (Nat.not_le.mpr h)
  simp [Core.fetchFault, Core.fetchLen, aligned, inWell_iff.mpr inside, good, twoWords_iff.mpr two, outside]

theorem Core.fetchFault_second (aligned : pc.toNat % 4 = 0) (inside : pc.toNat + 8 ≤ 393216)
    (good : c.well.badIn pc.toNat 4 = false) (two : wordsLen (c.iword pc.toNat) = 8) (h : c.well.badIn (pc.toNat + 4) 4 = true) :
    c.fetchFault pc = some (Code.ueWell, some (pc + 4)) ∧ c.fetchLen pc = 8 := by
  have first : inWell pc.toNat 4 = true := inWell_iff.mpr (by omega)
  have second : inWell (pc.toNat + 4) 4 = true := inWell_iff.mpr inside
  simp [Core.fetchFault, Core.fetchLen, aligned, first, second, good, twoWords_iff.mpr two, h]

/-- Words that are fetched have the length that their first word says. -/
theorem Core.fetchLen_of_noFault (h : c.fetchFault pc = none) : c.fetchLen pc = wordsLen (c.iword pc.toNat) := by
  have aligned : pc.toNat % 4 = 0 := by
    by_contra other
    simp [(Core.fetchFault_misaligned (c := c) other).1] at h
  have inside : pc.toNat + 4 ≤ 393216 := by
    by_contra other
    simp [(Core.fetchFault_outside (c := c) aligned (Nat.not_le.mp other)).1] at h
  have good : c.well.badIn pc.toNat 4 = false := by
    by_contra other
    simp [(Core.fetchFault_first aligned inside (Bool.not_eq_false _ ▸ other)).1] at h
  simp [Core.fetchLen, aligned, inWell_iff.mpr inside, good, twoWords, wordsLen]

end

/-! ## FETCH_FAULT and RESERVED_ENCODING -/

section
variable {s : State} {code : BitVec 8} {len : ℕ}

/-- A fetch fault whose TRAPVAL the spec does not state has a free one (log entry 5). -/
theorem exec_fetchFault_free (h : s.core.fetchFault s.pc = some (code, none) ∧ s.core.fetchLen s.pc = len) :
    ∃ v, exec .fetchFault s = .next ({ s with free := s.free + 1 }.trap code v len) := by
  obtain ⟨fault, rfl⟩ := h
  refine ⟨Config.freeValue s.free, ?_⟩
  change execFetchFault s = _
  rw [execFetchFault, fault]
  rfl

theorem exec_fetchFault_at {v : Word} (h : s.core.fetchFault s.pc = some (code, some v) ∧ s.core.fetchLen s.pc = len) :
    exec .fetchFault s = .next (s.trap code v len) := by
  obtain ⟨fault, rfl⟩ := h
  change execFetchFault s = _
  rw [execFetchFault, fault]

theorem exec_fetchFault_none (h : s.core.fetchFault s.pc = none) : exec .fetchFault s = .next s := by
  change execFetchFault s = _
  rw [execFetchFault, h]

end

theorem exec_reservedEncoding (w0 w1 : IWord) (s : State) : exec (.reservedEncoding w0 w1) s = .next (
    if 0x38 ≤ (w0.extractLsb' 26 6).toNat then s.trap 0x01 (w1 ++ w0) 8 else s.trap 0x01 ((0#32) ++ w0) 4) := by
  change execReservedEncoding w0 w1 s = _
  simp only [execReservedEncoding, twoWords, decide_eq_true_eq, Code.illegal]

theorem issueNow_reserved {u : State} {e : DecodeError} (loop : u.heldLoop = none) (part : u.st.part = none)
    (fetched : u.core.fetchFault u.pc = none) (h : decode (u.core.fetch u.pc).1 (u.core.fetch u.pc).2 = .error e) :
    issueNow u = exec (.reservedEncoding (u.core.fetch u.pc).1 (u.core.fetch u.pc).2) u.fetched := by
  simp only [issueNow, loop, part, fetched, h]

/-- Settles O5: what each fetch raises, case by case in the order of R59, and an issue whose words do not decode. -/
theorem fetchAndDecodeFaults : Obligations.FetchAndDecodeFaults := by
  unfold Obligations.FetchAndDecodeFaults
  refine ⟨fun s w0 w1 => ⟨exec_reservedEncoding w0 w1 s, ?reserved⟩, ?fetch⟩
  case reserved =>
    intro u e own hears due pick loop part fetched h
    have acts : ¬ s.wafer.deaf s.core.ident.site = true := by simp [hears]
    rw [step_own own, turnStep_own acts, coreStep_issues due pick, issueNow_reserved loop part fetched h, State.fetched,
      Core.fetchLen_of_noFault fetched]
    rfl
  case fetch =>
    intro s a n free
    have two (h : n = 8) : wordsLen (s.core.iword s.pc.toNat) = 8 := h
    exact ⟨fun misaligned => exec_fetchFault_free (Core.fetchFault_misaligned misaligned),
      fun aligned outside => exec_fetchFault_free (Core.fetchFault_outside aligned outside),
      fun aligned inside bad => exec_fetchFault_at (Core.fetchFault_first aligned inside bad),
      fun aligned inside good long outside => exec_fetchFault_free (Core.fetchFault_secondOutside aligned inside good (two long) outside),
      fun aligned inside good long bad => exec_fetchFault_at (Core.fetchFault_second aligned inside good (two long) bad),
      exec_fetchFault_none⟩

end Sys2Proof.Machine
end

section
/-! SUPPORT. Number formats, part 1: the integer that each rounding mode keeps, and the parts of a pattern of a format (R85 to R93). -/

namespace Sys2Proof.Machine

/-! ## One rounding, mode by mode -/

section
variable (neg : Bool) (num sh : ℕ)

theorem roundShift_lost (md : Mode) : (roundShift md neg num sh).2 = true ↔ num % 2 ^ sh ≠ 0 := decide_eq_true_iff

theorem roundShift_rtz : (roundShift .rtz neg num sh).1 = num / 2 ^ sh := rfl

theorem roundShift_rup :
    (roundShift .rup neg num sh).1 = if neg = false ∧ num % 2 ^ sh ≠ 0 then num / 2 ^ sh + 1 else num / 2 ^ sh := by
  simp [roundShift]

theorem roundShift_rdn :
    (roundShift .rdn neg num sh).1 = if neg = true ∧ num % 2 ^ sh ≠ 0 then num / 2 ^ sh + 1 else num / 2 ^ sh := by
  simp [roundShift]

theorem roundShift_rne : (roundShift .rne neg num sh).1 =
    if 2 ^ sh < 2 * (num % 2 ^ sh) ∨ 2 * (num % 2 ^ sh) = 2 ^ sh ∧ num / 2 ^ sh % 2 = 1 then num / 2 ^ sh + 1 else num / 2 ^ sh := by
  simp [roundShift]

theorem roundShift_rna : (roundShift .rna neg num sh).1 =
    if num % 2 ^ sh ≠ 0 ∧ 2 ^ sh ≤ 2 * (num % 2 ^ sh) then num / 2 ^ sh + 1 else num / 2 ^ sh := by
  simp [roundShift]

theorem roundShift_sto (r : ℕ) : (roundShift (.sto r) neg num sh).1 =
    num / 2 ^ sh + if 2 ^ 16 ≤ num % 2 ^ sh * 2 ^ 16 / 2 ^ sh + r then 1 else 0 := by
  simp only [roundShift, ge_iff_le, decide_eq_true_eq]
  split <;> rfl

/-- No mode but the stochastic one moves a number of which nothing is cut off. -/
theorem roundShift_exact {md : Mode} (det : ∀ r, md ≠ .sto r) (h : num % 2 ^ sh = 0) : (roundShift md neg num sh).1 = num / 2 ^ sh := by
  cases md with
  | rne => simp [roundShift_rne, h, (Nat.two_pow_pos sh).ne]
  | rtz => exact roundShift_rtz neg num sh
  | rup => simp [roundShift_rup, h]
  | rdn => simp [roundShift_rdn, h]
  | rna => simp [roundShift_rna, h]
  | sto r => exact absurd rfl (det r)

/-- A number is its quotient times the unit and a rest below the unit, written so that the products with the next integer are linear. -/
theorem shift_parts : num = num / 2 ^ sh * 2 ^ sh + num % 2 ^ sh ∧ num % 2 ^ sh < 2 ^ sh ∧
    (num / 2 ^ sh + 1) * 2 ^ sh = num / 2 ^ sh * 2 ^ sh + 2 ^ sh :=
  ⟨(Nat.div_add_mod' num _).symm, Nat.mod_lt _ (by positivity), Nat.succ_mul _ _⟩

theorem roundShift_rtz_bounds :
    (roundShift .rtz neg num sh).1 * 2 ^ sh ≤ num ∧ num < ((roundShift .rtz neg num sh).1 + 1) * 2 ^ sh := by
  rw [roundShift_rtz]
  have := shift_parts num sh
  omega

theorem half_units (n u : ℕ) : (2 * n + 1) * u = 2 * (n * u) + u ∧ 2 * n * u = 2 * (n * u) := by
  constructor <;> ring

/-- The nearest integer, the even one of two. -/
theorem roundShift_rne_nearest : let n := (roundShift .rne neg num sh).1
    2 * num ≤ (2 * n + 1) * 2 ^ sh ∧ 2 * n * 2 ^ sh ≤ 2 * num + 2 ^ sh ∧
    ((2 * num = (2 * n + 1) * 2 ^ sh ∨ 2 * n * 2 ^ sh = 2 * num + 2 ^ sh) → n % 2 = 0) := by
  intro n
  have hn : n = _ := roundShift_rne neg num sh
  have parts := shift_parts num sh
  rw [(half_units n _).1, (half_units n _).2, hn]
  split <;> omega

/-- The nearest integer, the larger one of two. -/
theorem roundShift_rna_nearest : let n := (roundShift .rna neg num sh).1
    2 * num < (2 * n + 1) * 2 ^ sh ∧ 2 * n * 2 ^ sh ≤ 2 * num + 2 ^ sh := by
  intro n
  have hn : n = _ := roundShift_rna neg num sh
  have parts := shift_parts num sh
  rw [(half_units n _).1, (half_units n _).2, hn]
  split <;> omega

end

@[simp] theorem roundDyadic_zero (md : Mode) (neg : Bool) (m : ℕ) : roundDyadic md neg m 0 = (m, false) := by
  simp [roundDyadic]

/-! ## The parts of a pattern -/

namespace FFmt
variable (f : FFmt) (x : ℕ)

/-- The sign of a pattern, its exponent code, and its fraction (R85). -/
def negAt : Bool := decide (x / f.signBit % 2 = 1)
def expAt : ℕ := x / 2 ^ f.fb % 2 ^ f.eb
def fracAt : ℕ := x % 2 ^ f.fb

theorem signBit_eq : f.signBit = 2 ^ f.eb * 2 ^ f.fb := Nat.pow_add ..

theorem two_signBit : 2 ^ f.bits = 2 * f.signBit := by
  rw [bits, signBit, Nat.add_assoc, Nat.add_comm, Nat.pow_succ, Nat.mul_comm]

theorem maxExp_succ : f.maxExp + 1 = 2 ^ f.eb := Nat.sub_add_cancel Nat.one_le_two_pow

theorem infBits_add : f.infBits + 2 ^ f.fb = f.signBit := by
  rw [infBits, signBit_eq, ← maxExp_succ, Nat.succ_mul]

theorem expAt_le : f.expAt x ≤ f.maxExp := by
  have := Nat.mod_lt (x / 2 ^ f.fb) (Nat.two_pow_pos f.eb)
  have := f.maxExp_succ
  unfold expAt
  omega

theorem fracAt_lt : f.fracAt x < 2 ^ f.fb := Nat.mod_lt _ (Nat.two_pow_pos _)

theorem magnitude_eq : x % f.signBit = f.expAt x * 2 ^ f.fb + f.fracAt x := by
  rw [signBit_eq, Nat.mul_comm, Nat.mod_mul, expAt, fracAt, Nat.mul_comm, Nat.add_comm]

/-- The bits of a pattern below its sign, under its sign, are the pattern. -/
theorem withSign_parts {x : ℕ} (h : x < 2 ^ f.bits) : f.withSign (f.negAt x) (f.expAt x * 2 ^ f.fb + f.fracAt x) = x := by
  have pos : 0 < f.signBit := Nat.two_pow_pos _
  have sign : x / f.signBit < 2 := Nat.div_lt_of_lt_mul (by rwa [Nat.mul_comm, ← two_signBit])
  have whole := Nat.mod_add_div x f.signBit
  rw [← magnitude_eq, withSign, negAt]
  obtain low | high := Nat.le_one_iff_eq_zero_or_eq_one.mp (Nat.le_of_lt_succ sign)
  · simpa [low] using whole
  · simpa [high] using whole

/-- The value of a pattern by its parts (R85). -/
theorem decode_eq : f.decode x =
    if f.inf = true ∧ f.expAt x = f.maxExp then
      if f.fracAt x = 0 then .inf (f.negAt x) else .nan (f.negAt x) (f.fracAt x) (decide (f.fracAt x < 2 ^ (f.fb - 1)))
    else if f.inf = false ∧ f.expAt x = f.maxExp ∧ f.fracAt x = 2 ^ f.fb - 1 then .nan (f.negAt x) (f.fracAt x) false
    else if f.expAt x = 0 then .fin (f.negAt x) (f.fracAt x) (1 - f.bias - f.fb)
    else .fin (f.negAt x) (f.fracAt x + 2 ^ f.fb) (f.expAt x - f.bias - f.fb) := by
  simp only [decode, Bool.and_eq_true, decide_eq_true_eq, Bool.not_eq_true', and_assoc]
  rfl

/-- A magnitude that is no infinity and no NaN is at most the largest finite code (R85). -/
theorem magnitude_le_maxFinite (h : ¬ (f.inf = true ∧ f.expAt x = f.maxExp))
    (h' : ¬ (f.inf = false ∧ f.expAt x = f.maxExp ∧ f.fracAt x = 2 ^ f.fb - 1)) :
    f.expAt x * 2 ^ f.fb + f.fracAt x ≤ f.maxFinite := by
  have frac := f.fracAt_lt x
  obtain top | lt := (f.expAt_le x).eq_or_lt
  · have noInf : f.inf = false := by simpa [top] using h
    have : f.fracAt x ≠ 2 ^ f.fb - 1 := by simpa [noInf, top] using h'
    rw [top, maxFinite, noInf, if_neg (by simp), infBits]
    omega
  · have below : (f.expAt x + 1) * 2 ^ f.fb ≤ f.infBits := Nat.mul_le_mul_right _ lt
    rw [Nat.succ_mul] at below
    unfold maxFinite
    split <;> omega

/-- What a pattern that is neither an infinity nor a NaN stands for: its fraction under exponent code 0, with a leading one else. -/
theorem decode_fin {f : FFmt} {x m : ℕ} {n : Bool} {e : ℤ} (h : f.decode x = .fin n m e) :
    n = f.negAt x ∧ f.expAt x * 2 ^ f.fb + f.fracAt x ≤ f.maxFinite ∧
    (f.expAt x = 0 ∧ m = f.fracAt x ∧ e = 1 - f.bias - f.fb ∨
      f.expAt x ≠ 0 ∧ m = f.fracAt x + 2 ^ f.fb ∧ e = f.expAt x - f.bias - f.fb) := by
  rw [decode_eq] at h
  split at h
  · split at h <;> cases h
  next notTop =>
  split at h
  · cases h
  next notNan =>
  have finite := f.magnitude_le_maxFinite x notTop notNan
  split at h
  next sub =>
    cases h
    exact ⟨rfl, finite, .inl ⟨sub, rfl, rfl⟩⟩
  next normal =>
    cases h
    exact ⟨rfl, finite, .inr ⟨normal, rfl, rfl⟩⟩

/-- A magnitude whose last place is that of the format is kept as it is, without flags. -/
theorem round_at_place {f : FFmt} {m : ℕ} {e : ℤ} (md : Mode) (sat n : Bool) (hm : m ≠ 0)
    (place : (if (m.log2 : ℤ) + e < 1 - f.bias then 1 - f.bias else (m.log2 : ℤ) + e : ℤ) - f.fb = e)
    (fits : (e + f.fb + f.bias).toNat * 2 ^ f.fb + m - 2 ^ f.fb ≤ f.maxFinite) :
    f.round md sat n m e = (f.withSign n ((e + f.fb + f.bias).toNat * 2 ^ f.fb + m - 2 ^ f.fb), 0) := by
  rw [round, if_neg hm]
  simp only [place, sub_self, roundDyadic_zero, if_neg (Nat.not_lt.mpr fits), Bool.and_false]
  rfl

/-- Rounding what a finite pattern stands for gives the pattern (R86). -/
theorem round_decode {f : FFmt} {x m : ℕ} {n : Bool} {e : ℤ} (md : Mode) (sat : Bool) (hx : x < 2 ^ f.bits)
    (h : f.decode x = .fin n m e) : f.round md sat n m e = (x, 0) := by
  obtain ⟨rfl, finite, parts⟩ := decode_fin h
  have frac := f.fracAt_lt x
  have whole := f.withSign_parts hx
  obtain ⟨sub, rfl, rfl⟩ | ⟨normal, rfl, rfl⟩ := parts
  · rw [sub, Nat.zero_mul, Nat.zero_add] at whole finite
    by_cases zero : f.fracAt x = 0
    · rw [round, if_pos zero, ← zero, whole]
    · have low : (f.fracAt x).log2 < f.fb := (Nat.log2_lt zero).mpr frac
      have code : ((1 - f.bias - f.fb : ℤ) + f.fb + f.bias).toNat * 2 ^ f.fb + f.fracAt x - 2 ^ f.fb = f.fracAt x := by
        rw [show (1 - f.bias - f.fb : ℤ) + f.fb + f.bias = 1 by ring, Int.toNat_one]
        omega
      rw [round_at_place md sat _ zero (by rw [if_pos (by omega)]) (by rwa [code]), code, whole]
  · have lead : (f.fracAt x + 2 ^ f.fb).log2 = f.fb := by
      rw [Nat.log2_eq_iff (by omega), Nat.pow_succ]
      omega
    have code : ((f.expAt x - f.bias - f.fb : ℤ) + f.fb + f.bias).toNat * 2 ^ f.fb + (f.fracAt x + 2 ^ f.fb) - 2 ^ f.fb =
        f.expAt x * 2 ^ f.fb + f.fracAt x := by
      rw [show (f.expAt x - f.bias - f.fb : ℤ) + f.fb + f.bias = f.expAt x by ring, Int.toNat_natCast]
      omega
    rw [round_at_place md sat _ (by omega) (by rw [lead, if_neg (by omega)]; ring) (by rwa [code]), code, whole]

end FFmt

/-- Settles O17: each mode's integer by the parts of the number, and the rounding of a value at its own place. -/
theorem roundingModes : Obligations.RoundingModes := by
  unfold Obligations.RoundingModes
  refine ⟨fun neg num sh r => ⟨fun md => roundShift_lost neg num sh md, fun md det exact => ?exact, roundShift_rtz_bounds neg num sh,
    fun lost => ?up, fun lost => ?down, roundShift_rne_nearest neg num sh, roundShift_rna_nearest neg num sh,
    roundShift_sto neg num sh r⟩, fun f md sat x n m e _ _ hx h => FFmt.round_decode md sat hx h⟩
  case exact => rw [roundShift_exact neg num sh det exact, Nat.div_mul_cancel (Nat.dvd_of_mod_eq_zero exact)]
  case up => cases neg <;> simp [roundShift_rup, lost]
  case down => cases neg <;> simp [roundShift_rdn, lost]

end Sys2Proof.Machine
end

section
/-! SUPPORT. Number formats, part 2: NaN operands, and results that fit their format (R85, R87, R89). -/

namespace Sys2Proof.Machine

/-- A NaN, and a NaN that signals (R85). -/
def FVal.isNan : FVal → Bool
  | .nan _ _ _ => true
  | _ => false

def FVal.signals : FVal → Bool
  | .nan _ _ s => s
  | _ => false

theorem FVal.isNan_iff {v : FVal} : v.isNan = true ↔ ∃ n fr s, v = .nan n fr s := by
  cases v <;> simp [isNan]

theorem FVal.signals_iff {v : FVal} : v.signals = true ↔ ∃ n fr, v = .nan n fr true := by
  cases v <;> simp [signals]

theorem FVal.isNan_of_signals {v : FVal} (h : v.signals = true) : v.isNan = true := by
  cases v with
  | nan n fr s => rfl
  | inf n => cases h
  | fin n m e => cases h

namespace FFmt
variable {f : FFmt}

/-! ## The NaN that an operation gives -/

theorem nanOf_nan (n : Bool) (fr : ℕ) (s : Bool) (vs : List FVal) :
    f.nanOf (.nan n fr s :: vs) = some (f.quiet n fr, Flags.when (s || vs.any FVal.signals) .nv) := by
  have signals : (fun v : FVal => match v with | .nan _ _ s => s | _ => false) = FVal.signals := by
    funext v
    cases v <;> rfl
  rw [← signals]
  rfl

theorem nanOf_other {v : FVal} (h : v.isNan = false) (vs : List FVal) : f.nanOf (v :: vs) = f.nanOf vs := by
  cases v with
  | nan n fr s => cases h
  | inf n => rfl
  | fin n m e => rfl

/-- Two operands of which neither is a NaN. -/
theorem nanOf_none {a b : FVal} (ha : a.isNan = false) (hb : b.isNan = false) : f.nanOf [a, b] = none := by
  rw [nanOf_other ha, nanOf_other hb]
  rfl

theorem decode_nan {x fr : ℕ} {n s : Bool} (h : f.decode x = .nan n fr s) :
    n = f.negAt x ∧ f.expAt x = f.maxExp ∧ fr = f.fracAt x := by
  rw [decode_eq] at h
  split at h
  next top =>
    split at h <;> cases h
    exact ⟨rfl, top.2, rfl⟩
  next =>
    split at h
    next top =>
      cases h
      exact ⟨rfl, top.2.1, rfl⟩
    next => split at h <;> cases h

/-! ## Codes that fit -/

theorem infBits_lt : f.infBits < f.signBit := by
  have := f.infBits_add
  have := Nat.two_pow_pos f.fb
  omega

theorem maxFinite_lt : f.maxFinite < f.signBit := by
  have := f.infBits_add
  have := Nat.two_pow_pos f.fb
  unfold maxFinite
  split <;> omega

theorem nan_lt (h : 0 < f.fb) : f.nan < f.signBit := by
  have := f.infBits_add
  have := Nat.two_pow_pos f.fb
  have : 2 ^ (f.fb - 1) < 2 ^ f.fb := Nat.pow_lt_pow_right (by decide) (by omega)
  unfold nan
  split <;> omega

theorem withSign_lt {x : ℕ} (n : Bool) (h : x < f.signBit) : f.withSign n x < 2 ^ f.bits := by
  rw [two_signBit, withSign]
  split <;> omega

theorem quiet_lt (hf : 0 < f.fb) (n : Bool) {fr : ℕ} (h : fr < 2 ^ f.fb) : f.quiet n fr < 2 ^ f.bits := by
  have half : 2 ^ f.fb = 2 * 2 ^ (f.fb - 1) := by rw [← Nat.pow_succ', Nat.succ_eq_add_one, Nat.sub_add_cancel hf]
  have := f.infBits_add
  unfold quiet
  split
  · exact withSign_lt n (by split <;> omega)
  · exact withSign_lt n (nan_lt hf)

theorem overflow_lt (hf : 0 < f.fb) (md : Mode) (sat n : Bool) : f.overflow md sat n < 2 ^ f.bits := by
  have := f.maxFinite_lt
  have := nan_lt hf
  have := f.infBits_lt
  refine withSign_lt n ?_
  split_ifs <;> assumption

/-- Rounding gives a finite code under its sign, or overflows. -/
theorem round_cases (f : FFmt) (md : Mode) (sat n : Bool) (m : ℕ) (e : ℤ) :
    (∃ code ≤ f.maxFinite, (f.round md sat n m e).1 = f.withSign n code) ∨ (f.round md sat n m e).1 = f.overflow md sat n := by
  unfold round
  by_cases zero : m = 0
  · exact .inl ⟨0, Nat.zero_le _, by rw [if_pos zero]⟩
  · rw [if_neg zero]
    dsimp only
    generalize (if (m.log2 : ℤ) + e < 1 - f.bias then 1 - f.bias else (m.log2 : ℤ) + e : ℤ) - f.fb = place
    split
    next => exact .inr rfl
    next fits => exact .inl ⟨_, Nat.not_lt.mp fits, rfl⟩

theorem round_lt (hf : 0 < f.fb) (md : Mode) (sat n : Bool) (m : ℕ) (e : ℤ) : (f.round md sat n m e).1 < 2 ^ f.bits := by
  obtain ⟨code, finite, h⟩ | h := f.round_cases md sat n m e
  · exact h ▸ withSign_lt n (Nat.lt_of_le_of_lt finite f.maxFinite_lt)
  · exact h ▸ overflow_lt hf md sat n

theorem nanOf_lt (hf : 0 < f.fb) {xs : List ℕ} {r : ℕ × Flags} (h : f.nanOf (xs.map f.decode) = some r) : r.1 < 2 ^ f.bits := by
  induction xs with
  | nil => cases h
  | cons x xs ih =>
    cases value : f.decode x with
    | nan n fr s =>
      rw [List.map_cons, value, nanOf_nan] at h
      obtain rfl := Option.some.inj h
      obtain ⟨-, -, rfl⟩ := decode_nan value
      exact quiet_lt hf n (f.fracAt_lt x)
    | inf n => exact ih (by simpa [value, nanOf_other (v := .inf n) rfl] using h)
    | fin n m e => exact ih (by simpa [value, nanOf_other (v := .fin n m e) rfl] using h)

/-- The product of two values is none of the NaNs. -/
theorem mulVals_isNan {a b v : FVal} (h : mulVals a b = some v) : v.isNan = false := by
  unfold mulVals at h
  split at h
  next => cases h; rfl
  next =>
    split at h <;> cases h
    rfl
  next =>
    split at h <;> cases h
    rfl
  next => cases h; rfl
  next => cases h

theorem mul_lt (hf : 0 < f.fb) (md : Mode) (x y : ℕ) : (f.mul md x y).1 < 2 ^ f.bits := by
  unfold mul
  split
  next r h => exact nanOf_lt hf (xs := [x, y]) h
  next =>
    split
    next => exact withSign_lt false (nan_lt hf)
    next v product =>
      cases v with
      | nan n fr s => cases mulVals_isNan product
      | inf n => exact withSign_lt n f.infBits_lt
      | fin n m e => exact round_lt hf md false n m e

end FFmt
end Sys2Proof.Machine
end

section
/-! SUPPORT. Number formats, part 3: completing an instruction that writes a b or an m register, and the traps ARITH and LSF (R43, R105,
R106, R121, R150). -/

namespace Sys2Proof.Machine

/-! ## Owners -/

/-- A strand that owns the registers that an instruction names goes on with it (R43, R150). -/
theorem State.owned_of {s : State} {bs : List BReg} {ms : List MReg} (h : Owns s bs ms) (len : ℕ) (t : State) :
    s.owned bs ms len t = t := by
  have b : bs.all s.ownsB = true := List.all_eq_true.mpr fun r hr => decide_eq_true (h.1 r hr)
  have m : ms.all s.ownsM = true := List.all_eq_true.mpr fun r hr => decide_eq_true (h.2 r hr)
  rw [State.owned, b, m]
  rfl

/-! ## A line or a tile written -/

theorem Near.seePoison {c : Core} {s t : State} (h : Near c s t) (p : Bool) : Near (c.seen p) s (t.seePoison p) := by
  obtain ⟨ss, k, others, rfl⟩ := h
  exact ⟨ss, k, others, by cases p <;> rfl⟩

@[simp] theorem State.seePoison_b (s : State) (p : Bool) : (s.seePoison p).core.b = s.core.b := by
  unfold State.seePoison
  split <;> rfl

@[simp] theorem State.seePoison_m (s : State) (p : Bool) : (s.seePoison p).core.m = s.core.m := by
  unfold State.seePoison
  split <;> rfl

@[simp] theorem State.seePoison_dpw (s : State) (p : Bool) : (s.seePoison p).core.csr.dpw = s.core.csr.dpw := by
  unfold State.seePoison
  split <;> rfl

/-- An instruction that changes the core, raises flags and is done. -/
theorem Near.stepped {c : Core} {s u : State} (h : Near c s u) (hc : c.csr.retired = s.core.csr.retired) (hu : u.st = s.st) (f : Flags) :
    Stepped c s ((u.raiseFlags f).done 4) f 4 := by
  refine ⟨(h.raiseFlags f).done hc 4, ?_⟩
  simp [hu, State.pc, zext]

section
variable {i : Instr} {s : State} {f : Flags}

theorem putB_done (s : State) (d : BReg) (x : BLine) (p : Bool) (f : Flags) :
    PutB s ((((s.setB d x).seePoison p).raiseFlags f).done 4) d x p f := by
  have done := (((Near.refl s).setB d x).seePoison p).stepped rfl (by simp) f
  refine ⟨done, done.1.bytes rfl, fun r => ?_⟩
  rw [← State.b_setB s d r x]
  simp only [State.b, State.done, State.mapCore_core, Core.retire_b]
  exact congrArg (·[r.toNat]) (State.seePoison_b (s.setB d x) p)

theorem putM_done (s : State) (d : MReg) (x : Tile) (p : Bool) (f : Flags) :
    PutM s ((((s.setM d x).seePoison p).raiseFlags f).done 4) d x p f := by
  have done := (((Near.refl s).setM d x).seePoison p).stepped rfl (by simp) f
  refine ⟨done, done.1.bytes rfl, fun r => ?_⟩
  rw [← State.m_setM s d r x]
  simp only [State.m, State.done, State.mapCore_core, Core.retire_m]
  exact congrArg (·[r.toNat]) (State.seePoison_m (s.setM d x) p)

/-- An instruction that writes a line and raises flags, trapping where one is enabled (R106, R158). -/
theorem raises_putB {d : BReg} {x : BLine} {p : Bool} (h : exec i s = .next (((s.setB d x).seePoison p).finish f)) :
    Raises i s f (fun t => PutB s t d x p f) :=
  raises_of_finish h (by simp [State.pc]) (by simp) (putB_done s d x p f)

/-- With a flag that is enabled to trap a step of a tile ends in ARITH, whatever DPW.LSFTRAP says (R106, R121). -/
theorem State.finishAcc_arith {t : State} (h : t.arithDue f = true) (m : MReg) (elems : BitVec 16) : t.finishAcc f m elems = t.finish f := by
  simp [State.finishAcc, State.finish, h]

/-- With none, and a bit discarded under DPW.LSFTRAP, it ends in LSF (R121). -/
theorem State.finishAcc_lsf {t : State} (h : t.arithDue f = false) (trap : t.core.csr.dpw.getLsbD 8 = true) (lost : f &&& .ls ≠ 0)
    (m : MReg) (elems : BitVec 16) :
    t.finishAcc f m elems =
      ((((t.raiseFlags f).done 4).jump (t.raiseFlags f).pc).trapAfter Code.lsf ((0#32) ++ (0#13) ++ m ++ elems) 4) := by
  have due : (t.core.csr.dpw.getLsbD 8 && decide (f &&& Flags.ls ≠ 0)) = true := by rw [trap, decide_eq_true lost, Bool.and_self]
  rw [State.jump_done, State.finishAcc, if_neg (by simp [h]), if_pos due]
  rfl

end

/-! ## A mask written -/

/-- A number built of the bits for which p holds has those bits. -/
theorem bitSum_testBit (p : ℕ → Bool) (n : ℕ) :
    (List.range n).foldl (fun a j => if p j then a + 2 ^ j else a) 0 < 2 ^ n ∧
    ∀ j < n, ((List.range n).foldl (fun a j => if p j then a + 2 ^ j else a) 0).testBit j = p j := by
  induction n with
  | zero => simp
  | succ n ih =>
    obtain ⟨lt, bit⟩ := ih
    rw [List.range_succ, List.foldl_append, List.foldl_cons, List.foldl_nil]
    generalize (List.range n).foldl _ 0 = a at lt bit ⊢
    refine ⟨by split <;> omega, fun j hj => ?_⟩
    obtain last | below : j = n ∨ j < n := by omega
    · subst last
      have clear : a.testBit j = false := Nat.testBit_lt_two_pow lt
      cases h : p j with
      | false => simpa using clear
      | true => simp [Nat.add_comm a, Nat.testBit_two_pow_add_eq, clear]
    · rw [← bit j below]
      split
      · rw [Nat.add_comm, Nat.testBit_two_pow_add_gt below]
      · rfl

/-- Bit j of a compare's mask is the result of the element that it governs (R141). -/
theorem getLsbD_kOf (w : ℕ) (rs : List Bool) {j : ℕ} (hj : j < 8) : (kOf w rs).getLsbD j = rs.getD (32 * j / w) false := by
  rw [kOf, BitVec.getLsbD_ofNat, decide_eq_true hj, Bool.true_and, (bitSum_testBit (fun j => rs.getD (32 * j / w) false) 8).2 j hj]

/-- A masked compare, bit by bit (R125, R141). -/
theorem getLsbD_kOf_masked (p : Prec) (k : BitVec 8) (r : ℕ → Bool) {j : ℕ} (hj : j < 8) :
    (kOf p.fmt.bits ((List.range (256 / p.fmt.bits)).map fun i => kbit p.fmt.bits k i && r i)).getLsbD j =
      (kbit p.fmt.bits k (32 * j / p.fmt.bits) && r (32 * j / p.fmt.bits)) := by
  have governed : 32 * j / p.fmt.bits < 256 / p.fmt.bits := by
    cases p with
    | s => show 32 * j / 32 < 256 / 32; omega
    | d => show 32 * j / 64 < 256 / 64; omega
  rw [getLsbD_kOf _ _ hj, List.getD_eq_getElem _ _ (by simpa using governed)]
  simp

/-! ## A line formed from two -/

/-- Block j of the line formed from two lines, and its flags (R158). -/
def formedBlk (f : Bfmt) (md : Mode) (A B : List Blk) (op : FVal → FVal → FVal) (j : ℕ) : Blk × Flags :=
  if (A.getD j Blk.zero).isPoison || (B.getD j Blk.zero).isPoison then (Blk.poison, 0)
  else formBlock f.w md (List.zipWith op (blkVals f.w (A.getD j Blk.zero)) (blkVals f.w (B.getD j Blk.zero)))

theorem formFrom2_eq (f : Bfmt) (md : Mode) (A B : List Blk) (op : FVal → FVal → FVal) :
    let blk := formedBlk f md A B op
    formFrom2 f md A B op = ([(blk 0).1, (blk 1).1, (blk 2).1, (blk 3).1], (blk 0).2 ||| (blk 1).2 ||| (blk 2).2 ||| (blk 3).2) := by
  intro blk
  change ([(blk 0).1, (blk 1).1, (blk 2).1, (blk 3).1], 0#7 ||| (blk 0).2 ||| (blk 1).2 ||| (blk 2).2 ||| (blk 3).2) = _
  rw [BitVec.zero_or]

/-! ## The two traps after the results -/

section
variable (s : State)

theorem exec_fadd (d a b : GReg) (rm : Rm) (p : Prec) :
    exec (.fadd d a b rm p) s = .next (s.putFp d (p.fmt.add (s.mode rm) (s.fpG p a) (s.fpG p b))) := rfl

theorem exec_vfmul (d a b : VReg) (k : KReg) (p : Prec) : exec (.vfmul d a b k p) s =
    .next (s.vfp p.fmt.bits d k fun i => p.fmt.mul s.rm (velem p.fmt.bits (s.v a) i) (velem p.fmt.bits (s.v b) i)) := rfl

theorem exec_vflt (d : KReg) (a b : VReg) (k : KReg) (p : Prec) : exec (.vflt d a b k p) s =
    .next (s.vcmp p.fmt.bits d k fun i => p.fmt.flt (velem p.fmt.bits (s.v a) i) (velem p.fmt.bits (s.v b) i)) := rfl

theorem exec_badd {d a b : BReg} (owns : Owns s [d, a, b] []) : exec (.badd d a b) s = .next (s.blockOp d a b valAdd) :=
  congrArg Host.Outcome.next (State.owned_of owns 4 _)

theorem exec_bmma {m : MReg} {a b : BReg} (owns : Owns s [a, b] [m]) :
    let f := (s.b a).tag
    let r := stepTile f.w (s.core.csr.dpw.extractLsb' 0 4) (s.m m) ((s.b a).blks f) ((s.b b).blks f)
    exec (.bmma m a b) s = .next (((s.setM m r.tile).seePoison r.seen).finishAcc r.flags m r.lost) :=
  congrArg Host.Outcome.next (State.owned_of owns 4 _)

end

theorem prec_fb_pos (p : Prec) : 0 < p.fmt.fb := by cases p <;> decide

theorem State.fpG_eq (s : State) (p : Prec) (r : GReg) : s.fpG p r = (s.g r).toNat % 2 ^ p.fmt.bits := by
  rw [State.fpG, natBits, Nat.pow_zero, Nat.div_one]

section
variable {s : State} {i : Instr} {m : MReg} {x : Tile} {p : Bool} {f : Flags} {elems : BitVec 16}

theorem State.arithDue_setM : ((s.setM m x).seePoison p).arithDue f = true ↔ ¬ Quiet s f := by
  simp [State.arithDue, Quiet]

/-- A step of a tile with an enabled flag takes ARITH after its results (R106). -/
theorem putM_traps_arith (h : exec i s = .next (((s.setM m x).seePoison p).finishAcc f m elems)) (traps : ¬ Quiet s f) :
    ∃ u, PutM s u m x p f ∧ TrapsArith i s u f := by
  rw [State.finishAcc_arith (State.arithDue_setM.mpr traps)] at h
  exact (raises_of_finish h (by simp [State.pc]) (by simp) (putM_done s m x p f)).2 traps

/-- A step of a tile that discards a bit takes LSF after its results, where DPW.LSFTRAP is set and no enabled flag is raised (R121). -/
theorem putM_traps_lsf (h : exec i s = .next (((s.setM m x).seePoison p).finishAcc f m elems)) (quiet : Quiet s f)
    (trap : s.core.csr.dpw.getLsbD 8 = true) (lost : f &&& .ls ≠ 0) :
    ∃ u, PutM s u m x p f ∧ exec i s = .next ((u.jump s.pc).trapAfter Code.lsf ((0#32) ++ (0#13) ++ m ++ elems) 4) := by
  have noArith : ((s.setM m x).seePoison p).arithDue f = false :=
    Bool.eq_false_iff.mpr fun due => State.arithDue_setM.mp due quiet
  have enabled : ((s.setM m x).seePoison p).core.csr.dpw.getLsbD 8 = true := by rwa [State.seePoison_dpw]
  have pc : (((s.setM m x).seePoison p).raiseFlags f).pc = s.pc := by simp [State.pc]
  rw [State.finishAcc_lsf noArith enabled lost, pc] at h
  exact ⟨_, putM_done s m x p f, h⟩

end

/-- Settles O16: what each way to write results raises, and the end of a step of a tile under DPW.LSFTRAP. -/
theorem arithAndLsfTraps : Obligations.ArithAndLsfTraps := by
  unfold Obligations.ArithAndLsfTraps
  refine ⟨fun s d a b vd va vb k kd rm p bd ba bb m =>
    ⟨fun traps => ?g, fun traps => ?v, fun traps => ?k, fun owns traps => ?b, fun owns traps => ?m⟩,
    fun s m a b owns quiet trap lost => ?lsf⟩
  case g =>
    rw [← State.fpG_eq, ← State.fpG_eq] at traps ⊢
    exact (raises_putF (exec_fadd s d a b rm p)).2 traps
  case v =>
    obtain ⟨u, put, arith⟩ := (raises_putV (exec_vfmul s vd va vb k p)).2 traps
    exact ⟨u, ⟨_, put, velem_vmerge _ _ _ _ fun _ => FFmt.mul_lt (prec_fb_pos p) _ _ _⟩, arith⟩
  case k =>
    obtain ⟨u, put, arith⟩ := (raises_putK (exec_vflt s kd va vb k p)).2 traps
    exact ⟨u, ⟨_, put, fun j hj => getLsbD_kOf_masked p _ _ hj⟩, arith⟩
  case b =>
    have work := exec_badd s owns
    rw [State.blockOp, formFrom2_eq] at work
    exact (raises_putB work).2 traps
  case m => exact putM_traps_arith (exec_bmma s owns) traps
  case lsf => exact putM_traps_lsf (exec_bmma s owns) quiet trap lost

end Sys2Proof.Machine
end

section
/-! SUPPORT. Number formats, part 4: scalar floating point, minimum, maximum, compares and FCLASS (R89, R124, R133 to R135). -/

namespace Sys2Proof.Machine

/-! ## Completing with one g register -/

section
variable {i : Instr} {s : State} {d : GReg} {x : Word}

theorem runs_put (h : exec i s = .next (s.put d x)) : Runs i s (fun t => PutG s t d x) := ⟨_, h, s.put_spec d x⟩

theorem runs_finish_zero (h : exec i s = .next ((s.setG d x).finish 0)) : Runs i s (fun t => PutG s t d x) :=
  ⟨_, h, s.finishG_spec d x 0 (by simp [State.arithDue])⟩

end

theorem boolWord_false : boolWord false = 0 := rfl

theorem boolWord_decide (P : Prop) [Decidable P] : boolWord (decide P) = if P then 1 else 0 := by
  by_cases h : P <;> simp [boolWord, h]

namespace FFmt
variable {f : FFmt} {x y : ℕ}

/-! ## Signs -/

theorem signBit_top (f : FFmt) : 2 ^ (f.bits - 1) = f.signBit := by
  rw [bits, signBit]
  congr 1
  omega

theorem div_signBit (h : x < 2 ^ f.bits) : x / f.signBit = if signOf f x then 1 else 0 := by
  have sign : x / f.signBit < 2 := Nat.div_lt_of_lt_mul (by rwa [Nat.mul_comm, ← two_signBit])
  rw [signOf]
  generalize x / f.signBit = q at sign ⊢
  obtain rfl | rfl := Nat.le_one_iff_eq_zero_or_eq_one.mp (Nat.le_of_lt_succ sign) <;> rfl

theorem signTo_eq (f : FFmt) (x : ℕ) (n : Bool) : signTo f x n = x % f.signBit + (if n then 1 else 0) * f.signBit := by
  cases n <;> simp [signTo, withSign]

theorem signTo_not (f : FFmt) (x : ℕ) (n : Bool) : signTo f x (!n) = x % f.signBit + (1 - if n then 1 else 0) * f.signBit := by
  rw [signTo_eq]
  cases n <;> rfl

/-! ## NaN operands -/

/-- A pattern with the quiet bit of its fraction set (R89). -/
def quieted (f : FFmt) (x : ℕ) : ℕ := if x / 2 ^ (f.fb - 1) % 2 = 1 then x else x + 2 ^ (f.fb - 1)

/-- A NaN made quiet is its pattern with the quiet bit set (R89). -/
theorem quiet_decode {n s : Bool} {fr : ℕ} (inf : f.inf = true) (hf : 0 < f.fb) (hx : x < 2 ^ f.bits) (h : f.decode x = .nan n fr s) :
    f.quiet n fr = f.quieted x := by
  obtain ⟨rfl, top, rfl⟩ := decode_nan h
  have whole := f.withSign_parts hx
  have frac := f.fracAt_lt x
  have half : 2 ^ f.fb = 2 ^ (f.fb - 1) * 2 := by rw [← Nat.pow_succ, Nat.succ_eq_add_one, Nat.sub_add_cancel hf]
  have bit : x / 2 ^ (f.fb - 1) % 2 = f.fracAt x / 2 ^ (f.fb - 1) := by rw [fracAt, half, Nat.mod_mul_right_div_self]
  rw [top] at whole
  rw [quiet, if_pos inf, quieted, bit]
  by_cases low : f.fracAt x < 2 ^ (f.fb - 1)
  · rw [if_pos low, Nat.div_eq_of_lt low, if_neg (by decide), ← Nat.add_assoc]
    conv_rhs => rw [← whole]
    unfold withSign infBits
    split <;> omega
  · have one : f.fracAt x / 2 ^ (f.fb - 1) = 1 := Nat.div_eq_of_lt_le (by omega) (by omega)
    rw [if_neg low, one, if_pos rfl]
    exact whole

/-- A first operand that is a NaN is the result, made quiet; the flag says whether one of the two signals (R89). -/
theorem nanOf_first (inf : f.inf = true) (hf : 0 < f.fb) (hx : x < 2 ^ f.bits) (h : (f.decode x).isNan = true) (b : FVal) :
    f.nanOf [f.decode x, b] = some (f.quieted x, Flags.when ((f.decode x).signals || b.signals) .nv) := by
  obtain ⟨n, fr, s, value⟩ := FVal.isNan_iff.mp h
  rw [← quiet_decode inf hf hx value, value, nanOf_nan]
  simp [FVal.signals]

theorem nanOf_second (inf : f.inf = true) (hf : 0 < f.fb) (hy : y < 2 ^ f.bits) {a : FVal} (ha : a.isNan = false)
    (h : (f.decode y).isNan = true) : f.nanOf [a, f.decode y] = some (f.quieted y, Flags.when (a.signals || (f.decode y).signals) .nv) := by
  have quietA : a.signals = false := by cases a with
    | nan n fr s => cases ha
    | inf n => rfl
    | fin n m e => rfl
  rw [nanOf_other ha, quietA]
  obtain ⟨n, fr, s, value⟩ := FVal.isNan_iff.mp h
  rw [← quiet_decode inf hf hy value, value, nanOf_nan]
  simp [FVal.signals]

/-! ## Minimum, maximum and compares -/

section numbers
variable (ha : (f.decode x).isNan = false) (hb : (f.decode y).isNan = false)
include ha hb

theorem feq_number : f.feq x y = (decide (cmpVals (f.decode x) (f.decode y) = 0), 0) := by rw [feq, nanOf_none ha hb]
theorem flt_number : f.flt x y = (decide (cmpVals (f.decode x) (f.decode y) < 0), 0) := by rw [flt, nanOf_none ha hb]
theorem fle_number : f.fle x y = (decide (cmpVals (f.decode x) (f.decode y) ≤ 0), 0) := by rw [fle, nanOf_none ha hb]
theorem fmin_number : f.fmin x y = (if ltZeros (f.decode y) (f.decode x) then y else x, 0) := by rw [fmin, nanOf_none ha hb]
theorem fmax_number : f.fmax x y = (if ltZeros (f.decode x) (f.decode y) then y else x, 0) := by rw [fmax, nanOf_none ha hb]

end numbers

section nans
variable {r : ℕ × Flags} (h : f.nanOf [f.decode x, f.decode y] = some r)
include h

theorem feq_nan : f.feq x y = (false, r.2) := by rw [feq, h]
theorem flt_nan : f.flt x y = (false, .nv) := by rw [flt, h]
theorem fle_nan : f.fle x y = (false, .nv) := by rw [fle, h]
theorem fmin_nan : f.fmin x y = r := by rw [fmin, h]
theorem fmax_nan : f.fmax x y = r := by rw [fmax, h]

end nans

/-- With a NaN among two operands the result is the first one, quiet, and the flag says whether one signals (R89). -/
theorem nanOf_pair (inf : f.inf = true) (hf : 0 < f.fb) (hx : x < 2 ^ f.bits) (hy : y < 2 ^ f.bits)
    (h : (f.decode x).isNan = true ∨ (f.decode y).isNan = true) :
    f.nanOf [f.decode x, f.decode y] = some (f.quieted (if (f.decode x).isNan then x else y),
      Flags.when ((f.decode x).signals || (f.decode y).signals) .nv) := by
  cases first : (f.decode x).isNan with
  | true => exact nanOf_first inf hf hx first _
  | false => exact nanOf_second inf hf hy first (by simpa [first] using h)

/-! ## FCLASS -/

/-- The kinds of R134 that a pattern can have. -/
theorem decode_cases (inf : f.inf = true) (x : ℕ) :
    f.expAt x = f.maxExp ∧ f.fracAt x = 0 ∧ f.decode x = .inf (f.negAt x) ∨
    f.expAt x = f.maxExp ∧ f.fracAt x ≠ 0 ∧ (∃ s, f.decode x = .nan (f.negAt x) (f.fracAt x) s) ∨
    f.expAt x ≠ f.maxExp ∧ f.expAt x = 0 ∧ f.decode x = .fin (f.negAt x) (f.fracAt x) (1 - f.bias - f.fb) ∨
    f.expAt x ≠ f.maxExp ∧ f.expAt x ≠ 0 ∧ f.decode x = .fin (f.negAt x) (f.fracAt x + 2 ^ f.fb) (f.expAt x - f.bias - f.fb) := by
  rw [decode_eq, inf]
  by_cases top : f.expAt x = f.maxExp
  · rw [if_pos ⟨rfl, top⟩]
    by_cases zero : f.fracAt x = 0
    · exact .inl ⟨top, zero, if_pos zero⟩
    · exact .inr (.inl ⟨top, zero, _, if_neg zero⟩)
  · rw [if_neg (by simp [top]), if_neg (by simp)]
    by_cases sub : f.expAt x = 0
    · exact .inr (.inr (.inl ⟨top, sub, if_pos sub⟩))
    · exact .inr (.inr (.inr ⟨top, sub, if_neg sub⟩))

/-- FCLASS gives a kind and the sign (R134). -/
theorem fclass_kind (inf : f.inf = true) (he : 0 < f.maxExp) (hx : x < 2 ^ f.bits) :
    ∃ kind < 8, f.fclass x = kind + 8 * (x / 2 ^ (f.bits - 1)) ∧ kind ≠ 4 ∧ kind ≠ 5 ∧
      (kind = 0 ↔ ∃ n e, f.decode x = .fin n 0 e) ∧ (kind = 1 ↔ f.expAt x = 0 ∧ f.fracAt x ≠ 0) ∧
      (kind = 2 ↔ f.expAt x ≠ 0 ∧ f.expAt x ≠ f.maxExp) ∧ (kind = 3 ↔ ∃ n, f.decode x = .inf n) ∧
      (kind = 6 ↔ ∃ n fr, f.decode x = .nan n fr false) ∧ (kind = 7 ↔ ∃ n fr, f.decode x = .nan n fr true) := by
  have sign : 8 * (x / 2 ^ (f.bits - 1)) = if f.negAt x then 8 else 0 := by
    rw [signBit_top, div_signBit hx]
    exact mul_ite ..
  rw [sign]
  obtain ⟨top, zero, value⟩ | ⟨top, frac, s, value⟩ | ⟨below, sub, value⟩ | ⟨below, normal, value⟩ := decode_cases inf x
  · exact ⟨3, by decide, by rw [fclass, value], by simp [value, top, zero, he.ne']⟩
  · cases s with
    | true => exact ⟨7, by decide, by rw [fclass, value]; rfl, by simp [value, top, he.ne']⟩
    | false => exact ⟨6, by decide, by rw [fclass, value]; rfl, by simp [value, top, he.ne']⟩
  · by_cases zero : f.fracAt x = 0
    · exact ⟨0, by decide, by rw [fclass, value]; simp [zero], by simp [value, sub, zero]⟩
    · exact ⟨1, by decide, by rw [fclass, value]; simp [zero, sub, ← expAt.eq_1], by simp [value, sub, zero]⟩
  · exact ⟨2, by decide, by rw [fclass, value]; simp [normal, ← expAt.eq_1], by simp [value, below, normal]⟩

end FFmt

/-! ## The two precisions -/

theorem State.fpG_lt (s : State) (p : Prec) (r : GReg) : s.fpG p r < 2 ^ p.fmt.bits := by
  rw [State.fpG_eq]
  exact Nat.mod_lt _ (Nat.two_pow_pos _)

theorem prec_inf (p : Prec) : p.fmt.inf = true := by cases p <;> rfl
theorem prec_maxExp (p : Prec) : 0 < p.fmt.maxExp := by cases p <;> decide

section
variable (s : State) (d a b : GReg) (p : Prec)

theorem exec_fsgcp : exec (.fsgcp d a b p) s = .next (s.put d (BitVec.ofNat 64 (signTo p.fmt (s.fpG p a) (signOf p.fmt (s.fpG p b))))) := rfl

theorem exec_fsgcn : exec (.fsgcn d a b p) s = .next (s.put d (BitVec.ofNat 64 (signTo p.fmt (s.fpG p a) (!signOf p.fmt (s.fpG p b))))) := rfl

theorem exec_fsgxr : exec (.fsgxr d a b p) s =
    .next (s.put d (BitVec.ofNat 64 (signTo p.fmt (s.fpG p a) (signOf p.fmt (s.fpG p a) != signOf p.fmt (s.fpG p b))))) := rfl

theorem exec_feq : exec (.feq d a b p) s = .next (s.putCmp d (p.fmt.feq (s.fpG p a) (s.fpG p b))) := rfl
theorem exec_flt : exec (.flt d a b p) s = .next (s.putCmp d (p.fmt.flt (s.fpG p a) (s.fpG p b))) := rfl
theorem exec_fle : exec (.fle d a b p) s = .next (s.putCmp d (p.fmt.fle (s.fpG p a) (s.fpG p b))) := rfl
theorem exec_fmin : exec (.fmin d a b p) s = .next (s.putFp d (p.fmt.fmin (s.fpG p a) (s.fpG p b))) := rfl
theorem exec_fmax : exec (.fmax d a b p) s = .next (s.putFp d (p.fmt.fmax (s.fpG p a) (s.fpG p b))) := rfl
theorem exec_fclass : exec (.fclass d a p) s = .next (s.put d (BitVec.ofNat 64 (p.fmt.fclass (s.fpG p a)))) := rfl

end

/-- What an operation on two operands with a NaN among them gives, and where it traps (R89, R106). -/
theorem raises_quieted {i : Instr} {s : State} {d : GReg} {f : FFmt} {x y : ℕ}
    (work : exec i s = .next (s.putFp d (f.quieted (if (f.decode x).isNan then x else y),
      Flags.when ((f.decode x).signals || (f.decode y).signals) .nv)))
    (fl : Flags) (flag : ((f.decode x).signals = true ∨ (f.decode y).signals = true → fl = .nv) ∧
      (¬ (f.decode x).signals = true → ¬ (f.decode y).signals = true → fl = 0)) :
    ((f.decode x).isNan = true → Raises i s fl fun t => PutF s t d (BitVec.ofNat 64 (f.quieted x)) fl) ∧
    (¬ (f.decode x).isNan = true → Raises i s fl fun t => PutF s t d (BitVec.ofNat 64 (f.quieted y)) fl) := by
  have raised : Flags.when ((f.decode x).signals || (f.decode y).signals) .nv = fl := by
    cases hx : (f.decode x).signals <;> cases hy : (f.decode y).signals <;> simp [Flags.when, flag, hx, hy]
  rw [raised] at work
  constructor
  · intro first
    rw [if_pos first] at work
    exact raises_putF work
  · intro second
    rw [if_neg second] at work
    exact raises_putF work

/-- Settles O14: what each member gives of the low bits of its operands, and the kinds of operands of minimum, maximum and compares. -/
theorem scalarFloatAndCompare : Obligations.ScalarFloatAndCompare := by
  unfold Obligations.ScalarFloatAndCompare
  constructor
  · intro s d a b c rm p
    simp only [← State.fpG_eq]
    have fits := State.fpG_lt s p
    refine ⟨raises_putF rfl, raises_putF rfl, raises_putF rfl, raises_putF rfl, raises_putF rfl, raises_putF rfl, raises_putF rfl,
      raises_putF rfl, raises_putF rfl, ?_⟩
    simp only [FFmt.signBit_top]
    refine ⟨runs_put ?cp, runs_put ?cn, runs_put ?xr⟩
    case cp => rw [exec_fsgcp, FFmt.signTo_eq, ← FFmt.div_signBit (fits b)]
    case cn => rw [exec_fsgcn, FFmt.signTo_not, ← FFmt.div_signBit (fits b)]
    case xr =>
      rw [exec_fsgxr, FFmt.signTo_eq, FFmt.div_signBit (fits a), FFmt.div_signBit (fits b)]
      cases signOf p.fmt (s.fpG p a) <;> cases signOf p.fmt (s.fpG p b) <;> simp
  · intro s d a b p
    simp only [← State.fpG_eq, ← FVal.isNan_iff, ← FVal.signals_iff]
    have fits := State.fpG_lt s p
    have nan := FFmt.nanOf_pair (prec_inf p) (prec_fb_pos p) (fits a) (fits b)
    refine ⟨fun na nb => ?number, fun h => ?less, fun h => ?minmax, fun h qa qb => ?equalQuiet, fun h => ?equalSignals, ?kinds⟩
    case number =>
      rw [Bool.not_eq_true] at na nb
      refine ⟨runs_finish_zero ?_, runs_finish_zero ?_, runs_finish_zero ?_, runs_finish_zero ?_, runs_finish_zero ?_⟩
      · rw [exec_feq, FFmt.feq_number na nb, State.putCmp, boolWord_decide]
      · rw [exec_flt, FFmt.flt_number na nb, State.putCmp, boolWord_decide]
      · rw [exec_fle, FFmt.fle_number na nb, State.putCmp, boolWord_decide]
      · rw [exec_fmin, FFmt.fmin_number na nb, State.putFp]
      · rw [exec_fmax, FFmt.fmax_number na nb, State.putFp]
    case less =>
      constructor <;> apply raises_putF
      · rw [exec_flt, FFmt.flt_nan (nan h), State.putCmp, boolWord_false]
      · rw [exec_fle, FFmt.fle_nan (nan h), State.putCmp, boolWord_false]
    case minmax =>
      exact ⟨raises_quieted (by rw [exec_fmin, FFmt.fmin_nan (nan h)]), raises_quieted (by rw [exec_fmax, FFmt.fmax_nan (nan h)])⟩
    case equalQuiet =>
      rw [Bool.not_eq_true] at qa qb
      apply runs_finish_zero
      rw [exec_feq, FFmt.feq_nan (nan h), State.putCmp, boolWord_false, qa, qb]
      rfl
    case equalSignals =>
      apply raises_putF
      rw [exec_feq, FFmt.feq_nan (nan (h.imp FVal.isNan_of_signals FVal.isNan_of_signals)), State.putCmp, boolWord_false,
        (Bool.or_eq_true ..).mpr h]
      rfl
    case kinds =>
      obtain ⟨kind, lt, value, kinds⟩ := FFmt.fclass_kind (prec_inf p) (prec_maxExp p) (fits a)
      refine ⟨_, exec_fclass s d a p, kind, lt, value ▸ s.put_spec d _, ?_⟩
      rw [FVal.signals_iff]
      exact kinds

end Sys2Proof.Machine
end

section
/-! SUPPORT. Number formats, part 5: a zero that is stochastically rounded with a draw beyond the 16 bits of R93, which BlockForms does not
exclude as RoundingModes does, counts as one unit of the last place, while the code of a zero is that of zero (R92, R93, R100). -/

namespace Sys2Proof.Machine

/-- Stochastic rounding with the least number that is no draw: one of R93 has 16 bits. -/
def oversizedDraw : Mode := .sto (2 ^ 16)

/-- Zeros whose last place lies below that of FP4. -/
def lowZeros : List FVal := List.replicate 32 (.fin false 0 (-2))

theorem oversizedDraw_raises_zero : roundDyadic oversizedDraw false 0 (-1) = (1, false) := by decide +kernel

theorem mxForm_lowZeros : mxForm .fp4 oversizedDraw lowZeros = (127, List.replicate 32 0, 0) := by decide +kernel

theorem lowZeros_finite : ¬ ∃ v ∈ lowZeros, ∀ n m e, v ≠ .fin n m e := by
  rintro ⟨v, mem, odd⟩
  exact odd _ _ _ (List.eq_of_mem_replicate mem)

/-- Refutes O31: a zero takes code 0, which stands for 0, while `roundDyadic` gives 1 for it with a draw of 2^16. The statement would have
to ask for draws below 2^16, as that of RoundingModes does. -/
theorem not_blockForms : ¬ Obligations.BlockForms := by
  unfold Obligations.BlockForms
  intro holds
  obtain ⟨-, mx⟩ := holds
  obtain ⟨-, -, -, -, ⟨-, -, -, element, -⟩, -⟩ := mx .fp4 oversizedDraw 0 0 lowZeros [] .bk4 0
  obtain ⟨-, -, m, e, code, value, -⟩ := element List.length_replicate lowZeros_finite 0 (by decide) false 0 (-2) rfl
  rw [mxForm_lowZeros] at code value
  obtain ⟨-, rfl, rfl⟩ := FVal.fin.inj (show .fin false 0 (-1) = FVal.fin false m e from code)
  change 0 * _ = Min.min 12 ((roundDyadic oversizedDraw false 0 (-1)).1 * 2 ^ 0) at value
  rw [oversizedDraw_raises_zero, Nat.zero_mul] at value
  exact absurd value (by decide)

end Sys2Proof.Machine
end

section
/-! SUPPORT. Compute instructions, part 1: integer words, by their numbers and by their bits (R128 to R131). -/

namespace Sys2Proof.Machine

/-- An instruction that writes one g register, by another name for what it writes. -/
theorem runs_put_eq {i : Instr} {s : State} {d : GReg} {x y : Word} (h : exec i s = .next (s.put d x)) (e : x = y) :
    Runs i s (fun t => PutG s t d y) := e ▸ runs_put h

/-! ## Shifts, order and products -/

section
variable (x y : Word) (n : ℕ)

theorem shiftCount_eq : shiftCount y = y.toNat % 64 := by simp [shiftCount]

theorem shiftLeft_eq : x <<< n = BitVec.ofNat 64 (x.toNat * 2 ^ n) := by
  apply BitVec.eq_of_toNat_eq
  rw [BitVec.toNat_shiftLeft, BitVec.toNat_ofNat, Nat.shiftLeft_eq]

theorem ushiftRight_eq : x >>> n = BitVec.ofNat 64 (x.toNat / 2 ^ n) := by
  apply BitVec.eq_of_toNat_eq
  have : x.toNat / 2 ^ n < 2 ^ 64 := Nat.lt_of_le_of_lt (Nat.div_le_self ..) x.isLt
  rw [BitVec.toNat_ushiftRight, BitVec.toNat_ofNat, Nat.shiftRight_eq_div_pow, Nat.mod_eq_of_lt this]

theorem sshiftRight_eq : x.sshiftRight n = BitVec.ofInt 64 (x.toInt / 2 ^ n) := by
  have pow : (2 ^ n : ℤ) = ((2 ^ n : ℕ) : ℤ) := by push_cast; rfl
  apply BitVec.eq_of_toInt_eq
  rw [pow, ← Int.shiftRight_eq_div_pow, ← BitVec.toInt_sshiftRight, BitVec.ofInt_toInt]

theorem boolWord_slt : boolWord (x.slt y) = if x.toInt < y.toInt then 1 else 0 := boolWord_decide _

theorem boolWord_ult : boolWord (x.ult y) = if x.toNat < y.toNat then 1 else 0 := boolWord_decide _

theorem signed_min : (if y.slt x then y else x) = BitVec.ofInt 64 (min x.toInt y.toInt) := by
  simp only [BitVec.slt, decide_eq_true_eq]
  split
  next h => rw [min_eq_right h.le, BitVec.ofInt_toInt]
  next h => rw [min_eq_left (not_lt.mp h), BitVec.ofInt_toInt]

theorem signed_max : (if x.slt y then y else x) = BitVec.ofInt 64 (max x.toInt y.toInt) := by
  simp only [BitVec.slt, decide_eq_true_eq]
  split
  next h => rw [max_eq_right h.le, BitVec.ofInt_toInt]
  next h => rw [max_eq_left (not_lt.mp h), BitVec.ofInt_toInt]

theorem unsigned_min : (if y.ult x then y else x) = BitVec.ofNat 64 (min x.toNat y.toNat) := by
  simp only [BitVec.ult, decide_eq_true_eq]
  split
  next h => rw [min_eq_right h.le, BitVec.ofNat_toNat, BitVec.setWidth_eq]
  next h => rw [min_eq_left (not_lt.mp h), BitVec.ofNat_toNat, BitVec.setWidth_eq]

theorem unsigned_max : (if x.ult y then y else x) = BitVec.ofNat 64 (max x.toNat y.toNat) := by
  simp only [BitVec.ult, decide_eq_true_eq]
  split
  next h => rw [max_eq_right h.le, BitVec.ofNat_toNat, BitVec.setWidth_eq]
  next h => rw [max_eq_left (not_lt.mp h), BitVec.ofNat_toNat, BitVec.setWidth_eq]

theorem mul_eq_ofNat : x * y = BitVec.ofNat 64 (x.toNat * y.toNat) := BitVec.mul_def

/-- The upper half of a 128-bit word is its number divided. -/
theorem upper_half (z : BitVec 128) : z.extractLsb' 64 64 = BitVec.ofInt 64 (z.toInt / 2 ^ 64) := by
  apply BitVec.eq_of_toNat_eq
  rw [BitVec.extractLsb'_toNat, BitVec.toNat_ofInt, BitVec.toInt_eq_toNat_cond, Nat.shiftRight_eq_div_pow]
  split <;> omega

theorem mulh_eq : BitVec.ofInt 64 (x.toInt * y.toInt / 2 ^ 64) = (x.signExtend 128 * y.signExtend 128).extractLsb' 64 64 := by
  have hx := BitVec.le_two_mul_toInt (x := x)
  have hx' := BitVec.two_mul_toInt_lt (x := x)
  have hy := BitVec.le_two_mul_toInt (x := y)
  have hy' := BitVec.two_mul_toInt_lt (x := y)
  have product : (x.signExtend 128 * y.signExtend 128).toInt = x.toInt * y.toInt := by
    rw [BitVec.toInt_mul, BitVec.toInt_signExtend_of_le (by decide), BitVec.toInt_signExtend_of_le (by decide)]
    apply Int.bmod_eq_of_le <;> norm_num at * <;> nlinarith
  rw [upper_half, product]

theorem mulhn_eq : BitVec.ofNat 64 (x.toNat * y.toNat / 2 ^ 64) = (x.zeroExtend 128 * y.zeroExtend 128).extractLsb' 64 64 := by
  have hx := x.isLt
  have hy := y.isLt
  have small : x.toNat * y.toNat < 2 ^ 128 := by nlinarith
  apply BitVec.eq_of_toNat_eq
  rw [BitVec.extractLsb'_toNat, BitVec.toNat_mul, BitVec.toNat_ofNat]
  simp only [BitVec.truncate_eq_setWidth, BitVec.toNat_setWidth_of_le (show 64 ≤ 128 by decide)]
  rw [Nat.mod_eq_of_lt small, Nat.shiftRight_eq_div_pow]

/-- A shift to the left is a product. -/
theorem shiftLeft_eq_mul : x <<< n = x * BitVec.ofNat 64 (2 ^ n) := by
  rw [shiftLeft_eq, BitVec.ofNat_mul, BitVec.ofNat_toNat, BitVec.setWidth_eq]

end

/-! ## Counts and permutations of bits -/

theorem leadingZeros_le (x : Word) (n : ℕ) : leadingZeros x n ≤ n := by
  induction n with
  | zero => exact Nat.le_refl 0
  | succ n ih => unfold leadingZeros; split <;> omega

/-- The bits above the highest one are zero, and it is one. -/
theorem leadingZeros_spec (x : Word) (n : ℕ) :
    (∀ i, n - leadingZeros x n ≤ i → i < n → x.getLsbD i = false) ∧
    (leadingZeros x n < n → x.getLsbD (n - 1 - leadingZeros x n) = true) := by
  induction n with
  | zero => exact ⟨fun i _ h => absurd h (Nat.not_lt_zero i), fun h => absurd h (Nat.not_lt_zero _)⟩
  | succ n ih =>
    obtain ⟨zeros, one⟩ := ih
    have le := leadingZeros_le x n
    cases top : x.getLsbD n with
    | true => simp [leadingZeros, top]; omega
    | false =>
      have count : leadingZeros x (n + 1) = leadingZeros x n + 1 := by simp [leadingZeros, top]
      rw [count]
      refine ⟨fun i low high => ?_, fun lt => ?_⟩
      · obtain rfl | below : i = n ∨ i < n := by omega
        · exact top
        · exact zeros i (by omega) below
      · rw [show n + 1 - 1 - (leadingZeros x n + 1) = n - 1 - leadingZeros x n by omega]
        exact one (by omega)

/-- Bit i of the reversed word. -/
theorem getLsbD_reverseBits (x : Word) {i : ℕ} (h : i < 64) : (reverseBits x).getLsbD i = x.getLsbD (63 - i) := by
  rw [reverseBits, BitVec.getLsbD_ofNat, decide_eq_true h, Bool.true_and, (bitSum_testBit (fun i => x.getLsbD (63 - i)) 64).2 i h]

theorem oneBits_eq (x : Word) : oneBits x = (List.range 64).countP fun i => x.getLsbD i := (List.countP_eq_length_filter ..).symm

theorem ofLeBytes_lt (bs : List Byte) : ofLeBytes bs < 256 ^ bs.length := by
  induction bs with
  | nil => simp [ofLeBytes]
  | cons b bs ih =>
    have := b.isLt
    rw [ofLeBytes, List.length_cons, Nat.pow_succ]
    omega

/-- Byte i of the number that little-endian bytes make. -/
theorem ofLeBytes_byte (bs : List Byte) : ∀ i, ofLeBytes bs / 256 ^ i % 256 = (bs.getD i 0).toNat := by
  induction bs with
  | nil => intro i; simp [ofLeBytes]
  | cons b bs ih =>
    intro i
    have small := b.isLt
    rw [ofLeBytes]
    cases i with
    | zero => simp; omega
    | succ i =>
      rw [Nat.pow_succ', ← Nat.div_div_eq_div_mul, show (b.toNat + 256 * ofLeBytes bs) / 256 = ofLeBytes bs by omega, ih i]
      simp

/-- Byte i of a number's little-endian bytes. -/
theorem leBytes_getD (n : ℕ) : ∀ v i, i < n → (leBytes n v).getD i 0 = BitVec.ofNat 8 (v / 256 ^ i) := by
  induction n with
  | zero => intro v i h; exact absurd h (Nat.not_lt_zero i)
  | succ n ih =>
    intro v i h
    rw [leBytes]
    cases i with
    | zero => simp
    | succ i =>
      rw [List.getD_cons_succ, ih _ _ (by omega), Nat.div_div_eq_div_mul, ← Nat.pow_succ']

theorem extract_byte (x : Word) (i : ℕ) : x.extractLsb' (8 * i) 8 = BitVec.ofNat 8 (x.toNat / 256 ^ i) := by
  apply BitVec.eq_of_toNat_eq
  rw [BitVec.extractLsb'_toNat, BitVec.toNat_ofNat, Nat.shiftRight_eq_div_pow, Nat.pow_mul]

/-- Byte i of the word with its bytes reversed. -/
theorem byte_bswap (x : Word) (i : ℕ) (h : i < 8) :
    (BitVec.ofNat 64 (ofLeBytes (leBytes 8 x.toNat).reverse)).extractLsb' (8 * i) 8 = x.extractLsb' (8 * (7 - i)) 8 := by
  have reversed : (leBytes 8 x.toNat).reverse.getD i 0 = (leBytes 8 x.toNat).getD (7 - i) 0 := by
    rw [List.getD_eq_getElem?_getD, List.getElem?_reverse (by rwa [length_leBytes]), length_leBytes, List.getD_eq_getElem?_getD]
  have kept : (BitVec.ofNat 64 (ofLeBytes (leBytes 8 x.toNat).reverse)).toNat = ofLeBytes (leBytes 8 x.toNat).reverse := by
    have := ofLeBytes_lt (leBytes 8 x.toNat).reverse
    rw [List.length_reverse, length_leBytes] at this
    exact Nat.mod_eq_of_lt this
  apply BitVec.eq_of_toNat_eq
  rw [extract_byte, extract_byte, kept, BitVec.toNat_ofNat, ofLeBytes_byte, reversed, leBytes_getD 8 _ _ (by omega)]

/-- The low bits of a word under a mask of ones. -/
theorem zext_low (x : Word) (n : ℕ) : zext (x.extractLsb' 0 n) = x &&& BitVec.ofNat 64 (2 ^ n - 1) := by
  apply BitVec.eq_of_getLsbD_eq
  intro i hi
  rw [BitVec.getLsbD_and, BitVec.getLsbD_ofNat, Nat.testBit_two_pow_sub_one]
  simp [zext, hi, Bool.and_comm, -BitVec.getLsbD_eq_getElem]

/-- The low bits of a word, by their sign. -/
theorem sext_low (x : Word) {n : ℕ} (h : n ≤ 64) : sext (x.extractLsb' 0 n) = (x.setWidth n).signExtend 64 := by
  rw [sext, ← BitVec.setWidth_eq_extractLsb' h]

/-! ## Every member -/

/-- Settles O11: each member writes one word, and that word is the table's (R128). -/
theorem integerOperations : Obligations.IntegerOperations := by
  unfold Obligations.IntegerOperations
  intro s d a b
  refine ⟨runs_put rfl, runs_put rfl, runs_put rfl, runs_put rfl, runs_put rfl, runs_put_eq rfl ?sll, runs_put_eq rfl ?srl,
    runs_put_eq rfl ?sra, runs_put_eq rfl (boolWord_slt _ _), runs_put_eq rfl (boolWord_ult _ _), runs_put_eq rfl (signed_min _ _),
    runs_put_eq rfl (signed_max _ _), runs_put_eq rfl (unsigned_min _ _), runs_put_eq rfl (unsigned_max _ _),
    runs_put_eq rfl (mul_eq_ofNat _ _), runs_put_eq rfl (mulh_eq _ _), runs_put_eq rfl (mulhn_eq _ _), ?clz, ?ctz,
    runs_put_eq rfl (congrArg _ (oneBits_eq _)), ?brev, ?bswap, runs_put_eq rfl (sext_low _ (by decide)), runs_put_eq rfl (sext_low _ (by decide)),
    runs_put_eq rfl (sext_low _ (by decide)), runs_put_eq rfl (zext_low _ 8), runs_put_eq rfl (zext_low _ 16), runs_put_eq rfl (zext_low _ 32),
    fun nonzero => ⟨runs_put (if_pos nonzero), s.done 4, if_neg nonzero, State.done_spec (Near.refl s) rfl rfl 4⟩,
    fun zero => ⟨runs_put (if_pos zero), s.done 4, if_neg (not_not.mpr zero), State.done_spec (Near.refl s) rfl rfl 4⟩,
    runs_put_eq rfl ?one, runs_put_eq rfl ?two, runs_put_eq rfl ?three⟩
  case sll => rw [shiftCount_eq, shiftLeft_eq]
  case srl => rw [shiftCount_eq, ushiftRight_eq]
  case sra => rw [shiftCount_eq, sshiftRight_eq]
  case clz =>
    obtain ⟨zeros, one⟩ := leadingZeros_spec (s.g a) 64
    refine ⟨_, rfl, _, leadingZeros_le _ 64, s.put_spec d _, fun i low => ?_, fun lt => ?_⟩
    · by_cases high : i < 64
      · exact zeros i low high
      · exact BitVec.getLsbD_of_ge _ _ (not_lt.mp high)
    · rw [show 63 - leadingZeros (s.g a) 64 = 64 - 1 - leadingZeros (s.g a) 64 by omega]
      exact one lt
  case ctz =>
    obtain ⟨zeros, one⟩ := leadingZeros_spec (reverseBits (s.g a)) 64
    have le := leadingZeros_le (reverseBits (s.g a)) 64
    refine ⟨_, rfl, _, le, s.put_spec d _, fun i low => ?_, fun lt => ?_⟩
    · rw [← zeros (63 - i) (by omega) (by omega), getLsbD_reverseBits _ (by omega)]
      congr 1
      omega
    · rw [← one lt, getLsbD_reverseBits _ (by omega)]
      congr 1
      omega
  case brev => exact ⟨_, rfl, _, s.put_spec d _, fun i h => getLsbD_reverseBits _ h⟩
  case bswap => exact ⟨_, rfl, _, s.put_spec d _, byte_bswap _⟩
  case one => rw [shiftLeft_eq_mul]; rfl
  case two => rw [shiftLeft_eq_mul]; rfl
  case three => rw [shiftLeft_eq_mul]; rfl

/-! ## Division -/

/-- Settles O12: a divisor that is not zero, the one quotient that does not fit, and a divisor of zero (R129). -/
theorem division : Obligations.Division := by
  unfold Obligations.Division
  intro s d a b
  refine ⟨fun nonzero fits => ⟨runs_put_eq rfl ?div, runs_put_eq rfl ?rem⟩, fun nonzero => ⟨runs_put_eq rfl ?divn, runs_put_eq rfl ?remn⟩,
    fun low minus => ⟨runs_put_eq rfl ?top, runs_put_eq rfl ?none⟩,
    fun zero => ⟨runs_put_eq rfl ?bound, runs_put_eq rfl (if_pos zero), runs_put_eq rfl (if_pos zero), runs_put_eq rfl (if_pos zero)⟩⟩
  case div => rw [divSigned, if_neg nonzero, if_neg fits]
  case rem => rw [remSigned, if_neg nonzero, Int.tmod_def]
  case divn => rw [divUnsigned, if_neg nonzero]
  case remn => rw [remUnsigned, if_neg nonzero, Nat.mod_eq_sub_mul_div]
  case top => rw [low, minus]; rfl
  case none => rw [low, minus]; rfl
  case bound =>
    have sign : (s.g a).toInt = 0 ↔ s.g a = 0 := BitVec.toInt_inj (y := 0)
    have neg : (s.g a).slt 0 = true ↔ (s.g a).toInt < 0 := decide_eq_true_iff
    rw [divSigned, if_pos zero]
    simp only [sign, neg]
    split
    next => rfl
    next other =>
      have : (s.g a).toInt ≠ 0 := fun h => other (sign.mp h)
      by_cases pos : 0 < (s.g a).toInt
      · rw [if_neg (by omega), if_pos pos]
      · rw [if_pos (by omega), if_neg pos]

end Sys2Proof.Machine
end

section
/-! SUPPORT. Compute instructions, part 2: immediates, QSHIFT by cross-multiplying, and FCVT (R130 to R132, R136). -/

namespace Sys2Proof.Machine

/-! ## Dyadic numbers compared over a common unit -/

/-- Two dyadic numbers, each as a multiple of a unit that is no larger than either's last place, compare as they are. -/
theorem dyadic_le_iff (m m' : ℕ) {p q b : ℤ} (hp : b ≤ p) (hq : b ≤ q) :
    m * 2 ^ (p - b).toNat ≤ m' * 2 ^ (q - b).toNat ↔ (m : ℚ) * 2 ^ p ≤ m' * 2 ^ q := by
  have place {r : ℤ} (h : b ≤ r) : ((2 : ℚ) ^ r) = 2 ^ (r - b).toNat * 2 ^ b := by
    rw [← zpow_natCast, Int.toNat_of_nonneg (by omega), ← zpow_add₀ (by norm_num)]
    congr 1
    omega
  rw [place hp, place hq, ← mul_assoc, ← mul_assoc, mul_le_mul_iff_left₀ (by positivity), ← Nat.cast_le (α := ℚ)]
  push_cast
  rfl

/-! ## The shift of R132 -/

/-- a scaled down by s places is at most t (R132). -/
def ScaledLe (ma : ℕ) (ea : ℤ) (mt : ℕ) (et s : ℤ) : Prop := (ma : ℚ) * 2 ^ (ea - s) ≤ mt * 2 ^ et

section
variable {ma mt : ℕ} {ea et : ℤ}

theorem ScaledLe.mono {s s' : ℤ} (h : ScaledLe ma ea mt et s) (le : s ≤ s') : ScaledLe ma ea mt et s' :=
  le_trans (mul_le_mul_of_nonneg_left (zpow_le_zpow_right₀ (by norm_num) (by omega)) (by positivity)) h

theorem cast_log2_bounds {m : ℕ} (h : m ≠ 0) (e : ℤ) :
    (2 : ℚ) ^ ((m.log2 : ℤ) + e) ≤ m * 2 ^ e ∧ (m : ℚ) * 2 ^ e < 2 ^ ((m.log2 : ℤ) + e + 1) := by
  have low : ((2 ^ m.log2 : ℕ) : ℚ) ≤ m := Nat.cast_le.mpr (Nat.log2_self_le h)
  have high : (m : ℚ) < ((2 ^ (m.log2 + 1) : ℕ) : ℚ) := Nat.cast_lt.mpr Nat.lt_log2_self
  push_cast at low high
  have pos : (0 : ℚ) < 2 ^ e := by positivity
  constructor
  · rw [zpow_add₀ (by norm_num), zpow_natCast]
    exact mul_le_mul_of_nonneg_right low pos.le
  · rw [add_right_comm, zpow_add₀ (by norm_num)]
    exact mul_lt_mul_of_pos_right (by exact_mod_cast high) pos

/-- The shift that is computed is the least one that suffices (R132). -/
theorem ceilLog2Ratio_least (ha : ma ≠ 0) (ht : mt ≠ 0) (s : ℤ) :
    ScaledLe ma ea mt et s ↔ ceilLog2Ratio ma ea mt et ≤ s := by
  obtain ⟨d, hd⟩ : ∃ d, d = (ma.log2 : ℤ) + ea - (mt.log2 + et) := ⟨_, rfl⟩
  have below : ¬ ScaledLe ma ea mt et (d - 1) := by
    have a := (cast_log2_bounds ha (ea - (d - 1))).1
    have t := (cast_log2_bounds ht et).2
    rw [show (ma.log2 : ℤ) + (ea - (d - 1)) = mt.log2 + et + 1 by omega] at a
    exact not_le.mpr (lt_of_lt_of_le t a)
  have above : ScaledLe ma ea mt et (d + 1) := by
    have a := (cast_log2_bounds ha (ea - (d + 1))).2
    have t := (cast_log2_bounds ht et).1
    rw [show (ma.log2 : ℤ) + (ea - (d + 1)) + 1 = mt.log2 + et by omega] at a
    exact (lt_of_lt_of_le a t).le
  have test (s : ℤ) : decide (ma * 2 ^ (ea - s - min (ea - s) et).toNat ≤ mt * 2 ^ (et - min (ea - s) et).toNat) = true ↔
      ScaledLe ma ea mt et s := by
    rw [decide_eq_true_iff]
    exact dyadic_le_iff ma mt (min_le_left ..) (min_le_right ..)
  have value : ceilLog2Ratio ma ea mt et = d ∧ ScaledLe ma ea mt et d ∨ ceilLog2Ratio ma ea mt et = d + 1 ∧ ¬ ScaledLe ma ea mt et d := by
    unfold ceilLog2Ratio
    rw [← hd]
    dsimp only
    rw [if_neg ((test (d - 1)).not.mpr below)]
    split
    next h => exact .inl ⟨rfl, (test d).mp h⟩
    next h => exact .inr ⟨rfl, (test d).not.mp h⟩
  obtain ⟨eq, at'⟩ | ⟨eq, at'⟩ := value <;> rw [eq] <;> constructor
  · exact fun h => not_lt.mp fun lt => below (h.mono (by omega))
  · exact at'.mono
  · exact fun h => not_lt.mp fun lt => at' (h.mono (by omega))
  · exact above.mono

end

theorem qshift_invalid {a b : ℕ}
    (h : (∀ n m e, FFmt.f32.decode a ≠ .fin n m e) ∨ (∀ m e, m ≠ 0 → FFmt.f32.decode b ≠ .fin false m e)) : qshift a b = (0, .nv) := by
  unfold qshift
  split
  next na ma ea nb mb eb va vb =>
    have odd : mb = 0 ∨ nb = true := by
      by_contra both
      rw [not_or, Bool.not_eq_true] at both
      obtain ⟨nonzero, rfl⟩ := both
      exact h.elim (fun h => h _ _ _ va) (fun h => h _ _ nonzero vb)
    rw [if_pos odd]
  next => rfl

section
variable {a b ma mb : ℕ} {na : Bool} {ea eb : ℤ} (vb : FFmt.f32.decode b = .fin false mb eb) (hb : mb ≠ 0)
include vb hb

theorem qshift_zero (va : FFmt.f32.decode a = .fin na 0 ea) : qshift a b = (0, .zero) := by
  simp [qshift, va, vb, hb]

theorem qshift_number (va : FFmt.f32.decode a = .fin na ma ea) (ha : ma ≠ 0) :
    qshift a b = (clampInt (-128) 127 (ceilLog2Ratio ma ea mb eb), 0) := by
  simp [qshift, va, vb, ha, hb]

end

/-- A clamped number lies within its bounds, and where it is not at one of them it is the number. -/
theorem clampInt_bounds {lo hi : ℤ} (h : lo ≤ hi) (x : ℤ) :
    lo ≤ clampInt lo hi x ∧ clampInt lo hi x ≤ hi ∧ (clampInt lo hi x < hi → x ≤ clampInt lo hi x) ∧ (lo < clampInt lo hi x → clampInt lo hi x ≤ x) := by
  unfold clampInt
  split
  · omega
  · split <;> omega

/-- The exponent of a binary32 number (R85). -/
theorem decode_f32_exponent {x m : ℕ} {n : Bool} {e : ℤ} (h : FFmt.f32.decode x = .fin n m e) : -149 ≤ e := by
  obtain ⟨-, -, ⟨-, -, rfl⟩ | ⟨normal, -, rfl⟩⟩ := FFmt.decode_fin h
  · decide
  · have bias : FFmt.f32.bias = 127 := rfl
    have fb : FFmt.f32.fb = 23 := rfl
    omega

/-! ## Every member -/

theorem State.lowG_eq (s : State) (n : ℕ) (r : GReg) : s.lowG n r = (s.g r).toNat % 2 ^ n := by
  rw [State.lowG, natBits, Nat.pow_zero, Nat.div_one]

section
variable (s : State) (d a b : GReg)

theorem exec_qshift : exec (.qshift d a b) s =
    .next ((s.setG d (BitVec.ofInt 64 (qshift (s.lowG 32 a) (s.lowG 32 b)).1)).finish (qshift (s.lowG 32 a) (s.lowG 32 b)).2) := rfl

theorem exec_fcvt (sat : Bool) (rm : Rm) (src dst : Ty) : exec (.fcvt d a sat rm src dst) s =
    .next ((s.setG d (resultOf dst (convert src dst (s.mode rm) sat (s.lowG src.bits a)).1)).finish
      (convert src dst (s.mode rm) sat (s.lowG src.bits a)).2) := rfl

/-- ZERO is no flag that can be enabled to trap (R103). -/
theorem quiet_zero : Quiet s .zero := by
  apply BitVec.eq_of_getLsbD_eq
  intro i hi
  interval_cases i <;> simp [trapEnabled, Flags.zero]

/-- A two-word instruction that writes one g register (R131). -/
theorem wroteG_done (x : Word) (len : ℕ) : WroteG s.core s ((s.setG d x).done len) d x 0 (s.pc + BitVec.ofNat 64 len) := by
  have h := WroteG.intro (Near.refl s) rfl rfl d x 0 (s.pc + BitVec.ofNat 64 len)
  rw [State.raise_zero] at h
  rwa [State.done, State.pc_setG]

end

/-- Settles O15: the conversion of the low bits, extended by its type. -/
theorem scalarConvert : Obligations.ScalarConvert := by
  unfold Obligations.ScalarConvert
  intro s d a sat rm src dst r _
  apply raises_putF
  rw [exec_fcvt, State.lowG_eq]
  rfl

/-- Settles O13: the words that the immediate members write, and the shift as the least one that suffices, clamped (R132). -/
theorem immediatesAndQshift : Obligations.ImmediatesAndQshift := by
  unfold Obligations.ImmediatesAndQshift
  constructor
  · intro s d a imm n imm48
    refine ⟨runs_put rfl, runs_put rfl, runs_put rfl, runs_put rfl, runs_put_eq rfl ?slti, runs_put_eq rfl (shiftLeft_eq ..),
      runs_put_eq rfl (ushiftRight_eq ..), runs_put_eq rfl (sshiftRight_eq ..), runs_put_eq rfl ?lih, _, rfl, wroteG_done s d _ 8⟩
    case slti => rw [boolWord_slt, sext, BitVec.toInt_signExtend_of_le (by decide)]
    case lih => rw [shiftLeft_eq_mul]; rfl
  · intro s d a b
    simp only [← State.lowG_eq]
    have run := exec_qshift s d a b
    refine ⟨fun invalid => ?_, fun n e m' e' va hb vb => ?_, fun n m e m' e' va ha hb vb => ?_⟩
    · rw [qshift_invalid invalid] at run
      exact raises_putF run
    · rw [qshift_zero vb hb va] at run
      exact (raises_putF run).1 (quiet_zero s)
    · rw [qshift_number vb hb va ha] at run
      obtain ⟨low, high, enough, least⟩ := clampInt_bounds (by decide : (-128 : ℤ) ≤ 127) (ceilLog2Ratio m e m' e')
      generalize clampInt (-128) 127 (ceilLog2Ratio m e m' e') = x at *
      have ea := decode_f32_exponent va
      have eb := decode_f32_exponent vb
      have scaled (y : ℤ) (h : y ≤ 127) : (m : ℤ) * 2 ^ (e + 2000 - y).toNat ≤ m' * 2 ^ (e' + 2000).toNat ↔ ScaledLe m e m' e' y := by
        have units := dyadic_le_iff m m' (p := e - y) (q := e') (b := -2000) (by omega) (by omega)
        rw [show e - y - -2000 = e + 2000 - y by ring, show e' - -2000 = e' + 2000 by ring] at units
        rw [ScaledLe, ← units]
        norm_cast
      obtain ⟨t, next, put⟩ := runs_finish_zero run
      refine ⟨t, next, x, put, low, high, fun lt => ?_, fun gt => ?_⟩
      · exact (scaled x high).mpr ((ceilLog2Ratio_least ha hb x).mpr (enough lt))
      · rw [← not_le, scaled (x - 1) (by omega), ceilLog2Ratio_least ha hb]
        have := least gt
        omega

end Sys2Proof.Machine
end

section
/-! SUPPORT. Compute instructions, part 3: one number in two units, rounded stochastically with a draw beyond the 16 bits of R93, which
InexactArithmetic leaves out of its sums and VectorFunctions altogether, while RoundingModes excludes it. -/

namespace Sys2Proof.Machine

/-- 1.5 - 1 is formed in units of 2^-23, above the last place of one half. -/
theorem oversizedDraw_add : FFmt.f32.add oversizedDraw 0x3FC00000 0xBF800000 = (0x3F000000, 0) := by decide +kernel

/-- Refutes O18: with a draw of 2^16 the sum 1.5 + -1 is not that of its value in units of 2^-6000. The statement would have to ask for
draws below 2^16 in the clause of the sums, as it does in that of rounding. -/
theorem not_inexactArithmetic : ¬ Obligations.InexactArithmetic := by
  unfold Obligations.InexactArithmetic
  intro holds
  obtain ⟨-, -, sums, -⟩ := holds
  obtain ⟨sum, -⟩ := sums .f32 oversizedDraw 0x3FC00000 0xBF800000 0 false true false 12582912 8388608 0 (-23) (-23) (-149)
    (by decide) (by decide) (by decide) (by decide)
  have half : (if false = true then -1 else 1) * ((12582912 * 2 ^ (-23 + 6000 : ℤ).toNat : ℕ) : ℤ) +
      (if true = true then -1 else 1) * ((8388608 * 2 ^ (-23 + 6000 : ℤ).toNat : ℕ) : ℤ) = ((2 ^ 5999 : ℕ) : ℤ) := by decide +kernel
  have rounded := sum (by rw [half]; decide +kernel)
  rw [oversizedDraw_add, half] at rounded
  exact absurd rounded (by decide +kernel)

/-- Refutes O20: the reciprocal of 1 is 1, and with a draw of 2^16 rounding 1 and rounding 2^24 units of 2^-24 differ. The statement
would have to ask for draws below 2^16, as that of RoundingModes does. -/
theorem not_vectorFunctions : ¬ Obligations.VectorFunctions := by
  unfold Obligations.VectorFunctions
  intro holds
  obtain ⟨reciprocal, -⟩ := holds oversizedDraw 0x3F800000 false 8388608 (-23) (by decide) (by decide)
  have one : 1 / ((if false = true then -1 else 1) * ((8388608 : ℕ) : ℝ) * (2 : ℝ) ^ (-23 : ℤ)) = 1 := by norm_num
  rw [one] at reciprocal
  obtain ⟨exact', -⟩ := reciprocal false (by norm_num)
  have whole := exact' 1 0 (by norm_num)
  have parts := exact' (2 ^ 24) (-24) (by norm_num)
  exact absurd (whole.symm.trans parts) (by decide +kernel)

end Sys2Proof.Machine
end

section
/-! SUPPORT. Compute instructions, part 4: vector integers, masks, permutes and k registers, element by element (R41, R125, R127, R141,
R143, R144). -/

namespace Sys2Proof.Machine

/-! ## Completing a vector instruction -/

section
variable {i : Instr} {s : State} {w : ℕ} {d : VReg} {k : KReg}

/-- A masked vector operation without flags (R125, R127). -/
theorem runs_vint {f g : ℕ → ℕ} (h : exec i s = .next (s.vint w d k f)) (e : ∀ j, f j = g j) (fits : ∀ j, g j < 2 ^ w) :
    Runs i s (fun t => PutElems s t w d k g 0) := by
  obtain rfl : f = g := funext e
  exact ⟨_, h, State.vint_spec s w d k f fits⟩

/-- What an instruction does may be said in less. -/
theorem Raises.imp {f : Flags} {P Q : State → Prop} (h : Raises i s f P) (le : ∀ t, P t → Q t) : Raises i s f Q :=
  ⟨fun quiet => (h.1 quiet).imp fun t => And.imp_right (le t), fun traps => (h.2 traps).imp fun u => And.imp_left (le u)⟩

/-- A masked vector operation with flags, trapping where one of them is enabled (R106, R125, R126). -/
theorem raises_vfp {f : ℕ → ℕ × Flags} (h : exec i s = .next (s.vfp w d k f)) (fits : ∀ j, (f j).1 < 2 ^ w) :
    Raises i s (unionFlags w (s.k k) fun j => (f j).2)
      (fun t => PutElems s t w d k (fun j => (f j).1) (unionFlags w (s.k k) fun j => (f j).2)) :=
  (raises_putV h).imp fun _ put => ⟨_, put, velem_vmerge w (s.k k) (s.v d) (fun j => (f j).1) fits⟩

/-- A masked compare (R106, R141). -/
theorem raises_vcmp {kd : KReg} (p : Prec) {f : ℕ → Bool × Flags} (h : exec i s = .next (s.vcmp p.fmt.bits kd k f)) :
    Raises i s (unionFlags p.fmt.bits (s.k k) fun j => (f j).2)
      (fun t => PutMask s t p.fmt.bits kd k (fun j => (f j).1) (unionFlags p.fmt.bits (s.k k) fun j => (f j).2)) :=
  (raises_putK h).imp fun _ put => ⟨_, put, fun _ hj => getLsbD_kOf_masked p _ _ hj⟩

end

theorem unionFlags_zero (w : ℕ) (k : BitVec 8) : (unionFlags w k fun _ => 0) = 0 := by
  simp [unionFlags]

/-- Where no flag is raised none traps. -/
theorem Raises.runs {i : Instr} {s : State} {P : State → Prop} (h : Raises i s 0 P) : Runs i s P := h.1 (by simp [Quiet])

/-- The precision whose elements are as wide as those of an integer compare (R141). -/
def precOf (e64 : Bool) : Prec := if e64 then .d else .s

theorem bits_precOf (e64 : Bool) : (precOf e64).fmt.bits = if e64 then 64 else 32 := by cases e64 <;> rfl

/-- A masked compare of integers raises no flag (R127, R141). -/
theorem runs_vcmp {i : Instr} {s : State} {kd k : KReg} (e64 : Bool) {r : ℕ → Bool}
    (h : exec i s = .next (s.vcmp (if e64 then 64 else 32) kd k fun j => (r j, 0))) :
    Runs i s (fun t => PutMask s t (if e64 then 64 else 32) kd k r 0) := by
  rw [← bits_precOf] at h ⊢
  have := raises_vcmp (precOf e64) h
  simp only [unionFlags_zero] at this
  exact this.runs

/-! ## Numbers of w bits -/

section
variable (w : ℕ)

theorem natOfInt_lt (x : ℤ) : natOfInt w x < 2 ^ w := by
  have pos : (0 : ℤ) < (2 ^ w : ℕ) := by exact_mod_cast Nat.two_pow_pos w
  have := Int.emod_lt_of_pos x pos
  have := Int.emod_nonneg x pos.ne'
  unfold natOfInt
  omega

theorem natOfInt_natCast {n : ℕ} (h : n < 2 ^ w) : natOfInt w n = n := by
  rw [natOfInt, ← Int.natCast_mod, Int.toNat_natCast, Nat.mod_eq_of_lt h]

theorem clampInt_eq {lo hi : ℤ} (h : lo ≤ hi) (x : ℤ) : clampInt lo hi x = max lo (min hi x) := by
  unfold clampInt
  split
  · omega
  · split <;> omega

variable {w} {x y : ℕ}

theorem vopVsub_eq (hy : y < 2 ^ w) : vopVsub w x y = (x + 2 ^ w - y) % 2 ^ w := by
  have whole : (x : ℤ) - y = (x + 2 ^ w - y : ℕ) + (2 ^ w : ℕ) * (-1 : ℤ) := by omega
  rw [vopVsub, wrapInt, natOfInt, whole, Int.add_mul_emod_self_left, ← Int.natCast_mod, Int.toNat_natCast]

theorem vopVmulh_eq : vopVmulh w x y = natOfInt w (intOfNat w x * intOfNat w y / 2 ^ w) := by
  rw [vopVmulh, wrapInt, Nat.cast_pow, Nat.cast_ofNat]

theorem vopVsra_eq : vopVsra w x y = natOfInt w (intOfNat w x / 2 ^ (y % w)) := by
  rw [vopVsra, wrapInt, floorShift, vcount, Nat.cast_pow, Nat.cast_ofNat]

theorem clampSigned_eq (z : ℤ) : clampSigned w z = natOfInt w (max (-2 ^ (w - 1)) (min (2 ^ (w - 1) - 1) z)) := by
  have pos : (1 : ℤ) ≤ 2 ^ (w - 1) := one_le_pow₀ (by norm_num)
  rw [clampSigned, Nat.cast_pow, Nat.cast_ofNat, clampInt_eq (by omega)]

theorem clampNat_eq (z : ℤ) : clampNat w z = (max 0 (min (2 ^ w - 1) z)).toNat := by
  have pos : (1 : ℤ) ≤ 2 ^ w := one_le_pow₀ (by norm_num)
  have nonneg : 0 ≤ max 0 (min (2 ^ w - 1) z) := le_max_left ..
  rw [clampNat, Nat.cast_pow, Nat.cast_ofNat, clampInt_eq (by omega), natOfInt, Nat.cast_pow, Nat.cast_ofNat,
    Int.emod_eq_of_lt nonneg (by omega)]

theorem vopVaddsn_eq : vopVaddsn w x y = min (2 ^ w - 1) (x + y) := by
  have pow : ((2 ^ w : ℕ) : ℤ) = 2 ^ w := by push_cast; rfl
  have := Nat.two_pow_pos w
  rw [vopVaddsn, clampNat_eq]
  omega

theorem vopVsubsn_eq (hx : x < 2 ^ w) : vopVsubsn w x y = x - y := by
  have pow : ((2 ^ w : ℕ) : ℤ) = 2 ^ w := by push_cast; rfl
  rw [vopVsubsn, clampNat_eq]
  omega

theorem ite_min (x y : ℕ) : (if y < x then y else x) = min x y := by split <;> omega
theorem ite_max (x y : ℕ) : (if x < y then y else x) = max x y := by split <;> omega

/-- The magnitude of a number of w bits has w bits. -/
theorem natAbs_intOfNat_lt (hx : x < 2 ^ w) : (intOfNat w x).natAbs < 2 ^ w := by
  have := Nat.two_pow_pos w
  unfold intOfNat
  split
  next high =>
    have : 0 < 2 ^ (w - 1) := Nat.two_pow_pos _
    omega
  next => omega

end

/-! ## Elements moved -/

/-- One element set (R144). -/
theorem velem_set (w : ℕ) (x : VWord) (n e : ℕ) (he : e < 2 ^ w) (i : ℕ) (hi : i < 256 / w) :
    velem w (vOf w ((velems w x).set n e)) i = if i = n then e else velem w x i := by
  have length : ((velems w x).set n e).length = 256 / w := by simp [velems]
  rw [velem_vOf w _ ?fits (by rw [length]; exact Nat.mul_div_le 256 w) i (by rwa [length]), List.getElem_set]
  case fits =>
    intro c hc
    obtain old | rfl := List.mem_or_eq_of_mem_set hc
    · obtain ⟨j, -, rfl⟩ := List.mem_map.mp old
      exact velem_lt w x j
    · exact he
  simp only [eq_comm (a := n)]
  split
  · rfl
  · simp [velems]

theorem State.lowG_lt (s : State) (n : ℕ) (r : GReg) : s.lowG n r < 2 ^ n := by
  rw [State.lowG_eq]
  exact Nat.mod_lt _ (Nat.two_pow_pos n)

/-- Settles O21: the masks of the compares, each element operation at its width, and the moves. -/
theorem vectorIntegersAndMasks : Obligations.VectorIntegersAndMasks := by
  unfold Obligations.VectorIntegersAndMasks
  refine ⟨?compares, ?integers, ?moves⟩
  case compares =>
    intro s d a b k p e64
    exact ⟨raises_vcmp p rfl, raises_vcmp p rfl, raises_vcmp p rfl, runs_vcmp e64 rfl, runs_vcmp e64 rfl, runs_vcmp e64 rfl⟩
  case integers =>
    intro s d a b k esz w x y X Y lo hi gives
    have hx (i : ℕ) : x i < 2 ^ w := velem_lt w (s.v a) i
    have hy (i : ℕ) : y i < 2 ^ w := velem_lt w (s.v b) i
    have pos := Nat.two_pow_pos w
    refine ⟨runs_vint rfl (fun _ => rfl) fun _ => Nat.mod_lt _ pos, runs_vint rfl (fun i => vopVsub_eq (hy i)) fun _ => Nat.mod_lt _ pos,
      runs_vint rfl (fun _ => rfl) fun _ => Nat.mod_lt _ pos, runs_vint rfl (fun _ => vopVmulh_eq) fun _ => natOfInt_lt w _,
      runs_vint rfl (fun _ => rfl) fun i => ?mulhn, runs_vint rfl (fun _ => rfl) fun i => Nat.and_lt_two_pow _ (hy i),
      runs_vint rfl (fun _ => rfl) fun i => Nat.or_lt_two_pow (hx i) (hy i), runs_vint rfl (fun _ => rfl) fun i => Nat.xor_lt_two_pow (hx i) (hy i),
      runs_vint rfl (fun _ => rfl) fun _ => Nat.mod_lt _ pos, runs_vint rfl (fun _ => rfl) fun i => Nat.lt_of_le_of_lt (Nat.div_le_self ..) (hx i),
      runs_vint rfl (fun _ => vopVsra_eq) fun _ => natOfInt_lt w _, runs_vint rfl (fun _ => rfl) fun i => ?min, runs_vint rfl (fun _ => rfl) fun i => ?max,
      runs_vint rfl (fun i => ite_min (x i) (y i)) fun i => Nat.lt_of_le_of_lt (min_le_left ..) (hx i),
      runs_vint rfl (fun i => ite_max (x i) (y i)) fun i => max_lt (hx i) (hy i),
      runs_vint rfl (fun _ => clampSigned_eq _) fun _ => natOfInt_lt w _, runs_vint rfl (fun _ => clampSigned_eq _) fun _ => natOfInt_lt w _,
      runs_vint rfl (fun _ => vopVaddsn_eq) fun i => ?addsn, runs_vint rfl (fun i => vopVsubsn_eq (hx i)) fun i => Nat.lt_of_le_of_lt (Nat.sub_le ..) (hx i),
      runs_vint rfl (fun i => natOfInt_natCast w (natAbs_intOfNat_lt (hx i))) fun i => natAbs_intOfNat_lt (hx i)⟩
    case mulhn => exact Nat.div_lt_of_lt_mul (Nat.mul_lt_mul'' (hx i) (hy i))
    case min => split <;> [exact hy i; exact hx i]
    case max => split <;> [exact hy i; exact hx i]
    case addsn => exact Nat.lt_of_le_of_lt (min_le_left ..) (Nat.sub_one_lt pos.ne')
  case moves =>
    intro s d a b gd ga kd ka kb k x c esz w n A B gives
    have hA (i : ℕ) : A i < 2 ^ w := velem_lt w (s.v a) i
    have hB (i : ℕ) : B i < 2 ^ w := velem_lt w (s.v b) i
    have even : esz.count % 2 = 0 := by cases esz <;> decide
    have count : n = esz.count := rfl
    refine ⟨runs_vint rfl (fun _ => rfl) fun _ => hA _, runs_vint rfl (fun _ => State.lowG_eq s w ga) fun _ => Nat.mod_lt _ (Nat.two_pow_pos w),
      runs_vint rfl (fun _ => rfl) hA, runs_vint rfl (fun i => ?zip) fun i => ?zipLt, runs_vint rfl (fun i => ?unzip) fun i => ?unzipLt,
      runs_vint rfl (fun _ => rfl) fun _ => hA _, runs_put rfl, ⟨_, rfl, _, s.doneV_spec d _, fun i hi => ?ins⟩,
      ⟨_, rfl, _, s.doneV_spec d _, fun i hi => velem_vmerge w (s.k k) (s.v b) A hA i hi⟩,
      ⟨_, rfl, s.doneK_spec kd _⟩, ⟨_, rfl, s.doneK_spec kd _⟩, ⟨_, rfl, s.doneK_spec kd _⟩, ⟨_, rfl, s.doneK_spec kd _⟩,
      ⟨_, rfl, ?low⟩, runs_put rfl⟩
    case zip => dsimp only [A, B]; split <;> rfl
    case zipLt => split <;> [exact hA _; exact hB _]
    case unzip =>
      rw [← count]
      split
      · rfl
      · rw [show 2 * (i - n / 2) = 2 * i - n by omega]
    case unzipLt => split <;> [exact hA _; exact hB _]
    case ins =>
      rw [← State.lowG_eq]
      exact velem_set w (s.v d) x.toNat _ (s.lowG_lt w ga) i hi
    case low =>
      rw [BitVec.setWidth_eq_extractLsb' (by decide)]
      exact s.doneK_spec kd _

end Sys2Proof.Machine
end

section
/-! SUPPORT. Compute instructions, part 5: results of every operation fit their format (R85 to R90, R96). -/

namespace Sys2Proof.Machine
namespace FFmt

/-- A result is a pattern of its format. -/
def Fits (f : FFmt) (r : ℕ × Flags) : Prop := r.1 < 2 ^ f.bits

section
variable {f : FFmt}

theorem fits_withSign (n : Bool) {x : ℕ} (h : x < f.signBit) (fl : Flags) : f.Fits (f.withSign n x, fl) := withSign_lt n h

theorem fits_inf (n : Bool) (fl : Flags) : f.Fits (f.withSign n f.infBits, fl) := withSign_lt n f.infBits_lt

theorem fits_zero (n : Bool) (fl : Flags) : f.Fits (f.withSign n 0, fl) := withSign_lt n (Nat.two_pow_pos _)

end

section
variable {f : FFmt} (hf : 0 < f.fb) (md : Mode)
include hf

theorem fits_round (sat n : Bool) (m : ℕ) (e : ℤ) : f.Fits (f.round md sat n m e) := round_lt hf md sat n m e

theorem fits_nanOf {xs : List ℕ} {r : ℕ × Flags} (h : f.nanOf (xs.map f.decode) = some r) : f.Fits r := nanOf_lt hf h

theorem fits_nan (n : Bool) (fl : Flags) : f.Fits (f.withSign n f.nan, fl) := withSign_lt n (nan_lt hf)

theorem fits_invalid : f.Fits f.invalid := fits_nan hf false _

theorem fits_quiet {x fr : ℕ} {n s : Bool} (h : f.decode x = .nan n fr s) (fl : Flags) : f.Fits (f.quiet n fr, fl) := by
  obtain ⟨-, -, rfl⟩ := decode_nan h
  exact quiet_lt hf n (f.fracAt_lt x)

theorem fits_addVals (a b : FVal) : f.Fits (f.addVals md a b) := by
  unfold addVals
  split
  next => split <;> [exact fits_inf _ _; exact fits_invalid hf]
  next => exact fits_inf _ _
  next => exact fits_inf _ _
  next =>
    dsimp only
    generalize (_ + _ : ℤ) = t
    split <;> [exact fits_zero _ _; exact fits_round hf md _ _ _ _]
  next => exact fits_invalid hf

theorem fits_add (x y : ℕ) : f.Fits (f.add md x y) := by
  unfold add
  split
  next r h => exact fits_nanOf hf (xs := [x, y]) h
  next => exact fits_addVals hf md _ _

theorem fits_sub (x y : ℕ) : f.Fits (f.sub md x y) := by
  unfold sub
  split
  next r h => exact fits_nanOf hf (xs := [x, y]) h
  next => exact fits_addVals hf md _ _

theorem fits_mul (x y : ℕ) : f.Fits (f.mul md x y) := mul_lt hf md x y

theorem fits_div (x y : ℕ) : f.Fits (f.div md x y) := by
  unfold div
  split
  next r h => exact fits_nanOf hf (xs := [x, y]) h
  next =>
    split
    next => exact fits_invalid hf
    next => exact fits_inf _ _
    next => exact fits_zero _ _
    next =>
      split
      next => split <;> [exact fits_invalid hf; exact fits_inf _ _]
      next => exact fits_round hf md _ _ _ _
    next => exact fits_invalid hf

theorem fits_sqrt (x : ℕ) : f.Fits (f.sqrt md x) := by
  unfold sqrt
  split
  next h => exact fits_quiet hf h _
  next => split <;> [exact fits_invalid hf; exact fits_inf false _]
  next =>
    split
    next => exact fits_zero _ _
    next => split <;> [exact fits_invalid hf; exact fits_round hf md _ _ _ _]

theorem fits_fma (negP negC : Bool) (x y z : ℕ) : f.Fits (f.fma md negP negC x y z) := by
  unfold fma
  dsimp only
  split
  next r fl h => exact fits_nanOf hf (xs := [x, y, z]) (r := (r, fl)) h
  next => split <;> [exact fits_invalid hf; exact fits_addVals hf md _ _]

theorem fits_fmin {x y : ℕ} (hx : x < 2 ^ f.bits) (hy : y < 2 ^ f.bits) : f.Fits (f.fmin x y) := by
  unfold fmin
  split
  next r h => exact fits_nanOf hf (xs := [x, y]) h
  next => unfold Fits; split <;> assumption

theorem fits_fmax {x y : ℕ} (hx : x < 2 ^ f.bits) (hy : y < 2 ^ f.bits) : f.Fits (f.fmax x y) := by
  unfold fmax
  split
  next r h => exact fits_nanOf hf (xs := [x, y]) h
  next => unfold Fits; split <;> assumption

/-- A value of any format converted to this one (R87, R89, R91). -/
theorem fits_convertFF (src : FFmt) (sat : Bool) (x : ℕ) : f.Fits (convertFF src f md sat x) := by
  unfold convertFF
  split
  next n fr s h =>
    obtain ⟨-, -, rfl⟩ := decode_nan h
    have frac := src.fracAt_lt x
    split
    · exact fits_nan hf _ _
    split
    · exact fits_nan hf _ _
    apply quiet_lt hf
    split
    next le =>
      calc src.fracAt x * 2 ^ (f.fb - src.fb) < 2 ^ src.fb * 2 ^ (f.fb - src.fb) := by gcongr
        _ = 2 ^ f.fb := by rw [← Nat.pow_add, Nat.add_sub_cancel' le]
    next gt =>
      refine Nat.div_lt_of_lt_mul ?_
      rwa [← Nat.pow_add, Nat.sub_add_cancel (Nat.le_of_not_le gt)]
  next n h =>
    split
    · exact fits_inf _ _
    · split <;> [exact fits_withSign n f.maxFinite_lt _; exact fits_nan hf _ _]
  next => exact fits_round hf md _ _ _ _

end

end FFmt

theorem convertFI_lt (src : FFmt) (dst : Ty) (md : Mode) (x : ℕ) : (convertFI src dst md x).1 < 2 ^ dst.bits := by
  unfold convertFI
  split
  next => exact Nat.two_pow_pos _
  next => exact natOfInt_lt _ _
  next n m e _ =>
    dsimp only
    generalize (if n = true then _ else _ : ℤ) = r
    split <;> exact natOfInt_lt _ _

theorem ffmt_bits {t : Ty} {f : FFmt} (h : t.ffmt = some f) : f.bits = t.bits ∧ 0 < f.fb := by
  cases t <;> cases h <;> decide

theorem isInt_of_ffmt {t : Ty} (h : t.ffmt = none) : t.isInt = true := by
  cases t <;> simp [Ty.ffmt] at h <;> rfl

/-- A conversion that is not reserved gives a pattern of its type (R136). -/
theorem convert_lt {src dst : Ty} {sat : Bool} (ok : convOk src dst sat = true) (md : Mode) (x : ℕ) :
    (convert src dst md sat x).1 < 2 ^ dst.bits := by
  unfold convert
  split
  next f g _ h =>
    obtain ⟨bits, hf⟩ := ffmt_bits h
    exact bits ▸ FFmt.fits_convertFF hf md f sat x
  next f _ _ => exact convertFI_lt f dst md x
  next g _ h =>
    obtain ⟨bits, hf⟩ := ffmt_bits h
    exact bits ▸ FFmt.round_lt hf md sat _ _ _
  next hs hd =>
    simp [convOk, isInt_of_ffmt hs, isInt_of_ffmt hd] at ok

end Sys2Proof.Machine
end

section
/-! SUPPORT. Compute instructions, part 6: vector floating point, and the special operands of R140 (R89, R139 to R142). -/

namespace Sys2Proof.Machine

/-! ## The functions of R140 -/

theorem f32_fb_pos : 0 < FFmt.f32.fb := by decide

/-- A bit set in a number. -/
theorem or_two_pow (x k : ℕ) : x ||| 2 ^ k = if x / 2 ^ k % 2 = 1 then x else x + 2 ^ k := by
  split
  next set =>
    have bit : x.testBit k = true := by rw [Nat.testBit_eq_decide_div_mod_eq, decide_eq_true set]
    apply Nat.eq_of_testBit_eq
    intro j
    rw [Nat.testBit_or, Nat.testBit_two_pow]
    by_cases h : k = j
    · simp [← h, bit]
    · simp [h]
  next clear =>
    have parts := Nat.div_add_mod x (2 ^ (k + 1))
    have low : x % 2 ^ (k + 1) < 2 ^ k := by
      have bit : x % 2 ^ (k + 1) = x % 2 ^ k + 2 ^ k * (x / 2 ^ k % 2) := by rw [Nat.pow_succ, Nat.mod_mul]
      have := Nat.mod_lt x (Nat.two_pow_pos k)
      rw [bit, show x / 2 ^ k % 2 = 0 by omega]
      omega
    have double : 2 ^ (k + 1) = 2 ^ k * 2 := Nat.pow_succ ..
    have high : x % 2 ^ (k + 1) + 2 ^ k < 2 ^ (k + 1) := by omega
    calc x ||| 2 ^ k = 2 ^ (k + 1) * (x / 2 ^ (k + 1)) + x % 2 ^ (k + 1) ||| 2 ^ k := by rw [parts]
      _ = 2 ^ (k + 1) * (x / 2 ^ (k + 1)) ||| (x % 2 ^ (k + 1) + 2 ^ k) := by
        rw [Nat.two_pow_add_eq_or_of_lt (by omega), Nat.or_assoc, Nat.or_two_pow_eq_add_of_lt low]
      _ = 2 ^ (k + 1) * (x / 2 ^ (k + 1)) + (x % 2 ^ (k + 1) + 2 ^ k) := (Nat.two_pow_add_eq_or_of_lt high _).symm
      _ = x + 2 ^ k := by rw [← Nat.add_assoc, parts]

/-- A binary32 NaN made quiet has bit 22 set (R89). -/
theorem quiet_f32 {x fr : ℕ} {n sg : Bool} (hx : x < 2 ^ 32) (h : FFmt.f32.decode x = .nan n fr sg) :
    FFmt.f32.quiet n fr = x ||| 0x400000 := by
  rw [FFmt.quiet_decode rfl f32_fb_pos hx h, show 0x400000 = 2 ^ 22 by rfl, or_two_pow]
  rfl

section
variable {md : Mode} {x : ℕ}

theorem fits_vfrcp : FFmt.f32.Fits (vfrcp md x) := FFmt.fits_div f32_fb_pos md _ x

theorem fits_vfrsq : FFmt.f32.Fits (vfrsq md x) := by
  unfold vfrsq
  split
  next h => exact FFmt.fits_quiet f32_fb_pos h _
  next => split <;> [exact FFmt.fits_invalid f32_fb_pos; exact FFmt.fits_zero false _]
  next =>
    split
    next => exact FFmt.fits_inf _ _
    next => split <;> [exact FFmt.fits_invalid f32_fb_pos; exact FFmt.fits_round f32_fb_pos md _ _ _ _]

theorem fits_vfex2 : FFmt.f32.Fits (vfex2 md x) := by
  have round (n : Bool) (m : ℕ) (e : ℤ) := FFmt.fits_round f32_fb_pos md false n m e
  unfold vfex2
  split
  next h => exact FFmt.fits_quiet f32_fb_pos h _
  next => exact (show (if _ then 0 else FFmt.f32.infBits) < 2 ^ 32 by split <;> decide)
  next n m e _ =>
    split
    next => exact (show 0x3F800000 < 2 ^ 32 by decide)
    next =>
      split
      next => exact round _ _ _
      next =>
        split
        next => exact round _ _ _
        next =>
          dsimp only
          split <;> exact round _ _ _

theorem fits_vflg2 : FFmt.f32.Fits (vflg2 md x) := by
  unfold vflg2
  split
  next h => exact FFmt.fits_quiet f32_fb_pos h _
  next => split <;> [exact FFmt.fits_invalid f32_fb_pos; exact FFmt.fits_inf false _]
  next =>
    split
    next => exact FFmt.fits_inf _ _
    next =>
      split
      next => exact FFmt.fits_invalid f32_fb_pos
      next =>
        dsimp only
        split <;> exact FFmt.fits_round f32_fb_pos md _ _ _ _

theorem fits_vftanh : FFmt.f32.Fits (vftanh md x) := by
  have round (n : Bool) (m : ℕ) (e : ℤ) := FFmt.fits_round f32_fb_pos md false n m e
  unfold vftanh
  split
  next h => exact FFmt.fits_quiet f32_fb_pos h _
  next => exact FFmt.fits_withSign _ (by decide) _
  next n m e _ =>
    split
    next => exact FFmt.fits_zero _ _
    next =>
      split
      next => exact round _ _ _
      next => split <;> exact round _ _ _

/-! Special operands, one kind at a time. -/

section
variable {n : Bool} {fr m : ℕ} {e : ℤ} {sg : Bool}

theorem vfrcp_nan (hx : x < 2 ^ 32) (h : FFmt.f32.decode x = .nan n fr sg) : vfrcp md x = (x ||| 0x400000, Flags.when sg .nv) := by
  have one : FFmt.f32.decode 0x3F800000 = .fin false 8388608 (-23) := by decide
  rw [vfrcp, FFmt.div, one, h, FFmt.nanOf_other (v := .fin ..) rfl, FFmt.nanOf_nan, quiet_f32 hx h, List.any_nil, Bool.or_false]

theorem vfrsq_nan (hx : x < 2 ^ 32) (h : FFmt.f32.decode x = .nan n fr sg) : vfrsq md x = (x ||| 0x400000, Flags.when sg .nv) := by
  rw [vfrsq, h, ← quiet_f32 hx h]

theorem vfex2_nan (hx : x < 2 ^ 32) (h : FFmt.f32.decode x = .nan n fr sg) : vfex2 md x = (x ||| 0x400000, Flags.when sg .nv) := by
  rw [vfex2, h, ← quiet_f32 hx h]

theorem vflg2_nan (hx : x < 2 ^ 32) (h : FFmt.f32.decode x = .nan n fr sg) : vflg2 md x = (x ||| 0x400000, Flags.when sg .nv) := by
  rw [vflg2, h, ← quiet_f32 hx h]

theorem vftanh_nan (hx : x < 2 ^ 32) (h : FFmt.f32.decode x = .nan n fr sg) : vftanh md x = (x ||| 0x400000, Flags.when sg .nv) := by
  rw [vftanh, h, ← quiet_f32 hx h]

theorem vfrcp_zero (h : FFmt.f32.decode x = .fin n 0 e) : vfrcp md x = (FFmt.f32.withSign n FFmt.f32.infBits, .dz) := by
  have one : FFmt.f32.decode 0x3F800000 = .fin false 8388608 (-23) := by decide
  rw [vfrcp, FFmt.div, one, h, FFmt.nanOf_none rfl rfl]
  simp

theorem vfrcp_inf (h : FFmt.f32.decode x = .inf n) : vfrcp md x = (FFmt.f32.withSign n 0, 0) := by
  have one : FFmt.f32.decode 0x3F800000 = .fin false 8388608 (-23) := by decide
  rw [vfrcp, FFmt.div, one, h, FFmt.nanOf_none rfl rfl]
  simp

theorem vfrsq_zero (h : FFmt.f32.decode x = .fin n 0 e) : vfrsq md x = (FFmt.f32.withSign n FFmt.f32.infBits, .dz) := by
  rw [vfrsq, h]
  rfl

theorem vfrsq_inf (h : FFmt.f32.decode x = .inf n) : vfrsq md x = if n then FFmt.f32.invalid else (0, 0) := by rw [vfrsq, h]

theorem vfrsq_negative (hm : m ≠ 0) (h : FFmt.f32.decode x = .fin true m e) : vfrsq md x = FFmt.f32.invalid := by
  rw [vfrsq, h]
  exact (if_neg hm).trans (if_pos rfl)

theorem vfex2_zero (h : FFmt.f32.decode x = .fin n 0 e) : vfex2 md x = (0x3F800000, 0) := by
  rw [vfex2, h]
  rfl

theorem vfex2_inf (h : FFmt.f32.decode x = .inf n) : vfex2 md x = (if n then 0 else FFmt.f32.infBits, 0) := by rw [vfex2, h]

theorem vflg2_zero (h : FFmt.f32.decode x = .fin n 0 e) : vflg2 md x = (FFmt.f32.withSign true FFmt.f32.infBits, .dz) := by
  rw [vflg2, h]
  rfl

theorem vflg2_inf (h : FFmt.f32.decode x = .inf n) : vflg2 md x = if n then FFmt.f32.invalid else (FFmt.f32.infBits, 0) := by
  rw [vflg2, h]

theorem vflg2_negative (hm : m ≠ 0) (h : FFmt.f32.decode x = .fin true m e) : vflg2 md x = FFmt.f32.invalid := by
  rw [vflg2, h]
  exact (if_neg hm).trans (if_pos rfl)

theorem vftanh_zero (h : FFmt.f32.decode x = .fin n 0 e) : vftanh md x = (FFmt.f32.withSign n 0, 0) := by
  rw [vftanh, h]
  rfl

theorem vftanh_inf (h : FFmt.f32.decode x = .inf n) : vftanh md x = (FFmt.f32.withSign n 0x3F800000, 0) := by rw [vftanh, h]

theorem log2_mul_two_pow {k : ℕ} (hk : k ≠ 0) (a : ℕ) : (k * 2 ^ a).log2 = k.log2 + a := by
  have pos := Nat.two_pow_pos a
  rw [Nat.log2_eq_iff (Nat.mul_ne_zero hk pos.ne'), Nat.add_right_comm, Nat.pow_add, Nat.pow_add]
  exact ⟨Nat.mul_le_mul_right _ (Nat.log2_self_le hk), (Nat.mul_lt_mul_right pos).mpr Nat.lt_log2_self⟩

/-- An integer in fixed point. -/
theorem toFix_integer {k : ℕ} (low : -149 ≤ e) (he : e ≤ 0) (whole : m = k * 2 ^ (-e).toNat) : toFix m e = k * fixOne := by
  have bits : (-e).toNat + (e + fixBits).toNat = fixBits := by unfold fixBits; omega
  rw [toFix, if_pos (by unfold fixBits; omega), whole, Nat.mul_assoc, ← Nat.pow_add, bits, fixOne]

/-- VFEX2 of an integer is exact wherever it is in range (R140). -/
theorem vfex2_integer {k : ℕ} (h : FFmt.f32.decode x = .fin n m e) (he : e ≤ 0) (whole : m = k * 2 ^ (-e).toNat) (pos : 0 < k)
    (small : k < 2 ^ 12) : vfex2 md x = FFmt.f32.round md false false 1 (if n then -(k : ℤ) else k) := by
  have size : (m.log2 : ℤ) + e = k.log2 := by rw [whole, log2_mul_two_pow pos.ne']; omega
  have bound : k.log2 < 12 := (Nat.log2_lt pos.ne').mpr small
  have nonzero : m ≠ 0 := by rw [whole]; positivity
  have one : 0 < fixOne := Nat.two_pow_pos _
  rw [vfex2, h]
  dsimp only
  rw [if_neg nonzero, if_neg (by omega), if_neg (by omega), toFix_integer (decode_f32_exponent h) he whole, Nat.mul_mod_left,
    if_pos rfl, Nat.mul_div_cancel _ one]

/-- VFLG2 of a power of two is exact (R140). -/
theorem vflg2_power {j : ℕ} (h : FFmt.f32.decode x = .fin false (2 ^ j) e) :
    vflg2 md x = FFmt.f32.round md false (decide (j + e < 0)) (j + e).natAbs 0 := by
  rw [vflg2, h]
  simp [Nat.log2_two_pow]

end

end

/-- The functions of R140 at some ordinary operands. -/
theorem r140_values : vfrcp .rne 0x40400000 = (0x3EAAAAAB, .nx) ∧ vfrsq .rne 0x40000000 = (0x3F3504F3, .nx) ∧
    vfex2 .rne 0x3F000000 = (0x3FB504F3, .nx) ∧ vflg2 .rne 0x40400000 = (0x3FCAE00D, .nx) ∧
    vftanh .rne 0x3F800000 = (0x3F42F7D6, .nx) := by decide +kernel

/-! ## Every member -/

/-- A vector operation on signs raises no flag (R139). -/
theorem runs_vfp_quiet {i : Instr} {s : State} {w : ℕ} {d : VReg} {k : KReg} {f g : ℕ → ℕ} (h : exec i s = .next (s.vfp w d k fun j => (f j, 0)))
    (e : ∀ j, f j = g j) (fits : ∀ j, g j < 2 ^ w) : Runs i s (fun t => PutElems s t w d k g 0) := by
  obtain rfl : f = g := funext e
  have := raises_vfp h fits
  simp only [unionFlags_zero] at this
  exact this.runs

theorem signTo_false (f : FFmt) (x : ℕ) : signTo f x false = x % 2 ^ (f.bits - 1) := by
  rw [FFmt.signTo_eq, FFmt.signBit_top]
  simp

/-- Inverting the sign bit is adding it (R139). -/
theorem signTo_inverted {f : FFmt} {x : ℕ} (hx : x < 2 ^ f.bits) : signTo f x (!signOf f x) = (x + 2 ^ (f.bits - 1)) % 2 ^ f.bits := by
  have sign := FFmt.div_signBit hx
  have whole : x = x / f.signBit * f.signBit + x % f.signBit := (Nat.div_add_mod' x f.signBit).symm
  have low : x % f.signBit < f.signBit := Nat.mod_lt x (Nat.two_pow_pos _)
  rw [FFmt.two_signBit] at hx
  rw [FFmt.signTo_not, FFmt.signBit_top, FFmt.two_signBit, ← sign]
  obtain plus | minus : x / f.signBit = 0 ∨ x / f.signBit = 1 := by rw [sign]; split <;> simp
  · rw [plus, Nat.zero_mul, Nat.zero_add] at whole
    rw [plus, ← whole, Nat.mod_eq_of_lt (by omega : x + f.signBit < 2 * f.signBit)]
    omega
  · rw [minus, Nat.one_mul] at whole
    rw [minus, show x + f.signBit = x % f.signBit + 2 * f.signBit by omega, Nat.add_mod_right,
      Nat.mod_eq_of_lt (by omega : x % f.signBit < 2 * f.signBit)]
    omega

/-- Settles O19: each element by its scalar operation, and R140 by the kind of its operand. -/
theorem vectorFloat : Obligations.VectorFloat := by
  unfold Obligations.VectorFloat
  constructor
  · intro s d a b c k p w x y z gives
    have hf := prec_fb_pos p
    have hx (i : ℕ) : x i < 2 ^ w := velem_lt w (s.v a) i
    have hy (i : ℕ) : y i < 2 ^ w := velem_lt w (s.v b) i
    exact ⟨raises_vfp rfl fun _ => FFmt.fits_add hf _ _ _, raises_vfp rfl fun _ => FFmt.fits_sub hf _ _ _,
      raises_vfp rfl fun _ => FFmt.fits_mul hf _ _ _, raises_vfp rfl fun _ => FFmt.fits_div hf _ _ _,
      raises_vfp rfl fun _ => FFmt.fits_sqrt hf _ _, raises_vfp rfl fun i => FFmt.fits_fmin hf (hx i) (hy i),
      raises_vfp rfl fun i => FFmt.fits_fmax hf (hx i) (hy i), raises_vfp rfl fun _ => FFmt.fits_fma hf _ _ _ _ _ _,
      raises_vfp rfl fun _ => FFmt.fits_fma hf _ _ _ _ _ _, raises_vfp rfl fun _ => FFmt.fits_fma hf _ _ _ _ _ _,
      raises_vfp rfl fun _ => FFmt.fits_fma hf _ _ _ _ _ _, raises_vfp rfl fun _ => fits_vfrcp, raises_vfp rfl fun _ => fits_vfrsq,
      raises_vfp rfl fun _ => fits_vfex2, raises_vfp rfl fun _ => fits_vflg2, raises_vfp rfl fun _ => fits_vftanh,
      runs_vfp_quiet rfl (fun i => signTo_false _ _) fun i => Nat.lt_of_le_of_lt (Nat.mod_le ..) (hx i),
      runs_vfp_quiet rfl (fun i => signTo_inverted (hx i)) fun _ => Nat.mod_lt _ (Nat.two_pow_pos w)⟩
  · intro md
    have zero : FFmt.f32.decode 0 = .fin false 0 (-149) := by decide
    have negZero : FFmt.f32.decode 0x80000000 = .fin true 0 (-149) := by decide
    have inf : FFmt.f32.decode 0x7F800000 = .inf false := by decide
    have negInf : FFmt.f32.decode 0xFF800000 = .inf true := by decide
    refine ⟨fun _ => rfl, fun x n fr sg hx h f mem => ?nan, fun n m e k x h he whole pos small => vfex2_integer h he whole pos small,
      fun j e x h => vflg2_power h, fun rne => rne ▸ r140_values, vfrcp_zero zero, vfrcp_zero negZero, vfrcp_inf inf, vfrcp_inf negInf,
      vfrsq_zero zero, vfrsq_zero negZero, vfrsq_inf inf, vfrsq_inf negInf, vfex2_zero zero, vfex2_zero negZero, vfex2_inf inf,
      vfex2_inf negInf, vflg2_zero zero, vflg2_zero negZero, vflg2_inf inf, vflg2_inf negInf, vftanh_zero zero, vftanh_zero negZero,
      vftanh_inf inf, vftanh_inf negInf, fun m e x hm h => ⟨vfrsq_negative hm h, vflg2_negative hm h⟩⟩
    case nan =>
      simp only [List.mem_cons, List.not_mem_nil, or_false] at mem
      obtain rfl | rfl | rfl | rfl | rfl := mem
      · exact vfrcp_nan hx h
      · exact vfrsq_nan hx h
      · exact vfex2_nan hx h
      · exact vflg2_nan hx h
      · exact vftanh_nan hx h

end Sys2Proof.Machine
end

section
/-! SUPPORT. Compute instructions, part 7: VCVT, the random draws and DMMA (R94, R147 to R149, R164). -/

namespace Sys2Proof.Machine

/-- A v register made of fewer bits than it has is the number of those. -/
theorem toNat_vOf_lt (w : ℕ) (xs : List ℕ) (h : ∀ x ∈ xs, x < 2 ^ w) : (vOf w xs).toNat < 2 ^ (xs.length * w) := by
  rw [vOf, BitVec.toNat_ofNat, Nat.mul_comm]
  exact Nat.lt_of_le_of_lt (Nat.mod_le ..) (packCodes_lt w xs h)

/-- Element i of a v register that is given element by element. -/
theorem velem_vOf_map (w n : ℕ) (f : ℕ → ℕ) (h : ∀ i, f i < 2 ^ w) (room : w * n ≤ 256) {i : ℕ} (hi : i < n) :
    velem w (vOf w ((List.range n).map f)) i = f i := by
  rw [velem_vOf w _ ?fits (by simpa using room) i (by simpa using hi)]
  case fits =>
    intro x hx
    obtain ⟨j, -, rfl⟩ := List.mem_map.mp hx
    exact h j
  simp

theorem convOk_of_wellFormed {d a : VReg} {dst src : Ty} {sat : Bool} {vr : BitVec 3} {k : KReg} {rm : Rm}
    (h : (Instr.vcvt d a dst sat vr k rm src).wellFormed = true) : convOk src dst sat = true := by
  simp only [Instr.wellFormed, Bool.and_eq_true] at h
  exact h.1

section
variable (s : State) (d a b : VReg)

/-- The two roundings of element n of DMMA (R164). -/
def dmmaFirst (n : ℕ) : ℕ × Flags :=
  FFmt.f64.fma s.rm false false (velem 64 (s.v a) (2 * (n / 2))) (velem 64 (s.v b) (n % 2)) (velem 64 (s.v d) n)

def dmmaSecond (n : ℕ) : ℕ × Flags :=
  FFmt.f64.fma s.rm false false (velem 64 (s.v a) (2 * (n / 2) + 1)) (velem 64 (s.v b) (2 + n % 2)) (dmmaFirst s d a b n).1

theorem exec_dmma :
    let one := dmmaFirst s d a b
    let two := dmmaSecond s d a b
    exec (.dmma d a b) s = .next ((s.setV d (vOf 64 ((List.range 4).map fun n => (two n).1))).finish
      ((one 0).2 ||| (two 0).2 ||| (one 1).2 ||| (two 1).2 ||| (one 2).2 ||| (two 2).2 ||| (one 3).2 ||| (two 3).2)) := by
  intro one two
  change Host.Outcome.next ((s.setV d (vOf 64 ((List.range 4).map fun n => (two n).1))).finish
    (0#7 ||| ((one 0).2 ||| (two 0).2) ||| ((one 1).2 ||| (two 1).2) ||| ((one 2).2 ||| (two 2).2) ||| ((one 3).2 ||| (two 3).2))) = _
  simp only [BitVec.zero_or, ← BitVec.or_assoc]

end

/-- Settles O23: conversions element by element, the generator on each element, and two roundings for each element of DMMA. -/
theorem convertRandomDmma : Obligations.ConvertRandomDmma := by
  unfold Obligations.ConvertRandomDmma
  intro s d a b dst src sat vr k rm c
  refine ⟨?convert, runs_vint rfl (fun _ => rfl) fun _ => BitVec.isLt _, runs_vint rfl (fun _ => rfl) fun _ => BitVec.isLt _, ?dmma⟩
  case convert =>
    intro wide n r fl wf
    have ok := convOk_of_wellFormed wf
    have fits (i : ℕ) : (if kbit wide (s.k k) i then (r i).1 else velem dst.bits (s.v d) i) < 2 ^ dst.bits := by
      split
      · exact convert_lt ok _ _
      · exact velem_lt _ _ _
    have room : dst.bits * n ≤ 256 := (Nat.mul_le_mul_right n (Nat.le_max_right ..)).trans (Nat.mul_div_le 256 wide)
    refine (raises_putV rfl).imp fun t put => ⟨_, put, fun i hi => velem_vOf_map dst.bits n _ fits room hi, ?_⟩
    have small := toNat_vOf_lt dst.bits ((List.range n).map fun i => if kbit wide (s.k k) i then (r i).1 else velem dst.bits (s.v d) i) ?_
    · rwa [List.length_map, List.length_range] at small
    · intro x hx
      obtain ⟨i, -, rfl⟩ := List.mem_map.mp hx
      exact fits i
  case dmma =>
    intro A B one two fl
    refine (raises_putV (exec_dmma s d a b)).imp fun t put => ⟨_, put, fun i hi j hj => ?_⟩
    rw [velem_vOf_map 64 4 _ (fun _ => FFmt.fits_fma (by decide) _ _ _ _ _ _) (by decide) (by omega), dmmaSecond, dmmaFirst,
      show (2 * i + j) / 2 = i by omega, show (2 * i + j) % 2 = j by omega]

end Sys2Proof.Machine
end

section
/-! SUPPORT. Compute instructions, part 8: the tree of the reductions (R145). -/

namespace Sys2Proof.Machine

/-! ## The tree -/

section
variable (op : ℕ → ℕ → ℕ × Flags)

/-- What nodes keep, a level keeps. -/
theorem redLevel_all {P : Option (ℕ × Flags) → Prop} (node : ∀ p q, P p → P q → P (redNode op p q)) :
    ∀ xs : List (Option (ℕ × Flags)), (∀ p ∈ xs, P p) → ∀ p ∈ redLevel op xs, P p
  | [], _, p, h => by cases h
  | [q], all, p, h => all p h
  | q :: r :: rest, all, p, h => by
    obtain rfl | h := List.mem_cons.mp h
    · exact node q r (all q (by simp)) (all r (by simp))
    · exact redLevel_all node rest (fun t ht => all t (by simp [ht])) p h

/-- Element i as a leaf: none where it is inactive (R145). -/
def leafOf (w : ℕ) (k : BitVec 8) (x : VWord) (i : ℕ) : Option (ℕ × Flags) := if kbit w k i then some (velem w x i, 0) else none

/-- What holds of the leaves and is kept by nodes holds of the tree's value, which stands for +0 where there is none. -/
theorem redTree_ind {P : Option (ℕ × Flags) → Prop} (none : P none) (node : ∀ p q, P p → P q → P (redNode op p q)) {w : ℕ} {k : BitVec 8}
    {x : VWord} (leaf : ∀ i < 256 / w, P (leafOf w k x i)) : ∃ o, P o ∧ redTree w k x op = o.getD (0, 0) := by
  have leaves : ∀ p ∈ (List.range (256 / w)).map (leafOf w k x), P p := by
    intro p hp
    obtain ⟨i, hi, rfl⟩ := List.mem_map.mp hp
    exact leaf i (List.mem_range.mp hi)
  have all := redLevel_all op node _ (redLevel_all op node _ (redLevel_all op node _ leaves))
  unfold redTree
  dsimp only
  split
  next r _ h => exact ⟨some r, all _ (h ▸ List.mem_cons_self), rfl⟩
  next => exact ⟨.none, none, rfl⟩

/-- The tree over eight elements, and that over four (R145). -/
theorem redTree_f32 (k : BitVec 8) (x : VWord) : let leaf := leafOf 32 k x; let n := redNode op
    redTree 32 k x op = (n (n (n (leaf 0) (leaf 1)) (n (leaf 2) (leaf 3))) (n (n (leaf 4) (leaf 5)) (n (leaf 6) (leaf 7)))).getD (0, 0) := by
  intro leaf n
  change (match [n (n (n (leaf 0) (leaf 1)) (n (leaf 2) (leaf 3))) (n (n (leaf 4) (leaf 5)) (n (leaf 6) (leaf 7)))] with
    | some r :: _ => r
    | _ => (0, 0)) = _
  generalize n (n (n (leaf 0) (leaf 1)) (n (leaf 2) (leaf 3))) (n (n (leaf 4) (leaf 5)) (n (leaf 6) (leaf 7))) = o
  cases o <;> rfl

theorem redTree_f64 (k : BitVec 8) (x : VWord) : let leaf := leafOf 64 k x; let n := redNode op
    redTree 64 k x op = (n (n (leaf 0) (leaf 1)) (n (leaf 2) (leaf 3))).getD (0, 0) := by
  intro leaf n
  change (match [n (n (leaf 0) (leaf 1)) (n (leaf 2) (leaf 3))] with
    | some r :: _ => r
    | _ => (0, 0)) = _
  generalize n (n (leaf 0) (leaf 1)) (n (leaf 2) (leaf 3)) = o
  cases o <;> rfl

/-- With no active element the tree is empty (R145). -/
theorem redTree_inactive {w : ℕ} {k : BitVec 8} {x : VWord} (h : ∀ i < 256 / w, kbit w k i = false) : redTree w k x op = (0, 0) := by
  obtain ⟨o, rfl, tree⟩ := redTree_ind op (P := (· = none)) rfl (fun p q hp hq => by rw [hp, hq]; rfl)
    (fun i hi => by rw [leafOf, h i hi]; rfl : ∀ i < 256 / w, leafOf w k x i = none)
  exact tree

/-- Operations that keep to w bits keep the tree's value to w bits. -/
theorem redTree_lt {w : ℕ} {k : BitVec 8} {x : VWord} (fits : ∀ u < 2 ^ w, ∀ v < 2 ^ w, (op u v).1 < 2 ^ w) :
    (redTree w k x op).1 < 2 ^ w := by
  have node (p q : Option (ℕ × Flags)) (hp : ∀ r ∈ p, r.1 < 2 ^ w) (hq : ∀ r ∈ q, r.1 < 2 ^ w) : ∀ r ∈ redNode op p q, r.1 < 2 ^ w := by
    intro r hr
    unfold redNode at hr
    split at hr
    next => exact hq r hr
    next => exact hp r hr
    next u fu v fv =>
      cases hr
      exact fits u (hp _ rfl) v (hq _ rfl)
  have leaf (i : ℕ) : ∀ r ∈ leafOf w k x i, r.1 < 2 ^ w := by
    intro r hr
    unfold leafOf at hr
    split at hr
    · cases hr
      exact velem_lt w x i
    · cases hr
  obtain ⟨o, small, tree⟩ := redTree_ind op (P := fun o => ∀ r ∈ o, r.1 < 2 ^ w) (by simp) node fun i _ => leaf i
  rw [tree]
  cases o with
  | none => exact Nat.two_pow_pos w
  | some r => exact small r rfl

end

/-! ## The lowest elements written -/

section
variable {w : ℕ} {xs : List ℕ} (fits : ∀ x ∈ xs, x < 2 ^ w) (room : w * xs.length ≤ 256)
include fits room

/-- The elements behind those that are given are zero. -/
theorem velem_vOf_beyond {i : ℕ} (h : xs.length ≤ i) : velem w (vOf w xs) i = 0 := by
  have small : packCodes w xs < 2 ^ (w * xs.length) := packCodes_lt w xs fits
  have whole : packCodes w xs < 2 ^ 256 := lt_of_lt_of_le small (Nat.pow_le_pow_right (by decide) room)
  have below : packCodes w xs < 2 ^ (w * i) := lt_of_lt_of_le small (Nat.pow_le_pow_right (by decide) (Nat.mul_le_mul_left w h))
  rw [velem, natBits, vOf, BitVec.toNat_ofNat, Nat.mod_eq_of_lt whole, Nat.div_eq_of_lt below, Nat.zero_mod]

end

/-- A reduction writes its value to element 0 and clears the rest (R145). -/
theorem raises_reduction {i : Instr} {s : State} {d a : VReg} {k : KReg} (p : Prec) (op : ℕ → ℕ → ℕ × Flags)
    (fits : ∀ u < 2 ^ p.fmt.bits, ∀ v < 2 ^ p.fmt.bits, p.fmt.Fits (op u v))
    (h : exec i s = .next ((s.setV d (vOf p.fmt.bits [(redTree p.fmt.bits (s.k k) (s.v a) op).1])).finish
      (redTree p.fmt.bits (s.k k) (s.v a) op).2)) :
    Raises i s (redTree p.fmt.bits (s.k k) (s.v a) op).2 (fun t => ∃ v, PutV s.core s t d v (redTree p.fmt.bits (s.k k) (s.v a) op).2 ∧
      velem p.fmt.bits v 0 = (redTree p.fmt.bits (s.k k) (s.v a) op).1 ∧ ∀ j < 256 / p.fmt.bits, 0 < j → velem p.fmt.bits v j = 0) := by
  have value := redTree_lt op (k := s.k k) (x := s.v a) fits
  generalize redTree p.fmt.bits (s.k k) (s.v a) op = r at *
  have one : ∀ x ∈ [r.1], x < 2 ^ p.fmt.bits := by simpa using value
  have room : p.fmt.bits * [r.1].length ≤ 256 := (Nat.mul_one _).trans_le (by cases p <;> decide)
  exact (raises_putV h).imp fun t put => ⟨_, put, velem_vOf _ _ one room 0 (by simp), fun j _ pos => velem_vOf_beyond one room pos⟩

end Sys2Proof.Machine
end

section
/-! SUPPORT. Compute instructions, part 9: the order of exact values, and the selections of R122 and R146. -/

namespace Sys2Proof.Machine

/-! ## The order of exact values -/

/-- The sign of a number. -/
def signInt (n : Bool) : ℤ := if n then -1 else 1

/-- A signed dyadic number in a unit that is no larger than its last place. -/
def unitsOf (n : Bool) (m : ℕ) (e e0 : ℤ) : ℤ := signInt n * (m * 2 ^ (e - e0).toNat)

theorem unitsOf_value (n : Bool) (m : ℕ) {e e0 : ℤ} (h : e0 ≤ e) : (unitsOf n m e e0 : ℚ) * 2 ^ e0 = signInt n * m * 2 ^ e := by
  have place : (2 : ℚ) ^ e = 2 ^ (e - e0).toNat * 2 ^ e0 := by
    rw [← zpow_natCast, Int.toNat_of_nonneg (by omega), ← zpow_add₀ (by norm_num), Int.sub_add_cancel]
  rw [unitsOf, place]
  push_cast
  ring

/-- The value of a number that is neither an infinity nor a NaN. -/
def finValue (n : Bool) (m : ℕ) (e : ℤ) : ℚ := signInt n * m * 2 ^ e

section
variable (na nb : Bool) (ma mb : ℕ) (ea eb : ℤ)

theorem units_lt_iff : unitsOf na ma ea (min ea eb) < unitsOf nb mb eb (min ea eb) ↔ finValue na ma ea < finValue nb mb eb := by
  rw [finValue, finValue, ← unitsOf_value na ma (min_le_left ea eb), ← unitsOf_value nb mb (min_le_right ea eb),
    mul_lt_mul_iff_left₀ (by positivity), Int.cast_lt]

theorem units_eq_iff : unitsOf na ma ea (min ea eb) = unitsOf nb mb eb (min ea eb) ↔ finValue na ma ea = finValue nb mb eb := by
  rw [finValue, finValue, ← unitsOf_value na ma (min_le_left ea eb), ← unitsOf_value nb mb (min_le_right ea eb),
    mul_left_inj' (by positivity), Int.cast_inj]

/-- The comparison of two numbers is that of their units. -/
theorem cmpVals_fin : (FFmt.cmpVals (.fin na ma ea) (.fin nb mb eb) < 0 ↔ unitsOf na ma ea (min ea eb) < unitsOf nb mb eb (min ea eb)) ∧
    (FFmt.cmpVals (.fin na ma ea) (.fin nb mb eb) = 0 ↔ unitsOf na ma ea (min ea eb) = unitsOf nb mb eb (min ea eb)) := by
  have scaled (m : ℕ) (e : ℤ) : m ≠ 0 → 0 < m * 2 ^ e.toNat := fun h => Nat.mul_pos (Nat.pos_of_ne_zero h) (Nat.two_pow_pos _)
  have hA := scaled ma (ea - min ea eb)
  have hB := scaled mb (eb - min ea eb)
  have cast (m n : ℕ) : (m : ℤ) * 2 ^ n = (m * 2 ^ n : ℕ) := by push_cast; rfl
  unfold FFmt.cmpVals unitsOf signInt
  simp only [cast]
  by_cases za : ma = 0 <;> by_cases zb : mb = 0
  all_goals
    simp only [za, zb, Nat.zero_mul] at hA hB ⊢
    generalize ma * 2 ^ (ea - min ea eb).toNat = A at *
    generalize mb * 2 ^ (eb - min ea eb).toNat = B at *
    cases na <;> cases nb <;> simp at hA hB ⊢ <;> omega

end

theorem finValue_zero (n : Bool) (e : ℤ) : finValue n 0 e = 0 := by simp [finValue]

theorem finValue_eq_zero {n : Bool} {m : ℕ} {e : ℤ} : finValue n m e = 0 ↔ m = 0 := by
  have pow : (2 : ℚ) ^ e ≠ 0 := by positivity
  cases n <;> simp [finValue, signInt, pow]

/-- Only zeros of opposite signs have one value. -/
theorem finValue_opposite {ma mb : ℕ} {ea eb : ℤ} (h : finValue true ma ea = finValue false mb eb) : ma = 0 ∧ mb = 0 := by
  have nonpos : finValue true ma ea ≤ 0 := by simp [finValue, signInt]; positivity
  have nonneg : 0 ≤ finValue false mb eb := by simp [finValue, signInt]; positivity
  exact ⟨finValue_eq_zero.mp (le_antisymm nonpos (h ▸ nonneg)), finValue_eq_zero.mp (le_antisymm (h ▸ nonpos) nonneg)⟩

/-- An infinity lies beyond every number. -/
theorem cmpVals_inf (ni n : Bool) (m : ℕ) (e : ℤ) :
    (FFmt.cmpVals (.inf ni) (.fin n m e) < 0 ↔ ni = true) ∧ FFmt.cmpVals (.inf ni) (.fin n m e) ≠ 0 ∧
    (FFmt.cmpVals (.fin n m e) (.inf ni) < 0 ↔ ni = false) ∧ FFmt.cmpVals (.fin n m e) (.inf ni) ≠ 0 := by
  unfold FFmt.cmpVals
  by_cases zero : m = 0 <;> cases ni <;> cases n <;> simp [zero]

/-- Infinities, numbers by their values, and -0 below +0 (R122, R134). -/
def FVal.key : FVal → ℤ ×ₗ (ℚ ×ₗ ℕ)
  | .nan _ _ _ => toLex (0, toLex (0, 0))
  | .inf n => toLex (signInt n, toLex (0, 0))
  | .fin n m e => toLex (0, toLex (finValue n m e, if m = 0 ∧ n = true then 0 else 1))

theorem key_lt_fin {na nb : Bool} {ma mb : ℕ} {ea eb : ℤ} : (FVal.fin na ma ea).key < (FVal.fin nb mb eb).key ↔
    finValue na ma ea < finValue nb mb eb ∨ ma = 0 ∧ mb = 0 ∧ na = true ∧ nb = false := by
  simp only [FVal.key, Prod.Lex.toLex_lt_toLex, lt_self_iff_false, true_and, false_or]
  refine or_congr_right ⟨fun ⟨eq, lt⟩ => ?_, fun ⟨za, zb, ta, tb⟩ => ?_⟩
  · have low : ma = 0 ∧ na = true := by
      by_contra h
      rw [if_neg h] at lt
      split at lt <;> omega
    have high : ¬ (mb = 0 ∧ nb = true) := by
      intro h
      rw [if_pos h] at lt
      omega
    obtain ⟨rfl, rfl⟩ := low
    rw [finValue_zero, eq_comm, finValue_eq_zero] at eq
    exact ⟨rfl, eq, rfl, by simpa [eq] using high⟩
  · subst za zb ta tb
    simp [finValue_zero]

/-- The order of R134 and R122 is that of the keys. -/
theorem ltZeros_iff_key {a b : FVal} (ha : a.isNan = false) (hb : b.isNan = false) : FFmt.ltZeros a b = true ↔ a.key < b.key := by
  cases a with
  | nan n fr s => cases ha
  | inf na =>
    cases b with
    | nan n fr s => cases hb
    | inf nb => cases na <;> cases nb <;> simp [FFmt.ltZeros, FFmt.cmpVals, FFmt.negOf, FVal.key, signInt, Prod.Lex.toLex_lt_toLex]
    | fin nb mb eb =>
      obtain ⟨lt, ne, -⟩ := cmpVals_inf na nb mb eb
      cases na <;> simp [FFmt.ltZeros, FVal.key, signInt, Prod.Lex.toLex_lt_toLex, lt, ne]
  | fin na ma ea =>
    cases b with
    | nan n fr s => cases hb
    | inf nb =>
      obtain ⟨-, -, lt, ne⟩ := cmpVals_inf nb na ma ea
      cases nb <;> simp [FFmt.ltZeros, FVal.key, signInt, Prod.Lex.toLex_lt_toLex, lt, ne]
    | fin nb mb eb =>
      obtain ⟨lt, eq⟩ := cmpVals_fin na nb ma mb ea eb
      rw [units_lt_iff] at lt
      rw [units_eq_iff] at eq
      rw [key_lt_fin]
      simp only [FFmt.ltZeros, FFmt.negOf, Bool.or_eq_true, Bool.and_eq_true, decide_eq_true_eq, Bool.not_eq_true', lt, eq]
      refine or_congr_right ⟨fun ⟨⟨same, ta⟩, tb⟩ => ?_, fun ⟨za, zb, ta, tb⟩ => ⟨⟨?_, ta⟩, tb⟩⟩
      · subst ta tb
        obtain ⟨za, zb⟩ := finValue_opposite same
        exact ⟨za, zb, rfl, rfl⟩
      · rw [za, zb, finValue_zero, finValue_zero]

end Sys2Proof.Machine
end

section
/-! SUPPORT. Compute instructions, part 10: the selections of R122 and R146, and every reduction. -/

namespace Sys2Proof.Machine

/-! ## The best of a list, the first one of several -/

section
variable {α : Type} [LinearOrder α] (rank : ℕ → α)

/-- The index kept after the next one has been looked at. -/
def keepBest (j i : ℕ) : ℕ := if rank i < rank j then i else j

/-- What is kept is of the least rank, and of a lesser rank than all before it. -/
theorem foldl_keepBest (is : List ℕ) : ∀ j, (∀ i ∈ is, j < i) → is.Pairwise (· < ·) →
    let b := is.foldl (keepBest rank) j
    b ∈ j :: is ∧ (∀ i ∈ j :: is, rank b ≤ rank i) ∧ ∀ i ∈ j :: is, i < b → rank b < rank i := by
  induction is with
  | nil => intro j _ _; simp
  | cons a is ih =>
    intro j first sorted b
    obtain ⟨behind, sorted⟩ := List.pairwise_cons.mp sorted
    have ja := first a (by simp)
    by_cases better : rank a < rank j
    · have step : b = is.foldl (keepBest rank) a := by simp [b, keepBest, better]
      obtain ⟨mem, least, earlier⟩ := ih a behind sorted
      rw [← step] at mem least earlier
      have lt : rank b < rank j := (least a (by simp)).trans_lt better
      refine ⟨List.mem_cons_of_mem j mem, fun i hi => ?_, fun i hi ib => ?_⟩
      · obtain rfl | hi := List.mem_cons.mp hi
        exacts [lt.le, least i hi]
      · obtain rfl | hi := List.mem_cons.mp hi
        exacts [lt, earlier i hi ib]
    · have step : b = is.foldl (keepBest rank) j := by simp [b, keepBest, better]
      obtain ⟨mem, least, earlier⟩ := ih j (fun i hi => first i (by simp [hi])) sorted
      rw [← step] at mem least earlier
      have le : rank b ≤ rank a := (least j (by simp)).trans (not_lt.mp better)
      refine ⟨?_, fun i hi => ?_, fun i hi ib => ?_⟩
      · obtain h | h := List.mem_cons.mp mem
        · simp [h]
        · simp [h]
      · obtain rfl | rfl | hi : i = j ∨ i = a ∨ i ∈ is := by simpa using hi
        exacts [least i (by simp), le, least i (by simp [hi])]
      · obtain rfl | rfl | hi : i = j ∨ i = a ∨ i ∈ is := by simpa using hi
        · exact earlier i (by simp) ib
        · exact (earlier j (by simp) (by omega)).trans_le (not_lt.mp better)
        · exact earlier i (by simp [hi]) ib

end

/-! ## The element that is picked -/

section
variable (f : FFmt) (better : FVal → FVal → Bool) (x : ℕ → ℕ)

/-- The candidates of a selection. -/
def candidates (is : List ℕ) : List (ℕ × ℕ) := is.map fun i => (x i, i)

/-- One candidate looked at. -/
def pickStep (a : Option (ℕ × ℕ)) (c : ℕ × ℕ) : Option (ℕ × ℕ) := match a with
  | none => some c
  | some d => if better (f.decode c.1) (f.decode d.1) then some c else some d

/-- A selection looks for the lowest NaN, and else keeps the best (R122). -/
theorem pickVal_eq (cs : List (ℕ × ℕ)) : pickVal f better cs = match cs.find? fun c => (f.decode c.1).isNan with
    | some c => some ((f.nanOf [f.decode c.1]).elim 0 (·.1), c.2)
    | none => cs.foldl (pickStep f better) none := by
  have nan : (fun c : ℕ × ℕ => (f.decode c.1).isNan) = fun (x, _) => match f.decode x with | .nan _ _ _ => true | _ => false := by
    funext ⟨x, i⟩
    dsimp only
    cases f.decode x <;> rfl
  have step : pickStep f better = fun a (x, i) => match a with
      | none => some (x, i)
      | some (y, j) => if better (f.decode x) (f.decode y) then some (x, i) else some (y, j) := by
    funext a ⟨x, i⟩
    cases a <;> rfl
  rw [nan, step, pickVal]
  generalize List.foldl _ _ _ = kept
  generalize List.find? _ _ = first
  cases first <;> rfl

theorem find_candidates (is : List ℕ) : (candidates x is).find? (fun c => (f.decode c.1).isNan) =
    (is.find? fun i => (f.decode (x i)).isNan).map fun i => (x i, i) := List.find?_map

/-- The lowest NaN is selected, made quiet (R122). -/
theorem pickVal_nan {is : List ℕ} {j fr : ℕ} {n s : Bool} (first : is.find? (fun i => (f.decode (x i)).isNan) = some j)
    (nan : f.decode (x j) = .nan n fr s) : pickVal f better (candidates x is) = some (f.quiet n fr, j) := by
  rw [pickVal_eq, find_candidates, first]
  simp only [Option.map_some, nan, FFmt.nanOf_nan]
  rfl

section
variable {α : Type} [LinearOrder α] (rank : ℕ → α)

theorem foldl_pickStep (is : List ℕ) : ∀ j,
    (∀ i ∈ j :: is, ∀ i' ∈ j :: is, better (f.decode (x i)) (f.decode (x i')) = decide (rank i < rank i')) →
    (candidates x is).foldl (pickStep f better) (some (x j, j)) = some (x (is.foldl (keepBest rank) j), is.foldl (keepBest rank) j) := by
  induction is with
  | nil => intro j _; rfl
  | cons a is ih =>
    intro j order
    have test := order a (by simp) j (by simp)
    have step : pickStep f better (some (x j, j)) (x a, a) = some (x (keepBest rank j a), keepBest rank j a) := by
      rw [pickStep, keepBest, test]
      by_cases h : rank a < rank j <;> simp [h]
    have among (i : ℕ) (hi : i ∈ keepBest rank j a :: is) : i ∈ j :: a :: is := by
      unfold keepBest at hi
      split at hi <;> simp only [List.mem_cons] at hi ⊢ <;> tauto
    rw [candidates, List.map_cons, List.foldl_cons, List.foldl_cons, step]
    exact ih _ fun i hi i' hi' => order i (among i hi) i' (among i' hi')

/-- Without a NaN the best candidate is selected, the first of several (R122). -/
theorem pickVal_number {j : ℕ} {is : List ℕ} (number : (j :: is).find? (fun i => (f.decode (x i)).isNan) = none)
    (order : ∀ i ∈ j :: is, ∀ i' ∈ j :: is, better (f.decode (x i)) (f.decode (x i')) = decide (rank i < rank i')) :
    pickVal f better (candidates x (j :: is)) = some (x (is.foldl (keepBest rank) j), is.foldl (keepBest rank) j) := by
  rw [pickVal_eq, find_candidates, number, ← foldl_pickStep f better x rank is j order]
  rfl

end

theorem find_sorted {P : ℕ → Bool} {is : List ℕ} {j : ℕ} (sorted : is.Pairwise (· < ·)) (h : is.find? P = some j) :
    j ∈ is ∧ P j = true ∧ ∀ i ∈ is, i < j → P i = false := by
  obtain ⟨holds, before, behind, rfl, none⟩ := List.find?_eq_some_iff_append.mp h
  obtain ⟨-, sorted, -⟩ := List.pairwise_append.mp sorted
  refine ⟨by simp, holds, fun i hi lt => ?_⟩
  obtain hi | rfl | hi : i ∈ before ∨ i = j ∨ i ∈ behind := by simpa using hi
  · simpa using none i hi
  · exact absurd lt (lt_irrefl i)
  · exact absurd (List.rel_of_pairwise_cons sorted hi) (by omega)

/-- What a selection among candidates answers (R122). -/
theorem pickVal_spec {α : Type} [LinearOrder α] (rank : ℕ → α) {is : List ℕ} (sorted : is.Pairwise (· < ·)) (some' : is ≠ [])
    (order : (∀ i ∈ is, (f.decode (x i)).isNan = false) →
      ∀ i ∈ is, ∀ i' ∈ is, better (f.decode (x i)) (f.decode (x i')) = decide (rank i < rank i')) :
    ∃ j ∈ is, ∃ v, pickVal f better (candidates x is) = some (v, j) ∧
      ((f.decode (x j)).isNan = true → (∃ n fr s, f.decode (x j) = .nan n fr s ∧ v = f.quiet n fr) ∧
        ∀ i ∈ is, i < j → (f.decode (x i)).isNan = false) ∧
      ((∃ i ∈ is, (f.decode (x i)).isNan = true) → (f.decode (x j)).isNan = true) ∧
      ((f.decode (x j)).isNan = false → v = x j) ∧
      ((∀ i ∈ is, (f.decode (x i)).isNan = false) → (∀ i ∈ is, rank j ≤ rank i) ∧ ∀ i ∈ is, i < j → rank j < rank i) := by
  cases first : is.find? fun i => (f.decode (x i)).isNan with
  | some j =>
    obtain ⟨mem, nan, earlier⟩ := find_sorted sorted first
    obtain ⟨n, fr, s, value⟩ := FVal.isNan_iff.mp nan
    exact ⟨j, mem, _, pickVal_nan f better x first value, fun _ => ⟨⟨n, fr, s, value, rfl⟩, earlier⟩, fun _ => nan,
      fun number => by simp [number] at nan, fun number => by simp [number j mem] at nan⟩
  | none =>
    have number (i : ℕ) (hi : i ∈ is) : (f.decode (x i)).isNan = false := by simpa using List.find?_eq_none.mp first i hi
    obtain ⟨j, rest, rfl⟩ := List.exists_cons_of_ne_nil some'
    obtain ⟨behind, sorted'⟩ := List.pairwise_cons.mp sorted
    obtain ⟨mem, least, earlier⟩ := foldl_keepBest rank rest j behind sorted'
    refine ⟨_, mem, _, pickVal_number f better x rank first (order number), fun nan => ?_, fun ⟨i, hi, nan⟩ => ?_, fun _ => rfl,
      fun _ => ⟨least, earlier⟩⟩
    · simp [number _ mem] at nan
    · simp [number i hi] at nan

end

/-! ## Every member -/

theorem mem_actives {w : ℕ} {k : BitVec 8} {i : ℕ} : i ∈ actives w k ↔ i < 256 / w ∧ kbit w k i = true := by
  simp [actives]

theorem actives_sorted (w : ℕ) (k : BitVec 8) : (actives w k).Pairwise (· < ·) := List.pairwise_lt_range.filter _

/-- A signalling NaN among the candidates raises NV (R122). -/
theorem pickFlags_eq (f : FFmt) (x : ℕ → ℕ) (is : List ℕ) :
    pickFlags f (candidates x is) = if is.any (fun i => (f.decode (x i)).signals) then .nv else 0 := by
  rw [pickFlags, candidates, List.any_map, Flags.when]
  congr 3

/-- A selection writes its value and its index, and clears the rest (R122, R146). -/
theorem raises_vpick {i : Instr} {s : State} {d a : VReg} {k : KReg} (p : Prec) {better : FVal → FVal → Bool} {r : ℕ × ℕ}
    (h : exec i s = .next (s.vpick d a k p.fmt better))
    (picked : (pickVal p.fmt better (candidates (velem p.fmt.bits (s.v a)) (actives p.fmt.bits (s.k k)))).getD
      (p.fmt.nan, 2 ^ p.fmt.bits - 1) = r)
    (fits : r.1 < 2 ^ p.fmt.bits ∧ r.2 < 2 ^ p.fmt.bits) :
    let fl := pickFlags p.fmt (candidates (velem p.fmt.bits (s.v a)) (actives p.fmt.bits (s.k k)))
    Raises i s fl (fun t => ∃ v, PutV s.core s t d v fl ∧ (∀ j < 256 / p.fmt.bits, 1 < j → velem p.fmt.bits v j = 0) ∧
      velem p.fmt.bits v 0 = r.1 ∧ velem p.fmt.bits v 1 = r.2) := by
  intro fl
  have run : exec i s = .next ((s.setV d (vOf p.fmt.bits [r.1, r.2])).finish fl) := by
    rw [h, ← picked]
    rfl
  have two : ∀ y ∈ [r.1, r.2], y < 2 ^ p.fmt.bits := by simpa using fits
  have room : p.fmt.bits * 2 ≤ 256 := by cases p <;> decide
  exact (raises_putV run).imp fun t put => ⟨_, put, fun j _ hj => velem_vOf_beyond two room hj,
    velem_vOf _ _ two room 0 (by simp), velem_vOf _ _ two room 1 (by simp)⟩

/-- A NaN of either precision made quiet has the highest bit of its fraction set (R89). -/
theorem quiet_prec (p : Prec) {x fr : ℕ} {n sg : Bool} (hx : x < 2 ^ p.fmt.bits) (h : p.fmt.decode x = .nan n fr sg) :
    p.fmt.quiet n fr = x ||| 2 ^ (p.fmt.fb - 1) := by
  rw [FFmt.quiet_decode (prec_inf p) (prec_fb_pos p) hx h, or_two_pow]
  rfl

/-- What a selection does, by the ranks of the candidates (R122, R146). -/
theorem raises_selection {α : Type} [LinearOrder α] (rank : FVal → α) {i : Instr} {s : State} {d a : VReg} {k : KReg} (p : Prec)
    {better : FVal → FVal → Bool} (order : ∀ u v : FVal, u.isNan = false → v.isNan = false → better u v = decide (rank u < rank v))
    (h : exec i s = .next (s.vpick d a k p.fmt better)) {fl : Flags}
    (flags : pickFlags p.fmt (candidates (velem p.fmt.bits (s.v a)) (actives p.fmt.bits (s.k k))) = fl) :
    let w := p.fmt.bits
    let x := velem w (s.v a)
    let V (i : ℕ) := p.fmt.decode (x i)
    Raises i s fl (fun t => ∃ v, PutV s.core s t d v fl ∧ (∀ j < 256 / w, 1 < j → velem w v j = 0) ∧
      (actives w (s.k k) = [] → velem w v 0 = p.fmt.nan ∧ velem w v 1 = 2 ^ w - 1) ∧
      (actives w (s.k k) ≠ [] → ∃ j ∈ actives w (s.k k), velem w v 1 = j ∧
        ((V j).isNan = true → velem w v 0 = x j ||| 2 ^ (p.fmt.fb - 1) ∧ ∀ i ∈ actives w (s.k k), i < j → (V i).isNan = false) ∧
        ((∃ i ∈ actives w (s.k k), (V i).isNan = true) → (V j).isNan = true) ∧
        ((V j).isNan = false → velem w v 0 = x j) ∧
        ((∀ i ∈ actives w (s.k k), (V i).isNan = false) → (∀ i ∈ actives w (s.k k), rank (V j) ≤ rank (V i)) ∧
          ∀ i ∈ actives w (s.k k), i < j → rank (V j) < rank (V i)))) := by
  intro w x V
  subst flags
  by_cases none : actives w (s.k k) = []
  · have picked : (pickVal p.fmt better (candidates x (actives w (s.k k)))).getD (p.fmt.nan, 2 ^ w - 1) = (p.fmt.nan, 2 ^ w - 1) := by
      rw [none]
      rfl
    have fits : p.fmt.nan < 2 ^ w ∧ 2 ^ w - 1 < 2 ^ w :=
      ⟨FFmt.fits_invalid (prec_fb_pos p), Nat.sub_one_lt (Nat.two_pow_pos w).ne'⟩
    exact (raises_vpick p h picked fits).imp fun t ⟨v, put, clear, zero, one⟩ =>
      ⟨v, put, clear, fun _ => ⟨zero, one⟩, fun some' => absurd none some'⟩
  · obtain ⟨j, mem, y, picked, nan, anyNan, number, best⟩ := pickVal_spec p.fmt better x (fun i => rank (V i)) (actives_sorted w (s.k k)) none
      fun numbers i hi i' hi' => order _ _ (numbers i hi) (numbers i' hi')
    have quieted (h : (V j).isNan = true) : y = x j ||| 2 ^ (p.fmt.fb - 1) := by
      obtain ⟨⟨n, fr, sg, value, rfl⟩, -⟩ := nan h
      exact quiet_prec p (velem_lt w (s.v a) j) value
    have fits : y < 2 ^ w ∧ j < 2 ^ w := by
      have size : p.fmt.fb - 1 < w ∧ 256 / w ≤ 2 ^ w := by cases p <;> decide
      refine ⟨?_, (mem_actives.mp mem).1.trans_le size.2⟩
      cases h : (V j).isNan with
      | true => exact quieted h ▸ Nat.or_lt_two_pow (velem_lt w _ j) (Nat.pow_lt_pow_right (by decide) size.1)
      | false => exact number h ▸ velem_lt w _ j
    refine (raises_vpick p h (r := (y, j)) (by rw [picked]; rfl) fits).imp fun t ⟨v, put, clear, zero, one⟩ =>
      ⟨v, put, clear, fun empty => absurd empty none, fun _ => ⟨j, mem, one, fun h => ⟨zero.trans (quieted h), (nan h).2⟩, anyNan,
        fun h => zero.trans (number h), best⟩⟩

theorem ltZeros_eq {u v : FVal} (hu : u.isNan = false) (hv : v.isNan = false) : FFmt.ltZeros u v = decide (u.key < v.key) := by
  rw [Bool.eq_iff_iff, decide_eq_true_iff]
  exact ltZeros_iff_key hu hv

theorem key_lt_inf (na nb : Bool) : (FVal.inf na).key < (FVal.inf nb).key ↔ na = true ∧ nb = false := by
  cases na <;> cases nb <;> simp [FVal.key, signInt, Prod.Lex.toLex_lt_toLex]

theorem key_lt_inf_fin (na n : Bool) (m : ℕ) (e : ℤ) : ((FVal.inf na).key < (FVal.fin n m e).key ↔ na = true) ∧
    ((FVal.fin n m e).key < (FVal.inf na).key ↔ na = false) := by
  cases na <;> simp [FVal.key, signInt, Prod.Lex.toLex_lt_toLex]

/-- Settles O22: the tree's value with its bounds, the selection by the rank of the candidates, and the tree written out. -/
theorem reductions : Obligations.Reductions := by
  unfold Obligations.Reductions
  constructor
  · intro s d a k p w x red val cand isNan loud fl num less picks pick
    have hf := prec_fb_pos p
    have empty (h : ∀ j < 256 / w, kbit w (s.k k) j = false) (op : ℕ → ℕ → ℕ × Flags) := redTree_inactive op (x := s.v a) h
    have flags : pickFlags p.fmt (candidates x (actives w (s.k k))) = fl := by
      have signals : loud = fun i => (val i).signals := by
        funext i
        dsimp only [loud]
        cases val i <;> rfl
      rw [pickFlags_eq]
      dsimp only [fl]
      rw [signals]
      rfl
    have below (u v : FVal) (hu : u.isNan = false) (hv : v.isNan = false) : less u v ↔ u.key < v.key := by
      cases u with
      | nan n fr sg => cases hu
      | inf na =>
        cases v with
        | nan n fr sg => cases hv
        | inf nb => exact (key_lt_inf na nb).symm
        | fin nb mb eb => exact (key_lt_inf_fin na nb mb eb).1.symm
      | fin na ma ea =>
        cases v with
        | nan n fr sg => cases hv
        | inf nb => exact (key_lt_inf_fin nb na ma ea).2.symm
        | fin nb mb eb =>
          rw [key_lt_fin, ← units_lt_iff]
          exact Iff.rfl
    have selects {α : Type} [LinearOrder α] (rank : FVal → α) (i : Instr) (better : FVal → FVal → Bool) (before : FVal → FVal → Prop)
        (h : exec i s = .next (s.vpick d a k p.fmt better))
        (order : ∀ u v : FVal, u.isNan = false → v.isNan = false → better u v = decide (rank u < rank v))
        (same : ∀ u v : FVal, u.isNan = false → v.isNan = false → (before u v ↔ rank u < rank v)) : pick i before := by
      have cands (j : ℕ) : cand j ↔ j ∈ actives w (s.k k) := mem_actives.symm
      have nans (j : ℕ) : isNan j ↔ (val j).isNan = true := FVal.isNan_iff.symm
      have top : (if w = 64 then 2 ^ 51 else 2 ^ 22) = 2 ^ (p.fmt.fb - 1) := by cases p <;> rfl
      have run := raises_selection rank p order h flags
      refine run.imp fun t ⟨v, put, clear, empty, picked⟩ => ⟨v, put, clear, fun h => empty ?_, fun ⟨j, hj⟩ => ?_⟩
      · exact List.eq_nil_iff_forall_not_mem.mpr fun j hj => h j ((cands j).mpr hj)
      · obtain ⟨j, mem, one, nan, anyNan, number, best⟩ := picked (List.ne_nil_of_mem ((cands j).mp hj))
        dsimp only [picks]
        rw [one, top]
        simp only [cands, nans, Bool.not_eq_true]
        refine ⟨⟨mem, fun h i lt hi => (nan h).2 i hi lt, anyNan, fun numbers => ?_⟩, number, fun h => (nan h).1⟩
        obtain ⟨least, first⟩ := best fun i hi => numbers i hi
        exact ⟨fun i hi => by rw [same _ _ (numbers i hi) (numbers j mem)]; exact not_lt.mpr (least i hi),
          fun i lt hi => (same _ _ (numbers j mem) (numbers i hi)).mpr (first i hi lt)⟩
    refine ⟨⟨raises_reduction p _ (fun _ _ _ _ => FFmt.fits_add hf _ _ _) rfl, fun h => empty h _⟩,
      ⟨raises_reduction p _ (fun u hu v hv => FFmt.fits_fmax hf hu hv) rfl, fun h => empty h _⟩,
      ⟨raises_reduction p _ (fun u hu v hv => FFmt.fits_fmin hf hu hv) rfl, fun h => empty h _⟩,
      selects (fun u => OrderDual.toDual u.key) _ _ _ rfl (fun u v hu hv => ltZeros_eq hv hu)
        (fun u v hu hv => below v u hv hu), selects FVal.key _ _ _ rfl (fun u v hu hv => ltZeros_eq hu hv) below⟩
  · intro x k op leaf n a b
    have node (p q : Option (ℕ × Flags)) : n p q = redNode op p q := by cases p <;> cases q <;> rfl
    simp only [node]
    exact ⟨redTree_f32 op k x, redTree_f64 op k x⟩

end Sys2Proof.Machine
end

section
/-! SUPPORT. Compute instructions, part 11: what one access and a sequence of accesses make of the well (R137, R138, R170, R171, R322). -/

namespace Sys2Proof.Machine

/-! ## Marks of the well's words -/

section
variable (w : Well) (a n : ℕ) (xs : List Byte)

/-- What a read leaves of a word and its mark (R171). -/
def touchMark (a n : ℕ) (p : ℕ × Mark) : ℕ × Mark :=
  if decide (p.2 = .correctable) && decide (a / 8 ≤ p.1) && decide (p.1 ≤ (a + n - 1) / 8) then (p.1, .corrected) else p

theorem touchMark_fst (p : ℕ × Mark) : (touchMark a n p).1 = p.1 := by
  unfold touchMark
  split <;> rfl

theorem touchMark_uncorrectable (p : ℕ × Mark) : (touchMark a n p).2 = .uncorrectable ↔ p.2 = .uncorrectable := by
  unfold touchMark
  split
  next h => simp_all
  next => rfl

theorem Well.bad_iff {word : ℕ} : w.bad word = true ↔ ∃ p, w.marks.find? (fun p => p.1 = word) = some p ∧ p.2 = .uncorrectable := by
  rw [Well.bad, decide_eq_true_iff, Well.mark, Option.map_eq_some_iff]

/-- A read leaves every uncorrectable word so, and makes none (R171, R322). -/
theorem Well.bad_touch (word : ℕ) : (w.touch a n).bad word = w.bad word := by
  have marks : (w.touch a n).marks = w.marks.map (touchMark a n) := rfl
  have keys : (fun p : ℕ × Mark => decide (p.1 = word)) ∘ touchMark a n = fun p => decide (p.1 = word) := by
    funext p
    simp [touchMark_fst]
  rw [Bool.eq_iff_iff, Well.bad_iff, Well.bad_iff, marks, List.find?_map, keys]
  constructor
  · rintro ⟨q, found, bad⟩
    obtain ⟨p, first, rfl⟩ := Option.map_eq_some_iff.mp found
    exact ⟨p, first, (touchMark_uncorrectable a n p).mp bad⟩
  · rintro ⟨p, found, bad⟩
    exact ⟨touchMark a n p, by rw [found]; rfl, (touchMark_uncorrectable a n p).mpr bad⟩

/-- A store makes no word uncorrectable (R322). -/
theorem Well.bad_of_store {word : ℕ} (h : (w.store a xs).bad word = true) : w.bad word = true := by
  rw [Well.bad_iff] at h ⊢
  obtain ⟨p, found, bad⟩ := h
  rw [Well.store, List.find?_filter] at found
  have hit := List.find?_some found
  rw [decide_eq_true_iff, decide_eq_true_iff] at hit
  obtain ⟨kept, here⟩ := hit
  refine ⟨p, ?_, bad⟩
  rw [← found]
  congr 1
  funext q
  by_cases same : q.1 = word
  · rw [same, ← here, kept]
    simp
  · simp [same]

/-- A run of bytes without an uncorrectable word, by the marks. -/
theorem Well.badIn_eq_false {b m : ℕ} : w.badIn b m = false ↔
    ∀ p ∈ w.marks, p.2 = .uncorrectable → b / 8 ≤ p.1 → ¬ p.1 ≤ (b + m - 1) / 8 := by
  simp [Well.badIn]

theorem Well.badIn_touch {b m : ℕ} (h : w.badIn b m = false) : (w.touch a n).badIn b m = false := by
  rw [Well.badIn_eq_false] at h ⊢
  intro q hq bad
  obtain ⟨p, hp, rfl⟩ := List.mem_map.mp hq
  split at bad
  · cases bad
  · rw [if_neg ‹_›]
    exact h p hp bad

theorem Well.badIn_store {b m : ℕ} (h : w.badIn b m = false) : (w.store a xs).badIn b m = false := by
  rw [Well.badIn_eq_false] at h ⊢
  exact fun p hp => h p (List.mem_of_mem_filter hp)

/-- No word that a store touches is uncorrectable after it (R170, R322). -/
theorem Well.badIn_stored : (w.store a xs).badIn a xs.length = false := by
  rw [Well.badIn_eq_false]
  intro p hp _ low high
  have kept := (List.mem_filter.mp hp).2
  simp only [Bool.or_eq_true, decide_eq_true_eq] at kept
  omega

end

/-! ## One access -/

/-- The well after an access: a read where it has no data, else a store. -/
def Well.make (w : Well) (e : Elem) : Well := if e.data.isEmpty then w.touch e.addr e.nb else w.store e.addr e.data

/-- The access writes the byte at x. -/
def Elem.Writes (e : Elem) (x : ℕ) : Prop := e.addr ≤ x ∧ x < e.addr + e.data.length

section
variable (w : Well) (e : Elem)

theorem Well.make_read (h : e.data = []) : w.make e = w.touch e.addr e.nb := by simp [Well.make, h]

theorem Well.make_store (h : e.data ≠ []) : w.make e = w.store e.addr e.data := by simp [Well.make, h]

theorem Well.make_frame : w.make e = { w with bytes := (w.make e).bytes, marks := (w.make e).marks } := by
  unfold Well.make
  split <;> rfl

theorem Well.bad_of_make {word : ℕ} (h : (w.make e).bad word = true) : w.bad word = true := by
  by_cases read : e.data = []
  · rwa [w.make_read e read, Well.bad_touch] at h
  · rw [w.make_store e read] at h
    exact w.bad_of_store _ _ h

theorem Well.badIn_make {b m : ℕ} (h : w.badIn b m = false) : (w.make e).badIn b m = false := by
  by_cases read : e.data = []
  · rw [w.make_read e read]
    exact w.badIn_touch _ _ h
  · rw [w.make_store e read]
    exact w.badIn_store _ _ h

theorem Well.make_wf (h : Memory.wf w.bytes = true) : Memory.wf (w.make e).bytes = true := by
  by_cases read : e.data = []
  · rwa [w.make_read e read]
  · rw [w.make_store e read]
    exact w.store_wf h _ _

/-- A byte after an access: what the access writes there, else as before. -/
theorem Well.get_make (h : Memory.wf w.bytes = true) (x : ℕ) : (¬ e.Writes x → Mem.get (w.make e).bytes x = Mem.get w.bytes x) ∧
    (e.Writes x → Mem.get (w.make e).bytes x = e.data.getD (x - e.addr) 0) := by
  by_cases read : e.data = []
  · have none : ¬ e.Writes x := by simp [Elem.Writes, read]
    rw [w.make_read e read]
    exact ⟨fun _ => rfl, fun h => absurd h none⟩
  · rw [w.make_store e read, Well.store, Mem.get_write _ h]
    exact ⟨fun h => if_neg h, fun h => if_pos h⟩

end

/-! ## Accesses in order -/

/-- The well after some of a list of accesses, in the order given. -/
def Well.makeAll (el : ℕ → Elem) (is : List ℕ) (w : Well) : Well := is.foldl (fun w i => w.make (el i)) w

section
variable (el : ℕ → Elem) (is : List ℕ)

@[simp] theorem Well.makeAll_nil (w : Well) : Well.makeAll el [] w = w := rfl

@[simp] theorem Well.makeAll_cons (i : ℕ) (w : Well) : Well.makeAll el (i :: is) w = Well.makeAll el is (w.make (el i)) := rfl

theorem Well.makeAll_frame : ∀ w, Well.makeAll el is w =
    { w with bytes := (Well.makeAll el is w).bytes, marks := (Well.makeAll el is w).marks } := by
  induction is with
  | nil => intro w; rfl
  | cons i is ih =>
    intro w
    rw [Well.makeAll_cons]
    refine (ih _).trans ?_
    rw [w.make_frame (el i)]

theorem Well.bad_of_makeAll {word : ℕ} : ∀ w, (Well.makeAll el is w).bad word = true → w.bad word = true := by
  induction is with
  | nil => exact fun w h => h
  | cons i is ih => exact fun w h => w.bad_of_make (el i) (ih _ h)

theorem Well.badIn_makeAll {b m : ℕ} : ∀ w, w.badIn b m = false → (Well.makeAll el is w).badIn b m = false := by
  induction is with
  | nil => exact fun w h => h
  | cons i is ih => exact fun w h => ih _ (w.badIn_make (el i) h)

/-- Where bytes have been stored no word is uncorrectable any more. -/
theorem Well.badIn_makeAll_stored {i : ℕ} (h : (el i).data ≠ []) : ∀ w, i ∈ is →
    (Well.makeAll el is w).badIn (el i).addr (el i).data.length = false := by
  induction is with
  | nil => exact fun w mem => absurd mem (by simp)
  | cons j is ih =>
    intro w mem
    by_cases later : i ∈ is
    · exact ih _ later
    · obtain rfl : i = j := by simpa [later] using mem
      refine Well.badIn_makeAll el is (w.make (el i)) ?_
      rw [w.make_store _ h]
      exact w.badIn_stored _ _

/-- Reads leave the bytes, and the uncorrectable words. -/
theorem Well.makeAll_reads (h : ∀ i ∈ is, (el i).data = []) : ∀ w,
    (Well.makeAll el is w).bytes = w.bytes ∧ ∀ word, (Well.makeAll el is w).bad word = w.bad word := by
  induction is with
  | nil => exact fun w => ⟨rfl, fun _ => rfl⟩
  | cons i is ih =>
    intro w
    obtain ⟨bytes, bad⟩ := ih (fun j hj => h j (by simp [hj])) (w.make (el i))
    rw [Well.makeAll_cons, bytes, w.make_read _ (h i (by simp))] at *
    exact ⟨rfl, fun word => (bad word).trans (w.bad_touch _ _ word)⟩

/-- A byte after accesses in ascending order: what the highest of them that covers it writes, else as before (R137). -/
theorem Well.get_makeAll (x : ℕ) (sorted : is.Pairwise (· < ·)) : ∀ w, Memory.wf w.bytes = true →
    ((∀ i ∈ is, ¬ (el i).Writes x) → Mem.get (Well.makeAll el is w).bytes x = Mem.get w.bytes x) ∧
    ∀ i ∈ is, (el i).Writes x → (∀ j ∈ is, i < j → ¬ (el j).Writes x) →
      Mem.get (Well.makeAll el is w).bytes x = (el i).data.getD (x - (el i).addr) 0 := by
  induction is with
  | nil => exact fun w _ => ⟨fun _ => rfl, fun i hi => absurd hi (by simp)⟩
  | cons a is ih =>
    intro w wf
    obtain ⟨behind, sorted⟩ := List.pairwise_cons.mp sorted
    obtain ⟨same, highest⟩ := ih sorted _ (w.make_wf (el a) wf)
    obtain ⟨skipped, written⟩ := w.get_make (el a) wf x
    refine ⟨fun none => ?_, fun i hi writes last => ?_⟩
    · exact (same fun i hi => none i (by simp [hi])).trans (skipped (none a (by simp)))
    · obtain rfl | hi := List.mem_cons.mp hi
      · exact (same fun j hj => last j (by simp [hj]) (behind j hj)).trans (written writes)
      · exact highest i hi writes fun j hj => last j (by simp [hj])

end

/-! ## The machine after accesses -/

section
variable (el : ℕ → Elem) (is : List ℕ) {step : State → ℕ → State}

/-- Steps that each make one access to the well, and change nothing else of the core but the checker's record. -/
theorem Near.makeAll {s : State} (near : ∀ c t i, i ∈ is → Near c s t → Near { c with well := c.well.make (el i) } s (step t i)) :
    ∀ c t, Near c s t → Near { c with well := Well.makeAll el is c.well } s (is.foldl step t) := by
  induction is with
  | nil => exact fun c t h => h
  | cons i is ih => exact fun c t h => ih (fun c t j hj => near c t j (by simp [hj])) _ _ (near c t i (by simp) h)

theorem st_foldl (same : ∀ t i, (step t i).st = t.st) : ∀ t, (is.foldl step t).st = t.st := by
  induction is with
  | nil => exact fun t => rfl
  | cons i is ih => exact fun t => (ih (step t i)).trans (same t i)

theorem State.makeElem_eq (s : State) (e : Elem) : s.makeElem e = { s with core := { s.core with well := s.core.well.make e } } := by
  unfold State.makeElem Well.make
  split <;> rfl

theorem State.foldl_makeElem : ∀ s : State, is.foldl (fun t i => t.makeElem (el i)) s =
    { s with core := { s.core with well := Well.makeAll el is s.core.well } } := by
  induction is with
  | nil => exact fun s => rfl
  | cons i is ih =>
    intro s
    rw [List.foldl_cons, ih, State.makeElem_eq]
    rfl

end

end Sys2Proof.Machine
end

section
/-! SUPPORT. Compute instructions, part 12: vector loads and stores, their faults, and what divides them (R125, R137, R138, R238, R239). -/

namespace Sys2Proof.Machine

/-! ## Lists over the indices of elements -/

theorem zipIdx_map_range {α : Type} (f : ℕ → α) (n : ℕ) : ((List.range n).map f).zipIdx = (List.range n).map fun i => (f i, i) := by
  apply List.ext_getElem <;> simp

theorem zipIdx_eq_range {α : Type} (l : List α) (d : α) : l.zipIdx = (List.range l.length).map fun i => (l.getD i d, i) := by
  apply List.ext_getElem
  · simp
  · intro i h _
    have inside : i < l.length := by simpa using h
    simp [List.getD_eq_getElem?_getD, inside]

theorem find_range {P : ℕ → Bool} {n j : ℕ} (hj : j < n) (holds : P j = true) (before : ∀ l < j, P l = false) :
    (List.range n).find? P = some j :=
  List.find?_range_eq_some.mpr ⟨holds, List.mem_range.mpr hj, fun l hl => by simp [before l hl]⟩

/-! ## The checks of an address (R236) -/

section
variable {A : Word} {n m : ℕ}

theorem wellCheck_misaligned (h : A.toNat % m ≠ 0) : wellCheck A n m = some 0x02 := if_pos h

theorem wellCheck_beyond (h : A.toNat % m = 0) (out : 393216 < A.toNat + n) : wellCheck A n m = some 0x03 := by
  rw [wellCheck, if_neg (not_not.mpr h), if_neg (by rw [inWell_iff]; omega)]
  rfl

theorem wellCheck_fits (h : A.toNat % m = 0) (room : A.toNat + n ≤ 393216) : wellCheck A n m = none := by
  rw [wellCheck, if_neg (not_not.mpr h), if_pos (inWell_iff.mpr room)]

end

/-- The first fault is that of the first active element that fails its check. -/
theorem firstFault_eq (n m : ℕ) (xs : List (Word × Bool)) : firstFault n m xs =
    (xs.find? fun x => x.2 && (wellCheck x.1 n m).isSome).bind fun x => (wellCheck x.1 n m).map fun c => (c, x.1) := by
  induction xs with
  | nil => rfl
  | cons x xs ih =>
    obtain ⟨a, act⟩ := x
    rw [firstFault, List.find?_cons, ih]
    cases act with
    | false => rfl
    | true => cases h : wellCheck a n m <;> simp [h]

/-! ## The element accesses of an instruction -/

section
variable (s : State) (k : KReg) (z : Sz) (addr : ℕ → Word)

/-- Element i is active under the k register (R41). -/
def State.activeElem (i : ℕ) : Bool := kbit z.bits (s.k k) i

/-- The addresses of the elements with their active bits. -/
def State.vecAddrs : List (Word × Bool) := (List.range z.count).map fun i => (addr i, s.activeElem k z i)

theorem withActive_range : withActive z.bits (s.k k) ((List.range z.count).map addr) = s.vecAddrs k z addr := by
  rw [withActive, zipIdx_map_range, List.map_map]
  rfl

theorem firstFault_vecAddrs : firstFault z.bytes z.bytes (s.vecAddrs k z addr) =
    ((List.range z.count).find? fun i => s.activeElem k z i && (wellCheck (addr i) z.bytes z.bytes).isSome).bind fun i =>
      (wellCheck (addr i) z.bytes z.bytes).map fun c => (c, addr i) := by
  rw [firstFault_eq, State.vecAddrs, List.find?_map, Option.bind_map]
  rfl

theorem firstBad_vecAddrs (w : Well) : firstBad w z.bytes (s.vecAddrs k z addr) =
    ((List.range z.count).find? fun i => s.activeElem k z i && w.badIn (addr i).toNat z.bytes).map addr := by
  rw [firstBad, State.vecAddrs, List.find?_map, Option.map_map]
  rfl

/-- A vector access: the checks of every address, those of the words that it reads, and then its work. -/
def State.vaccess (reads : Bool) (work : State) : State :=
  match firstFault z.bytes z.bytes (s.vecAddrs k z addr) with
  | some (c, a) => s.trap c a 4
  | none =>
    match if reads then firstBad s.core.well z.bytes (s.vecAddrs k z addr) else none with
    | some a => s.trap Code.ueWell a 4
    | none => work

/-- The accesses of the elements, still to be made. -/
def State.vecPart (data : ℕ → List Byte) (fin : PartEnd) : Part where
  elems := (List.range z.count).map fun i => ⟨(addr i).toNat, z.bytes, data i⟩
  got := (List.range z.count).map fun i => if s.activeElem k z i then none else some 0
  fin := fin

theorem start_vecElems (data : ℕ → List Byte) (fin : PartEnd) :
    Part.start (vecElems z (s.vecAddrs k z addr) data) fin = s.vecPart k z addr data fin := by
  rw [vecElems, State.vecAddrs, zipIdx_map_range, List.map_map, Part.start, List.map_map, List.map_map]
  rfl

/-- The indices of the active elements, in ascending order. -/
def State.activeElems : List ℕ := (List.range z.count).filter fun i => s.activeElem k z i

variable {s k z} in
theorem State.mem_activeElems {i : ℕ} : i ∈ s.activeElems k z ↔ i < z.count ∧ s.activeElem k z i = true := by
  simp [State.activeElems]

theorem State.activeElems_sorted : (s.activeElems k z).Pairwise (· < ·) := List.pairwise_lt_range.filter _

/-- What a vector load reads, element by element. -/
def State.vecLoad (v : VReg) : State :=
  (((s.activeElems k z).foldl (fun t i => t.touch (addr i).toNat z.bytes) s).setV v
    (vmerge z.bits (s.k k) (s.v v) ((List.range z.count).map fun i => s.number (addr i).toNat z.bytes))).done 4

/-- The bytes of element i of a v register. -/
def State.vecBytes (v : VReg) (i : ℕ) : List Byte := leBytes z.bytes (velem z.bits (s.v v) i)

/-- A vector store, element by element. -/
def State.vecStore (v : VReg) : State :=
  ((s.activeElems k z).foldl (fun t i => t.store (addr i).toNat (s.vecBytes z v i)) s).done 4

theorem vload_eq (v : VReg) : s.vload v k z ((List.range z.count).map addr) =
    s.vaccess k z addr true (s.accesses (s.vecPart k z addr (fun _ => []) (.vload v (s.k k) z.bits)) (s.vecLoad k z addr v)) := by
  rw [State.vload, withActive_range, start_vecElems, State.vecLoad, State.activeElems, List.foldl_filter, List.map_map]
  dsimp only
  conv_lhs => rw [State.vecAddrs, List.foldl_map]
  rfl

theorem vstore_eq (v : VReg) : s.vstore v k z ((List.range z.count).map addr) =
    s.vaccess k z addr (z ≠ .w64) (s.accesses
      (s.vecPart k z addr (fun i => if s.activeElem k z i then s.vecBytes z v i else []) .vstore) (s.vecStore k z addr v)) := by
  rw [State.vstore, withActive_range, start_vecElems, State.vecStore, State.activeElems, List.foldl_filter]
  dsimp only
  conv_lhs => rw [State.vecAddrs, zipIdx_map_range, List.foldl_map]
  cases z <;> rfl

/-! ## Faults -/

variable {s k z addr} {reads : Bool} {work : State}

/-- The first active element that fails its check raises its fault (R137, R236). -/
theorem vaccess_fault {j : ℕ} {c : BitVec 8} (hj : j < z.count) (active : s.activeElem k z j = true)
    (fault : wellCheck (addr j) z.bytes z.bytes = some c)
    (before : ∀ l < j, s.activeElem k z l = true → wellCheck (addr l) z.bytes z.bytes = none) :
    s.vaccess k z addr reads work = s.trap c (addr j) 4 := by
  have first : (List.range z.count).find? (fun i => s.activeElem k z i && (wellCheck (addr i) z.bytes z.bytes).isSome) = some j := by
    refine find_range hj (by simp [active, fault]) fun l hl => ?_
    cases act : s.activeElem k z l with
    | false => rfl
    | true => simp [before l hl act]
  rw [State.vaccess, firstFault_vecAddrs, first]
  simp [fault]

theorem firstFault_none (fits : ∀ i < z.count, s.activeElem k z i = true → wellCheck (addr i) z.bytes z.bytes = none) :
    firstFault z.bytes z.bytes (s.vecAddrs k z addr) = none := by
  have none : (List.range z.count).find? (fun i => s.activeElem k z i && (wellCheck (addr i) z.bytes z.bytes).isSome) = none := by
    refine List.find?_eq_none.mpr fun i hi hit => ?_
    obtain ⟨active, fault⟩ := Bool.and_eq_true_iff.mp hit
    rw [fits i (List.mem_range.mp hi) active] at fault
    cases fault
  rw [firstFault_vecAddrs, none]
  rfl

/-- Then the first that meets an uncorrectable word raises UE_WELL (R137, R322). -/
theorem vaccess_bad (fits : ∀ i < z.count, s.activeElem k z i = true → wellCheck (addr i) z.bytes z.bytes = none) (read : reads = true)
    {j : ℕ} (hj : j < z.count) (active : s.activeElem k z j = true) (bad : s.core.well.badIn (addr j).toNat z.bytes = true)
    (before : ∀ l < j, s.activeElem k z l = true → ¬ s.core.well.badIn (addr l).toNat z.bytes = true) :
    s.vaccess k z addr reads work = s.trap 0x0C (addr j) 4 := by
  have first : (List.range z.count).find? (fun i => s.activeElem k z i && s.core.well.badIn (addr i).toNat z.bytes) = some j := by
    refine find_range hj (by simp [active, bad]) fun l hl => ?_
    cases act : s.activeElem k z l with
    | false => rfl
    | true => simpa using before l hl act
  rw [State.vaccess, firstFault_none fits, read, if_pos rfl, firstBad_vecAddrs, first]
  rfl

/-- Without a fault the access does its work. -/
theorem vaccess_clean (fits : ∀ i < z.count, s.activeElem k z i = true → wellCheck (addr i) z.bytes z.bytes = none)
    (good : reads = true → ∀ i < z.count, s.activeElem k z i = true → ¬ s.core.well.badIn (addr i).toNat z.bytes = true) :
    s.vaccess k z addr reads work = work := by
  rw [State.vaccess, firstFault_none fits]
  cases reads with
  | false => rfl
  | true =>
    have none : (List.range z.count).find? (fun i => s.activeElem k z i && s.core.well.badIn (addr i).toNat z.bytes) = none := by
      refine List.find?_eq_none.mpr fun i hi hit => ?_
      obtain ⟨active, bad⟩ := Bool.and_eq_true_iff.mp hit
      exact good rfl i (List.mem_range.mp hi) active bad
    rw [if_pos rfl, firstBad_vecAddrs, none]
    rfl

/-! ## Loads and stores that nothing divides -/

theorem pow_bytes (z : Sz) : 256 ^ z.bytes = 2 ^ z.bits := by cases z <;> rfl

theorem State.number_lt (s : State) (a n : ℕ) : s.number a n < 256 ^ n := by
  simpa [State.number] using ofLeBytes_lt ((List.range n).map fun i => s.byte (a + i))

/-- A vector load gives each active element the bytes at its address (R137). -/
theorem vecLoad_spec (v : VReg) : ∃ w x, PutV { s.core with well := w } s (s.vecLoad k z addr v) v x 0 ∧
    w = { s.core.well with marks := w.marks } ∧ (∀ n, w.bad n = s.core.well.bad n) ∧
    ∀ i < z.count, velem z.bits x i = if kbit z.bits (s.k k) i then s.number (addr i).toNat z.bytes else velem z.bits (s.v v) i := by
  let el (i : ℕ) : Elem := ⟨(addr i).toNat, z.bytes, []⟩
  have near := Near.makeAll el (s.activeElems k z) (step := fun t i => t.touch (addr i).toNat z.bytes)
    (fun c t i _ h => h.touch _ _) _ _ (Near.refl s)
  obtain ⟨bytes, bad⟩ := Well.makeAll_reads el (s.activeElems k z) (fun _ _ => rfl) s.core.well
  have put := PutV.intro near rfl bytes (st_foldl _ (fun t i => State.st_touch t _ _) s) v
    (vmerge z.bits (s.k k) (s.v v) ((List.range z.count).map fun i => s.number (addr i).toNat z.bytes)) 0
  rw [State.raise_zero] at put
  refine ⟨_, _, put, ?_, bad, ?_⟩
  · conv_lhs => rw [Well.makeAll_frame, bytes]
  · exact velem_vmerge z.bits (s.k k) (s.v v) _ fun i => pow_bytes z ▸ s.number_lt _ _

/-- A vector store gives each byte that active elements cover the value of the highest of them, and leaves every other (R137). -/
theorem vecStore_spec (v : VReg) (wf : s.core.memWf = true) : ∃ w, Stepped { s.core with well := w } s (s.vecStore k z addr v) 0 4 ∧
    w = { s.core.well with bytes := w.bytes, marks := w.marks } ∧ (∀ n, w.bad n = true → s.core.well.bad n = true) ∧
    (∀ i ∈ s.activeElems k z, w.badIn (addr i).toNat z.bytes = false) ∧
    ∀ x, let covers (i : ℕ) := i ∈ s.activeElems k z ∧ (addr i).toNat ≤ x ∧ x < (addr i).toNat + z.bytes
      ((∀ i, ¬ covers i) → (s.vecStore k z addr v).byte x = s.byte x) ∧ ∀ i, covers i → (∀ j, i < j → ¬ covers j) →
        (s.vecStore k z addr v).byte x = (s.vecBytes z v i).getD (x - (addr i).toNat) 0 := by
  let el (i : ℕ) : Elem := ⟨(addr i).toNat, z.bytes, s.vecBytes z v i⟩
  have length (i : ℕ) : (s.vecBytes z v i).length = z.bytes := length_leBytes _ _
  have some' (i : ℕ) : (el i).data ≠ [] := by
    refine List.ne_nil_of_length_pos ?_
    rw [length]
    cases z <;> decide
  have near := Near.makeAll el (s.activeElems k z) (step := fun t i => t.store (addr i).toNat (s.vecBytes z v i))
    (fun c t i _ h => by rw [c.well.make_store _ (some' i)]; exact h.store _ _) _ _ (Near.refl s)
  have stepped := State.done_spec near rfl (st_foldl _ (fun t i => State.st_store t _ _) s) 4
  refine ⟨_, stepped, Well.makeAll_frame _ _ _, fun n => Well.bad_of_makeAll _ _ _, fun i hi => ?_, fun x => ?_⟩
  · rw [← length i]
    exact Well.badIn_makeAll_stored el _ (some' i) _ hi
  · have byte : (s.vecStore k z addr v).byte x = Mem.get (Well.makeAll el (s.activeElems k z) s.core.well).bytes x := by
      obtain ⟨⟨strands, check, -, after⟩, -⟩ := stepped
      rw [State.vecStore, after]
      rfl
    have writes (i : ℕ) : (el i).Writes x ↔ (addr i).toNat ≤ x ∧ x < (addr i).toNat + z.bytes := by
      rw [← length i]
      exact Iff.rfl
    obtain ⟨same, highest⟩ := Well.get_makeAll el _ x (s.activeElems_sorted k z) s.core.well wf
    simp only [byte]
    exact ⟨fun none => same fun i hi h => none i ⟨hi, (writes i).mp h⟩, fun i ⟨hi, h⟩ last =>
      highest i hi ((writes i).mpr h) fun j hj lt h => last j lt ⟨hj, (writes j).mp h⟩⟩

end

end Sys2Proof.Machine
end

section
/-! SUPPORT. Compute instructions, part 13: some accesses of a divided instruction, and every vector load and store (R137, R138, R238, R239). -/

namespace Sys2Proof.Machine

/-! ## Some accesses of a divided instruction -/

section
variable (p : Part) (mask : BitVec 32)

/-- Access i of a divided instruction. -/
def Part.el (i : ℕ) : Elem := p.elems.getD i ⟨0, 0, []⟩

/-- Access i is still to be made. -/
def Part.Left (i : ℕ) : Prop := i < p.elems.length ∧ p.got.getD i none = none

/-- Access i is made now: it is left, and it or one that is left behind it to the same place is named (R137). -/
def Part.Named (i : ℕ) : Prop := p.Left i ∧ ∃ j, i ≤ j ∧ mask.getLsbD j = true ∧ p.Left j ∧ (p.el j).addr = (p.el i).addr

/-- Access i meets an uncorrectable word: it is left, and a load or a store narrower than a word. -/
def Part.Meets (w : Well) (i : ℕ) : Prop :=
  p.Left i ∧ ((p.el i).data = [] ∨ (p.el i).nb < 8) ∧ w.badIn (p.el i).addr (p.el i).nb = true

theorem Part.isOpen_iff (i : ℕ) : p.isOpen i = true ↔ p.Left i := by
  simp [Part.isOpen, Part.Left]

theorem Part.now_iff (i : ℕ) : p.now mask i = true ↔ p.Named mask i := by
  have place (j : ℕ) (hj : j < p.elems.length) : (p.elems[j]?).map (·.addr) = some (p.el j).addr := by
    simp [Part.el, List.getD_eq_getElem?_getD, hj]
  simp only [Part.now, Bool.and_eq_true, List.any_eq_true, List.mem_range, decide_eq_true_eq, Part.isOpen_iff, Part.Named]
  refine and_congr_right fun opened => ⟨fun ⟨j, hj, ⟨⟨le, named⟩, left⟩, same⟩ => ?_, fun ⟨j, le, named, left, same⟩ => ?_⟩
  · rw [place i opened.1, place j hj] at same
    exact ⟨j, le, named, left, (Option.some.inj same).symm⟩
  · exact ⟨j, left.1, ⟨⟨le, named⟩, left⟩, by rw [place i opened.1, place j left.1, same]⟩

theorem Part.firstBad_eq (w : Well) : p.firstBad w = ((List.range p.elems.length).find? fun i =>
    p.isOpen i && ((p.el i).data.isEmpty || decide ((p.el i).nb < 8)) && w.badIn (p.el i).addr (p.el i).nb).map p.el := by
  rw [Part.firstBad, zipIdx_eq_range p.elems ⟨0, 0, []⟩, List.find?_map, Option.map_map]
  rfl

theorem Part.meets_iff (w : Well) (i : ℕ) : (p.isOpen i && ((p.el i).data.isEmpty || decide ((p.el i).nb < 8)) &&
    w.badIn (p.el i).addr (p.el i).nb) = true ↔ p.Meets w i := by
  simp [Part.Meets, Part.isOpen_iff, and_assoc]

variable {p} in
/-- The first access left that meets an uncorrectable word. -/
theorem Part.firstBad_some {w : Well} {i : ℕ} (h : p.Meets w i) (first : ∀ j < i, ¬ p.Meets w j) : p.firstBad w = some (p.el i) := by
  rw [Part.firstBad_eq, find_range h.1.1 ((p.meets_iff w i).mpr h) fun j hj => by
    rw [Bool.eq_false_iff, ne_eq, Part.meets_iff]
    exact first j hj]
  rfl

variable {p} in
theorem Part.firstBad_none {w : Well} (h : ∀ i, ¬ p.Meets w i) : p.firstBad w = none := by
  rw [Part.firstBad_eq, List.find?_eq_none.mpr fun i _ => by
    rw [Part.meets_iff]
    exact h i]
  rfl

/-- The indices of the accesses made now, in ascending order. -/
def Part.nowElems : List ℕ := (List.range p.elems.length).filter fun i => p.now mask i

variable {p mask} in
theorem Part.mem_nowElems {i : ℕ} : i ∈ p.nowElems mask ↔ p.Named mask i := by
  rw [Part.nowElems, List.mem_filter, List.mem_range, Part.now_iff]
  exact and_iff_right_of_imp fun named => named.1.1

theorem Part.nowElems_sorted : (p.nowElems mask).Pairwise (· < ·) := List.pairwise_lt_range.filter _

/-- The well after the accesses made now. -/
def Part.well (w : Well) : Well := Well.makeAll p.el (p.nowElems mask) w

theorem State.makeElems_eq (s : State) : s.makeElems p mask = { s with core := { s.core with well := p.well mask s.core.well } } := by
  rw [Part.well, ← State.foldl_makeElem, State.makeElems, zipIdx_eq_range p.elems ⟨0, 0, []⟩, List.foldl_map, Part.nowElems, List.foldl_filter]
  rfl

theorem Part.made_got (w : Well) : (p.made w mask).got = (List.range p.elems.length).map fun i =>
    if p.now mask i then some (if (p.el i).data.isEmpty then w.readNat (p.el i).addr (p.el i).nb else 0) else p.got.getD i none := by
  rw [Part.made, zipIdx_eq_range p.elems ⟨0, 0, []⟩, List.map_map]
  rfl

theorem Part.length_made (w : Well) : (p.made w mask).got.length = p.elems.length := by simp [Part.made_got]

variable {p mask}

theorem Part.made_named {w : Well} {i : ℕ} (h : p.Named mask i) :
    (p.made w mask).got.getD i none = some (if (p.el i).data = [] then w.readNat (p.el i).addr (p.el i).nb else 0) := by
  simp [Part.made_got, List.getD_eq_getElem?_getD, h.1.1, (p.now_iff mask i).mpr h]

theorem Part.made_other {w : Well} {i : ℕ} (hi : i < p.elems.length) (h : ¬ p.Named mask i) :
    (p.made w mask).got.getD i none = p.got.getD i none := by
  have off : p.now mask i = false := by rwa [Bool.eq_false_iff, ne_eq, Part.now_iff]
  simp [Part.made_got, List.getD_eq_getElem?_getD, hi, off]

/-- Every access has been made where each that was left is made now. -/
theorem Part.done_iff (w : Well) : (p.made w mask).done = true ↔ ∀ i, p.Left i → p.Named mask i := by
  have whole : (p.made w mask).done = true ↔ ∀ i < p.elems.length, ((p.made w mask).got.getD i none).isSome = true := by
    rw [Part.done, List.all_eq_true, Part.made_got]
    simp +contextual [List.getD_eq_getElem?_getD]
  rw [whole]
  constructor
  · intro all i left
    by_contra off
    have given := all i left.1
    rw [Part.made_other left.1 off, left.2] at given
    cases given
  · intro named i hi
    by_cases now : p.Named mask i
    · rw [Part.made_named now]
      rfl
    · rw [Part.made_other hi now]
      cases got : p.got.getD i none with
      | none => exact absurd (named i ⟨hi, got⟩) now
      | some x => rfl

/-- What the accesses made now leave of the well (R137, R170, R322). -/
theorem Part.well_spec (w : Well) : p.well mask w = { w with bytes := (p.well mask w).bytes, marks := (p.well mask w).marks } ∧
    (∀ n, (p.well mask w).bad n = true → w.bad n = true) ∧ (Memory.wf w.bytes = true → ∀ x,
      ((∀ i, ¬ (p.Named mask i ∧ (p.el i).Writes x)) → Mem.get (p.well mask w).bytes x = Mem.get w.bytes x) ∧
      ∀ i, p.Named mask i ∧ (p.el i).Writes x → (∀ j, i < j → ¬ (p.Named mask j ∧ (p.el j).Writes x)) →
        Mem.get (p.well mask w).bytes x = (p.el i).data.getD (x - (p.el i).addr) 0) := by
  refine ⟨Well.makeAll_frame _ _ _, fun n => Well.bad_of_makeAll _ _ _, fun wf x => ?_⟩
  obtain ⟨same, highest⟩ := Well.get_makeAll p.el (p.nowElems mask) x (p.nowElems_sorted mask) w wf
  exact ⟨fun none => same fun i hi writes => none i ⟨Part.mem_nowElems.mp hi, writes⟩, fun i ⟨named, writes⟩ last =>
    highest i (Part.mem_nowElems.mpr named) writes fun j hj lt writes => last j lt ⟨Part.mem_nowElems.mp hj, writes⟩⟩

end

/-! ## The end of a divided instruction -/

/-- A divided load ends with what its accesses have read (R137). -/
theorem partEnd_vload {s : State} {q : Part} {v : VReg} {kk : BitVec 8} (z : Sz) (fin : q.fin = .vload v kk z.bits)
    (fits : ∀ x, some x ∈ q.got → x < 2 ^ z.bits) : ∃ x, PutV s.core s (s.partEnd q) v x 0 ∧
    ∀ i < z.count, velem z.bits x i = if kbit z.bits kk i then (q.got.getD i none).getD 0 else velem z.bits (s.v v) i := by
  refine ⟨vmerge z.bits kk (s.v v) q.values, ?_, fun i hi => ?_⟩
  · rw [State.partEnd, fin]
    exact s.doneV_spec v _
  · have value (j : ℕ) : q.values.getD j 0 = (q.got.getD j none).getD 0 := by
      simp [Part.values, List.getD_eq_getElem?_getD]
      cases q.got[j]? <;> rfl
    have small (j : ℕ) : (q.got.getD j none).getD 0 < 2 ^ z.bits := by
      cases got : q.got.getD j none with
      | none => exact Nat.two_pow_pos _
      | some x =>
        refine fits x ?_
        rw [List.getD_eq_getElem?_getD] at got
        cases found : q.got[j]? with
        | none => simp [found] at got
        | some y =>
          obtain rfl : y = some x := by simpa [found] using got
          exact List.mem_of_getElem? found
    rw [← velem_vmerge z.bits kk (s.v v) _ small i hi, vmerge, vmerge]
    congr 2
    refine List.map_congr_left fun j hj => ?_
    rw [value]
    simp [List.getD_eq_getElem?_getD, List.mem_range.mp hj]

/-- A divided store ends with nothing left to do but the checker's record (R137, R361). -/
theorem partEnd_vstore {s : State} {q : Part} (fin : q.fin = .vstore) :
    Stepped s.core s (s.partEnd q) 0 4 ∧ SameBytes s (s.partEnd q) := by
  have stepped : Stepped s.core s ((s.signStored q).done 4) 0 4 :=
    State.done_spec ((Near.refl s).sign _) rfl (State.st_mapCore _ _ rfl) 4
  rw [State.partEnd, fin]
  exact ⟨stepped, stepped.1.bytes rfl⟩

/-! ## Every member -/

theorem strided_eq (s : State) (a st : GReg) (z : Sz) (off : BitVec 7) : s.strided a st z off = (List.range z.count).map fun i =>
    s.g a + off.signExtend 64 * 32 + BitVec.ofNat 64 i * (if st = 0 then BitVec.ofNat 64 z.bytes else s.g st) := rfl

theorem indexed_eq (s : State) (a : GReg) (vi : VReg) (z : Sz) (off : BitVec 7) : s.indexed a vi z off = (List.range z.count).map fun i =>
    s.g a + off.signExtend 64 * 32 + BitVec.ofInt 64 (intOfNat z.bits (velem z.bits (s.v vi) i)) := List.map_map

/-- Settles O26: the checks of a vector access, the accesses in ascending order of which the highest prevails, and a step of some of
them. -/
theorem vectorMemory : Obligations.VectorMemory := by
  unfold Obligations.VectorMemory
  intro s v vi a st z k off e64 core p q kk mask rest base strided y indexed active fits bad faults begins loads covers stores el left
    made meets writes
  have check {z : Sz} {A : Word} (h : fits z A) : wellCheck A z.bytes z.bytes = none := wellCheck_fits h.1 h.2
  have faulty (i : Instr) (z : Sz) (addr : ℕ → Word) (reads : Bool) (work : State)
      (run : exec i s = .next (s.vaccess k z addr reads work)) : faults i z addr (reads = true) := by
    constructor
    · intro j ⟨hj, act⟩ before
      have earlier (l : ℕ) (hl : l < j) (act : s.activeElem k z l = true) := check (before l hl ⟨hl.trans hj, act⟩)
      exact ⟨fun odd => by rw [run, vaccess_fault hj act (wellCheck_misaligned odd) earlier],
        fun even out => by rw [run, vaccess_fault hj act (wellCheck_beyond even out) earlier]⟩
    · intro read fit j ⟨hj, act⟩ hit before
      rw [run, vaccess_bad (fun i hi act => check (fit i ⟨hi, act⟩)) read hj act hit fun l hl act => before l hl ⟨hl.trans hj, act⟩]
  have clean (i : Instr) (z : Sz) (addr : ℕ → Word) (reads : Bool) (work : State)
      (run : exec i s = .next (s.vaccess k z addr reads work))
      (good : ∀ j, active z j → fits z (addr j) ∧ (reads = true → ¬ bad z (addr j))) : exec i s = .next work := by
    rw [run, vaccess_clean (fun i hi act => check (good i ⟨hi, act⟩).1) fun read i hi act => (good i ⟨hi, act⟩).2 read]
  have loading (i : Instr) (z : Sz) (addr : ℕ → Word) (run : exec i s = .next (s.vload v k z ((List.range z.count).map addr))) :
      loads i z addr := by
    rw [vload_eq] at run
    refine ⟨?_, fun good => ?_⟩
    · simpa using faulty i z addr true _ run
    · have run := clean i z addr true _ run fun j hj => ⟨(good j hj).1, fun _ => (good j hj).2⟩
      refine ⟨fun named => ?_, fun whole => ?_⟩
      · rw [run, State.accesses_named _ _ _ _ _ named]
        rfl
      · rw [State.accesses_whole _ _ _ whole] at run
        exact ⟨_, run, vecLoad_spec v⟩
  have storing (i : Instr) (z : Sz) (addr : ℕ → Word) (run : exec i s = .next (s.vstore v k z ((List.range z.count).map addr))) :
      stores i z addr := by
    rw [vstore_eq] at run
    refine ⟨?_, fun good => ?_⟩
    · simpa using faulty i z addr _ _ run
    · have run := clean i z addr _ _ run fun j hj => ⟨(good j hj).1, fun narrow => (good j hj).2.resolve_left (by simpa using narrow)⟩
      refine ⟨fun named => ?_, fun whole wf => ?_⟩
      · rw [run, State.accesses_named _ _ _ _ _ named]
        rfl
      · rw [State.accesses_whole _ _ _ whole] at run
        obtain ⟨w, stepped, frame, fewer, stored, bytes⟩ := vecStore_spec (z := z) (k := k) (addr := addr) v wf
        refine ⟨_, run, w, stepped, frame, fewer, fun j hj => stored j (State.mem_activeElems.mpr hj), fun x => ?_⟩
        simp only [State.mem_activeElems] at bytes
        exact bytes x
  refine ⟨loading _ z strided rfl, storing _ z strided rfl, loading _ y indexed ?_, storing _ y indexed ?_, fun i hit first => ?_,
    fun clear => ?_, partEnd_vload z, partEnd_vstore, ?_⟩
  · exact congrArg (fun as => Host.Outcome.next (s.vload v k y as)) (indexed_eq s a vi y off)
  · exact congrArg (fun as => Host.Outcome.next (s.vstore v k y as)) (indexed_eq s a vi y off)
  · have first : p.firstBad s.core.well = some (p.el i) := Part.firstBad_some hit first
    refine ⟨fun other => ?_, fun x fin => ⟨s.fresh.1, ?_⟩⟩
    · rw [State.partStep, first]
      dsimp only
      split
      next fin => exact absurd fin (other _)
      next => rfl
    · rw [State.partStep, first, fin]
      rfl
  · have first : p.firstBad s.core.well = none := Part.firstBad_none clear
    obtain ⟨frame, fewer, bytes⟩ := Part.well_spec (p := p) (mask := mask) s.core.well
    have step : s.partStep p mask = if (p.made s.core.well mask).done
        then ((s.makeElems p mask).setSt fun st => { st with part := none }).partEnd (p.made s.core.well mask)
        else (s.makeElems p mask).setSt fun st => { st with part := some (p.made s.core.well mask) } := by
      rw [State.partStep, first]
    rw [State.makeElems_eq] at step
    refine ⟨p.well mask s.core.well, p.made s.core.well mask, frame, fewer, fun wf x => ?_, rfl, rfl, p.length_made mask _,
      fun i hi => ⟨Part.made_named, Part.made_other hi⟩, fun ⟨i, left, off⟩ => ?_, fun all => ?_⟩
    · exact bytes wf x
    · rw [step, if_neg fun h => off ((Part.done_iff _).mp h i left)]
    · rw [step, if_pos ((Part.done_iff _).mpr all)]
  · have done := State.done_spec (Near.refl s) rfl rfl 4
    exact ⟨_, rfl, done, done.1.bytes rfl⟩

end Sys2Proof.Machine
end

section
/-! SUPPORT. The fabric statements, part 1: the message that heads an input, what the CRC check finds, and how it is routed (R173, R184,
R187, R196 to R198, R307, R321). -/

namespace Sys2Proof.Machine

/-! ## Heads of inputs -/

section
variable {r : Router} {p : Port} {ch : Chan} {m : Msg}

/-- What heads an input for a channel is of the channel and stands at the input. -/
theorem Router.headAt_mem (h : r.headAt p ch = some m) : m.ch = ch ∧ (p, m) ∈ r.inq := by
  obtain ⟨⟨q, x⟩, found, rfl⟩ := Option.map_eq_some_iff.mp h
  have hit := List.find?_some found
  simp only [Bool.and_eq_true, decide_eq_true_eq] at hit
  obtain ⟨rfl, rfl⟩ := hit
  exact ⟨rfl, List.mem_of_find?_eq_some found⟩

end

/-! ## The CRC check (R321) -/

section
variable (m : Msg) (noise : BitVec 32)

theorem xor_eq_not_iff (x n : BitVec 32) : x ^^^ n = ~~~x ↔ n = BitVec.allOnes 32 := by
  rw [← BitVec.xor_allOnes, BitVec.xor_right_inj]

/-- Noise that changes no bit leaves what the check finds, one that changes every bit turns it over, and any other fails the check. -/
theorem Msg.check_eq : m.check noise = if noise = 0 then (if m.bad then .knownBad else .passed)
    else if noise = BitVec.allOnes 32 then (if m.bad then .passed else .knownBad) else .failed := by
  have flip (x : BitVec 32) : ~~~x ^^^ noise = x ↔ noise = BitVec.allOnes 32 := by
    rw [← xor_eq_not_iff (~~~x), BitVec.not_not]
  have keep (x : BitVec 32) : x ^^^ noise = x ↔ noise = 0 := xor_left_eq_self_iff
  unfold Msg.check Msg.sentCrc
  cases m.bad
  · simp only [keep, xor_eq_not_iff, Bool.false_eq_true, if_false]
  · simp only [keep, flip, if_true]
    by_cases none : noise = 0
    · subst none
      rfl
    · rw [if_neg none, if_neg none]

theorem Msg.check_failed_iff : m.check noise = .failed ↔ ¬ (noise = 0 ∨ noise = BitVec.allOnes 32) := by
  rw [Msg.check_eq, not_or]
  by_cases none : noise = 0
  · rw [if_pos none]
    cases m.bad <;> simp [none]
  · rw [if_neg none]
    by_cases all : noise = BitVec.allOnes 32
    · rw [if_pos all]
      cases m.bad <;> simp [all]
    · rw [if_neg all]
      exact ⟨fun _ => ⟨none, all⟩, fun _ => rfl⟩

theorem Msg.check_ne_passed : decide (m.check noise ≠ .passed) =
    if noise = 0 then m.bad else if noise = BitVec.allOnes 32 then !m.bad else true := by
  rw [Msg.check_eq]
  split
  · cases m.bad <;> rfl
  · split
    · cases m.bad <;> rfl
    · rfl

/-- A message that is held is bad from then on wherever noise changed it. -/
theorem Msg.bad_or_check : (m.bad || decide (m.check noise ≠ .passed)) = (m.bad || decide (noise ≠ 0)) := by
  rw [Msg.check_ne_passed]
  by_cases none : noise = 0
  · rw [if_pos none, decide_eq_false (not_not.mpr none), Bool.or_self, Bool.or_false]
  · rw [if_neg none, decide_eq_true none]
    cases m.bad
    · split <;> rfl
    · rfl

end

/-! ## Routing (R173, R187, R196 to R198, R307) -/

section
variable {c : Core} {inp : Port} {m : Msg}

theorem Msg.malformed_iff : m.malformed = true ↔
    8 ≤ hdrKind m.hdr ∨ hdrLen m.hdr ≠ m.pay.length ∨ (hdrKind m.hdr = 3 ∧ 0x12 < natBits m.hdr.toNat 26 17) := by
  simp [Msg.malformed, or_assoc]

theorem Router.late_iff {r : Router} {ch : Chan} : r.late ch inp = true ↔ ∃ v ∈ r.votes, v.ch = ch ∧ ∃ bs, (inp, bs) ∈ v.owed := by
  simp [Router.late]

theorem inJoin_eq (e : Word) (p : Port) : inJoin e p = e.getLsbD (40 + portNo p) := by
  have h : portNo p < 5 := by cases p <;> decide
  simp [inJoin, joinOf, h]

theorem Core.routing_malformed (h : m.malformed = true) : c.routing inp m = .malformed := if_pos h

theorem Core.routing_late (h : m.malformed = false) (late : c.router.late m.ch inp = true) : c.routing inp m = .held := by
  simp [Core.routing, h, late]

/-- The routing of what no late member owes, by the entry. -/
theorem Core.routing_entry (h : m.malformed = false) (late : c.router.late m.ch inp = false) : c.routing inp m =
    if omask (c.route m.ch) (portNo inp) = 0 ∨ closedBit (c.route m.ch) = true then .border
    else if hdrKind m.hdr = 3 then if inJoin (c.route m.ch) inp = true then .held else .discard
    else if modeOf (c.route m.ch) (portNo inp) ≠ 0 ∧ inJoin (c.route m.ch) inp = true then .held
    else .forward (omask (c.route m.ch) (portNo inp)) := by
  unfold Core.routing
  simp only [h, late, Bool.false_eq_true, if_false, Bool.or_eq_true, Bool.and_eq_true, decide_eq_true_eq]

end

/-! ## ROUTE_MESSAGE by its routing -/

section
variable {s : State} {inp : Port} {ch : Chan} {m : Msg} (noise : BitVec 32)

/-- A failed CRC is reported (R321). -/
def State.toldCrc (s : State) (ch : Chan) (noise : BitVec 32) : State :=
  if noise = 0 ∨ noise = BitVec.allOnes 32 then s else s.post (.link s.core.ident.site ch)

theorem State.toldCrc_eq (m : Msg) : (if m.check noise = .failed then s.post (.link s.core.ident.site ch) else s) = s.toldCrc ch noise := by
  unfold State.toldCrc
  by_cases fine : noise = 0 ∨ noise = BitVec.allOnes 32
  · rw [if_pos fine, if_neg ((Msg.check_failed_iff m noise).not.mpr (not_not.mpr fine))]
  · rw [if_neg fine, if_pos ((Msg.check_failed_iff m noise).mpr fine)]

@[simp] theorem State.toldCrc_core : (s.toldCrc ch noise).core = s.core := by
  unfold State.toldCrc
  split <;> rfl

/-- The head of an input has left it, after what the CRC check reports. -/
def State.headGone (s : State) (inp : Port) (ch : Chan) (noise : BitVec 32) (m : Msg) : State :=
  { s.toldCrc ch noise with core := { s.core with router := s.core.router.pop inp m s.core.csr.cycle.toNat } }

theorem State.headGone_eq : (s.toldCrc ch noise).mapCore (fun c => c.leave inp m) = s.headGone inp ch noise m := by
  simp [State.headGone, State.mapCore, Core.leave]

theorem routeMessage_none (h : s.core.router.headAt inp ch = none) : exec (.routeMessage inp ch noise) s = .next s := by
  show execRouteMessage inp ch noise s = _
  rw [execRouteMessage, h]

/-- What ROUTE_MESSAGE does with the head of an input, by its routing. -/
theorem routeMessage_head (h : s.core.router.headAt inp ch = some m) : exec (.routeMessage inp ch noise) s = .next
    (match s.core.routing inp m with
      | .malformed => (s.headGone inp ch noise m).post (.malformed s.core.ident.site ch)
      | .border => (s.headGone inp ch noise m).post (.border s.core.ident.site ch inp (hdrCls m.hdr) (hdrSrc m.hdr))
      | .discard => (s.headGone inp ch noise m).mapRouter fun r => { r with lines := dropCount r.lines ch inp }
      | .held => (s.toldCrc ch noise).mapRouter fun r =>
        { r with inq := r.inq.map fun x => if x = (inp, m) then (inp, { m with bad := m.bad || decide (noise ≠ 0) }) else x }
      | .forward mask =>
        let sent : Msg := { m with bad := decide (m.check noise ≠ .passed) }
        if s.mayLeave (s.core.router.mover [inp] ch mask (hdrCls m.hdr)) = true then
          ((s.headGone inp ch noise m).mapRouter fun r => (r.pass inp sent).served mask inp).emitAll mask sent
        else s) := by
  show execRouteMessage inp ch noise s = _
  unfold execRouteMessage
  rw [h]
  dsimp only
  rw [State.toldCrc_eq, State.headGone_eq, Msg.bad_or_check]
  cases s.core.routing inp m
  case forward mask =>
    dsimp only
    by_cases may : s.mayLeave (s.core.router.mover [inp] ch mask (hdrCls m.hdr)) = true
    · rw [may]
      rfl
    · rw [if_neg may, Bool.not_eq_true] at *
      rw [may]
      rfl
  all_goals rfl

end

end Sys2Proof.Machine
end

section
/-! SUPPORT. The fabric statements, part 2: what competes for the outputs of a router, and what may leave it (R184, R185). -/

namespace Sys2Proof.Machine

/-! ## What waits at an input -/

section
variable {r : Router} {p : Port} {ch : Chan}

theorem Router.headAt_eq (r : Router) (p : Port) (ch : Chan) : r.headAt p ch = (r.waiting ch p).head? := by
  rw [Router.waiting, List.head?_map, List.head?_filter]
  rfl

theorem Router.waiting_nil (h : r.headAt p ch = none) : r.waiting ch p = [] := by
  rwa [Router.headAt_eq, List.head?_eq_none_iff] at h

theorem Router.waiting_cons {m : Msg} (h : r.headAt p ch = some m) : ∃ ms, r.waiting ch p = m :: ms := by
  rw [Router.headAt_eq] at h
  exact List.head?_eq_some_iff.mp h

/-- A VOTE group that is in step. -/
theorem Router.vote_fresh (fresh : ∀ v ∈ r.votes, v.ch ≠ ch) : r.vote ch = { ch := ch, was := [], owed := [], ahead := [] } := by
  have : r.votes.find? (fun v => v.ch = ch) = none := by simpa using fresh
  rw [Router.vote, this]
  rfl

theorem Router.owedBy_fresh (fresh : ∀ v ∈ r.votes, v.ch ≠ ch) : (r.vote ch).owedBy p = [] := by
  rw [Router.vote_fresh fresh]
  rfl

theorem Router.aheadOf_fresh (fresh : ∀ v ∈ r.votes, v.ch ≠ ch) : (r.vote ch).aheadOf p = [] := by
  rw [Router.vote_fresh fresh]
  rfl

/-- A member in step holds the beats of its messages. -/
theorem Router.stream_fresh (fresh : ∀ v ∈ r.votes, v.ch ≠ ch) :
    r.stream ch p = ((r.waiting ch p).takeWhile Msg.votes).flatMap Msg.wire := by
  simp [Router.stream, Router.owedBy_fresh fresh, Router.aheadOf_fresh fresh]

end

/-! ## Votes with nothing to vote on -/

theorem voteRun_empty (a b c : Option Beat) : voteRun ([], a) ([], b) ([], c) = none := rfl

/-- A group that is in step has nothing to catch up with. -/
theorem State.voteReady_fresh {s : State} {ch : Chan} (fresh : ∀ v ∈ s.core.router.votes, v.ch ≠ ch) : s.voteReady ch = s := by
  unfold State.voteReady
  generalize s.core.voters ch = ps
  induction ps with
  | nil => rfl
  | cons p ps ih =>
    have idle : State.voteCatchUp ch p (s.core.voteNo ch p) (s.core.router.inq.length + 1) s = s := by
      rw [State.voteCatchUp]
      split
      · rfl
      · rfl
      next late => exact absurd (Router.owedBy_fresh fresh) late
    rw [List.foldl_cons, idle, ih]

/-! ## Movers -/

section
variable {s : State} {x : Mover}

theorem State.mem_forwards : x ∈ s.forwards ↔ ∃ p m mask, (p, m) ∈ s.core.router.inq ∧ s.core.router.headAt p m.ch = some m ∧
    s.core.routing p m = .forward mask ∧ s.core.router.mover [p] m.ch mask (hdrCls m.hdr) = x := by
  simp only [State.forwards, List.mem_filterMap, Prod.exists]
  refine exists_congr fun p => exists_congr fun m => ?_
  by_cases head : s.core.router.headAt p m.ch = some m
  · cases s.core.routing p m <;> simp [head]
  · simp [head]

theorem State.mem_groupMovers : x ∈ s.groupMovers ↔ ∃ ch,
    ((∃ y ∈ s.core.router.inq, y.2.ch = ch) ∨ ∃ v ∈ s.core.router.votes, v.ch = ch) ∧
    closedBit (s.core.route ch) = false ∧ ((∃ out, s.core.combineMover ch out = some x) ∨ (∃ p, s.core.renormMover ch p = some x) ∨
      s.voteMover ch = some x ∨ s.core.markMover ch = some x) := by
  simp only [State.groupMovers, List.mem_flatMap, List.mem_eraseDups, List.mem_append, List.mem_map]
  refine exists_congr fun ch => and_congr Iff.rfl ?_
  cases closedBit (s.core.route ch)
  · simp [List.mem_filterMap, mem_allPorts]
  · simp

theorem State.mem_movers : x ∈ s.movers ↔ (x ∈ s.forwards ∨ x ∈ s.groupMovers) ∧ s.clearAll x.mask x.cls = true := by
  rw [State.movers, List.mem_filter, List.mem_append]

/-- Of what competes, something may leave whose receivers take its class, and that nothing goes before; in a ring anything may. -/
theorem State.mayLeave_iff : s.mayLeave x = true ↔ s.clearAll x.mask x.cls = true ∧
    ((∀ z ∈ s.movers, s.core.router.before z x = false) ∨ ∀ y ∈ s.movers, ∃ z ∈ s.movers, s.core.router.before z y = true) := by
  simp [State.mayLeave]

theorem Router.mover_eq (r : Router) (ps : List Port) (ch : Chan) (mask : BitVec 5) (cls : BitVec 2) : r.mover ps ch mask cls =
    { inp := ps.headD .n, ch := ch, mask := mask, cls := cls, rank := cls.toNat + if ∃ p ∈ ps, (p, ch) ∈ r.promoted then 1 else 0 } := by
  simp [Router.mover]

/-- Nothing goes before itself. -/
theorem Router.before_self (r : Router) (x : Mover) : r.before x x = false := by
  unfold Router.before
  split
  · rfl
  · simp

theorem State.clearAll_iff {mask : BitVec 5} {cls : BitVec 2} : s.clearAll mask cls = true ↔
    ∀ o, mask.getLsbD (portNo o) = true → s.clear s.core.ident.site o cls = true := by
  simp [State.clearAll, mem_allPorts, or_iff_not_imp_left]

end

/-! ## Who is among the movers -/

section
variable {c : Core} {ch : Chan} {x : Mover}

theorem Core.groupHeads_head {ps : List Port} {ms : List Msg} (h : c.groupHeads ch ps = some ms) :
    ps ≠ [] ∧ ∀ p ∈ ps, ∃ m, c.router.headAt p ch = some m := by
  unfold Core.groupHeads at h
  dsimp only at h
  split at h
  next => cases h
  next ok =>
    simp only [Bool.or_eq_true, List.isEmpty_iff, decide_eq_true_eq, not_or, not_not] at ok
    obtain ⟨⟨some', full⟩, -⟩ := ok
    refine ⟨some', fun p hp => Option.isSome_iff_exists.mp ?_⟩
    by_contra none
    have : (ps.filterMap fun p => c.router.headAt p ch).length < ps.length :=
      List.length_filterMap_lt_length_iff_exists.mpr ⟨p, hp, by simpa using none⟩
    omega

/-- A combining group that competes has a member, in JOIN and in the mode REDUCE or MAX, with a head. -/
theorem Core.combineMover_member {out : Port} (h : c.combineMover ch out = some x) : ∃ p, inJoin (c.route ch) p = true ∧
    modeOf (c.route ch) (portNo p) ≠ 0 ∧ ∃ m, c.router.headAt p ch = some m := by
  obtain ⟨⟨md, ms⟩, found, -⟩ := Option.map_eq_some_iff.mp h
  obtain ⟨k, hk, this⟩ := List.exists_of_findSome?_eq_some found
  obtain ⟨ms', heads, -⟩ := Option.map_eq_some_iff.mp this
  obtain ⟨some', head⟩ := Core.groupHeads_head heads
  obtain ⟨p, hp⟩ := List.exists_mem_of_ne_nil _ some'
  have member := (List.mem_filter.mp hp).2
  simp only [Bool.and_eq_true, decide_eq_true_eq] at member
  obtain ⟨⟨join, mode⟩, -⟩ := member
  refine ⟨p, join, ?_, head p hp⟩
  rw [mode]
  simp only [List.mem_cons, List.not_mem_nil, or_false] at hk
  rcases hk with rfl | rfl <;> decide

theorem Core.renormHead_member {p : Port} {m : Msg} (h : c.renormHead p ch = some m) : inJoin (c.route ch) p = true ∧
    modeOf (c.route ch) (portNo p) ≠ 0 ∧ c.router.headAt p ch = some m := by
  unfold Core.renormHead at h
  dsimp only at h
  split at h
  next => cases h
  next y head =>
    split at h
    next => cases h
    next ok =>
      cases h
      simp only [not_or, not_and, Bool.not_eq_true', Bool.not_eq_false] at ok
      obtain ⟨-, -, -, join, mode⟩ := ok
      exact ⟨join, fun zero => mode (by omega) (by omega), head⟩

theorem Core.renormMover_member {p : Port} (h : c.renormMover ch p = some x) : inJoin (c.route ch) p = true ∧
    modeOf (c.route ch) (portNo p) ≠ 0 ∧ ∃ m, c.router.headAt p ch = some m := by
  obtain ⟨m, head, -⟩ := Option.bind_eq_some_iff.mp h
  obtain ⟨join, mode, head⟩ := Core.renormHead_member head
  exact ⟨join, mode, m, head⟩

theorem Router.markAt_eq_some {r : Router} {p : Port} {m : Msg} : r.markAt p ch = some m ↔
    r.headAt p ch = some m ∧ hdrKind m.hdr = 3 ∧ m.malformed = false ∧ (r.vote ch).owedBy p = [] := by
  unfold Router.markAt
  cases r.headAt p ch with
  | none => simp
  | some y =>
    dsimp only
    split
    next ok =>
      simp only [Bool.not_eq_true'] at ok
      constructor
      · rintro ⟨⟩
        exact ⟨rfl, ok⟩
      · exact fun h => h.1
    next no =>
      simp only [Bool.not_eq_true'] at no
      constructor
      · rintro ⟨⟩
      · rintro ⟨⟨⟩, h⟩
        exact absurd h no

theorem Core.markMover_member (h : c.markMover ch = some x) : ∃ p m, c.router.headAt p ch = some m ∧ hdrKind m.hdr = 3 := by
  obtain ⟨y, found, -⟩ := Option.map_eq_some_iff.mp h
  unfold Core.marking at found
  dsimp only at found
  split at found
  next => cases found
  next m first =>
    obtain ⟨p, -, this⟩ := List.exists_of_findSome?_eq_some first
    obtain ⟨y, mark, -⟩ := Option.bind_eq_some_iff.mp this
    obtain ⟨head, kind, -⟩ := Router.markAt_eq_some.mp mark
    exact ⟨p, y, head, kind⟩

/-- What a VOTE group has from its input i: nothing where that is not in JOIN (R197, R199). -/
def Core.voteHold (c : Core) (ch : Chan) (i : ℕ) : List Beat × Option Beat := match (voteInputs (c.route ch))[i]? with
  | some p => if inJoin (c.route ch) p then (c.router.stream ch p, c.router.streamMark ch p) else ([], none)
  | none => ([], none)

theorem Core.voteNext_eq (c : Core) (ch : Chan) :
    c.voteNext ch = voteRun (c.voteHold ch 0) (c.voteHold ch 1) (c.voteHold ch 2) := rfl

theorem Core.voteHold_in {i : ℕ} {p : Port} (h : (voteInputs (c.route ch))[i]? = some p) (join : inJoin (c.route ch) p = true) :
    c.voteHold ch i = (c.router.stream ch p, c.router.streamMark ch p) := by
  simp [Core.voteHold, h, join]

theorem Core.voteHold_out {i : ℕ} (h : ∀ p, (voteInputs (c.route ch))[i]? = some p → inJoin (c.route ch) p = false) :
    c.voteHold ch i = ([], none) := by
  unfold Core.voteHold
  split
  next p hp => rw [h p hp]; rfl
  next => rfl

/-- A VOTE group in step none of whose voting inputs has a head forwards nothing. -/
theorem Core.voteNext_none (fresh : ∀ v ∈ c.router.votes, v.ch ≠ ch)
    (idle : ∀ p, modeOf (c.route ch) (portNo p) = 3 → inJoin (c.route ch) p = true → c.router.headAt p ch = none) : c.voteNext ch = none := by
  have hold (i : ℕ) : ∃ d, c.voteHold ch i = ([], d) := by
    by_cases h : ∃ p, (voteInputs (c.route ch))[i]? = some p ∧ inJoin (c.route ch) p = true
    · obtain ⟨p, hp, join⟩ := h
      have mode := (List.mem_filter.mp (List.mem_of_getElem? hp)).2
      have none := Router.waiting_nil (idle p (by simpa using mode) join)
      rw [Core.voteHold_in hp join, Router.stream_fresh fresh, none]
      exact ⟨_, rfl⟩
    · exact ⟨none, Core.voteHold_out fun p hp => by simpa using fun join => h ⟨p, hp, join⟩⟩
  obtain ⟨a, ha⟩ := hold 0
  obtain ⟨b, hb⟩ := hold 1
  obtain ⟨d, hd⟩ := hold 2
  rw [Core.voteNext_eq, ha, hb, hd, voteRun_empty]

end

/-! ## A message alone in its router -/

section
variable {s : State} {inp : Port} {m : Msg}

/-- What is forwarded alone competes with nothing but itself. -/
theorem State.movers_alone (alone : ∀ x ∈ s.core.router.inq, x = (inp, m)) (votes : s.core.router.votes = []) (kind : hdrKind m.hdr ≠ 3)
    (plain : modeOf (s.core.route m.ch) (portNo inp) = 0 ∨ inJoin (s.core.route m.ch) inp = false) {mask : BitVec 5}
    (route : s.core.routing inp m = .forward mask) : ∀ x ∈ s.movers, x = s.core.router.mover [inp] m.ch mask (hdrCls m.hdr) := by
  intro x hx
  have only {p : Port} {ch : Chan} {y : Msg} (h : s.core.router.headAt p ch = some y) : p = inp ∧ y = m ∧ ch = m.ch := by
    obtain ⟨same, here⟩ := Router.headAt_mem h
    obtain ⟨rfl, rfl⟩ := Prod.mk.inj (alone _ here)
    exact ⟨rfl, rfl, same.symm⟩
  have fresh (ch : Chan) : ∀ v ∈ s.core.router.votes, v.ch ≠ ch := by simp [votes]
  rcases (State.mem_movers.mp hx).1 with forward | group
  · obtain ⟨p, y, mask', here, -, routing, rfl⟩ := State.mem_forwards.mp forward
    obtain ⟨rfl, rfl⟩ := Prod.mk.inj (alone _ here)
    rw [route] at routing
    cases routing
    rfl
  · exfalso
    have joined {p : Port} {ch : Chan} (join : inJoin (s.core.route ch) p = true) (mode : modeOf (s.core.route ch) (portNo p) ≠ 0)
        {y : Msg} (h : s.core.router.headAt p ch = some y) : False := by
      obtain ⟨rfl, rfl, rfl⟩ := only h
      rcases plain with zero | out
      · exact mode zero
      · simp [out] at join
    obtain ⟨ch, -, -, ⟨out, combine⟩ | ⟨p, renorm⟩ | vote | mark⟩ := State.mem_groupMovers.mp group
    · obtain ⟨p, join, mode, y, head⟩ := Core.combineMover_member combine
      exact joined join mode head
    · obtain ⟨join, mode, y, head⟩ := Core.renormMover_member renorm
      exact joined join mode head
    · obtain ⟨rs, next, -⟩ := Option.map_eq_some_iff.mp vote
      rw [State.voteReady_fresh (fresh ch), Core.voteNext_none (fresh ch)] at next
      · cases next
      · intro p three join
        by_contra some'
        obtain ⟨y, head⟩ := Option.ne_none_iff_exists'.mp some'
        exact joined join (by omega) head
    · obtain ⟨p, y, head, three⟩ := Core.markMover_member mark
      obtain ⟨-, rfl, -⟩ := only head
      exact kind three

end

end Sys2Proof.Machine
end

section
/-! SUPPORT. The fabric statements, part 3: line counts, banks and check bits of a router's site, and every step of a router on one message
(R169, R171, R173, R184, R185, R187, R196, R197, R307, R321, R322). -/

namespace Sys2Proof.Machine

/-! ## Line counts (R187) -/

section
variable (xs : List (Chan × Port × ℕ)) (ch : Chan) (p q : Port)

theorem portCount_dropCount : portCount (dropCount xs ch p) ch q = if q = p then 0 else portCount xs ch q := by
  unfold portCount dropCount
  rw [List.find?_filter]
  by_cases same : q = p
  · subst same
    have : xs.find? (fun a => decide ((!(decide (a.1 = ch) && decide (a.2.1 = q))) = true ∧ (decide (a.1 = ch) && decide (a.2.1 = q)) = true)) = none := by
      simp only [List.find?_eq_none, decide_eq_true_eq, not_and, Bool.not_eq_true', Bool.not_eq_true]
      exact fun a _ other => other
    rw [if_pos rfl, this]
    rfl
  · rw [if_neg same]
    congr 4
    funext a
    by_cases hit : a.2.1 = q
    · simp [hit, same]
    · simp [hit]

theorem portCount_addCount : portCount (addCount xs ch p) ch q = if q = p then portCount xs ch q + 1 else portCount xs ch q := by
  by_cases same : q = p
  · subst same
    simp [addCount, portCount]
  · have skip : portCount (addCount xs ch p) ch q = portCount (dropCount xs ch p) ch q := by
      unfold addCount portCount
      rw [List.find?_cons_of_neg (by simpa using Ne.symm same)]
    rw [skip, portCount_dropCount, if_neg same, if_neg same]

/-- A line counts where it passes, and a marker ends the count (R187). -/
def countOf (kind n : ℕ) : ℕ := if kind = 2 then n + 1 else if kind = 3 then 0 else n

theorem portCount_note (r : Router) (mask : BitVec 5) (m : Msg) : portCount (r.note mask m).sent m.ch q =
    if mask.getLsbD (portNo q) = true then countOf (hdrKind m.hdr) (portCount r.sent m.ch q) else portCount r.sent m.ch q := by
  have sent (ps : List Port) (nodup : ps.Nodup) : ∀ xs, portCount (ps.foldl (fun xs p =>
      if !mask.getLsbD (portNo p) then xs
      else if hdrKind m.hdr = 2 then addCount xs m.ch p
      else if hdrKind m.hdr = 3 then dropCount xs m.ch p
      else xs) xs) m.ch q =
      if q ∈ ps ∧ mask.getLsbD (portNo q) = true then countOf (hdrKind m.hdr) (portCount xs m.ch q) else portCount xs m.ch q := by
    induction ps with
    | nil => simp
    | cons p ps ih =>
      intro xs
      obtain ⟨new, nodup⟩ := List.nodup_cons.mp nodup
      rw [List.foldl_cons, ih nodup]
      have one : portCount (if !mask.getLsbD (portNo p) then xs else if hdrKind m.hdr = 2 then addCount xs m.ch p
          else if hdrKind m.hdr = 3 then dropCount xs m.ch p else xs) m.ch q =
          if q = p ∧ mask.getLsbD (portNo q) = true then countOf (hdrKind m.hdr) (portCount xs m.ch q) else portCount xs m.ch q := by
        unfold countOf
        by_cases same : q = p
        · subst same
          cases mask.getLsbD (portNo q)
          · simp
          · by_cases two : hdrKind m.hdr = 2
            · simp [two, portCount_addCount]
            · by_cases three : hdrKind m.hdr = 3
              · simp [three, portCount_dropCount]
              · simp [two, three]
        · cases mask.getLsbD (portNo p)
          · simp [same]
          · by_cases two : hdrKind m.hdr = 2
            · simp [two, portCount_addCount, same]
            · by_cases three : hdrKind m.hdr = 3
              · simp [three, portCount_dropCount, same]
              · simp [two, three, same]
      rw [one]
      by_cases same : q = p
      · subst same
        simp [new]
      · simp [same]
  exact (sent allPorts (by decide) r.sent).trans (by simp [mem_allPorts])

theorem portCount_pass (r : Router) (m : Msg) : portCount (r.pass p m).lines m.ch p =
    portCount r.lines m.ch p + if hdrKind m.hdr = 2 then 1 else 0 := by
  unfold Router.pass
  split
  · exact (portCount_addCount ..).trans (if_pos rfl)
  · rfl

end

/-! ## Outputs and their receivers (R184, R187) -/

section
variable (s : State) (cls : BitVec 2) (m : Msg)

theorem State.coreAt_self : s.coreAt s.core.ident.site = s.core := if_pos rfl

theorem stops_eq_false (ms : List Msg) : (!stops ms cls) = decide (classBeats ms cls < 6) := by
  rw [stops, ← decide_not]
  exact decide_eq_decide.mpr Nat.not_le

theorem State.clear_loc : s.clear s.core.ident.site .loc cls = decide (classBeats s.core.router.portq cls < 6) := by
  rw [State.clear, State.coreAt_self, stops_eq_false]

theorem State.clear_link {out : Port} {site : Site} (h : out ≠ .loc) (leads : s.wafer.neighbour s.core.ident.site out = some site) :
    s.clear s.core.ident.site out cls =
      decide (classBeats (((s.coreAt site).router.inq.filter fun x => x.1 = opposite out).map (·.2)) cls < 6) := by
  cases out
  case loc => exact absurd rfl h
  all_goals simp only [State.clear, leads, Router.stopsAt, stops_eq_false]

theorem State.clear_edge {out : Port} (h : out ≠ .loc) (ends : s.wafer.neighbour s.core.ident.site out = none) :
    s.clear s.core.ident.site out cls = true := by
  cases out
  case loc => exact absurd rfl h
  all_goals simp only [State.clear, ends]

theorem State.emit_link {out : Port} {site : Site} (h : out ≠ .loc) (leads : s.wafer.neighbour s.core.ident.site out = some site) :
    s.emit s.core.ident.site out m = s.setCoreAt site fun c => c.enter (opposite out) m := by
  cases out
  case loc => exact absurd rfl h
  all_goals simp only [State.emit, leads]

theorem State.emit_edge {out : Port} (h : out ≠ .loc) (ends : s.wafer.neighbour s.core.ident.site out = none) :
    s.emit s.core.ident.site out m = s := by
  cases out
  case loc => exact absurd rfl h
  all_goals simp only [State.emit, ends]

theorem State.emit_loc : s.emit s.core.ident.site .loc m =
    { s with core := { s.core with router := { s.core.router with portq := s.core.router.portq ++ [m] } } } := if_pos rfl

end

/-! ## Banks and check bits (R169, R171, R322) -/

section
variable (w : Well) (word : ℕ)

theorem Well.mark_setMark (m : Option Mark) (x : ℕ) : (w.setMark word m).mark x = if x = word then m else w.mark x := by
  have rest : (w.marks.filter fun p => p.1 ≠ word).find? (fun p => p.1 = x) =
      if x = word then none else w.marks.find? fun p => p.1 = x := by
    rw [List.find?_filter]
    split
    next same => simp [same]
    next other =>
      congr 1
      funext p
      by_cases hit : p.1 = x
      · simp [hit, other]
      · simp [hit]
  cases m with
  | none =>
    rw [Well.mark, Well.setMark, rest]
    split <;> rfl
  | some k =>
    rw [Well.mark, Well.setMark, List.find?_cons]
    by_cases same : x = word
    · simp [same]
    · rw [decide_eq_false (Ne.symm same), rest, if_neg same, if_neg same]
      rfl

end

section
variable (s : State)

theorem bankPromote_beyond (req : Requester) {bank : ℕ} (h : 192 ≤ bank) : exec (.bankPromote req bank) s = .next s := by
  show execBankPromote req bank s = _
  rw [execBankPromote, if_pos h]

/-- A requester asks for a bank (R169). -/
theorem bankPromote_asks {req : Requester} {bank : ℕ} (h : bank < 192) (new : ∀ b ∈ s.core.well.banks, b.req = req → b.bank ≠ bank) :
    exec (.bankPromote req bank) s = .next { s with core := { s.core with well := { s.core.well with
      banks := s.core.well.banks ++ [{ req := req, bank := bank, since := s.core.csr.cycle.toNat, promoted := false }] } } } := by
  show execBankPromote req bank s = _
  unfold execBankPromote
  dsimp only
  rw [if_neg (Nat.not_le.mpr h), if_pos]
  · rfl
  · simpa using new

/-- A requester that waits for a bank is promoted once it has waited 8 cycles (R169). -/
theorem bankPromote_waits {req : Requester} {bank : ℕ} (h : bank < 192) (asks : ∃ b ∈ s.core.well.banks, b.req = req ∧ b.bank = bank) :
    exec (.bankPromote req bank) s = .next { s with core := { s.core with well := { s.core.well with banks := s.core.well.banks.map fun a =>
      if a.req = req ∧ a.bank = bank ∧ a.since + 8 ≤ s.core.csr.cycle.toNat then { a with promoted := true } else a } } } := by
  show execBankPromote req bank s = _
  unfold execBankPromote
  dsimp only
  rw [if_neg (Nat.not_le.mpr h), if_neg]
  · simp only [Bool.and_eq_true, decide_eq_true_eq, and_assoc]
    rfl
  · simpa using asks

/-- One cycle's grants (R169): a requester goes on waiting that another one comes before. -/
theorem mem_grantBanks (bs : List BankWait) (b : BankWait) : b ∈ grantBanks bs ↔ b ∈ bs ∧ ∃ x ∈ bs, x.bank = b.bank ∧
    requesterOrder x.req + (if x.promoted then 0 else 5) < requesterOrder b.req + if b.promoted then 0 else 5 := by
  simp only [grantBanks, List.mem_filter, List.any_eq_true, Bool.and_eq_true, decide_eq_true_eq]
  rfl

theorem eccWriteback_spec (word : ℕ) : Runs (.eccWriteback word) s (fun t => ∃ l,
    t = { s with core := { s.core with well := { s.core.well with marks := l } } } ∧
    t.core.well.mark word = (if s.core.well.mark word = some .corrected then none else s.core.well.mark word) ∧
    ∀ x, x ≠ word → t.core.well.mark x = s.core.well.mark x) := by
  refine ⟨_, rfl, ?_⟩
  by_cases hit : s.core.well.mark word = some .corrected
  · rw [if_pos hit, if_pos hit]
    refine ⟨_, rfl, (Well.mark_setMark ..).trans (if_pos rfl), fun x hx => (Well.mark_setMark ..).trans (if_neg hx)⟩
  · rw [if_neg hit, if_neg hit]
    exact ⟨_, rfl, rfl, fun _ _ => rfl⟩

theorem softError_spec {word : ℕ} (b : Bool) (h : 8 * word < 393216) : Runs (.softError word b) s (fun t => ∃ l,
    t = { s with core := { s.core with well := { s.core.well with marks := l } } } ∧
    t.core.well.mark word = some (if b || s.core.well.bad word then .uncorrectable else .correctable) ∧
    ∀ x, x ≠ word → t.core.well.mark x = s.core.well.mark x) := by
  refine ⟨_, (show execSoftError word b s = _ from congrArg Host.Outcome.next (if_pos h)), ?_⟩
  rw [State.mapCore]
  cases b
  · by_cases bad : s.core.well.bad word = true
    · have mark : s.core.well.mark word = some .uncorrectable := by simpa [Well.bad] using bad
      rw [if_neg Bool.false_ne_true, if_pos bad, bad]
      exact ⟨_, rfl, mark, fun _ _ => rfl⟩
    · simp only [bad, Bool.false_eq_true, if_false, Bool.or_false]
      exact ⟨_, rfl, (Well.mark_setMark ..).trans (if_pos rfl), fun x hx => (Well.mark_setMark ..).trans (if_neg hx)⟩
  · exact ⟨_, rfl, (Well.mark_setMark ..).trans (if_pos rfl), fun x hx => (Well.mark_setMark ..).trans (if_neg hx)⟩

theorem scrub_spec : Runs .scrub s (fun t => ∃ l ms,
    t = ({ s with core := { s.core with well := { s.core.well with marks := l, scrubRow := (s.core.well.scrubRow + 1) % 256 } } } : State).postAll ms ∧
    (∀ x, x / 192 = s.core.well.scrubRow → ((∃ m', (x, m') ∈ l) ↔ (x, Mark.uncorrectable) ∈ s.core.well.marks)) ∧
    (∀ x k, x / 192 ≠ s.core.well.scrubRow → ((x, k) ∈ l ↔ (x, k) ∈ s.core.well.marks)) ∧
    (∀ x, Mail.scrub s.core.ident.site (8 * x) ∈ ms ↔ x / 192 = s.core.well.scrubRow ∧ (x, Mark.uncorrectable) ∈ s.core.well.marks)) := by
  refine ⟨_, rfl, _, _, rfl, fun x hx => ?_, fun x k hx => ?_, fun x => ?_⟩
  · simp [hx]
  · simp [hx]
  · simp only [List.mem_map, List.mem_filter, Bool.and_eq_true, decide_eq_true_eq, Mail.scrub.injEq, true_and]
    constructor
    · rintro ⟨⟨y, k⟩, ⟨marked, row, rfl⟩, same⟩
      obtain rfl : y = x := by dsimp only at same; omega
      exact ⟨row, marked⟩
    · exact fun ⟨row, marked⟩ => ⟨_, ⟨marked, row, rfl⟩, rfl⟩

/-! ## Promotion (R185) -/

variable {s} {inp : Port} {ch : Chan} {m : Msg}

theorem classPromote_none (h : s.core.router.headAt inp ch = none) : exec (.classPromote inp ch) s = .next s := by
  show execClassPromote inp ch s = _
  rw [execClassPromote, h]

theorem classPromote_head {n : ℕ} (h : s.core.router.headAt inp ch = some m) (since : s.core.router.heads inp ch = some n) :
    exec (.classPromote inp ch) s = .next
      (if hdrCls m.hdr ≤ 1 ∧ (inp, ch) ∉ s.core.router.promoted ∧ n + 256 ≤ s.core.csr.cycle.toNat then
        s.mapRouter fun r => { r with promoted := r.promoted ++ [(inp, ch)] } else s) := by
  show execClassPromote inp ch s = _
  rw [execClassPromote, h, since]
  rfl

end

end Sys2Proof.Machine
end

section
/-! SUPPORT. The fabric statements, part 4: every step of a router on one message (R169, R171, R173, R184, R185, R187, R196, R197, R307,
R321, R322). -/

namespace Sys2Proof.Machine

/-- Settles O49: the routing of the head of an input, the order of what competes for the outputs, and what leaves. -/
theorem routerEvents : Obligations.RouterEvents := by
  unfold Obligations.RouterEvents
  intro s inp out q ch m site req bank word noise mask x y z ps k n c r me e p mode named join kind cls heads bad late shut goes start popped
    gone sent put now mine free moved
  have fine (h : ¬ bad) : m.malformed = false := by
    rw [← Bool.not_eq_true, Msg.malformed_iff]
    exact h
  have owes (h : heads) : c.router.late m.ch inp = true ↔ late := by
    rw [Router.late_iff, (Router.headAt_mem h).1]
  have onTime (h : heads) (l : ¬ late) : c.router.late m.ch inp = false := by
    rw [← Bool.not_eq_true, owes h]
    exact l
  have entry (h : heads) : c.route m.ch = e := by rw [(Router.headAt_mem h).1]
  have joins : inJoin e inp = join := inJoin_eq e inp
  have opened (h : heads) (l : ¬ late) (open' : ¬ shut) : ¬ (omask (c.route m.ch) (portNo inp) = 0 ∨ closedBit (c.route m.ch) = true) := by
    rw [entry h]
    exact fun h => open' ⟨l, h⟩
  have routing (h : heads) (good : ¬ bad) (l : ¬ late) (open' : ¬ shut) : c.routing inp m =
      if kind = 3 then if join = true then .held else .discard
      else if mode ≠ 0 ∧ join = true then .held else .forward named := by
    rw [Core.routing_entry (fine good) (onTime h l), if_neg (opened h l open'), entry h, joins]
    rfl
  have forwards (h : free) : c.routing inp m = .forward named := by
    obtain ⟨head, good, prompt, open', kind3, plain⟩ := h
    rw [routing head good prompt open', if_neg kind3, if_neg]
    rintro ⟨two, on⟩
    exact plain.elim two (by simp [on])
  have mine_eq : r.mover [inp] ch named (hdrCls m.hdr) = mine := by
    rw [Router.mover_eq]
    simp [mine, cls, hdrCls]
  have leaves (h : free) : goes = .next (if s.mayLeave mine = true then moved else s) := by
    have routed := routeMessage_head noise h.1
    rw [show s.core.routing inp m = .forward named from forwards h] at routed
    dsimp only at routed
    rw [show s.core.router.mover [inp] ch named (hdrCls m.hdr) = mine from mine_eq, Msg.check_ne_passed] at routed
    exact routed
  have aloneMoves (h : free) (clear : s.clearAll named cls = true) (votes : r.votes = []) (alone : ∀ x ∈ r.inq, x = (inp, m)) :
      s.mayLeave mine = true := by
    obtain ⟨head, -, -, -, kind3, plain⟩ := id h
    refine State.mayLeave_iff.mpr ⟨clear, .inl fun z hz => ?_⟩
    have plain : modeOf (s.core.route m.ch) (portNo inp) = 0 ∨ inJoin (s.core.route m.ch) inp = false := by
      rw [show s.core.route m.ch = e from entry head, joins]
      exact plain
    have same := State.movers_alone alone votes kind3 plain (forwards h) z hz
    rw [(Router.headAt_mem head).1, show s.core.router.mover [inp] ch named (hdrCls m.hdr) = mine from mine_eq] at same
    rw [same, Router.before_self]
  refine ⟨fun h => ⟨routeMessage_none noise h, classPromote_none h⟩, fun h odd => ?_, fun h good closed => ?_, fun h good l open' kind3 out => ?_,
    fun h good open' hold => ?_, fun h may => ?_, fun h may => ?_, fun h clear votes alone => ?_, fun h clear => ?_, State.clearAll_iff,
    s.clear_loc cls, s.clear_link cls, s.clear_edge cls, State.mayLeave_iff, fun h => (State.mem_movers.mp h).2, r.mover_eq ps ch mask k,
    fun h => ?_, fun h => ?_, fun l h => ?_, rfl, ?_, ?_, s.emit_loc m, s.emit_link m, s.emit_edge m, fun h since low new old => ?_,
    fun h since no => ?_, bankPromote_asks s, fun h asks => ?_, bankPromote_beyond s req, mem_grantBanks, rfl,
    eccWriteback_spec s word, scrub_spec s, fun b => softError_spec s b, fun b h => ?_⟩
  · have routed := routeMessage_head noise h
    rwa [Core.routing_malformed (Msg.malformed_iff.mpr odd)] at routed
  · have routed := routeMessage_head noise h
    rw [Core.routing_entry (fine good) (onTime h closed.1), if_pos (by rw [show s.core.route m.ch = e from entry h]; exact closed.2)] at routed
    exact routed
  · have routed := routeMessage_head noise h
    rw [show s.core.routing inp m = _ from routing h good l open', if_pos kind3, if_neg (by simp [out])] at routed
    exact routed
  · have held : c.routing inp m = .held := by
      by_cases l : late
      · exact Core.routing_late (fine good) ((owes h).mpr l)
      · obtain ⟨on, stays⟩ := hold.resolve_left l
        rw [routing h good l open', if_pos on]
        by_cases kind3 : kind = 3
        · rw [if_pos kind3]
        · rw [if_neg kind3, if_pos ⟨stays.resolve_left kind3, on⟩]
    have routed := routeMessage_head noise h
    rw [show s.core.routing inp m = .held from held] at routed
    dsimp only at routed
    rw [State.mapRouter, State.mapCore, State.toldCrc_core] at routed
    exact routed
  · rw [leaves h, if_pos may]
  · rw [leaves h, if_neg (by simp [may])]
  · rw [leaves h, if_pos (aloneMoves h clear votes alone)]
  · obtain ⟨same, here⟩ := Router.headAt_mem h.1
    refine State.mem_movers.mpr ⟨.inl (State.mem_forwards.mpr ⟨inp, m, named, here, ?_, forwards h, ?_⟩), clear⟩
    · rw [same]
      exact h.1
    · rw [same]
      exact mine_eq
  · rw [Router.before, h]
  · simp [Router.before, h]
  · rw [Router.turn, h]
    rfl
  · rw [portCount_note]
    cases mask.getLsbD (portNo q) <;> rfl
  · exact portCount_pass inp r m
  · rw [classPromote_head h since, if_pos ⟨low, new, old⟩]
    rfl
  · rw [classPromote_head h since, if_neg]
    rintro ⟨low, new, old⟩
    rcases no with high | on | young
    · exact absurd (show cls ≤ 1 from low) (by bv_omega)
    · exact new on
    · exact absurd (show n + 256 ≤ now from old) (by omega)
  · exact ⟨_, bankPromote_waits s h asks, _, rfl, List.length_map _, fun b => by simp only [List.mem_map, eq_comm]; rfl⟩
  · exact congrArg Host.Outcome.next (if_neg (Nat.not_lt.mpr h))

end Sys2Proof.Machine
end

section
/-! SUPPORT. The fabric statements, part 5: words written into a ring (R180, R321, R322). -/

namespace Sys2Proof.Machine

/-! ## One ring word -/

/-- A word of the well written with fresh check bits, or in the uncorrectable pattern (R321, R322). -/
def Well.putWord (w : Well) (k : ℕ) (x : Word) (bad : Bool) : Well := if bad then w.spoil k else w.store (8 * k) (leBytes 8 x.toNat)

/-- The word as a number (R7). -/
def Well.wordNat (w : Well) (k : ℕ) : ℕ := ofLeBytes ((List.range 8).map fun i => Mem.get w.bytes (8 * k + i))

section
variable (w : Well) (k : ℕ) (x : Word) (bad : Bool)

theorem Well.putWord_wf (h : Memory.wf w.bytes = true) : Memory.wf (w.putWord k x bad).bytes = true := by
  cases bad
  · exact Well.store_wf w h _ _
  · exact Well.spoil_wf w h _

theorem Well.get_putWord_other (h : Memory.wf w.bytes = true) {b : ℕ} (out : b < 8 * k ∨ 8 * k + 8 ≤ b) :
    Mem.get (w.putWord k x bad).bytes b = Mem.get w.bytes b := by
  have written (v : ℕ) : Mem.get (Mem.write w.bytes (8 * k) (leBytes 8 v)) b = Mem.get w.bytes b := by
    rw [Mem.get_write _ h, if_neg]
    rw [length_leBytes]
    omega
  cases bad
  · exact written _
  · exact written 0

theorem Well.wordNat_putWord_other (h : Memory.wf w.bytes = true) {j : ℕ} (other : j ≠ k) :
    (w.putWord k x bad).wordNat j = w.wordNat j := by
  unfold Well.wordNat
  congr 1
  refine List.map_congr_left fun i hi => ?_
  have := List.mem_range.mp hi
  exact w.get_putWord_other k x bad h (by omega)

/-- A word written with fresh check bits reads as what was written. -/
theorem Well.wordNat_putWord (h : Memory.wf w.bytes = true) : (w.putWord k x false).wordNat k = x.toNat := by
  have bytes : (List.range 8).map (fun i => Mem.get (w.putWord k x false).bytes (8 * k + i)) = leBytes 8 x.toNat := by
    refine List.ext_getElem (by simp [length_leBytes]) fun i hi _ => ?_
    simp only [List.length_map, List.length_range] at hi
    rw [List.getElem_map, List.getElem_range]
    refine (Mem.get_write _ h _ _ _).trans ?_
    rw [if_pos (by rw [length_leBytes]; omega), Nat.add_sub_cancel_left, List.getD_eq_getElem _ _ (by rw [length_leBytes]; exact hi)]
  rw [Well.wordNat, bytes, ofLeBytes_leBytes (by have := x.isLt; omega)]

theorem Well.bad_putWord : (w.putWord k x bad).bad k = bad := by
  cases bad
  · rw [← Bool.not_eq_true, Well.bad_iff]
    rintro ⟨p, found, -⟩
    have here := List.find?_some found
    have kept := List.mem_of_find?_eq_some found
    simp only [Well.putWord, Bool.false_eq_true, if_false, Well.store, length_leBytes, List.mem_filter, Bool.or_eq_true,
      decide_eq_true_eq] at kept here
    omega
  · simp [Well.putWord, Well.spoil, Well.bad, Well.mark]

theorem Well.bad_putWord_other {j : ℕ} (other : j ≠ k) : (w.putWord k x bad).bad j = w.bad j := by
  have stored (xs : List Byte) (hxs : xs.length = 8) : (w.store (8 * k) xs).mark j = w.mark j := by
    rw [Well.mark, Well.store, List.find?_filter, Well.mark]
    congr 2
    funext p
    by_cases hit : p.1 = j
    · have : p.1 < 8 * k / 8 ∨ (8 * k + xs.length - 1) / 8 < p.1 := by omega
      simp [hit] at this ⊢
      exact this
    · simp [hit]
  cases bad
  · exact congrArg (fun m => decide (m = some Mark.uncorrectable)) (stored _ (length_leBytes 8 _))
  · refine congrArg (fun m => decide (m = some Mark.uncorrectable)) (Eq.trans ?_ (stored (leBytes 8 0) (length_leBytes 8 _)))
    rw [Well.putWord, if_pos rfl, Well.spoil, Well.mark, Well.mark, List.find?_cons_of_neg (by simpa using other.symm)]

end

/-! ## Words one after the other -/

/-- Words written at places `word i`, `word (i + 1)`, … of the well. -/
def Well.putWords (word : ℕ → ℕ) (bad : Bool) : List Word → ℕ → Well → Well
  | [], _, w => w
  | x :: xs, i, w => Well.putWords word bad xs (i + 1) (w.putWord (word i) x bad)

section
variable {word : ℕ → ℕ} {bad : Bool}

/-- Bytes that stand at no place written stay. -/
theorem Well.get_putWords (xs : List Word) {b : ℕ} : ∀ i w, Memory.wf w.bytes = true →
    (∀ j < xs.length, b < 8 * word (i + j) ∨ 8 * word (i + j) + 8 ≤ b) → Mem.get (Well.putWords word bad xs i w).bytes b = Mem.get w.bytes b := by
  induction xs with
  | nil => exact fun i w _ _ => rfl
  | cons x xs ih =>
    intro i w wf out
    rw [Well.putWords, ih _ _ (w.putWord_wf _ x bad wf), w.get_putWord_other _ x bad wf]
    · simpa using out 0 (by simp)
    · intro j hj
      have := out (j + 1) (by simpa using hj)
      rwa [show i + (j + 1) = i + 1 + j by omega] at this

/-- A word at no place written keeps its number and its check bits. -/
theorem Well.putWords_other (xs : List Word) {k : ℕ} : ∀ i w, Memory.wf w.bytes = true → (∀ j < xs.length, k ≠ word (i + j)) →
    (Well.putWords word bad xs i w).wordNat k = w.wordNat k ∧ (Well.putWords word bad xs i w).bad k = w.bad k := by
  induction xs with
  | nil => exact fun i w _ _ => ⟨rfl, rfl⟩
  | cons x xs ih =>
    intro i w wf out
    have first : k ≠ word i := by simpa using out 0 (by simp)
    obtain ⟨number, mark⟩ := ih (i + 1) (w.putWord (word i) x bad) (w.putWord_wf _ x bad wf) fun j hj => by
      have := out (j + 1) (by simpa using hj)
      rwa [show i + (j + 1) = i + 1 + j by omega] at this
    exact ⟨number.trans (w.wordNat_putWord_other _ x bad wf first), mark.trans (w.bad_putWord_other _ x bad first)⟩

/-- Every word written at a place of its own is there. -/
theorem Well.putWords_there (xs : List Word) : ∀ i w, Memory.wf w.bytes = true →
    (∀ a < xs.length, ∀ b < xs.length, word (i + a) = word (i + b) → a = b) → ∀ j < xs.length,
    (bad = false → (Well.putWords word bad xs i w).wordNat (word (i + j)) = (xs.getD j 0).toNat) ∧
    (Well.putWords word bad xs i w).bad (word (i + j)) = bad := by
  induction xs with
  | nil => exact fun i w _ _ j hj => absurd hj (by simp)
  | cons x xs ih =>
    intro i w wf apart j hj
    have wf' := w.putWord_wf (word i) x bad wf
    cases j with
    | zero =>
      have out (j : ℕ) (hj : j < xs.length) : word i ≠ word (i + 1 + j) := fun same => by
        have := apart 0 (by simp) (j + 1) (by simpa using hj) (by rw [Nat.add_zero, same]; congr 1; omega)
        omega
      obtain ⟨number, mark⟩ := Well.putWords_other xs (i + 1) _ wf' out
      refine ⟨fun fresh => ?_, mark.trans (w.bad_putWord _ x bad)⟩
      subst fresh
      exact number.trans (w.wordNat_putWord _ x wf)
    | succ j =>
      have shift (a : ℕ) : i + (a + 1) = i + 1 + a := by omega
      rw [shift j]
      refine ih (i + 1) _ wf' (fun a ha b hb same => ?_) j (by simpa using hj)
      have := apart (a + 1) (by simpa using ha) (b + 1) (by simpa using hb) (by rw [shift a, shift b, same])
      omega

end

/-! ## Entries (R180) -/

/-- The header and the content words of an entry, at places of the well. -/
def Well.putEntry (word : ℕ → ℕ) (hdr : Word) (ws : List Word) (bad : Bool) (w : Well) : Well :=
  Well.putWords word bad ws 1 (w.putWord (word 0) hdr false)

/-- The place of ring word i of an entry that stands at an offset of a channel's ring. -/
def ChanState.placeOf (h : ChanState) (off i : ℕ) : ℕ := h.rbase + (off + i) % h.rlen

theorem ChanState.placeOf_inj {h : ChanState} {off a b : ℕ} (ha : a < h.rlen) (hb : b < h.rlen) (same : h.placeOf off a = h.placeOf off b) :
    a = b := by
  have mods : (off + a) % h.rlen = (off + b) % h.rlen := by
    unfold ChanState.placeOf at same
    omega
  have := Nat.ModEq.add_left_cancel' off mods
  rwa [Nat.ModEq, Nat.mod_eq_of_lt ha, Nat.mod_eq_of_lt hb] at this

theorem Core.ringWrite_eq (c : Core) (ch : Chan) (off : ℕ) (x : Word) (bad : Bool) : c.ringWrite ch off x bad =
    { c with well := c.well.putWord ((c.chan ch).rbase + off % (c.chan ch).rlen) x bad } := by
  rw [Core.ringWrite, ChanState.addr, Nat.mul_div_cancel_left _ (by decide)]
  rfl

/-- An entry written into its ring changes the well alone. -/
theorem Core.writeEntry_eq (c : Core) (ch : Chan) (off : ℕ) (hdr : Word) (ws : List Word) (bad : Bool) : c.writeEntry ch off hdr ws bad =
    { c with well := c.well.putEntry ((c.chan ch).placeOf off) hdr ws bad } := by
  have content (ws : List Word) : ∀ i (d : Core), d.chans = c.chans →
      (ws.zipIdx i).foldl (fun c (x, i) => c.ringWrite ch (off + 1 + i) x bad) d =
      { d with well := Well.putWords ((c.chan ch).placeOf off) bad ws (i + 1) d.well } := by
    induction ws with
    | nil => exact fun i d _ => rfl
    | cons x xs ih =>
      intro i d same
      have here : d.chan ch = c.chan ch := by rw [Core.chan, Core.chan, same]
      rw [List.zipIdx_cons, List.foldl_cons]
      dsimp only
      rw [Core.ringWrite_eq, here, ih]
      · rw [Well.putWords, ChanState.placeOf, show off + (i + 1) = off + 1 + i by omega]
      · exact same
  rw [Core.writeEntry, Core.ringWrite_eq, content ws 0]
  · rfl
  · rfl

section
variable {h : ChanState} {off : ℕ} {hdr : Word} {ws : List Word} {bad : Bool} {w : Well}

/-- An entry that its ring can hold stands in it, its header with fresh check bits, and every byte outside it is as before. -/
theorem Well.putEntry_spec (fits : ws.length < h.rlen) (wf : Memory.wf w.bytes = true) :
    let w' := w.putEntry (h.placeOf off) hdr ws bad
    w'.wordNat (h.placeOf off 0) = hdr.toNat ∧ w'.bad (h.placeOf off 0) = false ∧
    (∀ i < ws.length, (bad = false → w'.wordNat (h.placeOf off (i + 1)) = (ws.getD i 0).toNat) ∧ w'.bad (h.placeOf off (i + 1)) = bad) ∧
    ∀ b, (∀ i ≤ ws.length, b < 8 * h.placeOf off i ∨ 8 * h.placeOf off i + 8 ≤ b) → Mem.get w'.bytes b = Mem.get w.bytes b := by
  have wf' := w.putWord_wf (h.placeOf off 0) hdr false wf
  have out (j : ℕ) (hj : j < ws.length) : h.placeOf off 0 ≠ h.placeOf off (1 + j) := fun same => by
    have := ChanState.placeOf_inj (by omega) (by omega) same
    omega
  obtain ⟨number, mark⟩ := Well.putWords_other (bad := bad) ws 1 _ wf' out
  refine ⟨number.trans (w.wordNat_putWord _ hdr wf), mark.trans (w.bad_putWord _ hdr false), fun i hi => ?_, fun b far => ?_⟩
  · rw [Nat.add_comm i 1]
    refine Well.putWords_there ws 1 _ wf' (fun a ha b hb same => ?_) i hi
    have := ChanState.placeOf_inj (by omega) (by omega) same
    omega
  · refine (Well.get_putWords ws 1 _ wf' fun j hj => far (1 + j) (by omega)).trans ?_
    exact w.get_putWord_other _ hdr false wf (far 0 (by omega))

end

end Sys2Proof.Machine
end

section
/-! SUPPORT. The fabric statements, part 6: what an arrival wakes, where a message lands, and lines whose windows close (R180 to R183, R194,
R258, R333). -/

namespace Sys2Proof.Machine

/-! ## Channels changed -/

section
variable (c : Core) (ch : Chan)

theorem Core.setChan_congr {f g : ChanState → ChanState} (h : f (c.chan ch) = g (c.chan ch)) : c.setChan ch f = c.setChan ch g := by
  unfold Core.setChan
  rw [show f c.chans[ch.toNat] = g c.chans[ch.toNat] from h]

theorem Core.setChan_id {f : ChanState → ChanState} (h : f (c.chan ch) = c.chan ch) : c.setChan ch f = c := by
  unfold Core.setChan
  rw [show f c.chans[ch.toNat] = c.chans[ch.toNat] from h, Vector.set_getElem_self]

theorem Core.setChan_setChan (f g : ChanState → ChanState) : (c.setChan ch f).setChan ch g = c.setChan ch fun h => g (f h) := by
  simp [Core.setChan]

theorem Core.chan_setChan_same (f : ChanState → ChanState) : (c.setChan ch f).chan ch = f (c.chan ch) := by
  rw [Core.chan_setChan, if_pos rfl]

/-- A change of a channel that keeps its marker records keeps the core's. -/
theorem Core.marks_setChan {f : ChanState → ChanState} (h : (f (c.chan ch)).marks = (c.chan ch).marks) : (c.setChan ch f).marks = c.marks := by
  have same : (c.setChan ch f).chans.toList.map ChanState.marks = c.chans.toList.map ChanState.marks := by
    rw [Core.setChan, Vector.toList_set, List.map_set, show (f c.chans[ch.toNat]).marks = c.chans[ch.toNat].marks from h]
    refine List.ext_getElem (by simp) fun i _ _ => ?_
    rw [List.getElem_set]
    split
    next here => simp [← here]
    next => rfl
  rw [Core.marks, same]
  rfl

end

/-! ## Arrivals (R183, R258, R261) -/

/-- From core c to core d a channel's handler, where it has one, is created, or leaves IDLE, and every other strand stays. -/
def Core.Arrives (c d : Core) (ch : Chan) : Prop :=
  let h := c.chan ch
  (∀ n, (h.hv = false ∨ n ≠ h.hstr) → d.strand n = c.strand n) ∧
  (h.hv = true → (c.strand h.hstr).state = .absent → c.issue.allowed.getLsbD h.hstr.toNat = true →
    d.strand h.hstr = { Strand.blank with
      pc := (c.strand h.hstr).entry, entry := (c.strand h.hstr).entry, cause := 2, wch := ch
      state := if c.stopped then .stop .run else .live .run }) ∧
  (h.hv = true → (c.strand h.hstr).liveState = some (.wait .idle) →
    d.strand h.hstr = (c.strand h.hstr).setLive (.wait (.finished 4))) ∧
  (h.hv = true → (c.strand h.hstr).state ≠ .absent → (c.strand h.hstr).liveState ≠ some (.wait .idle) →
    d.strand h.hstr = c.strand h.hstr)

section
variable (c : Core) (ch : Chan)

theorem Core.arrival_eq : c.arrival ch = { c with strands := (c.arrival ch).strands } := by
  unfold Core.arrival
  dsimp only
  split <;> rfl

/-- What an arrival makes of a handler. -/
def Strand.arrived (st : Strand) : Strand := match st.liveState with
  | some (.wait .idle) => st.setLive (.wait (.finished 4))
  | _ => st

theorem Strand.arrived_idle {st : Strand} (h : st.liveState = some (.wait .idle)) : st.arrived = st.setLive (.wait (.finished 4)) := by
  rw [Strand.arrived, h]

theorem Strand.arrived_other {st : Strand} (h : st.liveState ≠ some (.wait .idle)) : st.arrived = st := by
  unfold Strand.arrived
  split
  next idle => exact absurd idle h
  next => rfl

theorem Core.arrival_none (h : (c.chan ch).hv = false) : c.arrival ch = c := by
  simp [Core.arrival, h]

theorem Core.arrival_handler (h : (c.chan ch).hv = true) : c.arrival ch = c.setStrand (c.chan ch).hstr fun st => Strand.arrived
    (if st.state = .absent ∧ c.issue.allowed.getLsbD (c.chan ch).hstr.toNat = true then st.created c.stopped 2 ch else st) := by
  simp only [Core.arrival, h, if_true, Core.create, Core.setStrand_setStrand]
  rfl

theorem Core.arrival_arrives : c.Arrives (c.arrival ch) ch := by
  by_cases hv : (c.chan ch).hv = true
  · rw [Core.Arrives, Core.arrival_handler c ch hv]
    refine ⟨fun n hn => ?_, fun _ absent allowed => ?_, fun _ idle => ?_, fun _ here busy => ?_⟩
    · exact Core.strand_setStrand_ne _ _ _ _ (hn.resolve_left (by simp [hv]))
    · rw [Core.strand_setStrand_same, if_pos ⟨absent, allowed⟩]
      refine Strand.arrived_other ?_
      cases c.stopped <;> simp [Strand.created, Strand.liveState]
    · have here : (c.strand (c.chan ch).hstr).state ≠ .absent := fun absent => by simp [Strand.liveState, absent] at idle
      rw [Core.strand_setStrand_same, if_neg fun h => here h.1]
      exact Strand.arrived_idle idle
    · rw [Core.strand_setStrand_same, if_neg fun h => here h.1]
      exact Strand.arrived_other busy
  · have hv : (c.chan ch).hv = false := by simpa using hv
    rw [Core.Arrives, Core.arrival_none c ch hv]
    simp [hv]

/-- What an arrival does rests on the strands, the binding, and who may be created. -/
theorem Core.Arrives.of_arrival {c d : Core} {ch : Chan} (strands : d.strands = c.strands) (bind : (d.chan ch).bind = (c.chan ch).bind)
    (issue : d.issue = c.issue) (stopped : d.stopped = c.stopped) : c.Arrives (d.arrival ch) ch := by
  have arrives := d.arrival_arrives ch
  have hv : (d.chan ch).hv = (c.chan ch).hv := by rw [ChanState.hv, bind]; rfl
  have hstr : (d.chan ch).hstr = (c.chan ch).hstr := by rw [ChanState.hstr, bind]; rfl
  have strand (n : StrandNo) : d.strand n = c.strand n := by rw [Core.strand, strands]; rfl
  simp only [Core.Arrives, hv, hstr, strand, issue, stopped] at arrives
  exact arrives

end

/-! ## Where a message lands (R180, R333) -/

section
variable {c : Core} {ch : Chan} {n : ℕ}

theorem Core.landing_ring (free : (c.spill.all fun s => decide (s.ch ≠ ch)) = true) (room : n ≤ (c.chan ch).room) : c.landing ch n = .ring := by
  have : (c.spill.any fun s => decide (s.ch = ch)) = false := by simpa using free
  simp [Core.landing, this, room]

theorem Core.landing_full (full : (c.chan ch).room < n ∨ (c.spill.all fun s => decide (s.ch ≠ ch)) = false) : c.landing ch n =
    if c.stopped = true ∧ (c.spill.map Spill.bytes).sum + 8 * n ≤ 65536 then .spill else .wait := by
  have behind : (!(c.spill.any fun s => decide (s.ch = ch)) && decide (n ≤ (c.chan ch).room)) = false := by
    rcases full with room | spilled
    · simp [room]
    · simpa using fun h => absurd h (by simpa using spilled)
  unfold Core.landing
  dsimp only
  rw [behind, ← List.sum_eq_foldl]
  cases c.stopped
  · rfl
  · simp only [if_true, true_and]
    rfl

end

/-! ## Windows that close (R194) -/

section
variable {c : Core} {ch : Chan} {p : Held → Bool}

theorem Core.closeLines_none (h : ∀ l, Item.held l ∈ (c.chan ch).items → p l = false) : c.closeLines ch p = c := by
  unfold Core.closeLines
  generalize (c.chan ch).items = is at h
  induction is with
  | nil => rfl
  | cons i is ih =>
    have rest := ih fun l hl => h l (List.mem_cons_of_mem _ hl)
    cases i with
    | held l =>
      rw [List.foldl_cons]
      dsimp only
      rw [h l (List.mem_cons_self ..)]
      exact rest
    | entry e => exact rest
    | marker code => exact rest

theorem Core.closeWindows_none (h : ∀ l, Item.held l ∈ (c.chan ch).items → p l = false) (none : ∀ y ∈ c.spill, ∀ l, y.item ≠ .held l) :
    c.closeWindows ch p = c := by
  unfold Core.closeWindows
  dsimp only
  rw [Core.closeLines_none h]
  refine congrArg (fun xs => { c with spill := xs }) ((List.map_congr_left fun y hy => ?_).trans (List.map_id _))
  split
  next l held => exact absurd held (none y hy l)
  next => rfl

/-- The content of a held line in its stored form: poison, formed anew, as it came, or scaled (R179, R194, R321). -/
theorem Held.content_length (l : Held) (whole : l.raw.length = l.fmt.n + 1) : l.content.length = l.fmt.n + 2 := by
  unfold Held.content
  dsimp only
  split_ifs <;> simp [payOf, whole]

/-- A held line as an entry. -/
def Held.closed (l : Held) : Item := .entry { hdr := l.hdr, off := l.off, words := l.content.length, read := 0 }

/-- The one held line of a channel becomes an entry. -/
theorem Core.closeLine_single {l : Held} (items : (c.chan ch).items = [.held l]) : c.closeLine ch l =
    Core.setChan { c with well := c.well.putEntry ((c.chan ch).placeOf l.off) l.hdr l.content false } ch fun q => { q with items := [l.closed] } := by
  rw [Core.closeLine, Core.writeEntry_eq]
  refine Core.setChan_congr _ _ (congrArg (fun is => { c.chan ch with items := is }) ?_)
  show (c.chan ch).items.map _ = _
  rw [items, List.map_singleton, if_pos rfl]
  rfl

theorem Core.closeWindows_single {l : Held} (items : (c.chan ch).items = [.held l]) (spill : c.spill = []) (h : p l = true) :
    c.closeWindows ch p = Core.setChan { c with well := c.well.putEntry ((c.chan ch).placeOf l.off) l.hdr l.content false } ch fun q =>
      { q with items := [l.closed] } := by
  have closed : c.closeLines ch p = c.closeLine ch l := by
    rw [Core.closeLines, items]
    exact if_pos h
  unfold Core.closeWindows
  dsimp only
  rw [closed, Core.closeLine_single items]
  refine congrArg (fun xs => { Core.setChan { c with well := _ } ch _ with spill := xs }) ?_
  show c.spill.map _ = c.spill
  rw [spill]
  rfl

end

end Sys2Proof.Machine
end

section
/-! SUPPORT. The fabric statements, part 7: router delivery by the kind of message (R180 to R183, R191, R192, R194, R333). -/

namespace Sys2Proof.Machine

/-! ## ROUTER_DELIVERY -/

section
variable {s : State} {cls : BitVec 2} {c' : Core}

theorem routerDelivery_quiet (h : ∀ x pc n, s.core.deliver cls x pc n = (c', [])) :
    exec (.routerDelivery cls) s = .next { s with core := c' } := by
  show Host.Outcome.next (s.deliver cls) = _
  unfold State.deliver
  dsimp only
  rw [h]
  simp [State.postAll]

/-- A delivery that reports uses three free values (log entry 5). -/
theorem routerDelivery_reports {mail : Word → Word → Word → Mail} (h : ∀ x pc n, s.core.deliver cls x pc n = (c', [mail x pc n])) :
    exec (.routerDelivery cls) s = .next (({ s with core := c', free := s.free + 3 } : State).post
      (mail (Config.freeValue s.free) (Config.freeValue (s.free + 1)) (Config.freeValue (s.free + 2)))) := by
  show Host.Outcome.next (s.deliver cls) = _
  unfold State.deliver
  dsimp only
  rw [h]
  rfl

end

section
variable {c : Core} {cls : BitVec 2} {m : Msg} (x pc n : Word)

theorem Core.deliver_none (h : c.atPort cls = none) : c.deliver cls x pc n = (c, []) := by
  rw [Core.deliver, h]

theorem Core.deliver_unbound (h : c.atPort cls = some m) (unbound : (c.chan m.ch).rlen = 0) :
    c.deliver cls x pc n = (c.dropPort m, [c.asyncMail Code.chan (chanVal x m) pc n]) := by
  rw [Core.deliver, h]
  exact if_pos unbound

theorem Msg.ringWords_pos (kind : hdrKind m.hdr ≤ 1) : 0 < m.ringWords := by
  rw [Msg.ringWords, if_neg (by omega)]
  omega

theorem Core.deliver_words (h : c.atPort cls = some m) (kind : hdrKind m.hdr ≤ 1) : c.deliver cls x pc n =
    if (c.chan m.ch).rlen < m.ringWords then (c.dropPort m, [c.asyncMail Code.chan (chanVal x m) pc n]) else (c.acceptWords m, []) := by
  have words := Msg.ringWords_pos kind
  by_cases unbound : (c.chan m.ch).rlen = 0
  · rw [Core.deliver_unbound x pc n h unbound, if_pos (by omega)]
  · rw [Core.deliver, h]
    dsimp only
    rw [if_neg unbound]
    obtain kind | kind : hdrKind m.hdr = 0 ∨ hdrKind m.hdr = 1 := by omega
    all_goals
      rw [kind]
      rfl

theorem Core.deliver_line {f : Bfmt} (h : c.atPort cls = some m) (kind : hdrKind m.hdr = 2) (fmt : storedFmt (hdrFmt m.hdr) = some f) :
    c.deliver cls x pc n = if (c.chan m.ch).rlen < f.n + 3 then (c.dropPort m, [c.asyncMail Code.chan (chanVal x m) pc n])
      else (c.acceptLine m f, []) := by
  by_cases unbound : (c.chan m.ch).rlen = 0
  · rw [Core.deliver_unbound x pc n h unbound, if_pos (by omega)]
  · rw [Core.deliver, h]
    dsimp only
    rw [if_neg unbound, kind]
    show (match storedFmt (hdrFmt m.hdr) with
      | none => _
      | some f => _) = _
    rw [fmt]

theorem Core.deliver_marker (h : c.atPort cls = some m) (bound : (c.chan m.ch).rlen ≠ 0) (kind : hdrKind m.hdr = 3) :
    c.deliver cls x pc n = (c.acceptMarker m, []) := by
  rw [Core.deliver, h]
  dsimp only
  rw [if_neg bound, kind]
  rfl

theorem Core.deliver_renorm (h : c.atPort cls = some m) (bound : (c.chan m.ch).rlen ≠ 0) (kind : hdrKind m.hdr = 4) :
    c.deliver cls x pc n = c.acceptRenorm m := by
  rw [Core.deliver, h]
  dsimp only
  rw [if_neg bound, kind]
  rfl

end

/-! ## Words (R179, R180) -/

/-- The content words of a message's entry (R175, R179). -/
def Core.contentOf (c : Core) (m : Msg) : List Word := m.pay.flatMap (decodeBeat (hdrFmt m.hdr) (c.shiftOf (c.chan m.ch)))

section
variable {c : Core} {m : Msg}

/-- The core with an entry of the message behind the others of its channel. -/
def Core.withEntry (c : Core) (m : Msg) : Core :=
  let h := c.chan m.ch
  Core.setChan { c.dropPort m with well := c.well.putEntry (h.placeOf h.tailOff) m.hdr (c.contentOf m) m.bad } m.ch fun h =>
    { h with items := h.items ++ [.entry { hdr := m.hdr, off := h.tailOff, words := (c.contentOf m).length, read := 0 }],
             free := h.free - ((c.contentOf m).length + 1) }

theorem Core.acceptWords_ring (h : c.landing m.ch ((c.contentOf m).length + 1) = .ring) : c.acceptWords m = (c.withEntry m).arrival m.ch := by
  unfold Core.acceptWords
  dsimp only
  rw [show c.landing m.ch ((m.pay.flatMap (decodeBeat (hdrFmt m.hdr) (c.shiftOf (c.chan m.ch)))).length + 1) = .ring from h]
  dsimp only
  rw [Core.writeEntry_eq]
  rfl

/-- The core with the message behind the others of its spill area (R333). -/
def Core.withSpill (c : Core) (m : Msg) (item : Item) (ws : List Word) : Core :=
  { c.dropPort m with spill := c.spill ++ [{ ch := m.ch, item := item, words := ws }] }

theorem Core.acceptWords_spill (h : c.landing m.ch ((c.contentOf m).length + 1) = .spill) : c.acceptWords m =
    (c.withSpill m (.entry { hdr := m.hdr, off := 0, words := (c.contentOf m).length, read := if m.bad then 1 else 0 }) (c.contentOf m)).arrival m.ch := by
  unfold Core.acceptWords
  dsimp only
  rw [show c.landing m.ch ((m.pay.flatMap (decodeBeat (hdrFmt m.hdr) (c.shiftOf (c.chan m.ch)))).length + 1) = .spill from h]
  rfl

theorem Core.acceptWords_wait (h : c.landing m.ch ((c.contentOf m).length + 1) = .wait) : c.acceptWords m = c := by
  unfold Core.acceptWords
  dsimp only
  rw [show c.landing m.ch ((m.pay.flatMap (decodeBeat (hdrFmt m.hdr) (c.shiftOf (c.chan m.ch)))).length + 1) = .wait from h]

end

/-! ## Lines (R179, R194) -/

section
variable {c : Core} {m : Msg} {f : Bfmt}

/-- The line that the core holds of a message whose header stands at a ring offset. -/
def Core.lineOf (c : Core) (m : Msg) (f : Bfmt) (off : ℕ) : Held := heldOf m f off (c.chan m.ch).lines (c.shiftOf (c.chan m.ch))

/-- A line is held as it was accepted: with the SHIFT of its channel, or, of an MX format, formed (R179, R194). -/
theorem Core.lineOf_spec (c : Core) (m : Msg) (f : Bfmt) (off : ℕ) : let l := c.lineOf m f off
    l.hdr = m.hdr ∧ l.off = off ∧ l.line = (c.chan m.ch).lines ∧ l.fmt = f ∧ l.bad = m.bad ∧ l.combined = m.hdr.getLsbD 42 ∧
    (∀ k, l.nans.getD k false = false) ∧ l.mask = (if m.hdr.getLsbD 43 then m.pay.getD (f.n + 1) 0 else 0) ∧
    (mxFmt (hdrFmt m.hdr) = none → l.shift = c.shiftOf (c.chan m.ch) ∧ l.raw = m.pay.take (f.n + 1)) ∧
    (mxFmt (hdrFmt m.hdr) ≠ none → l.shift = 0) := by
  refine ⟨rfl, rfl, rfl, rfl, rfl, rfl, fun k => ?_, rfl, fun none => ?_, fun mx => ?_⟩
  · show (List.replicate 64 false).getD k false = false
    rw [List.getD_eq_getElem?_getD, List.getElem?_replicate]
    split <;> rfl
  · simp [Core.lineOf, heldOf, none]
  · obtain ⟨t, mx⟩ := Option.ne_none_iff_exists'.mp mx
    simp [Core.lineOf, heldOf, mx]

/-- The core with the line of the message behind the items of its channel. -/
def Core.withLine (c : Core) (m : Msg) (f : Bfmt) : Core :=
  (c.dropPort m).setChan m.ch fun h =>
    { h with items := h.items ++ [.held (c.lineOf m f h.tailOff)], free := h.free - (f.n + 3), lines := h.lines + 1 }

variable {c1 : Core}

theorem Core.acceptLine_ring (closed : c.closeWindows m.ch (fun h => decide (h.line + 2 ≤ (c.chan m.ch).lines)) = c1)
    (lines : (c1.chan m.ch).lines = (c.chan m.ch).lines) (h : c1.landing m.ch (f.n + 3) = .ring) :
    c.acceptLine m f = (c1.withLine m f).arrival m.ch := by
  unfold Core.acceptLine
  dsimp only
  rw [closed, h]
  dsimp only
  rw [Core.pushItem, Core.setChan_setChan, ← lines]
  rfl

theorem Core.acceptLine_spill (closed : c.closeWindows m.ch (fun h => decide (h.line + 2 ≤ (c.chan m.ch).lines)) = c)
    (h : c.landing m.ch (f.n + 3) = .spill) : c.acceptLine m f =
      ((c.withSpill m (.held (c.lineOf m f 0)) []).setChan m.ch fun h => { h with lines := h.lines + 1 }).arrival m.ch := by
  unfold Core.acceptLine
  dsimp only
  rw [closed, h]
  rfl

theorem Core.acceptLine_wait (closed : c.closeWindows m.ch (fun h => decide (h.line + 2 ≤ (c.chan m.ch).lines)) = c1)
    (h : c1.landing m.ch (f.n + 3) = .wait) : c.acceptLine m f = c1 := by
  unfold Core.acceptLine
  dsimp only
  rw [closed, h]

end

/-! ## Markers (R183, R187, R194, R273) -/

section
variable {c c1 : Core} {m : Msg}

/-- A marker whose code is recorded, with a record free. -/
theorem Core.acceptMarker_record (closed : c.closeWindows m.ch (fun _ => true) = c1) (code : (hdrCode m.hdr).toNat ≤ 0x10)
    (spill : c1.spill = []) (free : c1.marks < 64) : c.acceptMarker m =
    Core.arrival (Core.setChan { c1.dropPort m with marked := c1.marked ++ [m.ch] } m.ch
      fun h => { h with items := h.items ++ [.marker (hdrCode m.hdr)], lines := 0 }) m.ch := by
  have marks : (c1.setChan m.ch fun h => { h with lines := 0 }).marks = c1.marks := Core.marks_setChan _ _ rfl
  unfold Core.acceptMarker
  dsimp only
  rw [closed, if_neg (Nat.not_lt.mpr code), marks, if_neg (show ¬ maxMarks ≤ c1.marks from Nat.not_le.mpr free), if_neg]
  · exact congrArg (fun d => Core.arrival d m.ch) (Core.setChan_setChan { c1.dropPort m with marked := c1.marked ++ [m.ch] } m.ch
      (fun h => { h with lines := 0 }) fun h => { h with items := h.items ++ [.marker (hdrCode m.hdr)] })
  · show ¬ (c1.spill.any _) = true
    simp [spill]

theorem Core.acceptMarker_full (closed : c.closeWindows m.ch (fun _ => true) = c1) (code : (hdrCode m.hdr).toNat ≤ 0x10)
    (full : 64 ≤ c1.marks) : c.acceptMarker m = c1.setChan m.ch fun h => { h with lines := 0 } := by
  have marks : (c1.setChan m.ch fun h => { h with lines := 0 }).marks = c1.marks := Core.marks_setChan _ _ rfl
  unfold Core.acceptMarker
  dsimp only
  rw [closed, if_neg (Nat.not_lt.mpr code), marks]
  exact if_pos full

theorem Core.acceptMarker_other (closed : c.closeWindows m.ch (fun _ => true) = c1) (code : 0x10 < (hdrCode m.hdr).toNat) :
    c.acceptMarker m = (c1.dropPort m).setChan m.ch fun h => { h with lines := 0 } := by
  unfold Core.acceptMarker
  dsimp only
  rw [closed, if_pos code]
  rfl

end

/-! ## Renorms (R191, R192) -/

section
variable {c : Core} {m : Msg}

theorem Core.spill_map_nil {d : Core} (spill : d.spill = []) (g : Spill → Spill) : { d with spill := d.spill.map g } = d := by
  rw [show d.spill.map g = d.spill by rw [spill]; rfl]

/-- A renorm for the one held line of its channel corrects it. -/
theorem Core.acceptRenorm_hits {l : Held} (items : (c.chan m.ch).items = [.held l]) (spill : c.spill = []) (combined : l.combined = true)
    (parity : l.line % 2 = renormParity m.hdr) :
    c.acceptRenorm m = ((c.dropPort m).setChan m.ch fun h => { h with items := [.held (l.correct m)] }, []) := by
  unfold Core.acceptRenorm
  dsimp only
  rw [if_pos (by simp [items, combined, parity])]
  refine congrArg (fun d => (d, ([] : List Mail))) ((Core.spill_map_nil (d := (c.dropPort m).setChan m.ch _) spill _).trans (Core.setChan_congr _ _ ?_))
  refine congrArg (fun is => { c.chan m.ch with items := is }) ?_
  show (c.chan m.ch).items.map _ = _
  rw [items]
  simp [combined, parity]

/-- A renorm that no held line waits for is reported (R192). -/
theorem Core.acceptRenorm_misses (none : ∀ l, Item.held l ∈ (c.chan m.ch).items → l.combined = true → l.line % 2 ≠ renormParity m.hdr)
    (spill : c.spill = []) : c.acceptRenorm m = (c.dropPort m, [.renorm c.ident.site m.ch]) := by
  have other {l : Held} (here : Item.held l ∈ (c.chan m.ch).items) : ¬ (decide (l.line % 2 = renormParity m.hdr) && l.combined) = true := by
    simpa using fun same combined => none l here combined same
  unfold Core.acceptRenorm
  dsimp only
  rw [if_neg]
  · refine congrArg (fun d => (d, [Mail.renorm c.ident.site m.ch]))
      ((Core.spill_map_nil (d := (c.dropPort m).setChan m.ch _) spill _).trans (Core.setChan_id _ _ ?_))
    refine congrArg (fun is => { c.chan m.ch with items := is }) ((List.map_congr_left fun i hi => ?_).trans (List.map_id _))
    cases i with
    | held l => exact if_neg (other hi)
    | entry e => rfl
    | marker code => rfl
  · rw [spill]
    simp only [List.any_nil, Bool.or_false, List.any_eq_true, not_exists, not_and]
    intro i hi
    cases i with
    | held l => exact other hi
    | entry e => exact Bool.false_ne_true
    | marker code => exact Bool.false_ne_true

end

end Sys2Proof.Machine
end

section
/-! SUPPORT. The fabric statements, part 8: the stored form of held lines, the spill area, and every delivery (R180 to R183, R192, R194,
R333). -/

namespace Sys2Proof.Machine

/-! ## The stored form of a held line (R194) -/

section
variable (l : Held)

theorem Held.value_eq (k : ℕ) : l.value k = if l.nans.getD k false = true then .nan false 0 false else
    .fin (decide (l.vals.getD k 0 < 0)) (l.vals.getD k 0).natAbs ((l.exps.getD (k / 16) 0 : Int) - 128 - (l.fmt.w - 1 : ℕ) + l.shift) := by
  have width : ((l.fmt.w - 1 : ℕ) : ℤ) = l.fmt.w - 1 := by cases l.fmt <;> rfl
  rw [width]
  rfl

/-- Poison is one word and zeros (R119, R194). -/
theorem poison_words (f : Bfmt) : hdrOf (List.replicate 4 Blk.poison) :: payOf f (List.replicate 4 Blk.poison) =
    0xFF00FF00FF00FF00 :: List.replicate f.n 0 := by
  cases f <;> decide

theorem Held.content_eq : l.content = if l.bad then 0xFF00FF00FF00FF00 :: List.replicate l.fmt.n 0 ++ [l.mask]
    else if l.combined then hdrOf l.formed.1 :: payOf l.fmt l.formed.1 ++ [l.formed.2]
    else if l.shift = 0 then l.raw ++ [l.mask]
    else
      let bs := (blksOf l.fmt (l.raw.getD 0 0) (l.raw.drop 1)).map fun b => (shiftBlk l.fmt.w .rne l.shift b).1
      hdrOf bs :: payOf l.fmt bs ++ [l.mask] := by
  unfold Held.content
  dsimp only
  rw [poison_words]

end

/-! ## The spill area (R333) -/

section
variable {c : Core} {x : Spill} {s : State}

/-- What comes next out of the spill area is the first of its channel, and its ring has room for it. -/
theorem Core.nextSpill_spec (h : c.nextSpill = some x) : (∃ pre post, c.spill = pre ++ x :: post ∧ (∀ y ∈ pre, y.ch ≠ x.ch) ∧
    c.spill.erase x = pre ++ post) ∧ ((∃ n, x.item = .marker n) ∨ x.bytes / 8 ≤ (c.chan x.ch).room) := by
  have hit := List.find?_some h
  simp only [Bool.and_eq_true, decide_eq_true_eq] at hit
  obtain ⟨first, room⟩ := hit
  constructor
  · obtain ⟨-, pre, post, parts, others⟩ := List.find?_eq_some_iff_append.mp first
    have others : ∀ y ∈ pre, y.ch ≠ x.ch := fun y hy => by simpa using others y hy
    refine ⟨pre, post, parts, others, ?_⟩
    rw [parts, List.erase_append_right _ fun here => others x here rfl, List.erase_cons_head]
  · split at room
    next code marker => exact .inl ⟨code, marker⟩
    next => exact .inr (by simpa using room)

theorem spillDelivery_none (h : s.core.stopped = true ∨ s.core.nextSpill = none) : exec .spillDelivery s = .next s := by
  show Host.Outcome.next (s.mapCore _) = _
  unfold State.mapCore
  dsimp only
  rcases h with stopped | none
  · rw [if_pos stopped]
  · rw [none]
    simp

theorem spillDelivery_next (h : s.core.nextSpill = some x) (runs : s.core.stopped = false) :
    exec .spillDelivery s = .next { s with core := s.core.unspill x } := by
  show Host.Outcome.next (s.mapCore _) = _
  unfold State.mapCore
  dsimp only
  rw [h, runs]
  rfl

theorem Core.unspill_marker {code : BitVec 5} (item : x.item = .marker code) : c.unspill x =
    Core.arrival (Core.setChan { c with spill := c.spill.erase x } x.ch fun h => { h with items := h.items ++ [.marker code] }) x.ch := by
  rw [Core.unspill, Core.putSpill, item]

theorem Core.unspill_held {l : Held} (item : x.item = .held l) : c.unspill x =
    Core.arrival (Core.setChan { c with spill := c.spill.erase x } x.ch fun h =>
      { h with items := h.items ++ [.held { l with off := h.tailOff }], free := h.free - (l.fmt.n + 3) }) x.ch := by
  have size : x.bytes / 8 = l.fmt.n + 3 := by
    rw [Spill.bytes, item]
    exact Nat.mul_div_cancel_left _ (by decide)
  rw [Core.unspill, Core.putSpill, item, size]
  rfl

theorem Core.unspill_entry {e : Entry} (item : x.item = .entry e) : c.unspill x =
    Core.arrival (Core.setChan { c with
      spill := c.spill.erase x
      well := c.well.putEntry ((c.chan x.ch).placeOf (c.chan x.ch).tailOff) e.hdr x.words (decide (e.read = 1)) } x.ch fun h =>
      { h with items := h.items ++ [.entry { e with off := h.tailOff, read := 0 }], free := h.free - (x.words.length + 1) }) x.ch := by
  have size : x.bytes / 8 = x.words.length + 1 := by
    rw [Spill.bytes, item]
    exact Nat.mul_div_cancel_left _ (by decide)
  rw [Core.unspill, Core.putSpill, item, size]
  dsimp only
  rw [Core.writeEntry_eq]
  rfl

end

/-! ## Messages discarded at the sink (R182) -/

/-- The fields of a fault message (R326). -/
theorem faultMsg_fields (name : BitVec 26) (code : BitVec 8) (n : StrandNo) (pc val : Word) : let f := faultMsg name code n true pc val
    f.hdr.extractLsb' 26 8 = code ∧ f.hdr.getLsbD 37 = true ∧ f.hdr.extractLsb' 0 26 = name := by
  unfold faultMsg headerWord
  dsimp only
  refine ⟨?_, ?_, ?_⟩
  · rw [(extract_append ..).1 (by decide), (extract_append ..).2 (by decide), (extract_append ..).2 (by decide), BitVec.extractLsb'_eq_self]
  · rw [BitVec.getLsbD_append, BitVec.getLsbD_append, BitVec.getLsbD_append, BitVec.getLsbD_append]
    rfl
  · rw [(extract_append ..).2 (by decide), BitVec.extractLsb'_eq_self]

/-- TRAPVAL of a message that is discarded at its sink names the channel and the sender (R182). -/
theorem chanVal_fields (x : Word) (m : Msg) : (chanVal x m).extractLsb' 0 5 = m.ch ∧ (chanVal x m).extractLsb' 32 26 = hdrSrc m.hdr := by
  unfold chanVal
  constructor
  · rw [(extract_append ..).2 (by decide), BitVec.extractLsb'_eq_self]
  · rw [(extract_append ..).1 (by decide), (extract_append ..).1 (by decide), (extract_append ..).2 (by decide), BitVec.extractLsb'_eq_self]

/-- What is discarded as CHAN leaves the local port, and its report names the channel and the sender. -/
theorem delivery_discards {s : State} {cls : BitVec 2} {m : Msg}
    (h : ∀ x pc n, s.core.deliver cls x pc n = (s.core.dropPort m, [s.core.asyncMail Code.chan (chanVal x m) pc n])) :
    Runs (.routerDelivery cls) s (fun t => ∃ (f : Msg) (pc val : Word),
      t = { s with core := s.core.dropPort m, free := s.free + 3 }.post (.fault s.core.ident.site s.core.csr.fieldId f) ∧ f.ch = 1 ∧
      f.pay = [pc, val] ∧ f.hdr.extractLsb' 26 8 = 0x06 ∧ f.hdr.getLsbD 37 = true ∧ f.hdr.extractLsb' 0 26 = s.core.ident.name ∧
      val.extractLsb' 0 5 = m.ch ∧ val.extractLsb' 32 26 = m.hdr.extractLsb' 0 26) := by
  obtain ⟨code, async, name⟩ := faultMsg_fields s.core.ident.name Code.chan ((Config.freeValue (s.free + 2)).extractLsb' 0 3)
    (Config.freeValue (s.free + 1)) (chanVal (Config.freeValue s.free) m)
  obtain ⟨channel, sender⟩ := chanVal_fields (Config.freeValue s.free) m
  exact ⟨_, routerDelivery_reports h, _, _, _, rfl, rfl, rfl, code, async, name, channel, sender⟩

/-! ## Deliveries -/

section
variable {s : State} {cls : BitVec 2} {m : Msg}

/-- A delivery that ends in an arrival at the message's channel, the core being d otherwise. -/
theorem delivery_arrives {d : Core} (h : ∀ x pc n, s.core.deliver cls x pc n = (d.arrival m.ch, []))
    (strands : d.strands = s.core.strands) (bind : (d.chan m.ch).bind = (s.core.chan m.ch).bind)
    (issue : d.issue = s.core.issue) (stopped : d.stopped = s.core.stopped) :
    ∃ strands, exec (.routerDelivery cls) s = .next { s with core := { d with strands := strands } } ∧
      s.core.Arrives { d with strands := strands } m.ch := by
  have arrives := Core.Arrives.of_arrival strands bind issue stopped
  rw [Core.arrival_eq] at arrives
  exact ⟨_, (routerDelivery_quiet h).trans (by rw [Core.arrival_eq]), arrives⟩

/-- The same of a message out of the spill area. -/
theorem spill_arrives {x : Spill} {d : Core} (next : s.core.nextSpill = some x) (runs : s.core.stopped = false)
    (h : s.core.unspill x = d.arrival x.ch) (strands : d.strands = s.core.strands) (bind : (d.chan x.ch).bind = (s.core.chan x.ch).bind)
    (issue : d.issue = s.core.issue) (stopped : d.stopped = s.core.stopped) :
    ∃ strands, exec .spillDelivery s = .next { s with core := { d with strands := strands } } ∧
      s.core.Arrives { d with strands := strands } x.ch := by
  have arrives := Core.Arrives.of_arrival strands bind issue stopped
  rw [Core.arrival_eq] at arrives
  exact ⟨_, (spillDelivery_next next runs).trans (by rw [h, Core.arrival_eq]), arrives⟩

end

end Sys2Proof.Machine
end

section
/-! SUPPORT. The fabric statements, part 9: a line whose window a delivery closes, and every delivery (R180 to R183, R191, R192, R194,
R333). -/

namespace Sys2Proof.Machine

/-! ## What an element of a combined line loses (R194) -/

section
variable (l : Held)

theorem Held.formed_poison {j : ℕ} (hj : j < 4) (h : l.exps.getD j 0 = 255) : l.formed.1.getD j Blk.zero = Blk.poison := by
  have block : l.formed.1.getD j Blk.zero = if l.exps.getD j 0 = 255 then Blk.poison
      else (formBlock l.fmt.w .rdn ((List.range 16).map fun i => l.value (16 * j + i))).1 := by
    rw [Held.formed, List.getD_eq_getElem _ _ (by simpa using hj)]
    simp
  rw [block, if_pos h]

/-- A poison block loses no bit. -/
theorem Held.formed_mask : l.formed.2 = l.mask ||| maskOf ((List.range 64).map fun k => decide (l.exps.getD (k / 16) 0 ≠ 255) &&
    decide ((l.formed.1.getD (k / 16) Blk.zero).e ≠ 255) && !sameVal (elemVal l.fmt.w (l.formed.1.getD (k / 16) Blk.zero) (k % 16)) (l.value k)) := by
  have lost : l.formed.2 = l.mask ||| maskOf ((List.range 64).map fun k => !(l.formed.1.getD (k / 16) Blk.zero).isPoison &&
    !sameVal (elemVal l.fmt.w (l.formed.1.getD (k / 16) Blk.zero) (k % 16)) (l.value k)) := rfl
  rw [lost]
  congr 2
  refine List.map_congr_left fun k hk => ?_
  have hk := List.mem_range.mp hk
  by_cases poison : l.exps.getD (k / 16) 0 = 255
  · rw [l.formed_poison (by omega) poison]
    simp [Blk.poison, Blk.isPoison]
  · rw [decide_eq_true poison, Bool.true_and, decide_not]
    rfl

end

/-! ## The core as a delivery closes its one held line -/

/-- The core whose one held line of a channel has become an entry. -/
def Core.lineClosed (c : Core) (ch : Chan) (l : Held) : Core :=
  Core.setChan { c with well := c.well.putEntry ((c.chan ch).placeOf l.off) l.hdr l.content false } ch fun q => { q with items := [l.closed] }

section
variable {c : Core} {ch : Chan} {l : Held}

theorem Core.lineClosed_chan : (c.lineClosed ch l).chan ch = { c.chan ch with items := [l.closed] } := Core.chan_setChan_same _ _ _

theorem Held.closed_place (whole : l.raw.length = l.fmt.n + 1) : l.closed.place = (Item.held l).place := by
  simp [Held.closed, Item.place, l.content_length whole]

theorem Core.lineClosed_ring (items : (c.chan ch).items = [.held l]) (whole : l.raw.length = l.fmt.n + 1) :
    ((c.lineClosed ch l).chan ch).room = (c.chan ch).room ∧ ((c.lineClosed ch l).chan ch).tailOff = (c.chan ch).tailOff := by
  have tail : ((c.lineClosed ch l).chan ch).tailOff = (c.chan ch).tailOff := by
    rw [Core.lineClosed_chan]
    simp only [ChanState.tailOff, items, List.reverse_singleton, List.findSome?_cons, List.findSome?_nil, Held.closed_place whole]
    rfl
  refine ⟨?_, tail⟩
  rw [ChanState.room, tail, Core.lineClosed_chan]
  simp only [ChanState.room, items, List.findSome?_cons, List.findSome?_nil, Held.closed_place whole]
  rfl

theorem Core.lineClosed_marks (items : (c.chan ch).items = [.held l]) : (c.lineClosed ch l).marks = c.marks := by
  refine (Core.marks_setChan _ _ ?_).trans rfl
  show ChanState.marks _ = (c.chan ch).marks
  simp [ChanState.marks, items, Held.closed]

/-- The line stands in the ring in its stored form, and every byte outside its ring words is as before. -/
theorem Core.lineClosed_well (whole : l.raw.length = l.fmt.n + 1) (fits : l.fmt.n + 3 ≤ (c.chan ch).rlen) (wf : c.memWf = true) :
    let h := c.chan ch
    let w := (c.lineClosed ch l).well
    w.wordNat (h.placeOf l.off 0) = l.hdr.toNat ∧
    (∀ i < l.fmt.n + 2, w.wordNat (h.placeOf l.off (i + 1)) = (l.content.getD i 0).toNat) ∧
    ∀ b, (∀ i < l.fmt.n + 3, b < 8 * h.placeOf l.off i ∨ 8 * h.placeOf l.off i + 8 ≤ b) → Mem.get w.bytes b = Mem.get c.well.bytes b := by
  have length := l.content_length whole
  obtain ⟨header, -, words, rest⟩ := Well.putEntry_spec (h := c.chan ch) (off := l.off) (hdr := l.hdr) (ws := l.content) (bad := false)
    (w := c.well) (by omega) wf
  exact ⟨header, fun i hi => (words i (by omega)).1 rfl, fun b far => rest b fun i hi => far i (by omega)⟩

end

/-! ## Deliveries that close the one held line (R183, R194) -/

section
variable {c : Core} {m : Msg} {l : Held} {f : Bfmt}

theorem Core.lineClosed_withLine (items : (c.chan m.ch).items = [.held l]) (whole : l.raw.length = l.fmt.n + 1) :
    (c.lineClosed m.ch l).withLine m f = Core.setChan { c.dropPort m with well := (c.lineClosed m.ch l).well } m.ch fun h =>
      { h with items := [l.closed, .held (c.lineOf m f (c.chan m.ch).tailOff)], free := h.free - (f.n + 3), lines := h.lines + 1 } := by
  have tail := (Core.lineClosed_ring items whole).2
  rw [Core.lineClosed_chan] at tail
  have line (off : ℕ) : (c.lineClosed m.ch l).lineOf m f off = c.lineOf m f off := by
    rw [Core.lineOf, Core.lineClosed_chan]
    rfl
  refine (Core.setChan_setChan { c.dropPort m with well := (c.lineClosed m.ch l).well } m.ch (fun q => { q with items := [l.closed] })
    fun h => { h with items := h.items ++ [.held ((c.lineClosed m.ch l).lineOf m f h.tailOff)], free := h.free - (f.n + 3)
                      lines := h.lines + 1 }).trans (Core.setChan_congr _ _ ?_)
  simp only [line]
  exact congrArg (fun off => ({ c.chan m.ch with
    items := [l.closed, .held (c.lineOf m f off)], free := (c.chan m.ch).free - (f.n + 3), lines := (c.chan m.ch).lines + 1 } : ChanState)) tail

theorem Core.lineClosed_marker (marked : List Chan) (items : List Item) :
    Core.setChan { (c.lineClosed m.ch l).dropPort m with marked := marked } m.ch (fun h => { h with items := h.items ++ items, lines := 0 }) =
    Core.setChan { c.dropPort m with well := (c.lineClosed m.ch l).well, marked := marked } m.ch fun h =>
      { h with items := l.closed :: items, lines := 0 } :=
  Core.setChan_setChan { c.dropPort m with well := (c.lineClosed m.ch l).well, marked := marked } m.ch
    (fun q => { q with items := [l.closed] }) fun h => { h with items := h.items ++ items, lines := 0 }

theorem Core.closeWindows_lineClosed {p : Held → Bool} (items : (c.chan m.ch).items = [.held l]) (spill : c.spill = []) (h : p l = true) :
    c.closeWindows m.ch p = c.lineClosed m.ch l := Core.closeWindows_single items spill h

/-- A line that closes the window of the line two before it, and has room. -/
theorem Core.acceptLine_closes (items : (c.chan m.ch).items = [.held l]) (spill : c.spill = []) (whole : l.raw.length = l.fmt.n + 1)
    (old : l.line + 2 ≤ (c.chan m.ch).lines) (room : f.n + 3 ≤ (c.chan m.ch).room) : c.acceptLine m f =
    Core.arrival (Core.setChan { c.dropPort m with well := (c.lineClosed m.ch l).well } m.ch fun h =>
      { h with items := [l.closed, .held (c.lineOf m f (c.chan m.ch).tailOff)], free := h.free - (f.n + 3), lines := h.lines + 1 }) m.ch := by
  have none : (c.lineClosed m.ch l).spill = [] := spill
  rw [← Core.lineClosed_withLine items whole]
  refine Core.acceptLine_ring (Core.closeWindows_lineClosed items spill (decide_eq_true old)) (by rw [Core.lineClosed_chan]) ?_
  exact Core.landing_ring (by rw [none]; rfl) ((Core.lineClosed_ring items whole).1 ▸ room)

theorem Core.acceptMarker_closes_record (items : (c.chan m.ch).items = [.held l]) (spill : c.spill = [])
    (code : (hdrCode m.hdr).toNat ≤ 0x10) (free : c.marks < 64) : c.acceptMarker m =
    Core.arrival (Core.setChan { c.dropPort m with well := (c.lineClosed m.ch l).well, marked := c.marked ++ [m.ch] } m.ch fun h =>
      { h with items := [l.closed, .marker (hdrCode m.hdr)], lines := 0 }) m.ch := by
  rw [← Core.lineClosed_marker]
  exact Core.acceptMarker_record (Core.closeWindows_lineClosed items spill rfl) code spill ((Core.lineClosed_marks items).trans_lt free)

theorem Core.acceptMarker_closes_other (items : (c.chan m.ch).items = [.held l]) (spill : c.spill = [])
    (code : 0x10 < (hdrCode m.hdr).toNat) : c.acceptMarker m =
    Core.setChan { c.dropPort m with well := (c.lineClosed m.ch l).well } m.ch fun h => { h with items := [l.closed], lines := 0 } := by
  rw [Core.acceptMarker_other (Core.closeWindows_lineClosed items spill rfl) code]
  exact Core.setChan_setChan { c.dropPort m with well := (c.lineClosed m.ch l).well } m.ch
    (fun q => { q with items := [l.closed] }) fun h => { h with lines := 0 }

end

/-! ## What waits at the local port (R183) -/

section
variable {s : State} {cls : BitVec 2} {m : Msg}

theorem headerAccept_small (head : s.core.atPort cls = some m) (kind : hdrKind m.hdr < 3) : exec (.headerAccept cls) s = exec (.routerDelivery cls) s := by
  show execHeaderAccept cls s = _
  rw [execHeaderAccept, head]
  dsimp only
  rw [if_pos kind]
  rfl

theorem headerAccept_other (head : s.core.atPort cls = some m) (kind : 3 ≤ hdrKind m.hdr) : exec (.headerAccept cls) s = .next s := by
  show execHeaderAccept cls s = _
  rw [execHeaderAccept, head]
  dsimp only
  rw [if_neg (Nat.not_lt.mpr kind)]

theorem markerRecordAccept_marker (head : s.core.atPort cls = some m) (kind : hdrKind m.hdr = 3) :
    exec (.markerRecordAccept cls) s = exec (.routerDelivery cls) s := by
  show execMarkerRecordAccept cls s = _
  rw [execMarkerRecordAccept, head]
  dsimp only
  rw [if_pos kind]
  rfl

theorem markerRecordAccept_other (head : s.core.atPort cls = some m) (kind : hdrKind m.hdr ≠ 3) : exec (.markerRecordAccept cls) s = .next s := by
  show execMarkerRecordAccept cls s = _
  rw [execMarkerRecordAccept, head]
  dsimp only
  rw [if_neg kind]

end

theorem ChanState.room_le (h : ChanState) (pos : 0 < h.rlen) : h.room ≤ h.rlen := by
  unfold ChanState.room
  split
  · exact (Nat.mod_lt _ pos).le
  · exact Nat.le_refl _

/-- Settles O48: deliveries by the kind of message, by where it lands, and by the windows that it closes. -/
theorem deliveryEvents : Obligations.DeliveryEvents := by
  unfold Obligations.DeliveryEvents
  intro s cls m x code f l0 e0 c h kind fmt heads drop ws addr entry fewer free unbound arrives size spillRoom full w one blocks changed whole
    stored place closed closes single isLine
  have size_eq : size = Spill.bytes := by
    funext ⟨_, item, _⟩
    cases item <;> rfl
  have room_iff (n : ℕ) : spillRoom n ↔ (c.spill.map Spill.bytes).sum + 8 * n ≤ 65536 := by
    rw [← size_eq]
  have small (k : kind ≤ 1) (fits : m.ringWords ≤ h.rlen) (head : heads) (x pc n : Word) : c.deliver cls x pc n = (c.acceptWords m, []) := by
    rw [Core.deliver_words x pc n head k, if_neg (Nat.not_lt.mpr fits)]
  have line (k : kind = 2) (fmt : storedFmt fmt = some f) (fits : f.n + 3 ≤ h.rlen) (head : heads) (x pc n : Word) :
      c.deliver cls x pc n = (c.acceptLine m f, []) := by
    rw [Core.deliver_line x pc n head k fmt, if_neg (Nat.not_lt.mpr fits)]
  have stays {d : Core} (same : d = c) (deliver : ∀ x pc n, c.deliver cls x pc n = (d, [])) : exec (.routerDelivery cls) s = .next s := by
    subst same
    exact routerDelivery_quiet deliver
  have opened (lines : ∀ l, Item.held l ∈ h.items → h.lines < l.line + 2) (none : ∀ y ∈ c.spill, ∀ l, y.item ≠ .held l) :
      c.closeWindows m.ch (fun l => decide (l.line + 2 ≤ h.lines)) = c :=
    Core.closeWindows_none (fun l hl => decide_eq_false (Nat.not_le.mpr (lines l hl))) none
  have unheld (none : ∀ i ∈ h.items, i.isHeld = false) (spill : c.spill = []) : c.closeWindows m.ch (fun _ => true) = c :=
    Core.closeWindows_none (fun l hl => absurd (none _ hl) (by simp [Item.isHeld])) (by simp [spill])
  have waits {n : ℕ} (lacks : full n) (no : c.stopped = false ∨ ¬ spillRoom n) : c.landing m.ch n = .wait := by
    rw [Core.landing_full lacks, if_neg]
    rw [room_iff] at no
    rintro ⟨stopped, room⟩
    exact no.elim (by simp [stopped]) fun no => no room
  have spills {n : ℕ} (lacks : full n) (stopped : c.stopped = true) (room : spillRoom n) : c.landing m.ch n = .spill := by
    rw [Core.landing_full lacks, if_pos ⟨stopped, (room_iff n).mp room⟩]
  have value : one = l0.value := funext fun k => (l0.value_eq k).symm
  have blocks_eq : blocks = l0.formed.1 := by
    show List.map _ _ = _
    rw [value]
    rfl
  have stored_eq : stored = l0.content := by
    rw [l0.content_eq, l0.formed_mask]
    show (if _ then _ else if _ then hdrOf blocks :: payOf l0.fmt blocks ++ [l0.mask ||| maskOf ((List.range 64).map changed)] else _) = _
    have : changed = fun k => decide (l0.exps.getD (k / 16) 0 ≠ 255) && decide ((l0.formed.1.getD (k / 16) Blk.zero).e ≠ 255) &&
        !sameVal (elemVal l0.fmt.w (l0.formed.1.getD (k / 16) Blk.zero) (k % 16)) (l0.value k) := by
      rw [← blocks_eq, ← value]
    rw [this, blocks_eq]
  have well (fits : l0.fmt.n + 3 ≤ h.rlen) (whole : whole) (wf : c.memWf = true) := Core.lineClosed_well whole fits wf
  rw [← stored_eq] at well
  have bound (fits : l0.fmt.n + 3 ≤ (c.chan m.ch).rlen) : (c.chan m.ch).rlen ≠ 0 := by omega
  have became (whole : whole) : l0.closed = closed := by
    rw [Held.closed, l0.content_length whole]
  refine ⟨?_, ?_, ?_, ?_, ?_, ?_, ?_, ?_, ?_, ?_, ?_, ?_, ?_, ?_, ?_, ?_, ?_, ?_, ?_, ?_, ?_, ?_, ?_, ?_, ?_⟩
  -- words and lines, by where they land
  · exact fun none => stays rfl fun x pc n => Core.deliver_none x pc n none
  · intro head k fits room free wf _
    have ring := Core.acceptWords_ring (c := c) (m := m) (Core.landing_ring free room)
    obtain ⟨strands, run, arrive⟩ := delivery_arrives (d := c.withEntry m) (fun x pc n => by rw [small k fits head, ring]) rfl
      (by rw [Core.withEntry, Core.chan_setChan_same]; rfl) rfl rfl
    have pos : 0 < h.rlen := (Msg.ringWords_pos k).trans_le fits
    obtain ⟨header, fresh, words, rest⟩ := Well.putEntry_spec (h := h) (off := h.tailOff) (hdr := m.hdr) (ws := ws) (bad := m.bad)
      (w := c.well) (room.trans (h.room_le pos)) wf
    have word (i : ℕ) : addr i / 8 = h.placeOf h.tailOff i := Nat.mul_div_cancel_left _ (by decide)
    refine ⟨_, run, _, strands, rfl, ?_, fun j other => ?_, arrive, header, ?_, fun good i hi => ⟨(words i hi).1 good, ?_⟩, fun bad i hi => ?_, rest⟩
    · show (c.withEntry m).chan _ = _
      rw [Core.withEntry, Core.chan_setChan_same]
      rfl
    · show (c.withEntry m).chan _ = _
      rw [Core.withEntry, Core.chan_setChan, if_neg other]
      rfl
    · rw [word]
      exact fresh
    · rw [word]
      exact (words i hi).2.trans good
    · rw [word]
      exact (words i hi).2.trans bad
  · exact fun head zero => delivery_discards fun x pc n => Core.deliver_unbound x pc n head zero
  · exact fun head k large => delivery_discards fun x pc n => (Core.deliver_words x pc n head k).trans (if_pos large)
  · exact fun head k fits room runs => stays (Core.acceptWords_wait (waits (.inl room) (.inl runs))) (small k fits head)
  · exact fun head k fmt large => delivery_discards fun x pc n => (Core.deliver_line x pc n head k fmt).trans (if_pos large)
  · intro head k fmt fits lines room spill
    have closed := opened lines (by simp [spill])
    have ring := Core.acceptLine_ring closed rfl (Core.landing_ring (by simp [spill]) room)
    obtain ⟨strands, run, arrive⟩ := delivery_arrives (d := c.withLine m f) (fun x pc n => by rw [line k fmt fits head, ring]) rfl
      (by rw [Core.withLine, Core.chan_setChan_same]; rfl) rfl rfl
    exact ⟨_, run, _, strands, rfl, arrive, c.lineOf_spec m f h.tailOff⟩
  · intro head k fmt fits lines lacks none
    have closed := opened lines none
    refine ⟨fun no => stays (Core.acceptLine_wait closed (waits lacks no)) (line k fmt fits head), fun stopped room => ?_⟩
    have spill := Core.acceptLine_spill closed (spills lacks stopped room)
    obtain ⟨strands, run, arrive⟩ := delivery_arrives (d := (c.withSpill m (.held (c.lineOf m f 0)) []).setChan m.ch fun h =>
        { h with lines := h.lines + 1 }) (fun x pc n => by rw [line k fmt fits head, spill]) rfl (by rw [Core.chan_setChan_same]; rfl) rfl rfl
    exact ⟨_, run, c.lineOf m f 0, strands, rfl, arrive, c.lineOf_spec m f h.tailOff⟩
  · intro head k fits lacks stopped
    refine ⟨fun no => stays (Core.acceptWords_wait (waits lacks (.inr no))) (small k fits head), fun room => ?_⟩
    have spill := Core.acceptWords_spill (c := c) (m := m) (spills lacks stopped room)
    obtain ⟨strands, run, arrive⟩ := delivery_arrives (d := c.withSpill m
        (.entry { hdr := m.hdr, off := 0, words := ws.length, read := if m.bad then 1 else 0 }) ws)
      (fun x pc n => by rw [small k fits head, spill]; rfl) rfl rfl rfl rfl
    exact ⟨_, run, strands, rfl, arrive⟩
  -- with a held line
  · rintro ⟨items, spill, whole, ring, -, wf⟩ head k fmt fits old room
    have accept := Core.acceptLine_closes items spill whole old room
    rw [became whole] at accept
    obtain ⟨strands, run, arrive⟩ := delivery_arrives (fun x pc n => (line k fmt fits head x pc n).trans (congrArg (·, []) accept)) rfl
      (by rw [Core.chan_setChan_same]; rfl) rfl rfl
    exact ⟨_, run, c.lineOf m f h.tailOff, _, strands, rfl, arrive, c.lineOf_spec m f h.tailOff, well ring whole wf⟩
  · rintro ⟨items, spill, whole, ring, -, wf⟩ head k rfl recorded
    have deliver {d : Core} (accept : c.acceptMarker m = d) (x pc n : Word) : c.deliver cls x pc n = (d, []) := by
      rw [Core.deliver_marker x pc n head (bound ring) k, accept]
    by_cases code : (m.hdr.extractLsb' 26 5).toNat ≤ 0x10
    · have accept := Core.acceptMarker_closes_record items spill code (recorded.resolve_left (Nat.not_lt.mpr code))
      rw [became whole] at accept
      obtain ⟨strands, run, arrive⟩ := delivery_arrives (deliver accept) rfl (by rw [Core.chan_setChan_same]; rfl) rfl rfl
      refine ⟨_, run, (c.lineClosed m.ch l0).well, strands, ?_, well ring whole wf, ?_⟩
      · simp only [if_pos code]
        rfl
      · rw [if_pos code]
        exact arrive
    · have accept := Core.acceptMarker_closes_other items spill (Nat.not_le.mp code)
      rw [became whole] at accept
      refine ⟨_, routerDelivery_quiet (deliver accept), (c.lineClosed m.ch l0).well, c.strands, ?_, well ring whole wf, ?_⟩
      · simp only [if_neg code]
        rfl
      · rw [if_neg code]
  · rintro ⟨items, spill, whole, ring, -⟩ head k combined parity
    exact routerDelivery_quiet fun x pc n => (Core.deliver_renorm x pc n head (bound ring) k).trans (Core.acceptRenorm_hits items spill combined parity)
  -- markers and renorms without one
  · rintro head k rfl recorded bound none spill records
    have accept := Core.acceptMarker_record (unheld none spill) recorded spill records
    obtain ⟨strands, run, arrive⟩ := delivery_arrives (fun x pc n => (Core.deliver_marker x pc n head bound k).trans (congrArg (·, []) accept)) rfl
      (by rw [Core.chan_setChan_same]; rfl) rfl rfl
    exact ⟨_, run, strands, rfl, arrive⟩
  · exact fun head k recorded bound none spill records => ⟨_, routerDelivery_quiet fun x pc n => by
      rw [Core.deliver_marker x pc n head bound k, Core.acceptMarker_full (unheld none spill) recorded records], rfl⟩
  · exact fun head k other bound none spill => routerDelivery_quiet fun x pc n =>
      (Core.deliver_marker x pc n head bound k).trans (congrArg (·, []) (Core.acceptMarker_other (unheld none spill) other))
  · exact fun head k bound none spill => routerDelivery_reports fun x pc n => by
      rw [Core.deliver_renorm x pc n head bound k, Core.acceptRenorm_misses none spill]
  -- what waits at the local port, and the spill area
  · exact fun head k => headerAccept_small head k
  · exact fun head k => markerRecordAccept_marker head k
  · exact fun head k => headerAccept_other head k
  · exact fun head k => markerRecordAccept_other head k
  · intro next
    obtain ⟨parts, room⟩ := Core.nextSpill_spec next
    exact ⟨parts, by rw [size_eq]; exact room⟩
  · intro next item runs
    obtain ⟨strands, run, arrive⟩ := spill_arrives next runs (Core.unspill_marker item) rfl (by rw [Core.chan_setChan_same]; rfl) rfl rfl
    exact ⟨_, run, strands, rfl, arrive⟩
  · intro next item runs
    obtain ⟨strands, run, arrive⟩ := spill_arrives next runs (Core.unspill_held item) rfl (by rw [Core.chan_setChan_same]; rfl) rfl rfl
    exact ⟨_, run, strands, rfl, arrive⟩
  · intro next item runs fits wf _
    obtain ⟨strands, run, arrive⟩ := spill_arrives next runs (Core.unspill_entry item) rfl (by rw [Core.chan_setChan_same]; rfl) rfl rfl
    obtain ⟨header, -, words, rest⟩ := Well.putEntry_spec (h := c.chan x.ch) (off := (c.chan x.ch).tailOff) (hdr := e0.hdr) (ws := x.words)
      (bad := decide (e0.read = 1)) (w := c.well) fits wf
    refine ⟨_, run, _, strands, rfl, arrive, header, fun i hi => ?_, rest⟩
    obtain ⟨number, mark⟩ := words i hi
    split
    next bad =>
      rw [Nat.mul_div_cancel_left _ (by decide)]
      exact mark.trans (decide_eq_true bad)
    next good => exact number (decide_eq_false good)
  · exact spillDelivery_none

end Sys2Proof.Machine
end

section
/-! SUPPORT. The fabric statements, part 10: block lines written and read back, and the line that a combining group forms (R75, R190,
R193). -/

namespace Sys2Proof.Machine

/-! ## Digits -/

/-- The number of so many digits of w bits. -/
def digitSum (w : ℕ) (d : ℕ → ℕ) (n : ℕ) : ℕ := (List.range n).foldl (fun a i => a + d i * 2 ^ (w * i)) 0

section
variable {w : ℕ} {d : ℕ → ℕ}

theorem digitSum_succ (n : ℕ) : digitSum w d (n + 1) = digitSum w d n + d n * 2 ^ (w * n) := by
  simp [digitSum, List.range_succ]

theorem digitSum_lt (h : ∀ i, d i < 2 ^ w) (n : ℕ) : digitSum w d n < 2 ^ (w * n) := by
  induction n with
  | zero => simp [digitSum]
  | succ n ih =>
    have top : (d n + 1) * 2 ^ (w * n) ≤ 2 ^ w * 2 ^ (w * n) := Nat.mul_le_mul_right _ (h n)
    have pow : 2 ^ (w * (n + 1)) = 2 ^ w * 2 ^ (w * n) := by rw [← pow_add]; congr 1; ring
    rw [digitSum_succ, pow]
    linarith

/-- Every digit is there. -/
theorem natBits_digitSum (h : ∀ i, d i < 2 ^ w) {n i : ℕ} (hi : i < n) : natBits (digitSum w d n) (w * i) w = d i := by
  induction n with
  | zero => omega
  | succ n ih =>
    have pos : 0 < 2 ^ (w * i) := Nat.two_pow_pos _
    rw [digitSum_succ, natBits]
    obtain rfl | below : i = n ∨ i < n := by omega
    · rw [Nat.add_mul_div_right _ _ pos, Nat.div_eq_of_lt (digitSum_lt h i), Nat.zero_add, Nat.mod_eq_of_lt (h i)]
    · have split : d n * 2 ^ (w * n) = d n * 2 ^ (w * (n - i - 1)) * 2 ^ w * 2 ^ (w * i) := by
        rw [Nat.mul_assoc, Nat.mul_assoc, ← pow_add, ← pow_add]
        congr 2
        calc w * n = w * (n - i - 1 + (1 + i)) := congrArg (w * ·) (by omega)
          _ = w * (n - i - 1) + (w + w * i) := by ring
      rw [split, Nat.add_mul_div_right _ _ pos, Nat.add_mul_mod_self_right]
      exact ih below

end

/-! ## Mask words -/

/-- The number with the bits of a list. -/
def maskNat (bs : List Bool) : ℕ := bs.zipIdx.foldl (fun a (b, i) => if b then a + 2 ^ i else a) 0

theorem maskNat_append (bs : List Bool) (b : Bool) : maskNat (bs ++ [b]) = if b then maskNat bs + 2 ^ bs.length else maskNat bs := by
  simp [maskNat, List.zipIdx_append]

theorem maskNat_spec (bs : List Bool) : maskNat bs < 2 ^ bs.length ∧ ∀ k, (maskNat bs).testBit k = bs.getD k false := by
  induction bs using List.reverseRecOn with
  | nil => simp [maskNat]
  | append_singleton bs b ih =>
    obtain ⟨small, bit⟩ := ih
    rw [maskNat_append, List.length_append, List.length_singleton]
    generalize maskNat bs = n at small bit
    have pow : 2 ^ (bs.length + 1) = 2 ^ bs.length + 2 ^ bs.length := by ring
    have below : (if b then n + 2 ^ bs.length else n) < 2 ^ (bs.length + 1) := by split <;> omega
    refine ⟨below, fun k => ?_⟩
    rcases Nat.lt_trichotomy k bs.length with low | rfl | high
    · rw [List.getD_append _ _ _ _ low, ← bit k]
      split
      · rw [Nat.add_comm, Nat.testBit_two_pow_add_gt low]
      · rfl
    · rw [List.getD_append_right _ _ _ _ le_rfl, Nat.sub_self]
      cases b
      · exact Nat.testBit_lt_two_pow small
      · simp [Nat.add_comm n, Nat.testBit_two_pow_add_eq, Nat.testBit_lt_two_pow small]
    · rw [Nat.testBit_lt_two_pow (below.trans_le (Nat.pow_le_pow_right (by decide) high)), List.getD_eq_default _ _ (by simpa using high)]

theorem maskOf_getLsbD {bs : List Bool} {k : ℕ} (hk : k < 64) : (maskOf bs).getLsbD k = bs.getD k false := by
  rw [show maskOf bs = BitVec.ofNat 64 (maskNat bs) from rfl, BitVec.getLsbD_ofNat, (maskNat_spec bs).2 k]
  simp [hk]

/-! ## Lines written and read back (R75) -/

/-- A block that a line of its format can hold. -/
def Blk.Fits (f : Bfmt) (b : Blk) : Prop := b.e < 256 ∧ b.mu < 256 ∧ b.ms.length = 16 ∧
  ∀ m ∈ b.ms, -(2 ^ (f.w - 1) : ℕ) ≤ m ∧ m < (2 ^ (f.w - 1) : ℕ)

section
variable (f : Bfmt)

theorem two_pow_w : 2 ^ f.w = 2 ^ (f.w - 1) + 2 ^ (f.w - 1) := by cases f <;> rfl

theorem intOfNat_natOfInt {x : ℤ} (low : -(2 ^ (f.w - 1) : ℕ) ≤ x) (high : x < (2 ^ (f.w - 1) : ℕ)) : intOfNat f.w (natOfInt f.w x) = x := by
  have two := two_pow_w f
  unfold intOfNat natOfInt
  rw [two]
  rcases lt_or_ge x 0 with neg | pos
  · have wrap : x % ((2 ^ (f.w - 1) + 2 ^ (f.w - 1) : ℕ) : ℤ) = x + (2 ^ (f.w - 1) + 2 ^ (f.w - 1) : ℕ) := by
      rw [← Int.add_emod_right, Int.emod_eq_of_lt (by omega) (by omega)]
    rw [wrap, if_pos (by omega)]
    omega
  · rw [Int.emod_eq_of_lt pos (by omega), if_neg (by omega)]
    omega

theorem intOfNat_range {x : ℕ} (h : x < 2 ^ f.w) : -(2 ^ (f.w - 1) : ℕ) ≤ intOfNat f.w x ∧ intOfNat f.w x < (2 ^ (f.w - 1) : ℕ) := by
  have two := two_pow_w f
  unfold intOfNat
  split <;> omega

theorem blkOf_fits (hdr : Word) (pay : List Word) (j : ℕ) : (blkOf f hdr pay j).Fits f := by
  refine ⟨Nat.mod_lt _ (by decide), Nat.mod_lt _ (by decide), by simp [blkOf], fun m hm => ?_⟩
  obtain ⟨i, -, rfl⟩ := List.mem_map.mp hm
  exact intOfNat_range f (Nat.mod_lt _ (Nat.two_pow_pos _))

theorem Blk.poison_fits : Blk.poison.Fits f := by
  refine ⟨by decide, by decide, by decide, fun m hm => ?_⟩
  obtain rfl := List.eq_of_mem_replicate hm
  have := Nat.two_pow_pos (f.w - 1)
  omega

/-- The header word holds the exponent code and the micro codes of every block. -/
theorem natBits_hdrOf {bs : List Blk} (fits : ∀ b ∈ bs, b.Fits f) {j : ℕ} (hj : j < 4) :
    natBits (hdrOf bs).toNat (16 * j + 8) 8 = (bs.getD j Blk.zero).e ∧ natBits (hdrOf bs).toNat (16 * j) 8 = (bs.getD j Blk.zero).mu := by
  have small (i : ℕ) : (bs.getD i Blk.zero).mu < 256 ∧ (bs.getD i Blk.zero).e < 256 := by
    by_cases hi : i < bs.length
    · rw [List.getD_eq_getElem _ _ hi]
      obtain ⟨e, mu, -⟩ := fits _ (List.getElem_mem hi)
      exact ⟨mu, e⟩
    · rw [List.getD_eq_default _ _ (Nat.not_lt.mp hi)]
      decide
  have digit (i : ℕ) : (bs.getD i Blk.zero).mu + 256 * (bs.getD i Blk.zero).e < 2 ^ 16 := by
    obtain ⟨mu, e⟩ := small i
    omega
  have word : (hdrOf bs).toNat = digitSum 16 (fun i => (bs.getD i Blk.zero).mu + 256 * (bs.getD i Blk.zero).e) 4 := by
    show (BitVec.ofNat 64 (digitSum 16 _ 4)).toNat = _
    rw [BitVec.toNat_ofNat, Nat.mod_eq_of_lt (digitSum_lt digit 4)]
  have here := natBits_digitSum digit hj
  rw [← word] at here
  unfold natBits at *
  rw [Nat.pow_add, ← Nat.div_div_eq_div_mul]
  generalize (hdrOf bs).toNat / 2 ^ (16 * j) = q at here
  obtain ⟨mu, e⟩ := small j
  omega

/-- The payload holds every mantissa. -/
theorem mantOf_payOf (bs : List Blk) {k : ℕ} (hk : k < 64) :
    mantOf f.w (payOf f bs) k = intOfNat f.w (natOfInt f.w ((bs.flatMap Blk.ms).getD k 0)) := by
  have word (t : ℕ) : (payWord f.w (bs.flatMap Blk.ms) t).toNat =
      digitSum f.w (fun i => natOfInt f.w ((bs.flatMap Blk.ms).getD (t * (64 / f.w) + i) 0)) (64 / f.w) := by
    have bits : f.w * (64 / f.w) = 64 := by cases f <;> rfl
    have small := digitSum_lt (fun i => natOfInt_lt f.w ((bs.flatMap Blk.ms).getD (t * (64 / f.w) + i) 0)) (64 / f.w)
    rw [bits] at small
    exact (BitVec.toNat_ofNat ..).trans (Nat.mod_eq_of_lt small)
  have place : f.w * k / 64 < f.n ∧ f.w * k % 64 = f.w * (k % (64 / f.w)) ∧ k % (64 / f.w) < 64 / f.w ∧
      f.w * k / 64 * (64 / f.w) + k % (64 / f.w) = k := by
    cases f <;> simp only [Bfmt.w, Bfmt.n] <;> omega
  obtain ⟨inside, low, here, whole⟩ := place
  rw [mantOf, payOf, List.getD_eq_getElem _ _ (by simpa using inside), List.getElem_map, List.getElem_range, word, low,
    natBits_digitSum (fun i => natOfInt_lt _ _) here, whole]

theorem getD_flatMap_ms {bs : List Blk} (whole : ∀ b ∈ bs, b.ms.length = 16) {i : ℕ} (hi : i < 16) :
    ∀ j, (bs.flatMap Blk.ms).getD (16 * j + i) 0 = (bs.getD j Blk.zero).ms.getD i 0 := by
  induction bs with
  | nil =>
    intro j
    exact (List.getD_replicate (x := (0 : ℤ)) hi).symm
  | cons b bs ih =>
    intro j
    have here := whole b (List.mem_cons_self ..)
    cases j with
    | zero => rw [List.flatMap_cons, List.getD_append _ _ _ _ (by omega), List.getD_cons_zero, Nat.mul_zero, Nat.zero_add]
    | succ j =>
      rw [List.flatMap_cons, List.getD_append_right _ _ _ _ (by omega), List.getD_cons_succ, here,
        ← ih (fun b hb => whole b (List.mem_cons_of_mem _ hb)) j]
      congr 1
      omega

/-- Four blocks written as a line are read back from it. -/
theorem blksOf_line {bs : List Blk} (fits : ∀ b ∈ bs, b.Fits f) (four : bs.length = 4) : blksOf f (hdrOf bs) (payOf f bs) = bs := by
  refine List.ext_getElem (by simp [blksOf, four]) fun j hj hj' => ?_
  obtain ⟨-, -, whole, range⟩ := fits _ (List.getElem_mem hj')
  obtain ⟨e, mu⟩ := natBits_hdrOf f fits (j := j) (by omega)
  rw [List.getD_eq_getElem _ _ hj'] at e mu
  have ms : ((List.range 16).map fun i => mantOf f.w (payOf f bs) (16 * j + i)) = bs[j].ms := by
    refine List.ext_getElem (by simp [whole]) fun i hi hi' => ?_
    rw [List.getElem_map, List.getElem_range, mantOf_payOf f bs (by omega),
      getD_flatMap_ms (fun b hb => (fits b hb).2.2.1) (by omega), List.getD_eq_getElem _ _ hj', List.getD_eq_getElem _ _ hi']
    obtain ⟨low, high⟩ := range _ (List.getElem_mem hi')
    exact intOfNat_natOfInt f low high
  simp only [blksOf, List.getElem_map, List.getElem_range, blkOf, e, mu, ms]

end

end Sys2Proof.Machine
end

section
/-! SUPPORT. The fabric statements, part 11: the line that a combining group forms of its members' (R190, R193). -/

namespace Sys2Proof.Machine

/-! ## Elements of a group (R190, R193) -/

/-- Block j of a line at a group. -/
def LineIn.blk (f : Bfmt) (x : LineIn) (j : ℕ) : Blk := (blksOf f x.hdr x.pay).getD j Blk.zero

/-- The largest exponent code of the members' blocks j. -/
def groupExp (f : Bfmt) (xs : List LineIn) (j : ℕ) : ℕ := xs.foldl (fun t x => max t (x.blk f j).e) 0

/-- How far a member's element k is shifted. -/
def LineIn.shift (f : Bfmt) (xs : List LineIn) (k : ℕ) (x : LineIn) : ℕ :=
  groupExp f xs (k / 16) - (x.blk f (k / 16)).e + (x.blk f (k / 16)).nu (k % 16 / 4)

/-- A member's mantissa k. -/
def LineIn.mant (f : Bfmt) (k : ℕ) (x : LineIn) : ℤ := (x.blk f (k / 16)).ms.getD (k % 16) 0

/-- It is the element NaN. -/
def LineIn.isNan (f : Bfmt) (k : ℕ) (x : LineIn) : Bool := !x.combined && decide (x.mant f k = nanMant f.w)

/-- It aligned to the group's exponent. -/
def LineIn.aligned (f : Bfmt) (xs : List LineIn) (k : ℕ) (x : LineIn) : ℤ := floorShift (x.mant f k) (x.shift f xs k)

/-- Bits of it are lost. -/
def LineIn.lost (f : Bfmt) (xs : List LineIn) (k : ℕ) (x : LineIn) : Bool :=
  x.mask.getLsbD k || decide (x.aligned f xs k * (2 ^ x.shift f xs k : ℕ) ≠ x.mant f k)

/-- The sum of the aligned elements k. -/
def groupSum (f : Bfmt) (xs : List LineIn) (k : ℕ) : ℤ := xs.foldl (fun t x => t + x.aligned f xs k) 0

/-- A number wrapped into the width of a format. -/
def wrapTo (f : Bfmt) (x : ℤ) : ℤ := (x + (2 ^ (f.w - 1) : ℕ)) % (2 ^ f.w : ℕ) - (2 ^ (f.w - 1) : ℕ)

/-- The number that element k comes to, before NaN. -/
def groupVal (f : Bfmt) (isMax : Bool) (xs : List LineIn) (k : ℕ) : ℤ :=
  if isMax then ((xs.filter fun x => !x.isNan f k).map (LineIn.aligned f xs k)).max?.getD 0 else wrapTo f (groupSum f xs k)

/-- Element k of a block without poison: its mantissa, the carry, NaN, lost bits, and the members' shifts. -/
def groupEl (f : Bfmt) (isMax : Bool) (xs : List LineIn) (k : ℕ) : ℤ × ℤ × Bool × Bool × List ℕ :=
  (if xs.any (LineIn.isNan f k) then 0 else groupVal f isMax xs k,
    if isMax then 0 else (groupSum f xs k - wrapTo f (groupSum f xs k)) / (2 ^ f.w : ℕ),
    xs.any (LineIn.isNan f k), xs.any (LineIn.lost f xs k), xs.map (LineIn.shift f xs k))

/-- What a group emits, from its blocks that are poison, its exponent codes and its elements. -/
def combineOf (f : Bfmt) (n : ℕ) (poison : List Bool) (eo : List ℕ) (els : List (ℤ × ℤ × Bool × Bool × List ℕ)) : CombineOut :=
  let blks := (List.range 4).map fun j =>
    if poison.getD j false then Blk.poison else ⟨eo.getD j 0, 0, ((els.drop (16 * j)).take 16).map (·.1)⟩
  let codes := els.map fun (_, c, nan, _, _) => if nan then RCode.nan else RCode.count c
  { hdr := hdrOf blks, pay := payOf f blks, mask := maskOf (els.map fun (_, _, _, l, _) => l)
    shifts := (List.range n).map fun q => els.map fun (_, _, _, _, ss) => ss.getD q 0
    poison := poison
    renorm := if codes.any (fun c => decide (c ≠ .count 0)) then some codes else none }

section
variable (f : Bfmt) (isMax : Bool) (xs : List LineIn)

/-- A block of a group is poison where a member's is. -/
def groupPoison (j : ℕ) : Bool := xs.any fun x => (x.blk f j).isPoison

theorem combineLines_eq : combineLines f isMax xs = combineOf f xs.length ((List.range 4).map (groupPoison f xs))
    ((List.range 4).map (groupExp f xs)) ((List.range 64).map fun k =>
      if groupPoison f xs (k / 16) then (0, 0, false, false, xs.map fun _ => 0) else groupEl f isMax xs k) := by
  have poison : ((List.range 4).map fun j => (xs.map fun x => (x, blksOf f x.hdr x.pay)).any fun x => (x.2.getD j Blk.zero).isPoison) =
      (List.range 4).map (groupPoison f xs) := by
    simp only [List.any_map]
    rfl
  have exps : ((List.range 4).map fun j => (xs.map fun x => (x, blksOf f x.hdr x.pay)).foldl (fun a x => max a (x.2.getD j Blk.zero).e) 0) =
      (List.range 4).map (groupExp f xs) := by
    simp only [List.foldl_map]
    rfl
  rw [← poison, ← exps]
  refine congrArg (combineOf f xs.length _ _) (List.map_congr_left fun k hk => ?_)
  have hk : k / 16 < 4 := by
    have := List.mem_range.mp hk
    omega
  have here : ((List.range 4).map (groupPoison f xs)).getD (k / 16) false = groupPoison f xs (k / 16) := by
    rw [List.getD_eq_getElem _ _ (by simpa using hk), List.getElem_map, List.getElem_range]
  have exp : ((List.range 4).map (groupExp f xs)).getD (k / 16) 0 = groupExp f xs (k / 16) := by
    rw [List.getD_eq_getElem _ _ (by simpa using hk), List.getElem_map, List.getElem_range]
  dsimp only
  rw [poison, exps, here, exp]
  by_cases bad : groupPoison f xs (k / 16) = true
  · rw [if_pos bad, if_pos bad]
  · rw [if_neg bad, if_neg bad]
    simp only [List.map_map, List.any_map, List.foldl_map, List.filter_map]
    cases isMax with
    | false => rfl
    | true =>
      have largest (ys : List LineIn) : (match ys.map fun x => (x, x.mant f k, x.shift f xs k, x.aligned f xs k) with
          | [] => 0
          | (_, _, _, a) :: rest => rest.foldl (fun t (_, _, _, b) => max t b) a) = (ys.map (LineIn.aligned f xs k)).max?.getD 0 := by
        cases ys with
        | nil => rfl
        | cons y ys => simp only [List.map_cons, List.max?_cons', Option.getD_some, List.foldl_map]
      unfold groupEl groupVal
      rw [if_pos rfl, if_pos rfl, if_pos rfl, ← largest]
      rfl

/-- Element k as the group emits it. -/
def groupElement (k : ℕ) : ℤ × ℤ × Bool × Bool × List ℕ :=
  if groupPoison f xs (k / 16) then (0, 0, false, false, xs.map fun _ => 0) else groupEl f isMax xs k

/-- Its code in the group's renorm. -/
def groupCode (k : ℕ) : RCode :=
  if (groupElement f isMax xs k).2.2.1 then .nan else .count (groupElement f isMax xs k).2.1

/-- Block j of the line that a group emits. -/
def groupBlk (j : ℕ) : Blk := if groupPoison f xs j then Blk.poison else
  ⟨groupExp f xs j, 0, (List.range 16).map fun i => (groupElement f isMax xs (16 * j + i)).1⟩

theorem combineLines_blocks : let o := combineLines f isMax xs
    o.hdr = hdrOf ((List.range 4).map (groupBlk f isMax xs)) ∧ o.pay = payOf f ((List.range 4).map (groupBlk f isMax xs)) := by
  have blocks : ((List.range 4).map fun j => if ((List.range 4).map (groupPoison f xs)).getD j false then Blk.poison else
      (⟨((List.range 4).map (groupExp f xs)).getD j 0, 0,
        ((((List.range 64).map (groupElement f isMax xs)).drop (16 * j)).take 16).map (·.1)⟩ : Blk)) =
      (List.range 4).map (groupBlk f isMax xs) := by
    refine List.map_congr_left fun j hj => ?_
    have hj : j < 4 := List.mem_range.mp hj
    have ms : ((((List.range 64).map (groupElement f isMax xs)).drop (16 * j)).take 16).map (·.1) =
        (List.range 16).map fun i => (groupElement f isMax xs (16 * j + i)).1 := by
      refine List.ext_getElem (by simp; omega) fun i hi hi' => ?_
      simp
    rw [ms, groupBlk, List.getD_eq_getElem _ _ (by simpa using hj), List.getD_eq_getElem _ _ (by simpa using hj)]
    simp
  rw [combineLines_eq]
  exact ⟨congrArg hdrOf blocks, congrArg (payOf f) blocks⟩

variable {f xs}

theorem foldl_max_lt {g : LineIn → ℕ} {b : ℕ} (h : ∀ x ∈ xs, g x < b) : ∀ a < b, xs.foldl (fun t x => max t (g x)) a < b := by
  induction xs with
  | nil => exact fun a ha => ha
  | cons x xs ih => exact fun a ha => ih (fun y hy => h y (List.mem_cons_of_mem _ hy)) _ (max_lt ha (h x (List.mem_cons_self ..)))

theorem LineIn.blk_fits (x : LineIn) (j : ℕ) : (x.blk f j).Fits f := by
  unfold LineIn.blk
  by_cases hj : j < (blksOf f x.hdr x.pay).length
  · rw [List.getD_eq_getElem _ _ hj]
    simp only [blksOf, List.getElem_map]
    exact blkOf_fits f ..
  · rw [List.getD_eq_default _ _ (Nat.not_lt.mp hj)]
    exact ⟨by decide, by decide, by decide, (Blk.poison_fits f).2.2.2⟩

theorem LineIn.aligned_range (k : ℕ) (x : LineIn) : -(2 ^ (f.w - 1) : ℕ) ≤ x.aligned f xs k ∧ x.aligned f xs k < (2 ^ (f.w - 1) : ℕ) := by
  have pos : (0 : ℤ) < (2 ^ x.shift f xs k : ℕ) := by exact_mod_cast Nat.two_pow_pos _
  have one : (1 : ℤ) ≤ (2 ^ x.shift f xs k : ℕ) := pos
  have half : (0 : ℤ) < (2 ^ (f.w - 1) : ℕ) := by exact_mod_cast Nat.two_pow_pos _
  have mant : -(2 ^ (f.w - 1) : ℕ) ≤ x.mant f k ∧ x.mant f k < (2 ^ (f.w - 1) : ℕ) := by
    obtain ⟨-, -, whole, range⟩ := x.blk_fits (f := f) (k / 16)
    refine range _ ?_
    rw [LineIn.mant, List.getD_eq_getElem _ _ (by omega)]
    exact List.getElem_mem _
  refine ⟨(Int.le_ediv_iff_mul_le pos).mpr ?_, Int.ediv_lt_of_lt_mul pos ?_⟩
  · nlinarith
  · nlinarith

theorem wrapTo_range (x : ℤ) : -(2 ^ (f.w - 1) : ℕ) ≤ wrapTo f x ∧ wrapTo f x < (2 ^ (f.w - 1) : ℕ) := by
  have two := two_pow_w f
  have pos : (0 : ℤ) < (2 ^ f.w : ℕ) := by exact_mod_cast Nat.two_pow_pos _
  have low := Int.emod_nonneg (x + (2 ^ (f.w - 1) : ℕ)) pos.ne'
  have high := Int.emod_lt_of_pos (x + (2 ^ (f.w - 1) : ℕ)) pos
  unfold wrapTo
  omega

theorem groupVal_range (k : ℕ) : -(2 ^ (f.w - 1) : ℕ) ≤ groupVal f isMax xs k ∧ groupVal f isMax xs k < (2 ^ (f.w - 1) : ℕ) := by
  unfold groupVal
  split
  · cases largest : ((xs.filter fun x => !x.isNan f k).map (LineIn.aligned f xs k)).max? with
    | none =>
      have := Nat.two_pow_pos (f.w - 1)
      simp only [Option.getD_none]
      omega
    | some a =>
      obtain ⟨x, -, rfl⟩ := List.mem_map.mp (List.max?_mem largest)
      exact x.aligned_range k
  · exact wrapTo_range _

theorem groupBlk_fits (j : ℕ) : (groupBlk f isMax xs j).Fits f := by
  unfold groupBlk
  split
  · exact Blk.poison_fits f
  · refine ⟨foldl_max_lt (fun x _ => (x.blk_fits j).1) 0 (by decide), Nat.zero_lt_succ _, by simp, fun m hm => ?_⟩
    obtain ⟨i, -, rfl⟩ := List.mem_map.mp hm
    have zero : -(2 ^ (f.w - 1) : ℕ) ≤ (0 : ℤ) ∧ (0 : ℤ) < (2 ^ (f.w - 1) : ℕ) := by
      have := Nat.two_pow_pos (f.w - 1)
      omega
    unfold groupElement
    split
    · exact zero
    · unfold groupEl
      dsimp only
      split
      · exact zero
      · exact groupVal_range ..

/-- The line that a group emits holds the group's blocks. -/
theorem combineLines_blk {j : ℕ} (hj : j < 4) : let o := combineLines f isMax xs
    (blksOf f o.hdr o.pay).getD j Blk.zero = groupBlk f isMax xs j := by
  obtain ⟨hdr, pay⟩ := combineLines_blocks f isMax xs
  dsimp only
  rw [hdr, pay, blksOf_line f (fun b hb => ?_) (by simp), List.getD_eq_getElem _ _ (by simpa using hj), List.getElem_map, List.getElem_range]
  obtain ⟨j, -, rfl⟩ := List.mem_map.mp hb
  exact groupBlk_fits isMax j

theorem combineLines_mask {k : ℕ} (hk : k < 64) : (combineLines f isMax xs).mask.getLsbD k = (groupElement f isMax xs k).2.2.2.1 := by
  rw [combineLines_eq, combineOf, maskOf_getLsbD hk, List.map_map, List.getD_eq_getElem _ _ (by simpa using hk), List.getElem_map,
    List.getElem_range]
  rfl

theorem combineLines_renorm : let codes := (List.range 64).map (groupCode f isMax xs)
    (combineLines f isMax xs).renorm = if codes.any (fun c => decide (c ≠ .count 0)) then some codes else none := by
  have codes : (((List.range 64).map (groupElement f isMax xs)).map fun x => if x.2.2.1 then RCode.nan else RCode.count x.2.1) =
      (List.range 64).map (groupCode f isMax xs) := by
    rw [List.map_map]
    rfl
  rw [combineLines_eq]
  dsimp only
  rw [← codes]
  rfl

theorem combineLines_renorm_some {cs : List RCode} (h : (combineLines f isMax xs).renorm = some cs) {k : ℕ} (hk : k < 64) :
    cs.getD k (.count 0) = groupCode f isMax xs k := by
  rw [combineLines_renorm] at h
  split at h
  · obtain rfl := Option.some.inj h
    rw [List.getD_eq_getElem _ _ (by simpa using hk), List.getElem_map, List.getElem_range]
  · cases h

theorem combineLines_renorm_none (h : (combineLines f isMax xs).renorm = none) {k : ℕ} (hk : k < 64) :
    groupCode f isMax xs k = .count 0 := by
  rw [combineLines_renorm] at h
  split at h
  · cases h
  next none =>
    by_contra other
    exact none (List.any_eq_true.mpr ⟨_, List.mem_map.mpr ⟨k, List.mem_range.mpr hk, rfl⟩, decide_eq_true other⟩)

/-! ## A block that no member has as poison -/

section
variable {k : ℕ} (hk : k < 64) (fine : ∀ x ∈ xs, (x.blk f (k / 16)).isPoison = false)
include fine

theorem groupElement_fine : groupElement f isMax xs k = groupEl f isMax xs k := by
  rw [groupElement, if_neg]
  simpa [groupPoison] using fine

/-- An element that is NaN at a member is zero, and NaN in the renorm. -/
theorem combineLines_nan (nan : ∃ x ∈ xs, x.isNan f k = true) : (groupEl f isMax xs k).1 = 0 ∧ groupCode f isMax xs k = .nan := by
  have any : xs.any (LineIn.isNan f k) = true := List.any_eq_true.mpr nan
  rw [groupCode, groupElement_fine isMax fine, groupEl, any]
  exact ⟨rfl, rfl⟩

theorem combineLines_number (number : ¬ ∃ x ∈ xs, x.isNan f k = true) : (groupEl f isMax xs k).1 = groupVal f isMax xs k ∧
    groupCode f isMax xs k = .count (if isMax then 0 else (groupSum f xs k - wrapTo f (groupSum f xs k)) / (2 ^ f.w : ℕ)) := by
  have any : xs.any (LineIn.isNan f k) = false := by
    rw [← Bool.not_eq_true, List.any_eq_true]
    exact number
  rw [groupCode, groupElement_fine isMax fine, groupEl, any]
  exact ⟨rfl, rfl⟩

include hk

theorem combineLines_fine : let o := combineLines f isMax xs
    let b := (blksOf f o.hdr o.pay).getD (k / 16) Blk.zero
    b.e = groupExp f xs (k / 16) ∧ (∀ q, b.nu q = 0) ∧ b.ms.getD (k % 16) 0 = (groupEl f isMax xs k).1 := by
  have clean : ¬ groupPoison f xs (k / 16) = true := by simpa [groupPoison] using fine
  dsimp only
  rw [combineLines_blk isMax (by omega), groupBlk, if_neg clean]
  refine ⟨rfl, fun q => by simp [Blk.nu], ?_⟩
  rw [List.getD_eq_getElem _ _ (by simpa using Nat.mod_lt k (by decide)), List.getElem_map, List.getElem_range, Nat.div_add_mod,
    groupElement_fine isMax fine]

end

/-- The largest of the aligned elements, where none is NaN. -/
theorem groupVal_max {k : ℕ} (number : ¬ ∃ x ∈ xs, x.isNan f k = true) (some' : xs ≠ []) :
    (∃ x ∈ xs, groupVal f true xs k = x.aligned f xs k) ∧ ∀ x ∈ xs, x.aligned f xs k ≤ groupVal f true xs k := by
  have all : (xs.filter fun x => !x.isNan f k) = xs := List.filter_eq_self.mpr fun x hx => by simpa using fun nan => number ⟨x, hx, nan⟩
  obtain ⟨a, largest⟩ : ∃ a, (xs.map (LineIn.aligned f xs k)).max? = some a := Option.isSome_iff_exists.mp (by simpa using some')
  obtain ⟨mem, le⟩ := List.max?_eq_some_iff.mp largest
  have val : groupVal f true xs k = a := by
    rw [groupVal, all, largest]
    rfl
  obtain ⟨x, hx, same⟩ := List.mem_map.mp mem
  rw [val]
  exact ⟨⟨x, hx, same.symm⟩, fun y hy => le _ (List.mem_map.mpr ⟨y, hy, rfl⟩)⟩

/-- What wraps by whole turns of the width and turns not at all has not changed. -/
theorem wrapTo_eq {x : ℤ} (h : (x - wrapTo f x) / (2 ^ f.w : ℕ) = 0) : x = wrapTo f x := by
  have turns : x - wrapTo f x = (2 ^ f.w : ℕ) * ((x + (2 ^ (f.w - 1) : ℕ)) / (2 ^ f.w : ℕ)) := by
    have := Int.emod_add_mul_ediv (x + (2 ^ (f.w - 1) : ℕ)) (2 ^ f.w : ℕ)
    unfold wrapTo
    linarith
  have pos : ((2 ^ f.w : ℕ) : ℤ) ≠ 0 := by exact_mod_cast (Nat.two_pow_pos _).ne'
  rw [turns, Int.mul_ediv_cancel_left _ pos] at h
  rw [h, mul_zero] at turns
  omega

end

end Sys2Proof.Machine
end

section
/-! SUPPORT. The fabric statements, part 12: the steps of a combining group, and renorms at its members (R187, R189 to R193). -/

namespace Sys2Proof.Machine

/-! ## Reports and routers -/

section
variable (s : State) (r : Router)

theorem State.coreAt_router (t : Site) : (({ s with core := { s.core with router := r } } : State).coreAt t).csr = (s.coreAt t).csr := by
  unfold State.coreAt
  dsimp only
  split <;> rfl

theorem State.fieldOf_router (m : Mail) : ({ s with core := { s.core with router := r } } : State).fieldOf m = s.fieldOf m := by
  unfold State.fieldOf
  split <;> simp only [State.coreAt_router]

/-- What is reported does not rest on the router. -/
theorem State.post_router (m : Mail) : ({ s with core := { s.core with router := r } } : State).post m =
    { s.post m with core := { s.core with router := r } } := by
  have field := s.fieldOf_router r m
  rw [State.post, State.posted, field]
  rfl

theorem State.post_mapRouter (g : Router → Router) (m : Mail) : (s.mapRouter g).post m = (s.post m).mapRouter g := s.post_router _ m

end

/-! ## Groups and their heads (R187, R189) -/

section
variable {e : Word} {out p : Port} {md : ℕ}

theorem mem_groupOf : p ∈ groupOf e out md ↔ e.getLsbD (40 + portNo p) = true ∧ modeOf e (portNo p) = md ∧
    omask e (portNo p) = 1#5 <<< portNo out := by
  simp [groupOf, mem_allPorts, inJoin_eq, and_assoc]

theorem mem_voteInputs : p ∈ voteInputs e ↔ modeOf e (portNo p) = 3 := by
  simp [voteInputs, mem_allPorts]

theorem mem_voteMembers : p ∈ voteMembers e ↔ e.getLsbD (40 + portNo p) = true ∧ modeOf e (portNo p) = 3 := by
  rw [voteMembers, List.mem_filter, mem_voteInputs, inJoin_eq, and_comm]

end

section
variable {c : Core} {ch : Chan} {ps : List Port} {hd : Port → Msg}

/-- What a group combines: heads that are well formed, and neither markers nor renorms. -/
def Msg.Combines (m : Msg) : Prop := hdrKind m.hdr < 8 ∧ hdrKind m.hdr ≠ 3 ∧ hdrKind m.hdr ≠ 4 ∧ hdrLen m.hdr = m.pay.length

theorem Msg.malformed_false {m : Msg} (kind : hdrKind m.hdr < 8) (len : hdrLen m.hdr = m.pay.length)
    (code : hdrKind m.hdr = 3 → natBits m.hdr.toNat 26 17 ≤ 0x12) : m.malformed = false := by
  rw [← Bool.not_eq_true, Msg.malformed_iff]
  rintro (big | other | ⟨three, big⟩)
  · omega
  · exact other len
  · have := code three
    omega

theorem Core.groupHeads_ready (some' : ps ≠ []) (head : ∀ p ∈ ps, c.router.headAt p ch = some (hd p)) (ready : ∀ p ∈ ps, (hd p).Combines) :
    c.groupHeads ch ps = some (ps.map hd) := by
  have heads : (ps.filterMap fun p => c.router.headAt p ch) = ps.map hd := by
    rw [← List.filterMap_eq_map]
    exact List.filterMap_congr head
  unfold Core.groupHeads
  dsimp only
  rw [heads, if_neg]
  simp only [Bool.or_eq_true, List.isEmpty_iff, some', List.length_map, decide_eq_true_eq, List.any_eq_true, List.mem_map, not_or,
    not_exists, not_and, ne_eq, not_true_eq_false, not_false_eq_true, true_and, forall_exists_index, and_imp]
  rintro _ p hp rfl
  obtain ⟨kind, marker, renorm, len⟩ := ready p hp
  rw [Msg.malformed_false kind len fun three => absurd three marker]
  exact ⟨⟨Bool.false_ne_true, marker⟩, renorm⟩

theorem Core.groupHeads_none (h : ps = [] ∨ ∃ p ∈ ps, c.router.headAt p ch = none) : c.groupHeads ch ps = none := by
  by_contra heads
  obtain ⟨ms, heads⟩ := Option.ne_none_iff_exists'.mp heads
  obtain ⟨some', head⟩ := Core.groupHeads_head heads
  obtain empty | ⟨p, hp, none⟩ := h
  · exact some' empty
  · obtain ⟨m, hm⟩ := head p hp
    rw [none] at hm
    cases hm

theorem Core.combining_none {out : Port} (h : ∀ k, k = 1 ∨ k = 2 → groupOf (c.route ch) out k = [] ∨
    ∃ p ∈ groupOf (c.route ch) out k, c.router.headAt p ch = none) : c.combining ch out = none := by
  simp [Core.combining, Core.groupHeads_none (h 1 (.inl rfl)), Core.groupHeads_none (h 2 (.inr rfl))]

/-- The group of a mode that combines on an output: a REDUCE group goes before a MAX group. -/
theorem Core.combining_group {out : Port} {md : ℕ} {ms : List Msg}
    (mode : md = 1 ∨ (md = 2 ∧ c.groupHeads ch (groupOf (c.route ch) out 1) = none))
    (heads : c.groupHeads ch (groupOf (c.route ch) out md) = some ms) : c.combining ch out = some (md, ms) := by
  unfold Core.combining
  rcases mode with rfl | ⟨rfl, reduce⟩
  · simp [heads]
  · simp [heads, reduce]

end

/-! ## Heads that agree (R189) -/

theorem blockFmt_inj {a b : BitVec 4} {f : Bfmt} (ha : blockFmt a = some f) (hb : blockFmt b = some f) : a = b := by
  revert a b f
  decide

section
variable {ps : List Port} {hd : Port → Msg} {f : Bfmt}

/-- The heads of some inputs are lines of one block format, whole but for their trailers. -/
def Agree (hd : Port → Msg) (ps : List Port) (f : Bfmt) : Prop := ∀ p ∈ ps, hdrKind (hd p).hdr = 2 ∧ blockFmt (hdrFmt (hd p).hdr) = some f ∧
  hdrLen (hd p).hdr = f.n + 1 + if hdrTrl (hd p).hdr then 1 else 0

theorem headsAgree_iff (some' : ps ≠ []) : headsAgree (ps.map hd) = some f ↔ Agree hd ps f := by
  obtain ⟨p, rest, rfl⟩ := List.exists_cons_of_ne_nil some'
  show (match blockFmt (hdrFmt (hd p).hdr) with
    | none => none
    | some g => if (((p :: rest).map hd).all fun x => decide (hdrKind x.hdr = 2) && decide (hdrFmt x.hdr = hdrFmt (hd p).hdr) &&
        decide (hdrLen x.hdr = g.n + 1 + if hdrTrl x.hdr then 1 else 0)) = true then some g else none) = some f ↔ _
  constructor
  · intro h
    split at h
    next => cases h
    next g fmt =>
      split at h
      next all =>
        obtain rfl := Option.some.inj h
        intro q hq
        have this := List.all_eq_true.mp all (hd q) (List.mem_map.mpr ⟨q, hq, rfl⟩)
        simp only [Bool.and_eq_true, decide_eq_true_eq] at this
        obtain ⟨⟨kind, same⟩, len⟩ := this
        exact ⟨kind, same ▸ fmt, len⟩
      next => cases h
  · intro h
    obtain ⟨-, fmt, -⟩ := h p (List.mem_cons_self ..)
    rw [fmt]
    refine if_pos (List.all_eq_true.mpr fun x hx => ?_)
    obtain ⟨q, hq, rfl⟩ := List.mem_map.mp hx
    obtain ⟨kind, same, len⟩ := h q hq
    simp only [Bool.and_eq_true, decide_eq_true_eq]
    exact ⟨⟨kind, blockFmt_inj same fmt⟩, len⟩

theorem headsAgree_none (some' : ps ≠ []) (no : ∀ f, ¬ Agree hd ps f) : headsAgree (ps.map hd) = none := by
  by_contra heads
  obtain ⟨f, heads⟩ := Option.ne_none_iff_exists'.mp heads
  exact no f ((headsAgree_iff some').mp heads)

end

/-! ## COMBINE_LINE (R189, R190, R193) -/

/-- A router whose inputs have passed their heads. -/
def Router.takes (hd : Port → Msg) (now : ℕ) (r : Router) (ps : List Port) : Router :=
  ps.foldl (fun r p => (r.pop p (hd p) now).pass p (hd p)) r

section
variable {s : State} {ch : Chan} {out : Port} {md : ℕ} {ps : List Port} {hd : Port → Msg} {f : Bfmt}

theorem State.takes_heads : ∀ s : State, (ps.zip (ps.map hd)).foldl (fun t (p, m) =>
    t.mapCore fun c => { c.leave p m with router := (c.leave p m).router.pass p m }) s =
    { s with core := { s.core with router := s.core.router.takes hd s.core.csr.cycle.toNat ps } } := by
  induction ps with
  | nil => exact fun s => rfl
  | cons p ps ih => exact fun s => (ih _).trans rfl

/-- What a group records of a line that it emits (R192). -/
def Router.recordOf (r : Router) (ch : Chan) (out : Port) (md : ℕ) (ps : List Port) (f : Bfmt) (shifts : List (List ℕ)) (poison : List Bool)
    (bad : Bool) : Combined :=
  { ch := ch, out := out, mode := BitVec.ofNat 2 md, line := portCount r.sent ch out, fmt := f
    members := ps.zipIdx.map fun (p, i) => (p, portCount r.lines ch p, shifts.getD i []), poison := poison, bad := bad }

/-- The machine as a group has recorded its line and emitted it (R189, R190). -/
def State.emitLine (s t : State) (ch : Chan) (out : Port) (md : ℕ) (ps : List Port) (hd : Port → Msg) (f : Bfmt) (shifts : List (List ℕ))
    (poison : List Bool) (pay : List Word) : State :=
  let h0 := (hd (ps.getD 0 .n)).hdr
  let bad := (ps.map hd).any (·.bad)
  State.emitAll { t with core := { s.core with
      router := (s.core.router.takes hd s.core.csr.cycle.toNat ps).record (s.core.router.recordOf ch out md ps f shifts poison bad) } }
    (1#5 <<< portNo out) { ch := ch, hdr := combinedHeader (hdrCls h0) f (fmtOf f) (h0.extractLsb' 26 16) s.core.ident.name, pay := pay, bad := bad }

theorem State.combine_agree (some' : ps ≠ []) (agree : Agree hd ps f) : s.combine ch out md ps (ps.map hd) =
    let o := combineLines f (decide (md = 2)) ((ps.map hd).map (lineIn f))
    let after := s.emitLine s ch out md ps hd f o.shifts o.poison (o.hdr :: o.pay ++ [o.mask])
    match o.renorm with
    | some cs => after.emitAll (1#5 <<< portNo out) (renormMsg ch (hdrCls (hd (ps.getD 0 .n)).hdr) (fmtOf f) (portCount s.core.router.sent ch out % 2)
      { u := 0, codes := cs, mask := 0 } s.core.ident.name ((ps.map hd).any (·.bad)))
    | none => after := by
  unfold State.combine
  dsimp only
  rw [(headsAgree_iff some').mpr agree, State.takes_heads]
  obtain ⟨p, rest, rfl⟩ := List.exists_cons_of_ne_nil some'
  rfl

theorem State.combine_disagree (some' : ps ≠ []) (no : ∀ f, ¬ Agree hd ps f) : s.combine ch out md ps (ps.map hd) =
    let f := ((ps.map hd).findSome? fun m => if hdrKind m.hdr = 2 then blockFmt (hdrFmt m.hdr) else none).getD .bk16
    s.emitLine (s.post (.group s.core.ident.site ch)) ch out md ps hd f [] [true, true, true, true] (poisonLine f true) := by
  unfold State.combine
  dsimp only
  rw [headsAgree_none some' no, State.takes_heads]
  dsimp only
  rw [State.post_router]
  obtain ⟨p, rest, rfl⟩ := List.exists_cons_of_ne_nil some'
  rfl

/-- The mover of a group that combines. -/
def Core.groupMover (c : Core) (ch : Chan) (out : Port) (ps : List Port) (hd : Port → Msg) : Mover :=
  c.router.mover ps ch (1#5 <<< portNo out) (hdrCls (hd (ps.getD 0 .n)).hdr)

theorem Core.combineMover_group {c : Core} (some' : ps ≠ []) (combining : c.combining ch out = some (md, ps.map hd))
    (group : ps = groupOf (c.route ch) out md) : c.combineMover ch out = some (c.groupMover ch out ps hd) := by
  rw [Core.combineMover, combining, Option.map_some]
  dsimp only
  rw [← group]
  obtain ⟨p, rest, rfl⟩ := List.exists_cons_of_ne_nil some'
  rfl

theorem combineLine_none (h : s.core.combining ch out = none) : exec (.combineLine ch out) s = .next s := by
  show execCombineLine ch out s = _
  rw [execCombineLine, h]

theorem combineLine_closed (h : closedBit (s.core.route ch) = true) : exec (.combineLine ch out) s = .next s := by
  show execCombineLine ch out s = _
  unfold execCombineLine
  rw [h]
  split <;> rfl

theorem combineLine_group (some' : ps ≠ []) (combining : s.core.combining ch out = some (md, ps.map hd))
    (group : ps = groupOf (s.core.route ch) out md) (open' : closedBit (s.core.route ch) = false) : exec (.combineLine ch out) s = .next
      (if s.mayLeave (s.core.groupMover ch out ps hd) = true then
        (s.mapRouter fun r => r.served (1#5 <<< portNo out) (ps.headD .n)).combine ch out md ps (ps.map hd) else s) := by
  show execCombineLine ch out s = _
  unfold execCombineLine
  rw [combining, Core.combineMover_group some' combining group]
  dsimp only
  rw [open', ← group]
  cases s.mayLeave (s.core.groupMover ch out ps hd) <;> rfl

/-- A group that combines is among what competes, where its receiver takes its class. -/
theorem State.groupMover_mem (some' : ps ≠ []) (combining : s.core.combining ch out = some (md, ps.map hd))
    (group : ps = groupOf (s.core.route ch) out md) (open' : closedBit (s.core.route ch) = false)
    (head : ∀ p ∈ ps, s.core.router.headAt p ch = some (hd p))
    (clear : s.clearAll (1#5 <<< portNo out) (hdrCls (hd (ps.getD 0 .n)).hdr) = true) : s.core.groupMover ch out ps hd ∈ s.movers := by
  obtain ⟨p, hp⟩ := List.exists_mem_of_ne_nil _ some'
  obtain ⟨same, here⟩ := Router.headAt_mem (head p hp)
  refine State.mem_movers.mpr ⟨.inr (State.mem_groupMovers.mpr ⟨ch, .inl ⟨_, here, same⟩, open', .inl ⟨out, ?_⟩⟩), clear⟩
  exact Core.combineMover_group some' combining group

end

/-! ## RENORM_APPLY (R191, R192) -/

section
variable {s : State} {ch : Chan} {inp : Port} {m : Msg}

theorem Core.renormHead_some {c : Core} (head : c.router.headAt inp ch = some m) (kind : hdrKind m.hdr = 4) (len : hdrLen m.hdr = m.pay.length)
    (open' : closedBit (c.route ch) = false) (join : inJoin (c.route ch) inp = true)
    (mode : modeOf (c.route ch) (portNo inp) = 1 ∨ modeOf (c.route ch) (portNo inp) = 2) : c.renormHead inp ch = some m := by
  have fine : m.malformed = false := Msg.malformed_false (by omega) len (by omega)
  unfold Core.renormHead
  rw [head]
  refine if_neg ?_
  rintro (bad | other | shut | out | ⟨one, two⟩)
  · simp [fine] at bad
  · exact other kind
  · simp [open'] at shut
  · simp [join] at out
  · exact mode.elim one two

theorem Core.renormHead_closed {c : Core} (h : closedBit (c.route ch) = true) : c.renormHead inp ch = none := by
  unfold Core.renormHead
  dsimp only
  split
  · rfl
  · exact if_pos (.inr (.inr (.inl h)))

theorem renormApply_none (h : s.core.renormHead inp ch = none) : exec (.renormApply inp ch) s = .next s := by
  show execRenormApply inp ch s = _
  unfold execRenormApply
  dsimp only
  rw [h]

/-- A renorm for no line that its member has brought is reported (R192). -/
theorem renormApply_misses (h : s.core.renormHead inp ch = some m) (none : s.core.router.lineFrom ch inp (renormParity m.hdr) = none) :
    exec (.renormApply inp ch) s = .next ((s.mapCore fun c => c.leave inp m).post (.renorm s.core.ident.site ch)) := by
  show execRenormApply inp ch s = _
  unfold execRenormApply
  dsimp only
  rw [h]
  dsimp only
  rw [none]

/-- A renorm for a line goes on as the renorms that it comes to there (R191). -/
theorem renormApply_hits {y : Combined} {ss : List ℕ} (h : s.core.renormHead inp ch = some m)
    (hit : s.core.router.lineFrom ch inp (renormParity m.hdr) = some (y, ss)) : exec (.renormApply inp ch) s = .next
      (let x := s.core.router.mover [inp] ch (1#5 <<< portNo y.out) (hdrCls m.hdr)
      if s.mayLeave x = true then
        (applyRenorm y.fmt.w ss y.poison
          { u := renormUnit m.hdr, codes := renormCodes (m.pay.take 3), mask := if hdrTrl m.hdr then m.pay.getD 3 0 else 0 }).foldl
          (fun t z => t.emitAll x.mask (renormMsg ch (hdrCls m.hdr) (hdrFmt m.hdr) (y.line % 2) z s.core.ident.name (m.bad || y.bad)))
          ((s.mapCore fun c => c.leave inp m).mapRouter fun r => r.served x.mask inp)
      else s) := by
  have mover : s.core.renormMover ch inp = some (s.core.router.mover [inp] ch (1#5 <<< portNo y.out) (hdrCls m.hdr)) := by
    rw [Core.renormMover, h, Option.bind_some, hit]
    rfl
  show execRenormApply inp ch s = _
  unfold execRenormApply
  dsimp only
  rw [h]
  dsimp only
  rw [hit, mover]
  dsimp only
  cases s.mayLeave (s.core.router.mover [inp] ch (1#5 <<< portNo y.out) (hdrCls m.hdr)) <;> rfl

variable {r : Router}

/-- The latest line of a channel is found by its own parity at an input that was a member of it once. -/
theorem Router.lineFrom_latest {y : Combined} {rest : List Combined} {l : ℕ} {ss : List ℕ} (latest : r.combined = y :: rest) (same : y.ch = ch)
    (member : (y.members.find? fun z => z.1 = inp) = some (inp, l, ss)) (only : ∀ z ∈ y.members, z.1 = inp → z = (inp, l, ss)) :
    r.lineFrom ch inp (l % 2) = some (y, ss) := by
  have found : (y.members.find? fun z => decide (z.1 = inp) && decide (z.2.1 % 2 = l % 2)) = some (inp, l, ss) := by
    rw [← member]
    refine List.find?_congr fun z hz => ?_
    by_cases here : z.1 = inp
    · simp [only z hz here]
    · simp [here]
  rw [Router.lineFrom, latest, List.findSome?_cons, if_neg (not_not.mpr same), found]
  rfl

theorem Router.lineFrom_none (l : ℕ) (no : ∀ y ∈ r.combined, y.ch = ch → ∀ z ∈ y.members, z.1 ≠ inp) : r.lineFrom ch inp l = none := by
  refine List.findSome?_eq_none_iff.mpr fun y hy => ?_
  by_cases same : y.ch = ch
  · have : (y.members.find? fun z => decide (z.1 = inp) && decide (z.2.1 % 2 = l)) = none := by
      simpa using fun a b c hz here => absurd here (no y hy same _ hz)
    rw [if_neg (not_not.mpr same), this]
    rfl
  · exact if_pos same

end

end Sys2Proof.Machine
end

section
/-! SUPPORT. The fabric statements, part 13: beats that a VOTE group agrees on, owes and logs (R199, R200). -/

namespace Sys2Proof.Machine

/-! ## One beat position -/

section
variable {a b c : Option Beat}

theorem voteBeat_none (h : (voteBeat a b c).1 = none) : voteBeat a b c = (none, none) := by
  revert h
  unfold voteBeat
  grind

theorem voteBeat_agree (x y : Beat) : voteBeat (some x) (some x) (some y) = (some x, if x = y then none else some 2) := if_pos rfl

variable {x y z : List Beat × Option Beat} {i : ℕ}

theorem voteBeatAt_beats (h : (voteBeat x.1[i]? y.1[i]? z.1[i]?).1 ≠ none) :
    voteBeatAt x y z i = voteBeat x.1[i]? y.1[i]? z.1[i]? := by
  unfold voteBeatAt
  split
  next found => rw [found]
  next none => exact absurd (by rw [none]) h

theorem voteBeatAt_waiting (h : (voteBeat x.1[i]? y.1[i]? z.1[i]?).1 = none) : voteBeatAt x y z i =
    if ([x.1[i]?, y.1[i]?, z.1[i]?].filter (·.isNone)).length ≤ 1 ∧ (voteBeat (beatAt x i) (beatAt y i) (beatAt z i)).2 = some 3 then
      voteBeat (beatAt x i) (beatAt y i) (beatAt z i) else (none, none) := by
  have count : [x, y, z].countP (fun m => m.1[i]?.isNone) = ([x.1[i]?, y.1[i]?, z.1[i]?].filter (·.isNone)).length := by
    rw [← List.countP_eq_length_filter, show [x.1[i]?, y.1[i]?, z.1[i]?] = [x, y, z].map (·.1[i]?) from rfl, List.countP_map]
    rfl
  unfold voteBeatAt
  rw [voteBeat_none h]
  dsimp only
  rw [count]
  by_cases few : ([x.1[i]?, y.1[i]?, z.1[i]?].filter (·.isNone)).length ≤ 1
  · rw [if_pos few]
    split
    next three =>
      rw [three]
      exact (if_pos ⟨few, rfl⟩).symm
    next other =>
      rw [if_neg]
      rintro ⟨-, three⟩
      cases beat : (voteBeat (beatAt x i) (beatAt y i) (beatAt z i)).1 with
      | none =>
        rw [voteBeat_none beat] at three
        cases three
      | some b => exact other b (Prod.ext beat three)
  · rw [if_neg few, if_neg fun h => few h.1]

/-- Nothing is forwarded behind the last beat. -/
theorem voteBeatAt_beyond (hx : x.1.length ≤ i) (hy : y.1.length ≤ i) (hz : z.1.length ≤ i) : voteBeatAt x y z i = (none, none) := by
  have none : x.1[i]? = none ∧ y.1[i]? = none ∧ z.1[i]? = none := by simp [hx, hy, hz]
  obtain ⟨hx, hy, hz⟩ := none
  rw [voteBeatAt_waiting (by rw [hx, hy, hz]; rfl), hx, hy, hz]
  exact if_neg fun h => absurd h.1 (by decide)

/-! ## The beats of one message -/

/-- A beat that is forwarded, as a position that is voted on. -/
def votedBeat (r : Beat × Option (BitVec 2)) : Option Beat × Option (BitVec 2) := (some r.1, r.2)

theorem map_votedBeat : ∀ {rs : List (Option Beat × Option (BitVec 2))}, rs.all (·.1.isSome) = true →
    (rs.filterMap fun r => r.1.map fun b => (b, r.2)).map votedBeat = rs := by
  intro rs
  induction rs with
  | nil => exact fun _ => rfl
  | cons r rs ih =>
    intro all
    obtain ⟨⟨b⟩ | ⟨b⟩, d⟩ := r
    · simp at all
    · exact congrArg _ (ih (by simpa using all))

/-- A vote runs up to its first end beat, every position of it forwarded. -/
theorem voteRun_eq_some {rs : List (Beat × Option (BitVec 2))} : voteRun x y z = some rs ↔ rs ≠ [] ∧ ∀ i < rs.length,
    rs[i]?.map votedBeat = some (voteBeatAt x y z i) ∧ (rs[i]?.any (fun r => r.1.ends) = true ↔ i + 1 = rs.length) := by
  have length : ((List.range (max x.1.length (max y.1.length z.1.length))).map fun i => voteBeatAt x y z i).length =
      max x.1.length (max y.1.length z.1.length) := by simp
  have at' (i : ℕ) (hi : i < max x.1.length (max y.1.length z.1.length)) :
      ((List.range (max x.1.length (max y.1.length z.1.length))).map fun i => voteBeatAt x y z i)[i]? = some (voteBeatAt x y z i) := by
    simp [List.getElem?_range hi]
  unfold voteRun
  dsimp only
  generalize (List.range _).map (fun i => voteBeatAt x y z i) = vs at at' length
  constructor
  · intro h
    split at h
    next ok =>
      obtain ⟨inside, all⟩ := ok
      obtain rfl := Option.some.inj h
      have voted := map_votedBeat all
      generalize (vs.take _).filterMap _ = rs at voted
      have size : rs.length = vs.findIdx (fun r => r.1.all Beat.ends) + 1 := by
        rw [← List.length_map (f := votedBeat), voted, List.length_take]
        omega
      refine ⟨fun empty => by simp [empty] at size, fun i hi => ?_⟩
      have here : votedBeat rs[i] = vs[i] := by
        have := congrArg (·[i]?) voted
        rw [List.getElem?_map, List.getElem?_eq_getElem hi, List.getElem?_take, if_pos (by omega), List.getElem?_eq_getElem (by omega)] at this
        exact Option.some.inj this
      have ends : rs[i].1.ends = vs[i].1.all Beat.ends := by rw [← here]; rfl
      rw [List.getElem?_eq_getElem hi, Option.map_some, here, ← at' i (by omega), Option.any_some, ends, List.getElem?_eq_getElem (by omega)]
      refine ⟨rfl, fun last => ?_, fun last => ?_⟩
      · by_contra early
        have := List.not_of_lt_findIdx (show i < vs.findIdx (fun r => r.1.all Beat.ends) by omega)
        rw [this] at last
        cases last
      · obtain rfl : i = vs.findIdx (fun r => r.1.all Beat.ends) := by omega
        exact List.findIdx_getElem (p := fun r : Option Beat × Option (BitVec 2) => r.1.all Beat.ends)
    next => cases h
  · rintro ⟨some', beats⟩
    have pos : 0 < rs.length := List.length_pos_iff.mpr some'
    have inside : rs.length ≤ vs.length := by
      by_contra long
      obtain ⟨voted, -⟩ := beats (rs.length - 1) (by omega)
      rw [voteBeatAt_beyond (by omega) (by omega) (by omega), List.getElem?_eq_getElem (by omega)] at voted
      cases voted
    have here (i : ℕ) (hi : i < rs.length) : vs[i] = votedBeat rs[i] := by
      obtain ⟨voted, -⟩ := beats i hi
      rw [← at' i (by omega), List.getElem?_eq_getElem hi, List.getElem?_eq_getElem (by omega)] at voted
      exact (Option.some.inj voted).symm
    have ends (i : ℕ) (hi : i < rs.length) : vs[i].1.all Beat.ends = true ↔ i + 1 = rs.length := by
      rw [here i hi, ← (beats i hi).2, List.getElem?_eq_getElem hi]
      rfl
    have index : vs.findIdx (fun r => r.1.all Beat.ends) = rs.length - 1 := by
      refine (List.findIdx_eq (by omega)).mpr ⟨(ends _ (by omega)).mpr (by omega), fun j hj => ?_⟩
      rw [← Bool.not_eq_true, ends j (by omega)]
      omega
    have taken : vs.take rs.length = rs.map votedBeat := by
      refine List.ext_getElem (by simp [inside]) fun i hi hi' => ?_
      rw [List.getElem_take, List.getElem_map, here]
    rw [index, Nat.sub_add_cancel pos, taken]
    refine (if_pos ⟨by omega, by simp [votedBeat]⟩).trans (congrArg some ?_)
    simp [List.filterMap_map, votedBeat, Function.comp_def]

end

/-! ## Beats of late members -/

section
variable {w1 w2 : List Beat} (plain : ∀ b ∈ w1, b.isMark = false)
include plain

theorem dueBeats_plain (rest : List (Option Beat)) (stop : ∀ o ∈ rest.head?, (o.any fun b => !b.isMark) = false) :
    dueBeats (w1.map some ++ rest) = w1 := by
  have due : ((w1.map some ++ rest).takeWhile fun o => o.any fun b => !b.isMark) = w1.map some := by
    rw [List.takeWhile_append_of_pos]
    · cases rest with
      | nil => simp
      | cons o rest => rw [List.takeWhile_cons_of_neg (by simpa using stop o rfl), List.append_nil]
    · intro o ho
      obtain ⟨b, hb, rfl⟩ := List.mem_map.mp ho
      simp [plain b hb]
  rw [dueBeats, due]
  simp

theorem dueBeats_all : dueBeats (w1.map some) = w1 := by
  simpa using dueBeats_plain plain [] (by simp)

theorem catchUp_plain : catchUp (w1.map some) w2 = (differing w2 w1, (w1.drop w2.length).map some, w2.drop w1.length) := by
  unfold catchUp
  dsimp only
  rw [dueBeats_all plain, show (w1.map some).drop w1.length = [] by simp]
  by_cases short : w2.length ≤ w1.length
  · rw [if_pos short, List.drop_of_length_le (l := w2) short, List.map_drop]
  · rw [if_neg short, List.drop_of_length_le (l := w1) (by omega), List.map_nil]

theorem catchMark_plain (b : Beat) : catchMark (w1.map some) b = (w1.length, [], false) := by
  unfold catchMark
  dsimp only
  rw [dueBeats_all plain, List.drop_of_length_le (by simp)]

theorem lostBeats_plain (some' : w1 ≠ []) : lostBeats (w1.map some) = [none] := by
  induction w1 with
  | nil => exact absurd rfl some'
  | cons b bs ih =>
    have none : (some b).filter Beat.isMark = none := by simp [plain b]
    have rest := ih fun b hb => plain b (List.mem_cons_of_mem _ hb)
    unfold lostBeats at rest ⊢
    rw [List.map_cons, List.foldr_cons]
    dsimp only
    rw [none]
    cases bs with
    | nil => rfl
    | cons c bs =>
      rw [rest (by simp)]
      rfl

/-- Beats in the place of a marker that is owed disagree, and those in the place of lost ones are discarded. -/
theorem catchUp_mark {b : Beat} (mark : b.isMark = true) (long : w1.length < w2.length) :
    catchUp (w1.map some ++ [some b]) w2 = (differing w2 w1 + (w2.length - w1.length), [some b], []) ∧
    catchUp (w1.map some ++ [none, some b]) w2 = (differing w2 w1, [none, some b], []) := by
  unfold catchUp
  dsimp only
  rw [dueBeats_plain plain [some b] (by simp [mark]), dueBeats_plain plain [none, some b] (by simp), if_neg (by omega), if_neg (by omega)]
  have rest (xs : List (Option Beat)) : (w1.map some ++ xs).drop w1.length = xs := by simp
  rw [rest, rest]
  exact ⟨rfl, rfl⟩

theorem catchMark_mark {b : Beat} (mark : b.isMark = true) : catchMark (w1.map some ++ [some b]) b = (w1.length, [], true) ∧
    catchMark (w1.map some ++ [none, some b]) b = (w1.length, [], true) := by
  unfold catchMark
  dsimp only
  rw [dueBeats_plain plain [some b] (by simp [mark]), dueBeats_plain plain [none, some b] (by simp)]
  have rest (xs : List (Option Beat)) : (w1.map some ++ xs).drop w1.length = xs := by simp
  rw [rest, rest]
  simp

end

theorem catchMark_other {b b' : Beat} (mark : b.isMark = true) (other : b' ≠ b) : catchMark [some b] b' = (1, [], true) := by
  have due : dueBeats [some b] = [] := by simp [dueBeats, mark]
  unfold catchMark
  dsimp only
  rw [due]
  simp [Ne.symm other]

theorem oweBeats_beats (w1 w2 : List Beat) : oweBeats (w1.map some) w2 = if w1.length + w2.length ≤ 64 then ((w1 ++ w2).map some, 0)
    else (lostBeats ((w1 ++ w2).map some), ((w1 ++ w2).filter fun b => !b.isMark).length) := by
  have all : w1.map some ++ w2.map some = (w1 ++ w2).map some := by rw [List.map_append]
  have here : ((w1 ++ w2).map some).filterMap id = w1 ++ w2 := by simp
  unfold oweBeats
  dsimp only
  rw [if_neg, all, here, List.length_append]
  · by_cases few : w1.length + w2.length ≤ 64
    · rw [if_pos few, if_neg (show ¬ historyBeats < _ from Nat.not_lt.mpr few)]
    · rw [if_neg few, if_pos (show historyBeats < _ from Nat.not_le.mp few)]
  · rintro ⟨last, -⟩
    have := List.mem_of_getLast? last
    simp at this

/-! ## VOTELOG (R200) -/

theorem natBits_toNat (x : Word) (lo len : ℕ) : natBits x.toNat lo len = (x.extractLsb' lo len).toNat := by
  rw [BitVec.extractLsb'_toNat, Nat.shiftRight_eq_div_pow]
  rfl

section
variable (log : Word) (ch : Chan) (k : BitVec 2)

/-- The fields of VOTELOG after a disagreement: the count, the channel, the member, and OVF. -/
theorem voteLogOnce_fields : let full := decide (natBits log.toNat 48 16 = 0xFFFF)
    natBits (voteLogOnce log ch k).1.toNat 48 16 = (if full then natBits log.toNat 48 16 else natBits log.toNat 48 16 + 1) ∧
    natBits (voteLogOnce log ch k).1.toNat 35 5 = ch.toNat ∧ natBits (voteLogOnce log ch k).1.toNat 30 2 = k.toNat ∧
    (voteLogOnce log ch k).1.getLsbD 0 = (full || log.getLsbD 0) ∧ (voteLogOnce log ch k).2 = (full && !log.getLsbD 0) := by
  have count : natBits log.toNat 48 16 < 65536 := Nat.mod_lt _ (by decide)
  unfold voteLogOnce
  dsimp only
  refine ⟨?_, ?_, ?_, ?_, rfl⟩
  · rw [natBits_toNat, (extract_append ..).1 (by decide), (extract_append ..).1 (by decide), (extract_append ..).1 (by decide),
      (extract_append ..).1 (by decide), (extract_append ..).1 (by decide), (extract_append ..).1 (by decide), BitVec.extractLsb'_eq_self,
      BitVec.toNat_ofNat]
    by_cases full : natBits log.toNat 48 16 = 0xFFFF
    · simp [full]
    · simp only [full, decide_false, Bool.false_eq_true, if_false]
      omega
  · rw [natBits_toNat, (extract_append ..).1 (by decide), (extract_append ..).1 (by decide), (extract_append ..).1 (by decide),
      (extract_append ..).1 (by decide), (extract_append ..).2 (by decide), BitVec.extractLsb'_eq_self]
  · rw [natBits_toNat, (extract_append ..).1 (by decide), (extract_append ..).1 (by decide), (extract_append ..).2 (by decide),
      BitVec.extractLsb'_eq_self]
  · rw [BitVec.getLsbD_append, if_pos (by decide)]
    cases decide (natBits log.toNat 48 16 = 0xFFFF) || log.getLsbD 0 <;> rfl

end

end Sys2Proof.Machine
end

section
/-! SUPPORT. The fabric statements, part 14: the beats of a message on a link, and VOTE groups that are in step (R172, R199, R200, R321). -/

namespace Sys2Proof.Machine

/-! ## Beats of a message (R172, R321) -/

/-- A beat by its fields. -/
def beatOf (w : Word) (ch : Chan) (cls : BitVec 2) (start last : BitVec 1) (crc : BitVec 32) : Beat := w ++ ch ++ cls ++ start ++ last ++ crc

section
variable (w : Word) (ch : Chan) (cls : BitVec 2) (start last : BitVec 1) (crc : BitVec 32)

theorem beatOf_data : Beat.data (beatOf w ch cls start last crc) = w := by
  unfold Beat.data beatOf
  rw [(extract_append ..).1 (by decide), (extract_append ..).1 (by decide), (extract_append ..).1 (by decide), (extract_append ..).1 (by decide),
    (extract_append ..).1 (by decide), BitVec.extractLsb'_eq_self]

theorem beatOf_crc : Beat.crc (beatOf w ch cls start last crc) = crc := by
  unfold Beat.crc beatOf
  rw [(extract_append ..).2 (by decide), BitVec.extractLsb'_eq_self]

theorem beatOf_ends : Beat.ends (beatOf w ch cls start last crc) = last.getLsbD 0 := by
  unfold Beat.ends beatOf
  rw [BitVec.getLsbD_append, if_neg (by decide), BitVec.getLsbD_append, if_pos (by decide)]

theorem beatOf_starts : Beat.starts (beatOf w ch cls start last crc) = start.getLsbD 0 := by
  unfold Beat.starts beatOf
  rw [BitVec.getLsbD_append, if_neg (by decide), BitVec.getLsbD_append, if_neg (by decide), BitVec.getLsbD_append, if_pos (by decide)]

end

section
variable (m : Msg)

theorem Msg.wire_length : m.wire.length = m.beats := by
  simp [Msg.wire, Msg.beatList, Msg.beats]

theorem Msg.wire_eq_map : m.wire = m.beatList.zipIdx.map fun x => beatOf x.1 m.ch (hdrCls m.hdr) (if x.2 = 0 then 1#1 else 0#1)
    (if decide (x.2 + 1 = m.beats) then 1#1 else 0#1) (if decide (x.2 + 1 = m.beats) then m.sentCrc else 0) := rfl

theorem Msg.wire_getElem {i : ℕ} (hi : i < m.wire.length) : m.wire[i].ends = decide (i + 1 = m.beats) ∧ m.wire[i].starts = decide (i = 0) ∧
    m.wire[i].data = m.beatList[i]'(by simpa [Msg.wire] using hi) ∧ (i + 1 = m.beats → m.wire[i].crc = m.sentCrc) := by
  rw [List.getElem_of_eq m.wire_eq_map, List.getElem_map, List.getElem_zipIdx, Nat.zero_add, beatOf_ends, beatOf_starts, beatOf_data, beatOf_crc]
  refine ⟨?_, ?_, rfl, fun last => by rw [decide_eq_true last]; rfl⟩
  · cases decide (i + 1 = m.beats) <;> rfl
  · by_cases zero : i = 0 <;> simp [zero]

theorem Msg.wire_ne_nil : m.wire ≠ [] := by
  simp [Msg.wire, Msg.beatList]

/-- The header's beat is a marker's where the message is a marker, and no other beat is. -/
theorem Msg.isMark_wire {i : ℕ} (hi : i < m.wire.length) : m.wire[i].isMark = (decide (i = 0) && decide (hdrKind m.hdr = 3)) := by
  obtain ⟨-, starts, data, -⟩ := m.wire_getElem hi
  rw [Beat.isMark, starts, data]
  by_cases zero : i = 0
  · subst zero
    rfl
  · simp [zero]

theorem Msg.wire_plain (kind : hdrKind m.hdr ≠ 3) : ∀ b ∈ m.wire, b.isMark = false := by
  intro b hb
  obtain ⟨i, hi, rfl⟩ := List.mem_iff_getElem.mp hb
  rw [m.isMark_wire hi]
  simp [kind]

theorem Msg.sentCrc_bad : decide (m.sentCrc ≠ m.crc) = m.bad := by
  unfold Msg.sentCrc
  cases m.bad
  · simp
  · have : ~~~m.crc ≠ m.crc := fun same => by
      have := congrArg (BitVec.getLsbD · 0) same
      simp at this
    simp [this]

/-- The beats of a message make the message. -/
theorem msgOf_wire : msgOf m.ch m.wire = m := by
  have data : m.wire.map Beat.data = m.beatList :=
    List.ext_getElem (by simp [Msg.wire]) fun i hi _ => by
      rw [List.getElem_map]
      exact (m.wire_getElem (by simpa using hi)).2.2.1
  have pos : 0 < m.wire.length := List.length_pos_iff.mpr m.wire_ne_nil
  have head : (m.wire.headD 0).data = m.hdr := by
    rw [List.headD_eq_head?_getD, List.head?_eq_getElem?, List.getElem?_eq_getElem pos]
    exact (m.wire_getElem pos).2.2.1
  have tail : (m.wire.drop 1).map Beat.data = m.pay := by
    rw [List.map_drop, data]
    rfl
  have last : (m.wire.getLastD 0).crc = m.sentCrc := by
    rw [List.getLastD_eq_getLast?, List.getLast?_eq_getElem?, List.getElem?_eq_getElem (by omega)]
    exact (m.wire_getElem (by omega)).2.2.2 (by rw [← m.wire_length]; omega)
  unfold msgOf
  dsimp only
  rw [head, tail, last]
  exact congrArg (fun bad => ({ m with bad := bad } : Msg)) m.sentCrc_bad

end

end Sys2Proof.Machine
end

section
/-! SUPPORT. The fabric statements, part 15: the beats that leave a VOTE group that is in step (R199, R200). -/

namespace Sys2Proof.Machine

/-! ## Disagreements recorded (R200) -/

section
variable (s : State) (ch : Chan)

theorem State.voteDiffer_nil : s.voteDiffer ch [] = s := rfl

theorem State.voteDiffers_zero (copy : BitVec 2) : s.voteDiffers ch 0 copy = s := rfl

/-- What is recorded of disagreements does not rest on the router. -/
theorem State.voteDiffer_router (r : Router) (xs : List (BitVec 2)) :
    ({ s with core := { s.core with router := r } } : State).voteDiffer ch xs =
    { s.voteDiffer ch xs with core := { (s.voteDiffer ch xs).core with router := r } } := by
  unfold State.voteDiffer
  dsimp only
  split <;> rfl

theorem State.voteDiffer_core (xs : List (BitVec 2)) : (s.voteDiffer ch xs).core =
    { s.core with csr := { s.core.csr with voteLog := (voteLogAll s.core.csr.voteLog ch xs).1 } } := by
  unfold State.voteDiffer
  dsimp only
  split <;> rfl

end

/-! ## Messages that pass an input -/

/-- A router as a message has passed an input. -/
def Router.through (r : Router) (now : ℕ) (p : Port) (m : Msg) : Router := (r.pop p m now).pass p m

section
variable {r : Router} {p q : Port} {m : Msg} {ch : Chan} (now : ℕ)

theorem Router.through_inq : (r.through now p m).inq = r.inq.erase (p, m) := by
  unfold Router.through Router.pass
  split <;> rfl

@[simp] theorem Router.through_votes : (r.through now p m).votes = r.votes := by
  unfold Router.through Router.pass
  split <;> rfl

@[simp] theorem Router.through_route : (r.through now p m).route = r.route := by
  unfold Router.through Router.pass
  split <;> rfl

theorem filter_erase_of_neg {α : Type} [BEq α] [LawfulBEq α] {a : α} {f : α → Bool} (h : f a = false) :
    ∀ xs : List α, (xs.erase a).filter f = xs.filter f := by
  intro xs
  induction xs with
  | nil => rfl
  | cons x xs ih =>
    by_cases here : x = a
    · subst here
      rw [List.erase_cons_head, List.filter_cons_of_neg (by simp [h])]
    · rw [List.erase_cons_tail (by simpa using here), List.filter_cons, List.filter_cons, ih]

theorem Router.waiting_through (other : q ≠ p) : (r.through now p m).waiting ch q = r.waiting ch q := by
  rw [Router.waiting, Router.through_inq, filter_erase_of_neg (by simp [Ne.symm other])]
  rfl

theorem Router.headAt_through (other : q ≠ p) : (r.through now p m).headAt q ch = r.headAt q ch := by
  rw [Router.headAt_eq, Router.headAt_eq, Router.waiting_through now other]

end

/-! ## Groups in step -/

section
variable {r : Router} {ch : Chan} {p : Port} (fresh : ∀ v ∈ r.votes, v.ch ≠ ch)
include fresh

theorem Router.others_fresh : (r.votes.filter fun v => v.ch ≠ ch) = r.votes :=
  List.filter_eq_self.mpr fun v hv => by simpa using fresh v hv

/-- A group that comes back into step leaves no entry. -/
theorem Router.setVote_fresh {f : Vote → Vote}
    (same : f { ch := ch, was := [], owed := [], ahead := [] } = { ch := ch, was := [], owed := [], ahead := [] }) :
    r.setVote ch f = r := by
  unfold Router.setVote
  dsimp only
  rw [Router.vote_fresh fresh, same, Router.others_fresh fresh]
  rfl

/-- A member that has beats noted has an entry, which goes with them. -/
theorem Router.setAhead_twice (bs : List Beat) : ((r.setVote ch fun v => v.setAhead p bs).setVote ch fun v => v.setAhead p []) = r := by
  cases bs with
  | nil => rw [Router.setVote_fresh fresh rfl, Router.setVote_fresh fresh rfl]
  | cons b bs =>
    have first : r.setVote ch (fun v => v.setAhead p (b :: bs)) =
        { r with votes := { ch := ch, was := [], owed := [], ahead := [(p, b :: bs)] } :: r.votes } := by
      unfold Router.setVote
      dsimp only
      rw [Router.vote_fresh fresh, Router.others_fresh fresh]
      rfl
    rw [first]
    unfold Router.setVote
    dsimp only
    have vote : ({ r with votes := { ch := ch, was := [], owed := [], ahead := [(p, b :: bs)] } :: r.votes } : Router).vote ch =
        { ch := ch, was := [], owed := [], ahead := [(p, b :: bs)] } := by simp [Router.vote]
    rw [vote, List.filter_cons_of_neg (by simp), Router.others_fresh fresh]
    have none : noteFor [(p, b :: bs)] p ([] : List Beat) = [] := by simp [noteFor]
    rw [Vote.setAhead, none]
    rfl

end

section
variable {c : Core} {ch : Chan} {p : Port} {m : Msg} (fresh : ∀ v ∈ c.router.votes, v.ch ≠ ch) (head : c.router.headAt p ch = some m)
include fresh head

/-- All beats of a message leave its member's stream as the message passes its input. -/
theorem Core.takeBeats_whole (k : ℕ) : Core.takeBeats ch p (k + 2) m.beats c = { c with router := c.router.through c.csr.cycle.toNat p m } := by
  have fresh' : ∀ v ∈ (c.router.through c.csr.cycle.toNat p m).votes, v.ch ≠ ch := by simpa using fresh
  have early : ((c.router.through c.csr.cycle.toNat p m).setVote ch fun v => v.setAhead p m.wire).vote ch =
      { ch := ch, was := [], owed := [], ahead := noteFor [] p m.wire } := by
    unfold Router.setVote
    dsimp only
    rw [Router.vote_fresh fresh', Router.others_fresh fresh']
    cases beats : m.wire with
    | nil => exact absurd beats m.wire_ne_nil
    | cons b bs => simp [Router.vote, Vote.setAhead, noteFor]
  have ahead : (((c.router.through c.csr.cycle.toNat p m).setVote ch fun v => v.setAhead p m.wire).vote ch).aheadOf p = m.wire := by
    rw [early]
    cases beats : m.wire with
    | nil => exact absurd beats m.wire_ne_nil
    | cons b bs => simp [Vote.aheadOf, notedFor, noteFor]
  have begun : Core.takeBeats ch p (k + 2) m.beats c = Core.takeBeats ch p (k + 1) m.beats
      { c with router := (c.router.through c.csr.cycle.toNat p m).setVote ch fun v => v.setAhead p m.wire } := by
    rw [Core.takeBeats, Router.aheadOf_fresh fresh, head]
    rfl
  have all : decide (m.beats ≤ m.wire.length) = true := decide_eq_true m.wire_length.ge
  have done : m.wire.drop m.beats = [] := List.drop_of_length_le m.wire_length.le
  rw [begun, Core.takeBeats]
  dsimp only
  rw [ahead, all, done]
  dsimp only
  rw [Router.setAhead_twice fresh']

end

/-! ## What the members hold -/

section
variable {r : Router} {ch : Chan} {p : Port} {m : Msg} (fresh : ∀ v ∈ r.votes, v.ch ≠ ch)
include fresh

/-- A member in step whose head votes holds the beats of that, and maybe more behind them. -/
theorem Router.stream_head (head : r.headAt p ch = some m) (votes : m.votes = true) : ∃ more, r.stream ch p = m.wire ++ more := by
  obtain ⟨ms, waiting⟩ := Router.waiting_cons head
  rw [Router.stream_fresh fresh, waiting, List.takeWhile_cons_of_pos votes, List.flatMap_cons]
  exact ⟨_, rfl⟩

/-- A member in step without a head holds nothing. -/
theorem Router.stream_none (head : r.headAt p ch = none) : r.stream ch p = [] ∧ r.streamMark ch p = none := by
  have waiting := Router.waiting_nil head
  rw [Router.stream_fresh fresh, Router.streamMark, waiting]
  exact ⟨rfl, by simp⟩

end

section
variable {s : State} {ch : Chan} {rs : List (Beat × Option (BitVec 2))}

/-- A member that holds all the beats forwarded gives up its message. -/
theorem State.voteTake_whole {p : Port} {m : Msg} (fresh : ∀ v ∈ s.core.router.votes, v.ch ≠ ch) (head : s.core.router.headAt p ch = some m)
    (votes : m.votes = true) (whole : rs.length = m.beats) : s.voteTake ch p rs =
    { s with core := { s.core with router := s.core.router.through s.core.csr.cycle.toNat p m } } := by
  obtain ⟨more, stream⟩ := Router.stream_head fresh head votes
  have held : min rs.length (s.core.router.stream ch p).length = m.beats := by
    rw [stream, List.length_append, m.wire_length, whole]
    omega
  have rest : rs.drop m.beats = [] := List.drop_of_length_le whole.le
  obtain ⟨k, size⟩ : ∃ k, s.core.router.inq.length = k + 1 :=
    Nat.exists_eq_add_of_lt (List.length_pos_of_mem (Router.headAt_mem head).2) |>.imp fun k h => by omega
  have some' : m.beats ≠ 0 := Nat.succ_ne_zero _
  unfold State.voteTake
  dsimp only
  rw [held, rest, size, if_neg some', State.mapCore, Core.takeBeats_whole fresh head]
  rfl

theorem State.voteTakes_whole : ∀ {xs : List (Port × Msg)} {s : State}, (xs.map Prod.fst).Nodup → (∀ v ∈ s.core.router.votes, v.ch ≠ ch) →
    (∀ x ∈ xs, s.core.router.headAt x.1 ch = some x.2 ∧ x.2.votes = true ∧ rs.length = x.2.beats) →
    (xs.map Prod.fst).foldl (fun t p => t.voteTake ch p rs) s = { s with core := { s.core with
      router := xs.foldl (fun r x => r.through s.core.csr.cycle.toNat x.1 x.2) s.core.router } } := by
  intro xs
  induction xs with
  | nil => exact fun _ _ _ => rfl
  | cons x xs ih =>
    intro s nodup fresh heads
    obtain ⟨head, votes, whole⟩ := heads x (List.mem_cons_self ..)
    rw [List.map_cons, List.nodup_cons] at nodup
    rw [List.map_cons, List.foldl_cons, State.voteTake_whole fresh head votes whole, ih nodup.2 (by simpa using fresh)]
    · rfl
    · intro y hy
      obtain ⟨head, votes, whole⟩ := heads y (List.mem_cons_of_mem _ hy)
      refine ⟨(Router.headAt_through _ fun same => ?_).trans head, votes, whole⟩
      exact nodup.1 (List.mem_map.mpr ⟨y, hy, same⟩)

end

/-! ## Votes on whole messages -/

section
variable {m m2 m3 : Msg} {x1 x2 x3 : List Beat} {d1 d2 d3 : Option Beat} {rs : List (Beat × Option (BitVec 2))}

/-- Of three beats one is forwarded; it ends its message where they all do. -/
theorem voteBeat_three (a b c : Beat) : ∃ x d, voteBeat (some a) (some b) (some c) = (some x, d) ∧
    ∀ last, a.ends = last → b.ends = last → c.ends = last → x.ends = last := by
  unfold voteBeat
  dsimp only
  split_ifs
  · exact ⟨_, _, rfl, fun _ ha _ _ => ha⟩
  · exact ⟨_, _, rfl, fun _ ha _ _ => ha⟩
  · exact ⟨_, _, rfl, fun _ ha _ _ => ha⟩
  · exact ⟨_, _, rfl, fun _ _ hb _ => hb⟩
  · refine ⟨_, _, rfl, fun last ha hb hc => ?_⟩
    unfold Beat.ends at *
    simp only [majority, BitVec.getLsbD_or, BitVec.getLsbD_and, ha, hb, hc, Bool.and_self, Bool.or_self]

/-- A vote on three messages of one length forwards so many beats, whatever stands behind them. -/
theorem voteRun_three (same2 : m.beats = m2.beats) (same3 : m.beats = m3.beats)
    (run : voteRun (m.wire, none) (m2.wire, none) (m3.wire, none) = some rs) :
    rs.length = m.beats ∧ voteRun (m.wire ++ x1, d1) (m2.wire ++ x2, d2) (m3.wire ++ x3, d3) = some rs := by
  obtain ⟨some', beats⟩ := voteRun_eq_some.mp run
  have l1 := m.wire_length
  have l2 := m2.wire_length
  have l3 := m3.wire_length
  have pos : 0 < rs.length := List.length_pos_iff.mpr some'
  have inside : rs.length ≤ m.beats := by
    by_contra long
    obtain ⟨voted, -⟩ := beats (rs.length - 1) (by omega)
    rw [voteBeatAt_beyond (by simp only; omega) (by simp only; omega) (by simp only; omega), List.getElem?_eq_getElem (by omega)] at voted
    cases voted
  have at' (i : ℕ) (hi : i < m.beats) : ∃ b d, (∀ y1 y2 y3 e1 e2 e3,
      voteBeatAt (m.wire ++ y1, e1) (m2.wire ++ y2, e2) (m3.wire ++ y3, e3) i = (some b, d)) ∧ b.ends = decide (i + 1 = m.beats) := by
    obtain ⟨b, d, beat, ends⟩ := voteBeat_three (m.wire[i]'(by omega)) (m2.wire[i]'(by omega)) (m3.wire[i]'(by omega))
    refine ⟨b, d, fun y1 y2 y3 e1 e2 e3 => ?_, ends _ (m.wire_getElem (by omega)).1 ?_ ?_⟩
    · have here : voteBeat (m.wire ++ y1)[i]? (m2.wire ++ y2)[i]? (m3.wire ++ y3)[i]? = (some b, d) := by
        rw [List.getElem?_append_left (by omega), List.getElem?_append_left (by omega), List.getElem?_append_left (by omega),
          List.getElem?_eq_getElem (by omega), List.getElem?_eq_getElem (by omega), List.getElem?_eq_getElem (by omega), beat]
      rw [voteBeatAt_beats (by rw [here]; simp), here]
    · rw [(m2.wire_getElem (by omega)).1, same2]
    · rw [(m3.wire_getElem (by omega)).1, same3]
  have length : rs.length = m.beats := by
    obtain ⟨voted, ends⟩ := beats (rs.length - 1) (by omega)
    obtain ⟨b, d, here, last⟩ := at' (rs.length - 1) (by omega)
    have := here [] [] [] none none none
    simp only [List.append_nil] at this
    rw [this, List.getElem?_eq_getElem (by omega), Option.map_some] at voted
    have same : rs[rs.length - 1].1 = b := Option.some.inj (congrArg Prod.fst (Option.some.inj voted))
    have ended := ends.mpr (by omega)
    rw [List.getElem?_eq_getElem (by omega), Option.any_some, same, last] at ended
    have := of_decide_eq_true ended
    omega
  refine ⟨length, voteRun_eq_some.mpr ⟨some', fun i hi => ⟨?_, (beats i hi).2⟩⟩⟩
  obtain ⟨b, d, here, -⟩ := at' i (by omega)
  have plain := here [] [] [] none none none
  simp only [List.append_nil] at plain
  rw [(beats i hi).1, plain, here]

/-- A vote on which a message's beats win at every position forwards them all, with no disagreement. -/
theorem voteRun_wire {x y z : List Beat × Option Beat}
    (wins : ∀ i (hi : i < m.wire.length), voteBeat x.1[i]? y.1[i]? z.1[i]? = (some m.wire[i], none)) :
    voteRun x y z = some (m.wire.map fun b => (b, none)) := by
  refine voteRun_eq_some.mpr ⟨by simpa using m.wire_ne_nil, fun i hi => ?_⟩
  have hi : i < m.wire.length := by simpa using hi
  rw [voteBeatAt_beats (by rw [wins i hi]; simp), wins i hi, List.getElem?_map, List.getElem?_eq_getElem hi, Option.map_some, Option.map_some,
    Option.any_some, (m.wire_getElem hi).1, List.length_map, m.wire_length, decide_eq_true_eq]
  exact ⟨rfl, Iff.rfl⟩

/-- Two members that hold the same message forward it, with the third member's beats still to come. -/
theorem voteRun_two : voteRun (m.wire ++ x1, d1) (m.wire ++ x2, d2) ([], d3) = some (m.wire.map fun b => (b, none)) ∧
    voteRun (m.wire ++ x1, d1) ([], d3) (m.wire ++ x2, d2) = some (m.wire.map fun b => (b, none)) ∧
    voteRun ([], d3) (m.wire ++ x1, d1) (m.wire ++ x2, d2) = some (m.wire.map fun b => (b, none)) := by
  have held (x : List Beat) (i : ℕ) (hi : i < m.wire.length) : (m.wire ++ x)[i]? = some m.wire[i] := by
    rw [List.getElem?_append_left hi, List.getElem?_eq_getElem hi]
  refine ⟨voteRun_wire fun i hi => ?_, voteRun_wire fun i hi => ?_, voteRun_wire fun i hi => ?_⟩
  all_goals
    rw [held x1 i hi, held x2 i hi, List.getElem?_nil]
    exact if_pos rfl

/-- Without a beat of every member nothing is forwarded in which all three differ. -/
theorem voteBeatAt_lacking {x y z : List Beat × Option Beat} {i : ℕ} (lacks : beatAt x i = none ∨ beatAt y i = none ∨ beatAt z i = none) :
    voteBeatAt x y z i = voteBeat x.1[i]? y.1[i]? z.1[i]? := by
  have three (a b c : Option Beat) (lacks : a = none ∨ b = none ∨ c = none) : (voteBeat a b c).2 ≠ some 3 := by
    unfold voteBeat
    grind
  by_cases waiting : (voteBeat x.1[i]? y.1[i]? z.1[i]?).1 = none
  · rw [voteBeatAt_waiting waiting, if_neg fun h => three _ _ _ lacks h.2, voteBeat_none waiting]
  · exact voteBeatAt_beats waiting

theorem voteBeat_pair {a b : Option Beat} {x : Beat} (h : (voteBeat a b none).1 = some x) : a = some x ∧ b = some x := by
  unfold voteBeat at h
  grind

/-- Two members that hold different messages, without the third, forward nothing. -/
theorem voteRun_differ (differ : m.wire ≠ m2.wire) : voteRun (m.wire ++ x1, d1) (m2.wire ++ x2, d2) ([], none) = none := by
  by_contra some'
  obtain ⟨rs, run⟩ := Option.ne_none_iff_exists'.mp some'
  obtain ⟨some', beats⟩ := voteRun_eq_some.mp run
  have pos : 0 < rs.length := List.length_pos_iff.mpr some'
  have ends (i : ℕ) (hi : i < rs.length) : rs[i].1.ends = true ↔ i + 1 = rs.length := by
    rw [← (beats i hi).2, List.getElem?_eq_getElem hi, Option.any_some]
  have pair (i : ℕ) (hi : i < rs.length) : (m.wire ++ x1)[i]? = some rs[i].1 ∧ (m2.wire ++ x2)[i]? = some rs[i].1 := by
    obtain ⟨voted, -⟩ := beats i hi
    rw [List.getElem?_eq_getElem hi, Option.map_some, voteBeatAt_lacking (.inr (.inr rfl))] at voted
    exact voteBeat_pair (congrArg Prod.fst (Option.some.inj voted)).symm
  have whole {m : Msg} {x : List Beat} (held : ∀ i (hi : i < rs.length), (m.wire ++ x)[i]? = some rs[i].1) : m.wire = rs.map (·.1) := by
    have size := m.wire_length
    have beats : 0 < m.beats := Nat.succ_pos _
    have here (i : ℕ) (hi : i < rs.length) (hi' : i < m.wire.length) : m.wire[i] = rs[i].1 := by
      have := held i hi
      rw [List.getElem?_append_left hi', List.getElem?_eq_getElem hi'] at this
      exact Option.some.inj this
    have short : m.wire.length ≤ rs.length := by
      by_contra long
      have last := (ends (rs.length - 1) (by omega)).mpr (by omega)
      rw [← here _ _ (by omega), (m.wire_getElem (by omega)).1] at last
      have := of_decide_eq_true last
      omega
    have long : rs.length ≤ m.wire.length := by
      have last := (m.wire_getElem (show m.beats - 1 < m.wire.length by omega)).1
      rw [here _ (by omega), decide_eq_true (by omega)] at last
      have := (ends _ (by omega)).mp last
      omega
    refine List.ext_getElem (by simp; omega) fun i hi hi' => ?_
    rw [List.getElem_map]
    exact here i (by omega) hi
  exact differ ((whole fun i hi => (pair i hi).1).trans (whole fun i hi => (pair i hi).2).symm)

/-- One member alone forwards nothing. -/
theorem voteRun_one {x : List Beat × Option Beat} : voteRun x ([], none) ([], none) = none ∧ voteRun ([], none) x ([], none) = none ∧
    voteRun ([], none) ([], none) x = none := by
  have never {x y z : List Beat × Option Beat} (first : voteBeatAt x y z 0 = (none, none)) : voteRun x y z = none := by
    by_contra some'
    obtain ⟨rs, run⟩ := Option.ne_none_iff_exists'.mp some'
    obtain ⟨some', beats⟩ := voteRun_eq_some.mp run
    have pos : 0 < rs.length := List.length_pos_iff.mpr some'
    obtain ⟨voted, -⟩ := beats 0 pos
    rw [first, List.getElem?_eq_getElem pos] at voted
    cases voted
  have lone (a : Option Beat) : voteBeat a none none = (none, none) ∧ voteBeat none a none = (none, none) ∧ voteBeat none none a = (none, none) := by
    cases a <;> exact ⟨rfl, rfl, rfl⟩
  obtain ⟨first, second, third⟩ := lone x.1[0]?
  exact ⟨never ((voteBeatAt_lacking (.inr (.inl rfl))).trans first), never ((voteBeatAt_lacking (.inl rfl)).trans second),
    never ((voteBeatAt_lacking (.inl rfl)).trans third)⟩

end

end Sys2Proof.Machine
end

section
/-! SUPPORT. The fabric statements, part 16: VOTE_FORWARD of a group that is in step (R199, R200). -/

namespace Sys2Proof.Machine

/-! ## Steps of a group in step -/

section
variable {s : State} {ch : Chan}

theorem voteForward_closed (h : closedBit (s.core.route ch) = true) : exec (.voteForward ch) s = .next s := by
  show execVoteForward ch s = _
  unfold execVoteForward
  rw [h]
  rfl

variable (fresh : ∀ v ∈ s.core.router.votes, v.ch ≠ ch)
include fresh

theorem voteForward_waits (none : s.core.voteNext ch = none) : exec (.voteForward ch) s = .next s := by
  show execVoteForward ch s = _
  unfold execVoteForward
  dsimp only
  rw [State.voteReady_fresh fresh, none]
  cases closedBit (s.core.route ch) <;> rfl

/-- What a VOTE group forwards as it competes for its outputs. -/
def Core.votedMover (c : Core) (ch : Chan) (m : Msg) : Mover :=
  let ps := voteMembers (c.route ch)
  c.router.mover ps ch (omask (c.route ch) (portNo (ps.headD .n))) (hdrCls m.hdr)

theorem voteForward_run {rs : List (Beat × Option (BitVec 2))} (open' : closedBit (s.core.route ch) = false)
    (next : s.core.voteNext ch = some rs) : exec (.voteForward ch) s = .next
      (let m := msgOf ch (rs.map (·.1))
      let x := s.core.votedMover ch m
      if s.mayLeave x = true then
        (((voteMembers (s.core.route ch)).foldl (fun t p => t.voteTake ch p rs) (s.voteDiffer ch (rs.filterMap (·.2)))).mapRouter fun r =>
          r.served x.mask x.inp).emitAll x.mask m
      else s) := by
  have mover : s.voteMover ch = some (s.core.votedMover ch (msgOf ch (rs.map (·.1)))) := by
    unfold State.voteMover Core.votedMover
    dsimp only
    rw [State.voteReady_fresh fresh, next]
    cases voteMembers (s.core.route ch) <;> rfl
  show execVoteForward ch s = _
  unfold execVoteForward
  dsimp only
  rw [State.voteReady_fresh fresh, mover, next, open']
  dsimp only
  cases s.mayLeave (s.core.votedMover ch (msgOf ch (rs.map (·.1)))) <;> rfl

/-- A member in step that holds nothing owes what the others forward. -/
theorem State.voteTake_late {p : Port} {w : List Beat} (none : s.core.router.headAt p ch = none) (some' : w ≠ []) :
    s.voteTake ch p (w.map fun b => (b, Option.none)) =
    ({ s with core := { s.core with router := s.core.router.setVote ch fun v => v.setOwed p (oweBeats [] w).1 } } : State).voteDiffers ch
      (oweBeats [] w).2 (memberNo (voteInputs (s.core.route ch)) p) := by
  have copy : s.core.voteNo ch p = memberNo (voteInputs (s.core.route ch)) p := by
    rw [Core.voteNo, Router.vote_fresh fresh]
    rfl
  have rest : (((w.map fun b => (b, (Option.none : Option (BitVec 2)))).drop 0).filter fun r => r.2 ≠ some 3).map (·.1) = w := by
    rw [List.drop_zero, List.filter_eq_self.mpr (by simp), List.map_map]
    exact List.map_id _
  unfold State.voteTake
  dsimp only
  rw [(Router.stream_none fresh none).1, List.length_nil, Nat.min_zero, rest, copy, Router.owedBy_fresh fresh, if_pos rfl, if_neg (by simpa using some')]
  rfl

end

/-- What a member that holds nothing owes of a message, and the beats of it that count as disagreements (R199). -/
theorem oweBeats_wire {m : Msg} (kind : hdrKind m.hdr ≠ 3) : oweBeats [] m.wire =
    (if m.beats ≤ 64 then m.wire.map some else [none], if m.beats ≤ 64 then 0 else m.beats) := by
  have owe := oweBeats_beats [] m.wire
  have plain := m.wire_plain kind
  rw [List.map_nil, List.length_nil, Nat.zero_add, m.wire_length, List.nil_append, lostBeats_plain plain m.wire_ne_nil,
    List.filter_eq_self.mpr (by simpa using plain), m.wire_length] at owe
  rw [owe]
  split <;> rfl

/-- The message that is forwarded where its beats win at every position, with nobody to log. -/
theorem msgOf_forwarded {m : Msg} {ch : Chan} (same : m.ch = ch) :
    msgOf ch ((m.wire.map fun b => (b, (none : Option (BitVec 2)))).map (·.1)) = m ∧
    (m.wire.map fun b => (b, (none : Option (BitVec 2)))).filterMap (·.2) = [] := by
  subst same
  rw [List.map_map]
  exact ⟨(congrArg (msgOf m.ch) (List.map_id _)).trans (msgOf_wire m), by simp⟩

/-! ## Members of a group of three -/

section
variable {c : Core} {ch : Chan} {p1 p2 p3 : Port}

/-- The ports of a VOTE group are different ones. -/
theorem voteMembers_nodup (e : Word) : (voteMembers e).Nodup := ((by decide : allPorts.Nodup).filter _).filter _

theorem voteNext_three (inputs : voteInputs (c.route ch) = [p1, p2, p3]) (join : ∀ p ∈ [p1, p2, p3], inJoin (c.route ch) p = true) :
    c.voteNext ch = voteRun (c.router.stream ch p1, c.router.streamMark ch p1) (c.router.stream ch p2, c.router.streamMark ch p2)
      (c.router.stream ch p3, c.router.streamMark ch p3) := by
  rw [Core.voteNext_eq, Core.voteHold_in (i := 0) (by rw [inputs]; rfl) (join p1 (by simp)),
    Core.voteHold_in (i := 1) (by rw [inputs]; rfl) (join p2 (by simp)), Core.voteHold_in (i := 2) (by rw [inputs]; rfl) (join p3 (by simp))]

theorem join_of_members {ps : List Port} (members : voteMembers (c.route ch) = ps) : ∀ p ∈ ps, inJoin (c.route ch) p = true := by
  rintro p hp
  rw [← members] at hp
  exact (List.mem_filter.mp hp).2

/-- Input i of a VOTE group votes. -/
def VotesAt (e : Word) (i : ℕ) : Prop := ∃ p, (voteInputs e)[i]? = some p ∧ inJoin e p = true

theorem two_le_voteMembers {e : Word} {i j : ℕ} (other : i ≠ j) (hi : VotesAt e i) (hj : VotesAt e j) : 2 ≤ (voteMembers e).length := by
  obtain ⟨p, hp, joinP⟩ := hi
  obtain ⟨q, hq, joinQ⟩ := hj
  have nodup : (voteInputs e).Nodup := (by decide : allPorts.Nodup).filter _
  have differ : p ≠ q := fun same => other (by
    obtain ⟨inside, -⟩ := List.getElem?_eq_some_iff.mp hp
    exact (List.getElem?_inj inside nodup).mp (hp.trans (same ▸ hq.symm)))
  have both : [p, q].Nodup := by simpa using differ
  refine (List.subperm_of_subset both fun x hx => ?_).length_le
  rcases List.mem_cons.mp hx with rfl | hx
  · exact List.mem_filter.mpr ⟨List.mem_of_getElem? hp, joinP⟩
  · obtain rfl := List.mem_singleton.mp hx
    exact List.mem_filter.mpr ⟨List.mem_of_getElem? hq, joinQ⟩

/-- A group with fewer than two members forwards nothing. -/
theorem voteNext_few (few : (voteMembers (c.route ch)).length < 2) : c.voteNext ch = none := by
  have out {i j : ℕ} (hi : VotesAt (c.route ch) i) (other : i ≠ j) : c.voteHold ch j = ([], none) :=
    Core.voteHold_out fun p hp => by
      by_contra join
      have := two_le_voteMembers other hi ⟨p, hp, by simpa using join⟩
      omega
  have out' {i : ℕ} (no : ¬ VotesAt (c.route ch) i) : c.voteHold ch i = ([], none) :=
    Core.voteHold_out fun p hp => by simpa using fun join => no ⟨p, hp, join⟩
  rw [Core.voteNext_eq]
  by_cases first : VotesAt (c.route ch) 0
  · rw [out first (j := 1) (by decide), out first (j := 2) (by decide)]
    exact voteRun_one.1
  · rw [out' first]
    by_cases second : VotesAt (c.route ch) 1
    · rw [out second (j := 2) (by decide)]
      exact voteRun_one.2.1
    · rw [out' second]
      exact voteRun_one.2.2

/-- Two members of three, the third withdrawn, that hold the same message forward it. -/
theorem voteNext_withdrawn {m : Msg} (three : (voteInputs (c.route ch)).length = 3) (members : voteMembers (c.route ch) = [p1, p2])
    {x1 x2 : List Beat} (held1 : c.router.stream ch p1 = m.wire ++ x1) (held2 : c.router.stream ch p2 = m.wire ++ x2) :
    c.voteNext ch = some (m.wire.map fun b => (b, none)) := by
  obtain ⟨a, b, d, inputs⟩ := List.length_eq_three.mp three
  have at0 : (voteInputs (c.route ch))[0]? = some a := by rw [inputs]; rfl
  have at1 : (voteInputs (c.route ch))[1]? = some b := by rw [inputs]; rfl
  have at2 : (voteInputs (c.route ch))[2]? = some d := by rw [inputs]; rfl
  have out {i : ℕ} {p : Port} (here : (voteInputs (c.route ch))[i]? = some p) (no : inJoin (c.route ch) p = false) : c.voteHold ch i = ([], none) :=
    Core.voteHold_out fun q hq => by
      rw [here] at hq
      rwa [← Option.some.inj hq]
  rw [voteMembers, inputs] at members
  rw [Core.voteNext_eq]
  cases joinA : inJoin (c.route ch) a <;> cases joinB : inJoin (c.route ch) b <;> cases joinD : inJoin (c.route ch) d <;>
    simp [joinA, joinB, joinD] at members
  case false.true.true =>
    obtain ⟨rfl, rfl⟩ := members
    rw [out at0 joinA, Core.voteHold_in at1 joinB, Core.voteHold_in at2 joinD, held1, held2]
    exact voteRun_two.2.2
  case true.false.true =>
    obtain ⟨rfl, rfl⟩ := members
    rw [Core.voteHold_in at0 joinA, out at1 joinB, Core.voteHold_in at2 joinD, held1, held2]
    exact voteRun_two.2.1
  case true.true.false =>
    obtain ⟨rfl, rfl⟩ := members
    rw [Core.voteHold_in at0 joinA, Core.voteHold_in at1 joinB, out at2 joinD, held1, held2]
    exact voteRun_two.1

end

/-! ## Votes on messages -/

section
variable {s : State} {ch : Chan} {p1 p2 p3 : Port} {m m2 m3 : Msg} (fresh : ∀ v ∈ s.core.router.votes, v.ch ≠ ch)

/-- A message that a member brings. -/
def Router.Brings (r : Router) (ch : Chan) (p : Port) (m : Msg) : Prop := r.headAt p ch = some m ∧ m.votes = true

theorem Msg.votes_of (kind : hdrKind m.hdr ≠ 3) (small : hdrKind m.hdr < 8) (len : hdrLen m.hdr = m.pay.length) : m.votes = true := by
  have fine := Msg.malformed_false small len fun three => absurd three kind
  simp [Msg.votes, fine, kind]

/-- A router as the messages of some inputs have passed them. -/
def Router.throughAll (r : Router) (now : ℕ) (xs : List (Port × Msg)) : Router := xs.foldl (fun r x => r.through now x.1 x.2) r

include fresh

/-- What a VOTE group forwards of messages that its members bring whole. -/
theorem voteForward_whole {xs : List (Port × Msg)} {rs : List (Beat × Option (BitVec 2))} (open' : closedBit (s.core.route ch) = false)
    (members : voteMembers (s.core.route ch) = xs.map Prod.fst) (next : s.core.voteNext ch = some rs)
    (brings : ∀ x ∈ xs, s.core.router.Brings ch x.1 x.2 ∧ rs.length = x.2.beats) : exec (.voteForward ch) s = .next
      (let m := msgOf ch (rs.map (·.1))
      let x := s.core.votedMover ch m
      if s.mayLeave x = true then
        let t := s.voteDiffer ch (rs.filterMap (·.2))
        State.emitAll { t with core := { t.core with router := (s.core.router.throughAll s.core.csr.cycle.toNat xs).served x.mask x.inp } } x.mask m
      else s) := by
  rw [voteForward_run fresh open' next, members]
  dsimp only
  have core := s.voteDiffer_core ch (rs.filterMap (·.2))
  have nodup : (xs.map Prod.fst).Nodup := members ▸ voteMembers_nodup _
  rw [State.voteTakes_whole nodup (by rw [core]; exact fresh), core]
  · rfl
  · intro x hx
    obtain ⟨⟨head, votes⟩, whole⟩ := brings x hx
    rw [core]
    exact ⟨head, votes, whole⟩

/-- Two members forward what they hold alike, and the third one owes it. -/
theorem voteForward_late (open' : closedBit (s.core.route ch) = false) (inputs : voteInputs (s.core.route ch) = [p1, p2, p3])
    (members : voteMembers (s.core.route ch) = [p1, p2, p3]) (brings1 : s.core.router.Brings ch p1 m) (brings2 : s.core.router.Brings ch p2 m)
    (none : s.core.router.headAt p3 ch = none) (may : s.mayLeave (s.core.votedMover ch m) = true) : exec (.voteForward ch) s = .next
      (let x := s.core.votedMover ch m
      let t := s.voteDiffers ch (if m.beats ≤ 64 then 0 else m.beats) (memberNo (voteInputs (s.core.route ch)) p3)
      let r := (s.core.router.throughAll s.core.csr.cycle.toNat [(p1, m), (p2, m)]).setVote ch fun v =>
        v.setOwed p3 (if m.beats ≤ 64 then m.wire.map some else [Option.none])
      State.emitAll { t with core := { t.core with router := r.served x.mask x.inp } } x.mask m) := by
  obtain ⟨head, votes⟩ := id brings1
  obtain ⟨more1, held1⟩ := Router.stream_head fresh head votes
  obtain ⟨more2, held2⟩ := Router.stream_head fresh brings2.1 votes
  obtain ⟨held3, mark3⟩ := Router.stream_none fresh none
  have next : s.core.voteNext ch = some (m.wire.map fun b => (b, Option.none)) := by
    rw [voteNext_three inputs (join_of_members members), held1, held2, held3]
    exact voteRun_two.1
  obtain rfl : m.ch = ch := (Router.headAt_mem head).1
  have kind : hdrKind m.hdr ≠ 3 := by
    have := votes
    simp only [Msg.votes, Bool.and_eq_true, decide_eq_true_eq] at this
    exact this.2
  obtain ⟨message, silent⟩ := msgOf_forwarded (rfl : m.ch = m.ch)
  have nodup : [p1, p2, p3].Nodup := members ▸ voteMembers_nodup _
  have apart : p3 ≠ p1 ∧ p3 ≠ p2 := by
    simp only [List.nodup_cons, List.mem_cons, List.not_mem_nil, or_false, not_or] at nodup
    exact ⟨Ne.symm nodup.1.2, Ne.symm nodup.2.1⟩
  have both := State.voteTakes_whole (s := s) (xs := [(p1, m), (p2, m)]) (ch := m.ch) (rs := m.wire.map fun b => (b, Option.none))
    (List.Nodup.sublist (by simp) nodup) fresh (fun x hx => by
      simp only [List.mem_cons, List.not_mem_nil, or_false] at hx
      rcases hx with rfl | rfl
      · exact ⟨head, votes, by simp [m.wire_length]⟩
      · exact ⟨brings2.1, votes, by simp [m.wire_length]⟩)
  have late : (s.core.router.throughAll s.core.csr.cycle.toNat [(p1, m), (p2, m)]).headAt p3 m.ch = Option.none :=
    ((Router.headAt_through _ apart.2).trans (Router.headAt_through _ apart.1)).trans none
  rw [voteForward_run fresh open' next, members, message, silent, State.voteDiffer_nil]
  dsimp only
  rw [if_pos may, show [p1, p2, p3] = [p1, p2] ++ [p3] from rfl, List.foldl_append, show [p1, p2] = [(p1, m), (p2, m)].map Prod.fst from rfl, both,
    List.foldl_cons, List.foldl_nil, State.voteTake_late (by simpa using fresh) late m.wire_ne_nil, oweBeats_wire kind]
  dsimp only
  have route : Core.route { s.core with router := s.core.router.throughAll s.core.csr.cycle.toNat [(p1, m), (p2, m)] } m.ch = s.core.route m.ch := by
    simp [Core.route, Router.throughAll]
  unfold Router.throughAll at route
  rw [State.voteDiffers, State.voteDiffer_router, route]
  rfl

end

end Sys2Proof.Machine
end

section
/-! SUPPORT. The fabric statements, part 17: a late member that catches up (R173, R187, R198, R199). -/

namespace Sys2Proof.Machine

/-! ## Catching up -/

section
variable {s : State} {ch : Chan} {p : Port} {copy : BitVec 2} {m : Msg} {owed : List (Option Beat)}

theorem State.voteCatchUp_none (head : s.core.router.headAt p ch = none) (n : ℕ) : State.voteCatchUp ch p copy n s = s := by
  cases n with
  | zero => rfl
  | succ n => rw [State.voteCatchUp, head]

section
variable (head : s.core.router.headAt p ch = some m) (owes : (s.core.router.vote ch).owedBy p = owed) (late : owed ≠ []) (n : ℕ)
include head owes late

/-- A malformed message of a late member is discarded and reported (R173). -/
theorem State.voteCatchUp_malformed (bad : m.malformed = true) : State.voteCatchUp ch p copy (n + 1) s =
    State.voteCatchUp ch p copy n ((s.mapCore fun c => c.leave p m).post (.malformed s.core.ident.site ch)) := by
  obtain ⟨o, os, rfl⟩ := List.exists_cons_of_ne_nil late
  rw [State.voteCatchUp, head, owes]
  dsimp only
  rw [if_pos bad]

/-- A marker of a late member ends the line count of its input where the member owes one. -/
theorem State.voteCatchUp_marker (fine : m.malformed = false) (kind : hdrKind m.hdr = 3) {k : ℕ} {rest : List (Option Beat)}
    (marks : catchMark owed (m.wire.headD 0) = (k, rest, true)) : State.voteCatchUp ch p copy (n + 1) s =
    State.voteCatchUp ch p copy n ((s.mapRouter fun r =>
      Router.setVote { r.pop p m s.core.csr.cycle.toNat with lines := dropCount r.lines ch p } ch fun v =>
        (v.setOwed p rest).setAhead p []).voteDiffers ch k copy) := by
  obtain ⟨o, os, rfl⟩ := List.exists_cons_of_ne_nil late
  rw [State.voteCatchUp, head, owes]
  dsimp only
  rw [if_neg (Bool.eq_false_iff.mp fine), if_pos kind, marks]
  rfl

/-- Any other message of a late member is compared with what the member owes. -/
theorem State.voteCatchUp_message (fine : m.malformed = false) (kind : hdrKind m.hdr ≠ 3) : State.voteCatchUp ch p copy (n + 1) s =
    State.voteCatchUp ch p copy n ((s.mapRouter fun r =>
      (r.through s.core.csr.cycle.toNat p m).setVote ch fun v =>
        (v.setOwed p (catchUp owed m.wire).2.1).setAhead p (catchUp owed m.wire).2.2).voteDiffers ch (catchUp owed m.wire).1 copy) := by
  obtain ⟨o, os, rfl⟩ := List.exists_cons_of_ne_nil late
  rw [State.voteCatchUp, head, owes]
  dsimp only
  rw [if_neg (Bool.eq_false_iff.mp fine), if_neg kind]
  rfl

end

/-- Where one member alone has a message, and none is left behind it, that member alone catches up. -/
theorem State.voteReady_alone {s' : State} (voter : p ∈ s.core.voters ch) (others : ∀ q, q ≠ p → s.core.router.headAt q ch = none)
    (caught : State.voteCatchUp ch p (s.core.voteNo ch p) (s.core.router.inq.length + 1) s = s')
    (done : ∀ q, s'.core.router.headAt q ch = none) : s.voteReady ch = s' := by
  have stays (ps : List Port) : ps.foldl (fun t p => State.voteCatchUp ch p (s.core.voteNo ch p) (t.core.router.inq.length + 1) t) s' = s' := by
    induction ps with
    | nil => rfl
    | cons q ps ih => rw [List.foldl_cons, State.voteCatchUp_none (done q), ih]
  unfold State.voteReady
  generalize s.core.voters ch = ps at voter
  induction ps with
  | nil => cases voter
  | cons q ps ih =>
    rw [List.foldl_cons]
    by_cases here : q = p
    · subst here
      rw [caught, stays]
    · rw [State.voteCatchUp_none (others q here)]
      exact ih ((List.mem_cons.mp voter).resolve_left (Ne.symm here))

/-- A group without a beat at hand forwards nothing. -/
theorem voteNext_idle {c : Core} (empty : c.router.inq = []) (ahead : ∀ q, (c.router.vote ch).aheadOf q = []) : c.voteNext ch = none := by
  have waiting (q : Port) : c.router.waiting ch q = [] := by simp [Router.waiting, empty]
  have hold (i : ℕ) : c.voteHold ch i = ([], none) := by
    have stream (q : Port) : (c.router.stream ch q, c.router.streamMark ch q) = ([], none) := by
      simp [Router.stream, Router.streamMark, waiting, ahead]
    unfold Core.voteHold
    simp only [stream]
    split <;> simp
  rw [Core.voteNext_eq, hold, hold, hold, voteRun_empty]

/-- A group whose members catch up and which then has nothing to forward. -/
theorem voteForward_catches {s' : State} (open' : closedBit (s.core.route ch) = false) (ready : s.voteReady ch = s')
    (none : s'.core.voteNext ch = none) : exec (.voteForward ch) s = .next s' := by
  show execVoteForward ch s = _
  unfold execVoteForward
  dsimp only
  rw [ready, none, open']
  rfl

end

/-! ## A late member with one message -/

section
variable {s : State} {ch : Chan} {inp : Port} {m : Msg} {ks : List (Port × BitVec 2)} {owed : List (Option Beat)}
  (open' : closedBit (s.core.route ch) = false) (member : inp ∈ voteMembers (s.core.route ch)) (alone : s.core.router.inq = [(inp, m)])
  (same : m.ch = ch) (votes : s.core.router.votes = [{ ch := ch, was := ks, owed := [(inp, owed)], ahead := [] }])

theorem Router.headAt_alone {r : Router} (alone : r.inq = [(inp, m)]) (same : m.ch = ch) (q : Port) :
    r.headAt q ch = if q = inp then some m else none := by
  unfold Router.headAt
  rw [alone]
  by_cases here : q = inp
  · simp [here, same]
  · simp [here, Ne.symm here]

theorem Router.headAt_empty {r : Router} (empty : r.inq = []) (q : Port) : r.headAt q ch = none := by
  simp [Router.headAt, empty]

theorem Router.vote_only {r : Router} {v : Vote} (votes : r.votes = [v]) (here : v.ch = ch) : r.vote ch = v := by
  simp [Router.vote, votes, here]

/-- A member that owes nothing more has no entry. -/
theorem Router.setVote_paid {r : Router} (votes : r.votes = [{ ch := ch, was := ks, owed := [(inp, owed)], ahead := [] }]) :
    (r.setVote ch fun v => (v.setOwed inp []).setAhead inp []) = { r with votes := [] } := by
  unfold Router.setVote
  rw [Router.vote_only votes rfl, votes]
  simp [Vote.setOwed, Vote.setAhead, noteFor]

theorem Router.owedBy_only {r : Router} (votes : r.votes = [{ ch := ch, was := ks, owed := [(inp, owed)], ahead := [] }]) :
    (r.vote ch).owedBy inp = owed := by
  simp [Router.vote_only votes rfl, Vote.owedBy, notedFor]

theorem Core.voter_of_member {c : Core} (member : inp ∈ voteMembers (c.route ch)) : inp ∈ c.voters ch := by
  simp [Core.voters, mem_allPorts, member]

include open' member alone same

/-- The step of a VOTE group of which one late member alone has a message, with nothing behind it. -/
theorem voteForward_alone {s' : State} (caught : State.voteCatchUp ch inp (s.core.voteNo ch inp) 2 s = s') (empty : s'.core.router.inq = [])
    (ahead : ∀ q, (s'.core.router.vote ch).aheadOf q = []) : exec (.voteForward ch) s = .next s' := by
  refine voteForward_catches open' (State.voteReady_alone (Core.voter_of_member member) (fun q other => ?_) ?_ (Router.headAt_empty empty))
    (voteNext_idle empty ahead)
  · rw [Router.headAt_alone alone same, if_neg other]
  · rw [alone]
    exact caught

include votes

/-- It is in step again with a message that takes the place of all that it owes. -/
theorem voteForward_inStep {w1 : List Beat} (w : owed = w1.map some) (some' : w1 ≠ []) (plain : ∀ b ∈ w1, b.isMark = false)
    (fine : m.malformed = false) (kind : hdrKind m.hdr ≠ 3) (size : m.beats = w1.length) : exec (.voteForward ch) s = .next
    ((s.mapRouter fun r => { r.through s.core.csr.cycle.toNat inp m with votes := [] }).voteDiffers ch (differing m.wire w1) (s.core.voteNo ch inp)) := by
  subst w
  have head : s.core.router.headAt inp ch = some m := by rw [Router.headAt_alone alone same, if_pos rfl]
  have catches := catchUp_plain (w2 := m.wire) plain
  rw [List.drop_of_length_le (by rw [m.wire_length, size]), List.drop_of_length_le (by rw [m.wire_length, size])] at catches
  have paid : ((s.core.router.through s.core.csr.cycle.toNat inp m).setVote ch fun v => (v.setOwed inp []).setAhead inp []) =
      { s.core.router.through s.core.csr.cycle.toNat inp m with votes := [] } := Router.setVote_paid (by simpa using votes)
  have empty : (s.core.router.through s.core.csr.cycle.toNat inp m).inq = [] := by simp [Router.through_inq, alone]
  have core := State.voteDiffer_core (s.mapRouter fun r => { r.through s.core.csr.cycle.toNat inp m with votes := [] }) ch
    (List.replicate (differing m.wire w1) (s.core.voteNo ch inp))
  have none : ((s.mapRouter fun r => { r.through s.core.csr.cycle.toNat inp m with votes := [] }).voteDiffers ch (differing m.wire w1)
      (s.core.voteNo ch inp)).core.router.inq = [] := by
    rw [State.voteDiffers, core]
    exact empty
  refine voteForward_alone open' member alone same ?_ none fun q => ?_
  · rw [State.voteCatchUp_message head (Router.owedBy_only votes) (by simpa using some') 1 fine kind, catches]
    simp only [List.map_nil]
    rw [State.mapRouter, State.mapCore, paid]
    exact State.voteCatchUp_none (Router.headAt_empty none inp) 1
  · rw [State.voteDiffers, core]
    rfl

/-- A malformed message of it is discarded and reported. -/
theorem voteForward_discards (late : owed ≠ []) (bad : m.malformed = true) : exec (.voteForward ch) s = .next
    ((s.mapCore fun c => c.leave inp m).post (.malformed s.core.ident.site ch)) := by
  have head : s.core.router.headAt inp ch = some m := by rw [Router.headAt_alone alone same, if_pos rfl]
  have empty : (s.core.router.inq.erase (inp, m)) = [] := by simp [alone]
  refine voteForward_alone open' member alone same ?_ empty fun q => ?_
  · rw [State.voteCatchUp_malformed head (Router.owedBy_only votes) late 1 bad]
    exact State.voteCatchUp_none (Router.headAt_empty empty inp) 1
  · show ((s.core.router.pop inp m _).vote ch).aheadOf q = []
    rw [Router.vote_only (r := s.core.router.pop inp m _) (ch := ch) votes rfl]
    rfl

/-- Its marker is the one that it owes. -/
theorem voteForward_marks (w : owed = [m.wire.head?]) (fine : m.malformed = false) (kind : hdrKind m.hdr = 3) :
    exec (.voteForward ch) s = .next (s.mapRouter fun r =>
      { r.pop inp m s.core.csr.cycle.toNat with votes := [], lines := dropCount r.lines ch inp }) := by
  subst w
  have head : s.core.router.headAt inp ch = some m := by rw [Router.headAt_alone alone same, if_pos rfl]
  obtain ⟨b, bs, wire⟩ := List.exists_cons_of_ne_nil m.wire_ne_nil
  have mark : b.isMark = true := by
    have := m.isMark_wire (i := 0) (by simp [wire])
    simpa [wire, kind] using this
  have catches : catchMark [m.wire.head?] (m.wire.headD 0) = (0, [], true) := by
    rw [wire]
    exact (catchMark_mark (w1 := []) (by simp) mark).1
  have paid := Router.setVote_paid (r := { s.core.router.pop inp m s.core.csr.cycle.toNat with lines := dropCount s.core.router.lines ch inp }) votes
  have empty : (s.core.router.inq.erase (inp, m)) = [] := by simp [alone]
  refine voteForward_alone open' member alone same ?_ empty fun q => rfl
  rw [State.voteCatchUp_marker head (Router.owedBy_only votes) (by simp) 1 fine kind catches, State.voteDiffers_zero, State.mapRouter, State.mapCore,
    paid]
  exact State.voteCatchUp_none (Router.headAt_empty empty inp) 1

end

end Sys2Proof.Machine
end

section
/-! SUPPORT. The fabric statements, part 18: markers that leave a router (R187, R196 to R200). -/

namespace Sys2Proof.Machine

/-! ## Which marker leaves (R196, R199) -/

/-- The inputs of a channel that are in JOIN. -/
def joinedOf (e : Word) : List Port := allPorts.filter (inJoin e)

section
variable {c : Core} {ch : Chan} {m : Msg}

theorem mem_joinedOf {e : Word} {p : Port} : p ∈ joinedOf e ↔ inJoin e p = true := by
  simp [joinedOf, mem_allPorts]

theorem Router.hasMark_iff {r : Router} {code : BitVec 5} {p : Port} :
    r.hasMark ch code p = true ↔ ∃ m, r.markAt p ch = some m ∧ hdrCode m.hdr = code := by
  unfold Router.hasMark
  cases r.markAt p ch <;> simp

/-- The first marker of a joined input whose code may leave. -/
def Core.firstMark (c : Core) (ch : Chan) : Option Msg := (joinedOf (c.route ch)).findSome? fun p => (c.router.markAt p ch).bind fun m =>
  if c.router.mayMark ch (joinedOf (c.route ch)) (voteMembers (c.route ch)) (hdrCode m.hdr) then some m else none

/-- Without a VOTE group the marker of the lowest input leaves (log entry 64). -/
theorem Core.marking_plain (votes : voteMembers (c.route ch) = []) (first : c.firstMark ch = some m) : c.marking ch = some (m, none) := by
  unfold Core.firstMark joinedOf at first
  unfold Core.marking
  dsimp only
  rw [first, votes]
  rfl

/-- With one the marker that its members vote for leaves (R199). -/
theorem Core.marking_voted {b : Beat} {d : Option (BitVec 2)} (votes : voteMembers (c.route ch) ≠ []) (first : c.firstMark ch = some m)
    (voted : c.router.voteMark ch (c.route ch) = (some b, d)) : c.marking ch = some (msgOf ch [b], d) := by
  unfold Core.firstMark joinedOf at first
  unfold Core.marking
  dsimp only
  rw [first, voted]
  dsimp only
  rw [if_neg (by simpa using votes)]

/-- A joined input that does not vote and has no marker holds every marker back. -/
theorem Core.marking_none {p : Port} (join : p ∈ joinedOf (c.route ch)) (plain : modeOf (c.route ch) (portNo p) ≠ 3)
    (lacks : c.router.markAt p ch = none) : c.marking ch = none := by
  have member : (voteMembers (c.route ch)).contains p = false := by
    simpa [mem_voteMembers] using fun _ => plain
  have never (code : BitVec 5) : c.router.mayMark ch (joinedOf (c.route ch)) (voteMembers (c.route ch)) code = false := by
    have here : ((voteMembers (c.route ch)).contains p || c.router.hasMark ch code p) = false := by
      rw [member, Router.hasMark, lacks]
      rfl
    rw [Router.mayMark, Bool.and_eq_false_iff]
    exact .inl (List.all_eq_false.mpr ⟨p, join, by rw [here]; exact Bool.false_ne_true⟩)
  have first : c.firstMark ch = none := by simp [Core.firstMark, never]
  unfold Core.firstMark joinedOf at first
  unfold Core.marking
  dsimp only
  rw [first]

end

/-! ## MARKER_FORWARD -/

section
variable {s : State} {ch : Chan} {m : Msg} {differ : Option (BitVec 2)}

theorem markerForward_none (none : s.core.marking ch = none) : exec (.markerForward ch) s = .next s := by
  show execMarkerForward ch s = _
  unfold execMarkerForward
  dsimp only
  rw [none]

theorem markerForward_closed (h : closedBit (s.core.route ch) = true) : exec (.markerForward ch) s = .next s := by
  show execMarkerForward ch s = _
  unfold execMarkerForward
  dsimp only
  rw [h]
  split <;> rfl

/-- The mover of the marker that leaves. -/
def Core.leavingMark (c : Core) (ch : Chan) (m : Msg) : Mover :=
  c.router.mover (joinedOf (c.route ch)) ch (markOuts (c.route ch)) (hdrCls m.hdr)

theorem Core.markMover_eq {c : Core} (marking : c.marking ch = some (m, differ)) : c.markMover ch = some (c.leavingMark ch m) := by
  rw [Core.markMover, marking]
  rfl

/-- A marker that may leave is among what competes, where its receivers take its class. -/
theorem State.leavingMark_mem (marking : s.core.marking ch = some (m, differ)) (open' : closedBit (s.core.route ch) = false)
    {p : Port} {y : Msg} (head : s.core.router.headAt p ch = some y) (clear : s.clearAll (markOuts (s.core.route ch)) (hdrCls m.hdr) = true) :
    s.core.leavingMark ch m ∈ s.movers := by
  obtain ⟨same, here⟩ := Router.headAt_mem head
  refine State.mem_movers.mpr ⟨.inr (State.mem_groupMovers.mpr ⟨ch, .inl ⟨_, here, same⟩, open', ?_⟩), clear⟩
  exact .inr (.inr (.inr (Core.markMover_eq marking)))

theorem markerForward_waits (marking : s.core.marking ch = some (m, differ)) (stays : s.mayLeave (s.core.leavingMark ch m) = false) :
    exec (.markerForward ch) s = .next s := by
  show execMarkerForward ch s = _
  unfold execMarkerForward
  dsimp only
  rw [marking, Core.markMover_eq marking]
  dsimp only
  rw [stays]
  cases closedBit (s.core.route ch) <;> rfl

/-- A router as markers have left its inputs: the group's lines and the inputs' counts end (R187, R192). -/
def Router.marksLeft (r : Router) (now : ℕ) (ch : Chan) (heads : List (Port × Msg)) : Router :=
  let r1 := heads.foldl (fun r x => r.pop x.1 x.2 now) r
  { r1 with combined := r.combined.filter fun x => x.ch ≠ ch, lines := heads.foldl (fun xs x => dropCount xs ch x.1) r.lines }

theorem State.marks_leave (heads : List (Port × Msg)) : ∀ s : State, heads.foldl (fun t (p, y) => t.mapCore fun c => c.leave p y) s =
    s.mapRouter fun r => heads.foldl (fun r x => r.pop x.1 x.2 s.core.csr.cycle.toNat) r := by
  induction heads with
  | nil => exact fun s => rfl
  | cons x xs ih => exact fun s => (ih _).trans rfl

theorem Router.pops_keep (now : ℕ) (heads : List (Port × Msg)) : ∀ r : Router, let r1 := heads.foldl (fun r x => r.pop x.1 x.2 now) r
    r1.combined = r.combined ∧ r1.lines = r.lines ∧ r1.votes = r.votes ∧ r1.route = r.route := by
  induction heads with
  | nil => exact fun r => ⟨rfl, rfl, rfl, rfl⟩
  | cons x xs ih => exact fun r => ih _

/-- A marker leaves a router, and MEMBER makes the next entry current (R196, R198). -/
def State.markOut (t : State) (ch : Chan) (m : Msg) (x : Mover) (next : Bool) : State :=
  let u := (t.mapRouter fun r => r.served x.mask x.inp).emitAll x.mask m
  if hdrCode m.hdr = 0x11 ∧ next then u.mapCore fun c => c.switchEntry ch else u

/-- The markers that head the joined inputs. -/
def Core.markHeads (c : Core) (ch : Chan) : List (Port × Msg) :=
  (joinedOf (c.route ch)).filterMap fun p => (c.router.markAt p ch).map fun y => (p, y)

theorem markerForward_run (marking : s.core.marking ch = some (m, differ)) (open' : closedBit (s.core.route ch) = false)
    (may : s.mayLeave (s.core.leavingMark ch m) = true)
    (settled : voteMembers (s.core.route ch) = [] ∨ ∀ v ∈ s.core.router.votes, v.ch ≠ ch) : exec (.markerForward ch) s = .next
      (State.markOut (((voteMembers (s.core.route ch)).filter fun p => (s.core.router.markAt p ch).isNone).foldl
        (fun t p => t.voteTake ch p (m.wire.map fun b => (b, none)))
        ((s.mapRouter fun r => r.marksLeft s.core.csr.cycle.toNat ch (s.core.markHeads ch)).voteDiffer ch differ.toList))
        ch m (s.core.leavingMark ch m) (nextv (s.core.route ch))) := by
  have left : ((s.core.markHeads ch).foldl (fun t (p, y) => t.mapCore fun c => c.leave p y) s).mapRouter (fun r =>
      { r with combined := r.combined.filter fun x => x.ch ≠ ch
               lines := (s.core.markHeads ch).foldl (fun xs x => dropCount xs ch x.1) r.lines }) =
      s.mapRouter fun r => r.marksLeft s.core.csr.cycle.toNat ch (s.core.markHeads ch) := by
    obtain ⟨combined, lines, -⟩ := Router.pops_keep s.core.csr.cycle.toNat (s.core.markHeads ch) s.core.router
    rw [State.marks_leave, State.mapRouter, State.mapRouter, State.mapCore, State.mapCore]
    dsimp only
    rw [combined, lines]
    rfl
  have early (t : State) (same : t.core.router.votes = s.core.router.votes) : (voteMembers (s.core.route ch)).foldl (fun t p =>
      (t.mapRouter fun r => r.setVote ch fun v => v.setAhead p []).voteDiffers ch ((s.core.router.vote ch).aheadOf p).length
        (memberNo (voteInputs (s.core.route ch)) p)) t = t := by
    rcases settled with none | fresh
    · rw [none]
      rfl
    · generalize voteMembers (s.core.route ch) = ps
      induction ps with
      | nil => rfl
      | cons p ps ih =>
        have step : ((t.mapRouter fun r => r.setVote ch fun v => v.setAhead p []).voteDiffers ch ((s.core.router.vote ch).aheadOf p).length
            (memberNo (voteInputs (s.core.route ch)) p)) = t := by
          rw [Router.aheadOf_fresh fresh, List.length_nil, State.voteDiffers_zero, State.mapRouter, State.mapCore,
            Router.setVote_fresh (by rw [same]; exact fresh) rfl]
        rw [List.foldl_cons, step, ih]
  have kept : ((s.mapRouter fun r => r.marksLeft s.core.csr.cycle.toNat ch (s.core.markHeads ch)).voteDiffer ch differ.toList).core.router.votes =
      s.core.router.votes := by
    rw [State.voteDiffer_core]
    exact (Router.pops_keep s.core.csr.cycle.toNat (s.core.markHeads ch) s.core.router).2.2.1
  rw [← left] at kept ⊢
  have early := early _ kept
  show execMarkerForward ch s = _
  unfold execMarkerForward
  dsimp only
  rw [marking, Core.markMover_eq marking]
  dsimp only
  rw [open', may]
  unfold Core.markHeads joinedOf at *
  rw [early]
  rfl

end

/-! ## Markers of joined inputs -/

section
variable {c : Core} {ch : Chan} {m : Msg} {hd : Port → Msg}

/-- The heads of the inputs that carry a marker. -/
theorem Core.markHeads_eq {f : Port → Bool} (marks : ∀ p ∈ joinedOf (c.route ch), c.router.markAt p ch = if f p then some (hd p) else none) :
    c.markHeads ch = ((joinedOf (c.route ch)).filter f).map fun p => (p, hd p) := by
  rw [← List.filterMap_eq_map, List.filterMap_filter]
  refine List.filterMap_congr fun p hp => ?_
  rw [marks p hp]
  cases f p <;> rfl

/-- Without a VOTE group the marker of the lowest input leaves once each input carries its code. -/
theorem Core.firstMark_all (some' : joinedOf (c.route ch) ≠ []) (votes : voteMembers (c.route ch) = [])
    (marks : ∀ p ∈ joinedOf (c.route ch), c.router.markAt p ch = some (hd p) ∧ hdrCode (hd p).hdr = hdrCode m.hdr)
    (lowest : hd ((joinedOf (c.route ch)).getD 0 .n) = m) : c.firstMark ch = some m := by
  have may : c.router.mayMark ch (joinedOf (c.route ch)) (voteMembers (c.route ch)) (hdrCode m.hdr) = true := by
    rw [Router.mayMark, Bool.and_eq_true, List.all_eq_true]
    refine ⟨fun p hp => ?_, by simp [votes]⟩
    rw [Router.hasMark_iff.mpr ⟨_, marks p hp⟩, Bool.or_true]
  unfold Core.firstMark
  rw [votes] at may ⊢
  generalize joinedOf (c.route ch) = js at *
  obtain ⟨p, rest, rfl⟩ := List.exists_cons_of_ne_nil some'
  obtain rfl : hd p = m := lowest
  rw [List.findSome?_cons, (marks p (List.mem_cons_self ..)).1, Option.bind_some, if_pos may]

/-- With a VOTE group of all joined inputs some marker may leave once two of them carry its code. -/
theorem Core.firstMark_two {p q : Port} (all : ∀ p ∈ joinedOf (c.route ch), p ∈ voteMembers (c.route ch)) (other : p ≠ q)
    (hp : p ∈ joinedOf (c.route ch)) (hq : q ∈ joinedOf (c.route ch)) (markP : c.router.markAt p ch = some m) (markQ : c.router.markAt q ch = some m) :
    ∃ y, c.firstMark ch = some y := by
  have carries {p : Port} (here : p ∈ joinedOf (c.route ch)) (mark : c.router.markAt p ch = some m) :
      p ∈ (voteMembers (c.route ch)).filter (c.router.hasMark ch (hdrCode m.hdr)) :=
    List.mem_filter.mpr ⟨all p here, Router.hasMark_iff.mpr ⟨m, mark, rfl⟩⟩
  have two : 2 ≤ ((voteMembers (c.route ch)).filter (c.router.hasMark ch (hdrCode m.hdr))).length := by
    have both : [p, q].Nodup := by simpa using other
    refine (List.subperm_of_subset both fun x hx => ?_).length_le
    rcases List.mem_cons.mp hx with rfl | hx
    · exact carries hp markP
    · obtain rfl := List.mem_singleton.mp hx
      exact carries hq markQ
  have may : c.router.mayMark ch (joinedOf (c.route ch)) (voteMembers (c.route ch)) (hdrCode m.hdr) = true := by
    rw [Router.mayMark, Bool.and_eq_true, List.all_eq_true]
    refine ⟨fun p hp => ?_, decide_eq_true ((Nat.min_le_left ..).trans two)⟩
    rw [List.contains_iff_mem.mpr (all p hp), Bool.true_or]
  refine Option.ne_none_iff_exists'.mp fun none => ?_
  have lacks := List.findSome?_eq_none_iff.mp none p hp
  rw [markP, Option.bind_some, if_pos may] at lacks
  cases lacks

variable {p1 p2 p3 : Port}

/-- The beat of the marker that heads an input. -/
def Router.markBeat (r : Router) (ch : Chan) (p : Port) : Option Beat := (r.markAt p ch).bind fun m => m.wire.head?

theorem Core.voteMark_three (inputs : voteInputs (c.route ch) = [p1, p2, p3]) (join : ∀ p ∈ [p1, p2, p3], inJoin (c.route ch) p = true) :
    c.router.voteMark ch (c.route ch) = voteBeat (c.router.markBeat ch p1) (c.router.markBeat ch p2) (c.router.markBeat ch p3) := by
  unfold Router.voteMark
  dsimp only
  rw [inputs]
  simp only [List.getElem?_cons_zero, List.getElem?_cons_succ, join p1 (by simp), join p2 (by simp), join p3 (by simp), if_true]
  rfl

/-- Two inputs of three that carry one marker outvote the third, which is logged where it carries another one. -/
theorem Core.voteMark_two {q : Port} {b : Beat} {o : Option Beat} (inputs : voteInputs (c.route ch) = [p1, p2, p3])
    (join : ∀ p ∈ [p1, p2, p3], inJoin (c.route ch) p = true) (nodup : [p1, p2, p3].Nodup) (hq : q ∈ [p1, p2, p3])
    (agree : ∀ p ∈ [p1, p2, p3], p ≠ q → c.router.markBeat ch p = some b) (third : c.router.markBeat ch q = o) (differ : o ≠ some b) :
    c.router.voteMark ch (c.route ch) = (some b, o.map fun _ => memberNo (voteInputs (c.route ch)) q) := by
  rw [Core.voteMark_three inputs join, inputs]
  simp only [List.nodup_cons, List.mem_cons, List.not_mem_nil, or_false, not_or] at nodup
  obtain ⟨⟨h12, h13⟩, h23, -⟩ := nodup
  simp only [List.mem_cons, List.not_mem_nil, or_false] at hq
  rcases hq with rfl | rfl | rfl
  · rw [third, agree p2 (by simp) (Ne.symm h12), agree p3 (by simp) (Ne.symm h13)]
    cases o with
    | none => exact if_pos rfl
    | some x =>
      have other : x ≠ b := by simpa using differ
      simp [voteBeat, other, memberNo, List.findIdx_cons]
  · rw [third, agree p1 (by simp) h12, agree p3 (by simp) (Ne.symm h23)]
    cases o with
    | none => exact if_pos rfl
    | some x =>
      have other : x ≠ b := by simpa using differ
      simp [voteBeat, Ne.symm other, memberNo, List.findIdx_cons, h12]
  · rw [third, agree p1 (by simp) h13, agree p2 (by simp) h23]
    cases o with
    | none => exact if_pos rfl
    | some x =>
      have other : x ≠ b := by simpa using differ
      simp [voteBeat, Ne.symm other, memberNo, List.findIdx_cons, h13, h23]

/-- A marker without content is one beat, which tells it from every other one of its channel. -/
theorem Msg.wire_marker (pay : m.pay = []) : ∃ b, m.wire = [b] := by
  refine List.length_eq_one_iff.mp ?_
  rw [m.wire_length, Msg.beats, pay]
  rfl

theorem wire_inj {m m' : Msg} (same : m.ch = m'.ch) (wire : m.wire = m'.wire) : m = m' := by
  rw [← msgOf_wire m, ← msgOf_wire m', same, wire]

theorem voteMembers_joined {e : Word} (inputs : voteInputs e = joinedOf e) : voteMembers e = joinedOf e := by
  rw [voteMembers, inputs]
  exact List.filter_eq_self.mpr fun p hp => mem_joinedOf.mp hp

theorem two_others {ps : List Port} {q : Port} (nodup : ps.Nodup) (three : ps.length = 3) (hq : q ∈ ps) :
    ∃ p p', p ≠ p' ∧ p ∈ ps ∧ p' ∈ ps ∧ p ≠ q ∧ p' ≠ q := by
  have two : 1 < (ps.erase q).length := by
    rw [List.length_erase_of_mem hq, three]
    decide
  have one : 0 < (ps.erase q).length := by omega
  refine ⟨(ps.erase q)[0], (ps.erase q)[1], ?_, ?_⟩
  · rw [Ne, (nodup.erase q).getElem_inj_iff]
    decide
  · obtain ⟨off, mem⟩ := nodup.mem_erase_iff.mp (List.getElem_mem one)
    obtain ⟨off', mem'⟩ := nodup.mem_erase_iff.mp (List.getElem_mem two)
    exact ⟨mem, mem', off, off'⟩

/-- Of three inputs that all vote, two carry a marker: it leaves, and the third one is logged where it carries another one. -/
theorem Core.marking_two {q : Port} (inputs : voteInputs (c.route ch) = joinedOf (c.route ch)) (three : (joinedOf (c.route ch)).length = 3)
    (hq : q ∈ joinedOf (c.route ch)) (agree : ∀ p ∈ joinedOf (c.route ch), p ≠ q → c.router.markAt p ch = some m) (pay : m.pay = [])
    (third : ∀ y, c.router.markAt q ch = some y → y.wire.head? ≠ m.wire.head?) :
    c.marking ch = some (m, (c.router.markAt q ch).map fun _ => memberNo (voteInputs (c.route ch)) q) := by
  have members := voteMembers_joined inputs
  have nodup : (joinedOf (c.route ch)).Nodup := (by decide : allPorts.Nodup).filter _
  have join : ∀ p ∈ joinedOf (c.route ch), inJoin (c.route ch) p = true := fun p hp => mem_joinedOf.mp hp
  obtain ⟨b, wire⟩ := Msg.wire_marker pay
  obtain ⟨p, p', other, hp, hp', here, here'⟩ := two_others nodup three hq
  have same : m.ch = ch := (Router.headAt_mem (Router.markAt_eq_some.mp (agree p hp here)).1).1
  obtain ⟨y, first⟩ := Core.firstMark_two (fun p hp => members ▸ hp) other hp hp' (agree p hp here) (agree p' hp' here')
  have some' : voteMembers (c.route ch) ≠ [] := fun empty => by rw [← members, empty] at hp; cases hp
  have beat : c.router.markBeat ch q ≠ some b := by
    unfold Router.markBeat
    cases mark : c.router.markAt q ch with
    | none => simp
    | some y => exact fun h => third y mark (by rw [wire]; exact h)
  have number : (c.router.markBeat ch q).map (fun _ => memberNo (voteInputs (c.route ch)) q) =
      (c.router.markAt q ch).map fun _ => memberNo (voteInputs (c.route ch)) q := by
    unfold Router.markBeat
    cases c.router.markAt q ch with
    | none => rfl
    | some y =>
      obtain ⟨b', bs, wire'⟩ := List.exists_cons_of_ne_nil y.wire_ne_nil
      rw [Option.bind_some, wire']
      rfl
  obtain ⟨p1, p2, p3, list⟩ := List.length_eq_three.mp three
  rw [list] at hq agree join nodup
  have carried : ∀ p ∈ [p1, p2, p3], p ≠ q → c.router.markBeat ch p = some b := fun p hp here => by
    rw [Router.markBeat, agree p hp here, Option.bind_some, wire]
    rfl
  have voted := Core.voteMark_two (inputs.trans list) join nodup hq carried rfl beat
  rw [number] at voted
  rw [Core.marking_voted some' first voted, ← wire, ← same, msgOf_wire]

end

/-! ## Markers that leave -/

section
variable {s : State} {ch : Chan} {m : Msg} {hd : Port → Msg}

theorem Router.marksLeft_map (r : Router) (now : ℕ) (ps : List Port) : r.marksLeft now ch (ps.map fun p => (p, hd p)) =
    { ps.foldl (fun r p => r.pop p (hd p) now) r with
      combined := r.combined.filter fun x => x.ch ≠ ch, lines := ps.foldl (fun xs p => dropCount xs ch p) r.lines } := by
  simp [Router.marksLeft, List.foldl_map]

theorem Router.headAt_pops {p : Port} (now : ℕ) (heads : List (Port × Msg)) : ∀ r : Router, (∀ x ∈ heads, x.1 ≠ p) →
    (heads.foldl (fun r x => r.pop x.1 x.2 now) r).headAt p ch = r.headAt p ch := by
  induction heads with
  | nil => exact fun _ _ => rfl
  | cons x xs ih =>
    intro r others
    refine (ih _ fun y hy => others y (List.mem_cons_of_mem _ hy)).trans ?_
    rw [Router.headAt_eq, Router.headAt_eq]
    refine congrArg (fun xs : List (Port × Msg) => (xs.map Prod.snd).head?) ?_
    exact filter_erase_of_neg (by simp [others x (List.mem_cons_self ..)]) r.inq

/-- A marker that every joined input carries leaves. -/
theorem markerForward_all {differ : Option (BitVec 2)} (marking : s.core.marking ch = some (m, differ))
    (open' : closedBit (s.core.route ch) = false) (may : s.mayLeave (s.core.leavingMark ch m) = true)
    (settled : voteMembers (s.core.route ch) = [] ∨ ∀ v ∈ s.core.router.votes, v.ch ≠ ch)
    (marks : ∀ p ∈ joinedOf (s.core.route ch), s.core.router.markAt p ch = some (hd p)) : exec (.markerForward ch) s = .next
      (State.markOut ((s.mapRouter fun r => r.marksLeft s.core.csr.cycle.toNat ch ((joinedOf (s.core.route ch)).map fun p => (p, hd p))).voteDiffer
        ch differ.toList) ch m (s.core.leavingMark ch m) (nextv (s.core.route ch))) := by
  have heads := Core.markHeads_eq (f := fun _ => true) fun p hp => by rw [marks p hp]; rfl
  rw [List.filter_true] at heads
  have missing : ((voteMembers (s.core.route ch)).filter fun p => (s.core.router.markAt p ch).isNone) = [] := by
    refine List.filter_eq_nil_iff.mpr fun p hp => ?_
    rw [marks p (mem_joinedOf.mpr (List.mem_filter.mp hp).2)]
    exact Bool.false_ne_true
  rw [markerForward_run marking open' may settled, missing, heads]
  rfl

/-- A voting input that carries no marker yet owes the one that leaves. -/
theorem markerForward_owed {q : Port} (marking : s.core.marking ch = some (m, none)) (open' : closedBit (s.core.route ch) = false)
    (may : s.mayLeave (s.core.leavingMark ch m) = true) (fresh : ∀ v ∈ s.core.router.votes, v.ch ≠ ch)
    (inputs : voteInputs (s.core.route ch) = joinedOf (s.core.route ch)) (hq : q ∈ joinedOf (s.core.route ch)) (pay : m.pay = [])
    (marks : ∀ p ∈ joinedOf (s.core.route ch), p ≠ q → s.core.router.markAt p ch = some (hd p)) (none : s.core.router.headAt q ch = none) :
    exec (.markerForward ch) s = .next (State.markOut (s.mapRouter fun r =>
      (r.marksLeft s.core.csr.cycle.toNat ch (((joinedOf (s.core.route ch)).filter fun p => p ≠ q).map fun p => (p, hd p))).setVote ch fun v =>
        v.setOwed q (m.wire.map some)) ch m (s.core.leavingMark ch m) (nextv (s.core.route ch))) := by
  have lacks : s.core.router.markAt q ch = Option.none := by rw [Router.markAt, none]
  have heads := Core.markHeads_eq (c := s.core) (ch := ch) (hd := hd) (f := fun p => decide (p ≠ q)) fun p hp => by
    by_cases here : p = q
    · simp [here, lacks]
    · simp [here, marks p hp here]
  have nodup : (joinedOf (s.core.route ch)).Nodup := (by decide : allPorts.Nodup).filter _
  have missing : ((voteMembers (s.core.route ch)).filter fun p => (s.core.router.markAt p ch).isNone) = [q] := by
    have only : ((joinedOf (s.core.route ch)).filter fun p => (s.core.router.markAt p ch).isNone) = (joinedOf (s.core.route ch)).filter (· == q) := by
      refine List.filter_congr fun p hp => ?_
      by_cases here : p = q
      · simp [here, lacks]
      · simp [here, marks p hp here]
    rw [voteMembers_joined inputs, only, List.filter_beq, List.count_eq_one_of_mem nodup hq]
    rfl
  have small : m.beats = 1 := by rw [Msg.beats, pay]; rfl
  have owe := oweBeats_beats [] m.wire
  rw [List.map_nil, List.length_nil, m.wire_length, small, if_pos (by decide), List.nil_append] at owe
  have kept := Router.pops_keep s.core.csr.cycle.toNat (((joinedOf (s.core.route ch)).filter fun p => p ≠ q).map fun p => (p, hd p)) s.core.router
  rw [markerForward_run marking open' may (.inr fresh), missing, heads, Option.toList_none, State.voteDiffer_nil, List.foldl_cons, List.foldl_nil,
    State.voteTake_late _ _ m.wire_ne_nil, owe, State.voteDiffers_zero]
  · rfl
  · obtain ⟨-, -, votes, -⟩ := kept
    exact fun v hv => fresh v (votes ▸ hv)
  · refine (Router.headAt_pops _ _ _ fun x hx => ?_).trans none
    obtain ⟨p, hp, rfl⟩ := List.mem_map.mp hx
    exact of_decide_eq_true (List.mem_filter.mp hp).2

end

end Sys2Proof.Machine
end

section
/-! SUPPORT. The fabric statements, part 19: combining, renorms, votes and marker joins of a router (R187, R189 to R193, R196 to R200). -/

namespace Sys2Proof.Machine

/-- Settles O50: the arithmetic of a combined line, and the steps of combining groups, renorms, votes and markers. -/
theorem groupEvents : Obligations.GroupEvents := by
  unfold Obligations.GroupEvents
  intro s inp out p1 p2 p3 ch m m2 m3 hd md f xs a y rest ss l b1 b2 b3 w1 w2 k1 k2 k3 rs ks c r me e now open' kind len at' takes ps lane heads h0
    cls group ready turn agree o n known line keep after w blk E shift mant aligned T v nan lost sum big code js mask vs marker left leaves told
    fresh voters vote popped lane3 go mine no
  have mover (ps : List Port) (mask : BitVec 5) (cls : BitVec 2) : r.mover ps ch mask cls = at' ps mask cls := r.mover_eq ps ch mask cls
  have combines (ready : ready) : ∀ p ∈ ps, (hd p).Combines := fun p hp => (ready p hp).2
  have combining (group : group) (ready : ready) : c.combining ch out = some (md, ps.map hd) :=
    Core.combining_group group.1 (Core.groupHeads_ready group.2.1 (fun p hp => (ready p hp).1) (combines ready))
  have brings {p : Port} {m : Msg} (h : vote p m) : r.Brings ch p m := by
    obtain ⟨head, kind, small, len⟩ := h
    exact ⟨head, Msg.votes_of kind small len⟩
  have turn' (m : Msg) : s.mayLeave (s.core.votedMover ch m) = mine m :=
    congrArg s.mayLeave (mover vs lane3 (m.hdr.extractLsb' 58 2))
  have nodup : js.Nodup := (by decide : allPorts.Nodup).filter _
  have markAt {p : Port} (h : marker p) : r.markAt p ch = some (hd p) := by
    obtain ⟨head, kind, len, code, owes⟩ := h
    have three : hdrKind (hd p).hdr = 3 := kind
    exact Router.markAt_eq_some.mpr ⟨head, kind, Msg.malformed_false (by rw [three]; decide) len fun _ => code, owes⟩
  have leaving (m : Msg) : s.mayLeave (s.core.leavingMark ch m) = s.mayLeave (at' js mask (m.hdr.extractLsb' 58 2)) :=
    congrArg s.mayLeave (mover js mask (m.hdr.extractLsb' 58 2))
  have plainMark (some' : js ≠ []) (plain : vs = []) (marks : ∀ p ∈ js, marker p ∧ code (hd p) = code m) (lowest : hd (js.getD 0 .n) = m) :
      c.marking ch = some (m, none) :=
    Core.marking_plain plain (Core.firstMark_all some' plain (fun p hp => ⟨markAt (marks p hp).1, (marks p hp).2⟩) lowest)
  have moves : c.groupMover ch out ps hd = at' ps lane cls := mover ps lane cls
  have step (group : group) (ready : ready) := combineLine_group group.2.1 (combining group ready) rfl group.2.2
  rw [show s.core.groupMover ch out ps hd = _ from moves] at step
  refine ⟨?_, ?_, ?_, ?_, ?_, ?_, ?_, ?_, ?_, ?_, ?_, ?_, ?_, ?_, ?_, ?_, ?_, ?_, ?_, ?_, ?_, ?_, ?_, ?_, ?_, ?_, ?_, ?_, ?_, ?_, ?_, ?_, ?_, ?_⟩
  -- members of groups, and the line that a group forms of theirs
  · exact fun p => mem_groupOf
  · exact fun p => mem_voteMembers
  · intro k hk fine
    have fine : ∀ x ∈ xs, (x.blk f (k / 16)).isPoison = false := fine
    have nan_iff : nan k ↔ ∃ x ∈ xs, x.isNan f k = true := by
      simp only [LineIn.isNan, Bool.and_eq_true, Bool.not_eq_true', decide_eq_true_eq]
      exact Iff.rfl
    have lost_iff (isMax : Bool) : (combineLines f isMax xs).mask.getLsbD k = true ↔ lost k := by
      rw [combineLines_mask isMax hk, groupElement_fine isMax fine]
      simp only [groupEl, List.any_eq_true, LineIn.lost, Bool.or_eq_true, decide_eq_true_eq]
      exact Iff.rfl
    obtain ⟨exp, nu, sumMs⟩ := combineLines_fine false hk fine
    obtain ⟨-, -, maxMs⟩ := combineLines_fine true hk fine
    have poisoned (isMax : Bool) (h : nan k) := combineLines_nan isMax fine (nan_iff.mp h)
    have numbers (isMax : Bool) (h : ¬ nan k) := combineLines_number isMax fine (nan_iff.not.mp h)
    have silent (isMax : Bool) (h : (combineLines f isMax xs).renorm = none) : ¬ nan k := fun isNan => by
      have code := combineLines_renorm_none isMax h hk
      rw [(poisoned isMax isNan).2] at code
      cases code
    refine ⟨⟨exp, fun q _ => nu q⟩, fun h => ⟨sumMs.trans (poisoned false h).1, maxMs.trans (poisoned true h).1⟩,
      fun h => sumMs.trans (numbers false h).1, fun h some' => ?_, lost_iff false, lost_iff true,
      fun cs codes => ⟨fun h => (combineLines_renorm_some false codes hk).trans (poisoned false h).2,
        fun h => (combineLines_renorm_some false codes hk).trans (numbers false h).2⟩, fun codes => ⟨silent false codes, ?_⟩,
      fun cs codes => ⟨fun h => (combineLines_renorm_some true codes hk).trans (poisoned true h).2,
        fun h => (combineLines_renorm_some true codes hk).trans (numbers true h).2⟩, silent true⟩
    · have largest := groupVal_max (nan_iff.not.mp h) some'
      rw [← (numbers true h).1, ← maxMs] at largest
      exact largest
    · have code := combineLines_renorm_none false codes hk
      rw [(numbers false (silent false codes)).2] at code
      exact wrapTo_eq (RCode.count.inj code)
  · intro j hj ⟨x, hx, poison⟩
    have any : groupPoison f xs j = true := List.any_eq_true.mpr ⟨x, hx, poison⟩
    rw [combineLines_blk false hj, combineLines_blk true hj, groupBlk, groupBlk, if_pos any, if_pos any]
    decide
  -- a group's step
  · intro group ready clear
    rw [← moves]
    exact State.groupMover_mem group.2.1 (combining group ready) rfl group.2.2 (fun p hp => (ready p hp).1) clear
  · intro group ready stays
    rw [step group ready, if_neg (Bool.eq_false_iff.mp stays)]
  · intro ⟨group, may⟩ ready agree
    rw [step group ready, if_pos may, State.combine_agree group.2.1 agree]
    rfl
  · intro ⟨group, may⟩ ready no
    rw [step group ready, if_pos may, State.combine_disagree group.2.1 no]
    dsimp only
    rw [State.post_mapRouter]
    rfl
  · exact fun h => combineLine_none (Core.combining_none h)
  · intro shut
    have shut : closedBit (s.core.route ch) = true := (Bool.not_eq_false _).mp shut
    exact ⟨combineLine_closed shut, renormApply_none (Core.renormHead_closed shut), voteForward_closed shut, markerForward_closed shut⟩
  -- renorms
  · intro head kind len open' join mode gone hit
    have renorm := Core.renormHead_some head kind len open' join mode
    refine ⟨renormApply_misses renorm, fun found stays => ?_, fun found may => ?_⟩
    · rw [← mover] at stays
      rw [renormApply_hits renorm found]
      exact congrArg _ (if_neg (Bool.eq_false_iff.mp stays))
    · rw [← mover] at may
      rw [renormApply_hits renorm found]
      exact congrArg _ (if_pos may)
  · exact Router.lineFrom_latest
  · exact Router.lineFrom_none l
  -- votes of members in step
  · refine ⟨voteBeat_agree b1 b2, fun n => ⟨?_, ?_, ?_⟩, if_pos rfl, if_pos rfl, if_pos rfl, rfl, fun h12 h13 h23 => ?_⟩
    · simp [voteBeat, n]
    · simp [voteBeat, Ne.symm n]
    · simp [voteBeat, n]
    · simp [voteBeat, h12, h13, h23, majority]
  · intro i b o
    refine ⟨voteBeatAt_beats, fun none few three => ?_, fun none no => ?_⟩
    · exact (voteBeatAt_waiting none).trans (if_pos ⟨few, three⟩)
    · exact (voteBeatAt_waiting none).trans (if_neg fun h => no.elim (Nat.not_lt.mpr h.1) fun no => no h.2)
  · exact voteRun_eq_some
  · intro inputs members open' fresh v1 v2 v3 same2 same3 run
    obtain ⟨more1, held1⟩ := Router.stream_head fresh (brings v1).1 (brings v1).2
    obtain ⟨more2, held2⟩ := Router.stream_head fresh (brings v2).1 (brings v2).2
    obtain ⟨more3, held3⟩ := Router.stream_head fresh (brings v3).1 (brings v3).2
    have next := voteNext_three inputs (join_of_members members)
    rw [held1, held2, held3] at next
    obtain ⟨length, run⟩ := voteRun_three same2 same3 run
    rw [voteForward_whole fresh open' (xs := [(p1, m), (p2, m2), (p3, m3)]) members (next.trans run)]
    · by_cases may : s.mayLeave (c.votedMover ch (msgOf ch (rs.map (·.1)))) = true
      · exact (congrArg _ (if_pos may)).trans (if_pos ((turn' _).symm.trans may)).symm
      · exact (congrArg _ (if_neg may)).trans (if_neg fun h => may ((turn' _).trans h)).symm
    · simp only [List.mem_cons, List.not_mem_nil, or_false]
      rintro x (rfl | rfl | rfl)
      · exact ⟨brings v1, length⟩
      · exact ⟨brings v2, length.trans same2⟩
      · exact ⟨brings v3, length.trans same3⟩
  · intro inputs members open' fresh v1 v2 none may
    exact voteForward_late fresh open' inputs members (brings v1) (brings v2) none ((turn' m).trans may)
  · intro three members open' fresh v1 v2 may
    obtain ⟨more1, held1⟩ := Router.stream_head fresh (brings v1).1 (brings v1).2
    obtain ⟨more2, held2⟩ := Router.stream_head fresh (brings v2).1 (brings v2).2
    rw [voteForward_whole fresh open' (xs := [(p1, m), (p2, m)]) members (voteNext_withdrawn three members held1 held2)]
    · obtain ⟨message, silent⟩ := msgOf_forwarded (Router.headAt_mem v1.1).1
      rw [message, silent, State.voteDiffer_nil]
      exact congrArg _ (if_pos ((turn' m).trans may))
    · simp only [List.mem_cons, List.not_mem_nil, or_false]
      rintro x (rfl | rfl)
      · exact ⟨brings v1, by simp [m.wire_length]⟩
      · exact ⟨brings v2, by simp [m.wire_length]⟩
  · intro inputs members fresh v1 v2 differ none
    obtain ⟨more1, held1⟩ := Router.stream_head fresh (brings v1).1 (brings v1).2
    obtain ⟨more2, held2⟩ := Router.stream_head fresh (brings v2).1 (brings v2).2
    obtain ⟨held3, mark3⟩ := Router.stream_none fresh none
    refine voteForward_waits fresh ((voteNext_three inputs (join_of_members members)).trans ?_)
    rw [held1, held2, held3, mark3]
    exact voteRun_differ differ
  · exact fun few fresh => voteForward_waits fresh (voteNext_few few)
  -- late members
  · intro members member open' alone same votes some' plain left no
    have member : inp ∈ voteMembers (s.core.route ch) := member
    have copy : s.core.voteNo ch inp = no inp := by
      rw [Core.voteNo, Router.vote_only votes rfl]
    refine ⟨fun small kind len size => ?_, fun bad => ?_⟩
    · rw [voteForward_inStep open' member alone same votes rfl some' plain (Msg.malformed_false small len fun three => absurd three kind) kind size, copy]
      rfl
    · exact voteForward_discards open' member alone same votes (by simpa using some') (Msg.malformed_iff.mpr (.inl bad))
  · intro members member open' alone same kind len code votes
    have member : inp ∈ voteMembers (s.core.route ch) := member
    have three : hdrKind m.hdr = 3 := kind
    exact voteForward_marks open' member alone same votes rfl (Msg.malformed_false (by rw [three]; decide) len fun _ => code) three
  · exact fun _ plain _ => catchUp_plain plain
  · intro mark plain
    obtain ⟨owed, after⟩ := catchMark_mark plain mark
    exact ⟨fun long => (catchUp_mark plain mark long).1, fun long => (catchUp_mark plain mark long).2, owed, after, catchMark_other mark,
      catchMark_plain plain b1⟩
  · exact oweBeats_beats w1 w2
  · exact fun some' plain => lostBeats_plain plain some'
  · intro k low
    obtain ⟨count, chan, copy, ovf, became⟩ := voteLogOnce_fields a ch k
    have full : decide (natBits a.toNat 48 16 = 0xFFFF) = false := decide_eq_false low.ne
    rw [full] at count ovf became
    exact ⟨became, count, chan, copy, ovf⟩
  · intro k high
    obtain ⟨count, chan, copy, ovf, became⟩ := voteLogOnce_fields a ch k
    have full : decide (natBits a.toNat 48 16 = 0xFFFF) = true := decide_eq_true high
    rw [full] at count ovf became
    exact ⟨ovf, count.trans high, became⟩
  -- markers
  · intro some' plain open' marks lowest
    have marking := plainMark some' plain marks lowest
    by_cases may : s.mayLeave (s.core.leavingMark ch m) = true
    · rw [if_pos ((leaving m).symm.trans may), markerForward_all marking open' may (.inl plain) fun p hp => markAt (marks p hp).1]
      simp only [Router.marksLeft_map]
      rfl
    · rw [if_neg fun h => may ((leaving m).trans h), markerForward_waits marking (Bool.eq_false_iff.mpr may)]
  · intro some' plain open' marks lowest clear
    obtain ⟨p, hp⟩ := List.exists_mem_of_ne_nil _ some'
    rw [← mover]
    exact State.leavingMark_mem (plainMark some' plain marks lowest) open' (marks p hp).1.1 clear
  · intro inputs three open' fresh member marks differ same may
    have third : r.markAt p3 ch = some (hd p3) := markAt (marks p3 member).1
    obtain ⟨p, -, -, hp, -, other, -⟩ := two_others nodup three member
    have pay : m.pay = [] := (marks p hp).2.2 other ▸ (marks p hp).2.1
    have marking := Core.marking_two (c := s.core) inputs three member (fun p hp other => by
      obtain ⟨mark, -, same⟩ := marks p hp
      exact (markAt mark).trans (congrArg some (same other))) pay fun y mark beat => by
        obtain rfl : hd p3 = y := Option.some.inj (third.symm.trans mark)
        obtain ⟨b, wire⟩ := Msg.wire_marker pay
        obtain ⟨b', wire'⟩ := Msg.wire_marker (marks p3 member).2.1
        rw [wire, wire'] at beat
        exact differ (wire_inj same (by rw [wire, wire', Option.some.inj beat]))
    rw [show s.core.router.markAt p3 ch = some (hd p3) from third] at marking
    rw [markerForward_all marking open' ((leaving m).trans may) (.inr fresh) fun p hp => markAt (marks p hp).1]
    simp only [Router.marksLeft_map]
    rfl
  · intro inputs three open' fresh member marks pay none may
    have lacks : r.markAt p3 ch = Option.none := by rw [Router.markAt, none]
    have marking := Core.marking_two (c := s.core) inputs three member (fun p hp other => by
      obtain ⟨mark, same⟩ := marks p hp other
      exact (markAt mark).trans (congrArg some same)) pay fun y mark => by
        rw [show s.core.router.markAt p3 ch = Option.none from lacks] at mark
        cases mark
    rw [show s.core.router.markAt p3 ch = Option.none from lacks] at marking
    rw [markerForward_owed marking open' ((leaving m).trans may) fresh inputs member pay
      (fun p hp other => markAt (marks p hp other).1) none]
    simp only [Router.marksLeft_map]
    rfl
  · rintro ⟨p, join, plain, lacks⟩
    exact markerForward_none (Core.marking_none join plain lacks)

end Sys2Proof.Machine
end
